-- ==== Sys2Proof/Word.lean ====
section
/-! DEFINITION. The word types of the model and the sparse store type that every addressed
collection of the device uses. -/

namespace Sys2Proof

/-- One byte, of a frame, of a memory or of host data. -/
abbrev Byte := BitVec 8

/-- One 32-bit register or structure word (R7). -/
abbrev Word := BitVec 32

/-- One 64-bit value: a general register of a thread, a compact time, a channel word. -/
abbrev DWord := BitVec 64

/-- A collection indexed by a natural number, held as a list of (index, value) pairs with rising
indices that lists no pair equal to what an unlisted index reads as. -/
abbrev Sparse (α : Type) := List (Nat × α)

end Sys2Proof
end

