-- ==== Sys2Proof/Syntax.lean ====
section
/-! DEFINITION. The commands of the SZ9-3200 as syntax: one constructor of `Instr` for each row of
the opcode table, with the operands that the rule of the row names. -/

namespace Sys2Proof

/-- A host endpoint, H0 or H1 (R15, R386). -/
inductive Endpoint where
  | h0
  | h1
  deriving DecidableEq, Repr

/-- A function of an endpoint, numbered 0–1,023 (R388). -/
structure FnId where
  ep : Endpoint
  fn : Fin 1024
  deriving DecidableEq, Repr

/-- A hardware thread: cluster, core and thread number (R15). -/
structure Tid where
  cluster : Fin 17
  core : Fin 16
  thread : Fin 8
  deriving DecidableEq, Repr

/-- The guard of an A-format instruction: predicate PQ, inverted when PN is set (R112). -/
structure Guard where
  pq : BitVec 3
  pn : Bool
  deriving DecidableEq, Repr

/-- The condition of BR, CALL, RET and DONE: predicate PRED, inverted when NEG is set (R123). -/
structure Cond where
  pred : BitVec 3
  neg : Bool
  deriving DecidableEq, Repr

/-- Access size of an M-format instruction: 1, 2, 4 or 8 bytes (R106). -/
inductive MemSize where
  | byte
  | half
  | word
  | double
  deriving DecidableEq, Repr

/-- The immediate of an instruction that an X word may widen (R108): the 16 bits of the word, and
the 26 bits of the X word before it when there is one. -/
structure Imm where
  low : BitVec 16
  high : Option (BitVec 26)
  deriving DecidableEq, Repr

/-- The polynomial column p of R137: CRC-32, CRC-32C, CRC-16 T10-DIF, CRC-64. -/
inductive CheckPoly where
  | crc32
  | crc32c
  | crc16
  | crc64
  deriving DecidableEq, Repr

/-- Why a host or drive read ended without its data (R400, R401, R410). -/
inductive ReadFail where
  | timeout
  | poisoned
  | unsupported
  deriving DecidableEq, Repr

/-- One entry of a gather list (R421). -/
structure GatherEntry where
  addr : BitVec 64
  len : Nat
  reserved : BitVec 32
  deriving DecidableEq, Repr

/-- What a received poisoned TLP was (R410). -/
inductive PoisonKind where
  | registerWrite (fn : FnId) (off : Nat)
  | doorbell (fn : FnId) (ring : Nat)
  | peerWrite (rid : BitVec 16) (off : Nat)
  | completion (tag : Nat)
  deriving DecidableEq, Repr

/-- What a received TLP that failed ECRC was (R411). -/
inductive EcrcKind where
  | posted (addr : BitVec 64) (rid : BitVec 16)
  | nonPosted (addr : BitVec 64) (rid : BitVec 16)
  | completion (tag : Nat)
  deriving DecidableEq, Repr

/-- What a host configuration write of R412, R386 or R433 changes in a function. -/
inductive CfgChange where
  | busMaster (on : Bool)
  | d3hot (on : Bool)
  | relaxedOrdering (on : Bool)
  | idoRequest (on : Bool)
  | completionTimeout (ticks : Nat)
  | maxPayload (bytes : Nat)
  | maxReadRequest (bytes : Nat)
  | msixEnable (on : Bool)
  | vectorMask (vector : Nat) (on : Bool)
  | romEnable (on : Bool)
  | ecrc (generate check : Bool)
  | aspm (l1 l11 l12 : Bool)
  | memorySpace (on : Bool)
  deriving DecidableEq, Repr

/-- One receive or send side of a mailbox channel pair (R471): a function's pair or a thread's. -/
inductive Pair where
  | ofFn (fn : FnId)
  | ofThread (t : Tid)
  deriving DecidableEq, Repr

/-- A clock input that may start after PERST0_N deassertion (R502). -/
inductive LateClock where
  | h1
  | c0
  deriving DecidableEq, Repr

/-- A supply rail of R496, numbered as PWR_RAIL_LAST.RAIL numbers it (R512). -/
inductive Rail where
  | vddCore | vddSram | vddqHbm | vppHbm | vddaNet | vddhNet | vddaPcie | vddhPcie | vddIo
  deriving DecidableEq, Repr

/-- The cause of a hot reset of an endpoint (R462). -/
inductive HotCause where
  | hotReset
  | linkDown
  | perst1
  deriving DecidableEq, Repr

/-- The uncorrectable state error that starts a fallback (R466). -/
inductive FallbackCause where
  | bothPairs
  | blockState
  | datapathParity
  deriving DecidableEq, Repr

/-- The NVMe/TCP PDU types that a target's connection receives (R372). -/
inductive PduKind where
  | icResp (maxH2c : Nat) (hdgst ddgst : Bool)
  | connectResp (ok : Bool)
  | identifyResp (nsid : Nat) (lba4k : Bool) (pi : BitVec 2)
  | capsuleResp (cid : Nat) (status : BitVec 16)
  | c2hData (cid : Nat) (data : List Byte) (pi : List Byte)
  | r2t (cid : Nat) (offset len : Nat)
  | c2hTermReq
  deriving DecidableEq, Repr

/-- The end-to-end protection fields of an NVMe read or write (R374). -/
structure ProtInfo where
  pract : Bool
  prchk : BitVec 3
  ilbrt : Nat
  lbat : BitVec 16
  lbatm : BitVec 16
  deriving DecidableEq, Repr

/-- An NVMe command's place: controller, queue and command identifier (R366). -/
structure NvmeId where
  ctrl : Fin 1024
  qid : Nat
  cid : Nat
  deriving DecidableEq, Repr

/-- The fields of a CLASS request (R170). -/
structure ClassPayload where
  cls : Nat
  owner : Nat
  k : Nat
  s : Nat
  a : Nat
  c : Nat
  sequenced : Bool
  group : Nat
  cores : List (Nat × Nat)
  reservedZero : Bool
  deriving DecidableEq, Repr

/-- What the boot ROM and the firmware found in Forenoon (R453, R454, R363). -/
structure ForenoonResult where
  hbmTrained : Bool
  failedClusters : List (Fin 17)
  failedScanEngines : List (Fin 8)
  fwVersion : BitVec 32
  bankB : Bool
  fromMailbox : Bool
  image : List Byte
  deriving DecidableEq, Repr

/-- One entry of a configuration store (R459). -/
structure StoreEntry where
  kind : Nat
  offset : Nat
  value : BitVec 32
  deriving DecidableEq, Repr

/-- A configuration store as firmware reads it from flash (R459). -/
structure StoredConfig where
  header : List Byte
  entries : List StoreEntry
  body : List Byte
  signed : List Byte
  signature : List Byte
  deriving DecidableEq, Repr

/-- The steps of the device. Each constructor is one row of the opcode table; the docstring of a
constructor names the rule that gives it. -/
inductive Instr where
  -- registers, time and commits
  /-- R10 -/ | registerWrite (fn : FnId) (off : Nat) (wide : Bool) (be : BitVec 8) (val : BitVec 64)
  /-- R14 -/ | counterLowRead (fn : FnId) (off : Nat) (wide : Bool)
  /-- R55 -/ | lateMaxRead (fn : FnId) (off : Nat)
  /-- R33 -/ | tick
  /-- R33 -/ | roundBoundary
  /-- R40 -/ | commitEffect
  /-- R41 -/ | deferLimitReset
  -- ports
  /-- R304 -/ | frameReceive (port : Fin 16) (bytes : List Byte) (codewordBad : Bool)
      (ingress endTime : BitVec 64)
  /-- R312 -/ | pauseResend (port : Fin 16) (prio : Fin 8)
  /-- R310 -/ | pauseAct (port : Fin 16)
  /-- R311 -/ | pauseExpire (port : Fin 16)
  /-- R301 -/ | linkUp (port : Fin 16) (anDone : Bool)
  /-- R301 -/ | linkDown (port : Fin 16) (receiving : Bool)
  -- parsing, classification, dispatch, release, egress
  /-- R182 -/ | parse (f : Nat)
  /-- R191 -/ | classifierStage (f : Nat)
  /-- R84 -/ | dispatch (cls : Fin 64)
  /-- R49 -/ | dueTickRelease (f : Nat)
  /-- R52 -/ | lateRelease (f : Nat)
  /-- R244 -/ | seqAdmit (g : Fin 256)
  /-- R318 -/ | queueHandover (f : Nat)
  /-- R320 -/ | egressChoice (port : Fin 16)
  -- rings and in-band control
  /-- R420 -/ | doorbell (fn : FnId) (page off len : Nat) (val : BitVec 64)
  /-- R422 -/ | sendDescriptor (ring : Fin 65536)
  /-- R423 -/ | sendDataArrive (ring : Fin 65536) (pos : Nat)
  /-- R70 -/ | tableInsert (ring : Fin 65536)
  /-- R70 -/ | tableUpdate (ring : Fin 65536)
  /-- R70 -/ | tableDelete (ring : Fin 65536)
  /-- R69 -/ | meterSet (ring : Fin 65536)
  /-- R69 -/ | meterFill (ring : Fin 65536)
  /-- R69 -/ | actionSet (ring : Fin 65536)
  /-- R69 -/ | mark (ring : Fin 65536)
  /-- R73 -/ | markComplete (ring : Fin 65536)
  /-- R416 -/ | ringEnable (fn : FnId) (ring : Fin 65536) (val : BitVec 32)
  /-- R435 -/ | ringDisable (fn : FnId) (ring : Fin 65536)
  /-- R426 -/ | rxDescriptor (ring : Fin 65536)
  /-- R427 -/ | rxFrameStart (ring : Fin 65536)
  /-- R428 -/ | rxHoldExpire (ring : Fin 65536)
  /-- R434 -/ | intTimerExpire (cq : Fin 65536)
  -- peer windows
  /-- R405 -/ | peerSlotWrite (ep : Endpoint) (rid : BitVec 16) (off : Nat) (data : List Byte)
  /-- R405 -/ | peerPublish (ep : Endpoint) (rid : BitVec 16) (off : Nat) (val : BitVec 64)
  /-- R404 -/ | peerDoorbell (ep : Endpoint) (rid : BitVec 16) (off len : Nat) (val : BitVec 64)
  /-- R407 -/ | peerUnmatchedWrite (ep : Endpoint) (rid : BitVec 16) (off len : Nat)
  /-- R407 -/ | bar4NonPosted (ep : Endpoint) (rid : BitVec 16) (off : Nat)
  -- host link
  /-- R401 -/ | completionTimeout (ep : Endpoint) (tag : Nat)
  /-- R401 -/ | rxDescRetry (ring : Fin 65536)
  /-- R402 -/ | unexpectedCompletion (ep : Endpoint) (tag : Nat) (last : Bool)
  /-- R402 -/ | readCompletion (ep : Endpoint) (tag : Nat) (data : List Byte) (last : Bool)
      (poisoned successful : Bool)
  /-- R402 -/ | tagQuarantineEnd (ep : Endpoint) (tag : Nat)
  /-- R410 -/ | poisonedTlp (ep : Endpoint) (kind : PoisonKind)
  /-- R411 -/ | ecrcError (ep : Endpoint) (kind : EcrcKind)
  /-- R398 -/ | l0pEnter (ep : Endpoint) (utilisationPercent : Nat)
  /-- R398 -/ | fullWidthRequest (ep : Endpoint) (writeWaits : Bool)
  /-- R462 -/ | hotReset (ep : Endpoint) (cause : HotCause)
  /-- R463 -/ | functionReset (by_ : Option FnId) (target : FnId)
  /-- R463 -/ | duskEnd (fn : FnId)
  -- Falfimi ALU
  /-- R113 -/ | add (t : Tid) (rd ra rb : BitVec 5) (gd : Guard)
  /-- R113 -/ | sub (t : Tid) (rd ra rb : BitVec 5) (gd : Guard)
  /-- R113 -/ | mul (t : Tid) (rd ra rb : BitVec 5) (gd : Guard)
  /-- R113 -/ | mulhu (t : Tid) (rd ra rb : BitVec 5) (gd : Guard)
  /-- R113 -/ | and_ (t : Tid) (rd ra rb : BitVec 5) (gd : Guard)
  /-- R113 -/ | or_ (t : Tid) (rd ra rb : BitVec 5) (gd : Guard)
  /-- R113 -/ | xor_ (t : Tid) (rd ra rb : BitVec 5) (gd : Guard)
  /-- R113 -/ | andn (t : Tid) (rd ra rb : BitVec 5) (gd : Guard)
  /-- R113 -/ | shl (t : Tid) (rd ra rb : BitVec 5) (gd : Guard)
  /-- R113 -/ | shr (t : Tid) (rd ra rb : BitVec 5) (gd : Guard)
  /-- R113 -/ | sar (t : Tid) (rd ra rb : BitVec 5) (gd : Guard)
  /-- R113 -/ | rol (t : Tid) (rd ra rb : BitVec 5) (gd : Guard)
  /-- R113 -/ | min_ (t : Tid) (rd ra rb : BitVec 5) (gd : Guard)
  /-- R113 -/ | max_ (t : Tid) (rd ra rb : BitVec 5) (gd : Guard)
  /-- R113 -/ | minu (t : Tid) (rd ra rb : BitVec 5) (gd : Guard)
  /-- R113 -/ | maxu (t : Tid) (rd ra rb : BitVec 5) (gd : Guard)
  /-- R113 -/ | sel (t : Tid) (rd ra rb : BitVec 5) (gd : Guard)
  /-- R113 -/ | clz (t : Tid) (rd ra : BitVec 5) (gd : Guard)
  /-- R113 -/ | ctz (t : Tid) (rd ra : BitVec 5) (gd : Guard)
  /-- R113 -/ | popc (t : Tid) (rd ra : BitVec 5) (gd : Guard)
  /-- R113 -/ | bsw16 (t : Tid) (rd ra : BitVec 5) (gd : Guard)
  /-- R113 -/ | bsw32 (t : Tid) (rd ra : BitVec 5) (gd : Guard)
  /-- R113 -/ | bsw64 (t : Tid) (rd ra : BitVec 5) (gd : Guard)
  -- Falfimi I format
  /-- R114 -/ | addi (t : Tid) (rd ra : BitVec 5) (imm : Imm)
  /-- R114 -/ | andi (t : Tid) (rd ra : BitVec 5) (imm : Imm)
  /-- R114 -/ | ori (t : Tid) (rd ra : BitVec 5) (imm : Imm)
  /-- R114 -/ | xori (t : Tid) (rd ra : BitVec 5) (imm : Imm)
  /-- R114 -/ | shli (t : Tid) (rd ra : BitVec 5) (sh : BitVec 6)
  /-- R114 -/ | shri (t : Tid) (rd ra : BitVec 5) (sh : BitVec 6)
  /-- R114 -/ | sari (t : Tid) (rd ra : BitVec 5) (sh : BitVec 6)
  /-- R114 -/ | movh (t : Tid) (rd ra : BitVec 5) (imm : Imm)
  /-- R114 -/ | extf (t : Tid) (rd ra : BitVec 5) (pos lenM1 : BitVec 6)
  /-- R114 -/ | insf (t : Tid) (rd ra : BitVec 5) (pos lenM1 : BitVec 6)
  /-- R116 -/ | ceqi (t : Tid) (pd : BitVec 3) (ra : BitVec 5) (imm : Imm)
  /-- R116 -/ | cnei (t : Tid) (pd : BitVec 3) (ra : BitVec 5) (imm : Imm)
  /-- R116 -/ | clti (t : Tid) (pd : BitVec 3) (ra : BitVec 5) (imm : Imm)
  /-- R116 -/ | cltui (t : Tid) (pd : BitVec 3) (ra : BitVec 5) (imm : Imm)
  /-- R116 -/ | cgti (t : Tid) (pd : BitVec 3) (ra : BitVec 5) (imm : Imm)
  /-- R116 -/ | cgtui (t : Tid) (pd : BitVec 3) (ra : BitVec 5) (imm : Imm)
  -- Falfimi compares and predicates
  /-- R115 -/ | ceq (t : Tid) (pd : BitVec 3) (ra rb : BitVec 5) (gd : Guard)
  /-- R115 -/ | cne (t : Tid) (pd : BitVec 3) (ra rb : BitVec 5) (gd : Guard)
  /-- R115 -/ | clt (t : Tid) (pd : BitVec 3) (ra rb : BitVec 5) (gd : Guard)
  /-- R115 -/ | cltu (t : Tid) (pd : BitVec 3) (ra rb : BitVec 5) (gd : Guard)
  /-- R115 -/ | cle (t : Tid) (pd : BitVec 3) (ra rb : BitVec 5) (gd : Guard)
  /-- R115 -/ | cleu (t : Tid) (pd : BitVec 3) (ra rb : BitVec 5) (gd : Guard)
  /-- R115 -/ | tst (t : Tid) (pd : BitVec 3) (ra rb : BitVec 5) (gd : Guard)
  /-- R115 -/ | tstz (t : Tid) (pd : BitVec 3) (ra rb : BitVec 5) (gd : Guard)
  /-- R117 -/ | pand (t : Tid) (pd pa pb : BitVec 3) (gd : Guard)
  /-- R117 -/ | por (t : Tid) (pd pa pb : BitVec 3) (gd : Guard)
  /-- R117 -/ | pxor (t : Tid) (pd pa pb : BitVec 3) (gd : Guard)
  /-- R117 -/ | pandn (t : Tid) (pd pa pb : BitVec 3) (gd : Guard)
  /-- R117 -/ | pnot (t : Tid) (pd pa : BitVec 3) (gd : Guard)
  /-- R117 -/ | pnz (t : Tid) (pd : BitVec 3) (ra : BitVec 5) (gd : Guard)
  /-- R117 -/ | pget (t : Tid) (rd : BitVec 5) (gd : Guard)
  /-- R117 -/ | pput (t : Tid) (ra : BitVec 5) (gd : Guard)
  -- Falfimi memory and control flow
  /-- R119 -/ | hld (t : Tid) (rt ra : BitVec 5) (sz : MemSize) (le sx : Bool) (off : BitVec 12)
  /-- R119 -/ | hst (t : Tid) (rt ra : BitVec 5) (sz : MemSize) (le : Bool) (off : BitVec 12)
  /-- R120 -/ | lld (t : Tid) (rt ra : BitVec 5) (sz : MemSize) (sx : Bool) (off : BitVec 12)
  /-- R120 -/ | lst (t : Tid) (rt ra : BitVec 5) (sz : MemSize) (off : BitVec 12)
  /-- R121 -/ | sld (t : Tid) (rt ra : BitVec 5) (sz : MemSize) (sx : Bool) (off : BitVec 12)
  /-- R121 -/ | sst (t : Tid) (rt ra : BitVec 5) (sz : MemSize) (off : BitVec 12)
  /-- R123 -/ | br (t : Tid) (cd : Cond) (disp : BitVec 22)
  /-- R124 -/ | loop (t : Tid) (gc : BitVec 5) (reg : Bool) (max body : BitVec 10)
  /-- R125 -/ | endl (t : Tid) (gc : BitVec 5) (back : BitVec 10)
  /-- R126 -/ | call (t : Tid) (cd : Cond) (target : BitVec 22)
  /-- R126 -/ | ret (t : Tid) (cd : Cond)
  /-- R127 -/ | done (t : Tid) (cd : Cond) (drop : Bool)
  -- Falfimi device operations
  /-- R142 -/ | lookup (t : Tid) (rd ra : BitVec 5) (table : BitVec 8)
  /-- R143 -/ | insert (t : Tid) (rd ra : BitVec 5) (table : BitVec 8)
  /-- R143 -/ | delete (t : Tid) (rd ra : BitVec 5) (table : BitVec 8)
  /-- R144 -/ | learn (t : Tid) (rd ra rb : BitVec 5)
  /-- R145 -/ | classify (t : Tid) (rd ra : BitVec 5) (ruleSet : BitVec 8)
  /-- R146 -/ | hash (t : Tid) (rd ra rb : BitVec 5) (func : BitVec 2) (header : Bool)
  /-- R148 -/ | fcld (t : Tid) (rd ra rb : BitVec 5) (fromTag : Bool)
  /-- R148 -/ | fcst (t : Tid) (rd ra rb : BitVec 5) (fromTag : Bool)
  /-- R148 -/ | fcstv (t : Tid) (rd ra rb : BitVec 5) (fromTag : Bool)
  /-- R150 -/ | fetch (t : Tid) (rd ra rb : BitVec 5) (blocksM1 : BitVec 3)
  /-- R152 -/ | emit (t : Tid) (rd ra rb : BitVec 5) (copy override headLen : Bool)
  /-- R157 -/ | time (t : Tid) (rd rb : BitVec 5) (mode : BitVec 3)
  /-- R149 -/ | cadd (t : Tid) (ra rb : BitVec 5)
  /-- R149 -/ | crd (t : Tid) (rd ra : BitVec 5) (bytes : Bool)
  /-- R95 -/ | lock (t : Tid) (rd ra : BitVec 5)
  /-- R95 -/ | lockw (t : Tid) (rd ra rb : BitVec 5)
  /-- R95 -/ | unlock (t : Tid) (rd ra : BitVec 5)
  /-- R98 -/ | wait (t : Tid) (rd ra rb : BitVec 5)
  /-- R98 -/ | notify (t : Tid) (rd ra : BitVec 5)
  /-- R97 -/ | cput (t : Tid) (rd ra rb : BitVec 5)
  /-- R97 -/ | ccommit (t : Tid) (rd ra : BitVec 5)
  /-- R97 -/ | cget (t : Tid) (rd ra rb : BitVec 5)
  /-- R95 -/ | lockGrant (t : Tid)
  /-- R95 -/ | waitLimit (t : Tid)
  /-- R160 -/ | mbsend (t : Tid) (rd ra : BitVec 5)
  /-- R160 -/ | mbrecv (t : Tid) (rd ra : BitVec 5)
  /-- R160 -/ | mbwdraw (t : Tid) (rd : BitVec 5)
  /-- R154 -/ | capture (t : Tid) (rd rb : BitVec 5) (now : Bool)
  /-- R155 -/ | chks (t : Tid) (p : CheckPoly) (rd ra rb : BitVec 5) (header : Bool)
  /-- R155 -/ | chkc (t : Tid) (p : CheckPoly) (rd ra rb : BitVec 5) (header : Bool)
  /-- R156 -/ | chka (t : Tid) (p : CheckPoly) (rd ra : BitVec 5)
  /-- R156 -/ | chkv (t : Tid) (p : CheckPoly) (rd ra : BitVec 5)
  -- cores and clusters
  /-- R85 -/ | budgetOverrun (t : Tid)
  /-- R90 -/ | faultRecord (cluster : Fin 17) (core : Fin 16)
  /-- R90 -/ | coreRestart (cluster : Fin 17) (core : Fin 16)
  /-- R103 -/ | coreReset (fn : FnId) (cluster : Fin 17) (core : Fin 16)
  /-- R101 -/ | debugHalt (t : Tid)
  /-- R101 -/ | debugResume (t : Tid)
  /-- R101 -/ | debugStep (t : Tid)
  /-- R83 -/ | cluCommit (fn : FnId) (cluster : Fin 17)
  -- loader
  /-- R172 -/ | load (fn : FnId) (cookie : BitVec 32) (addr : BitVec 64) (len cls : Nat)
  /-- R170 -/ | unload (fn : FnId) (cookie : BitVec 32) (cls : Nat)
  /-- R172 -/ | classRequest (fn : FnId) (cookie : BitVec 32) (p : ClassPayload)
  /-- R517 -/ | imageReadDone (cls : Fin 64) (image : List Byte) (fail : Option ReadFail)
  -- block commits and tables
  /-- R202 -/ | clsCommit (fn : FnId)
  /-- R208 -/ | tblCommit (fn : FnId) (table : Fin 72)
  /-- R236 -/ | tblAuxCommit (fn : FnId)
  /-- R214 -/ | chainMoveWrite (table : Fin 72)
  /-- R227 -/ | learnBatchApply
  /-- R232 -/ | aging
  /-- R235 -/ | bucketInvalidate (table : Fin 72) (bucket : Nat)
  /-- R219 -/ | tblDmaGo (fn : FnId)
  /-- R219 -/ | dmaListFetched (fn : FnId) (list : List (List Byte × List Byte))
      (fail : Option ReadFail)
  /-- R220 -/ | dmaInsert (fn : FnId)
  /-- R220 -/ | dmaUpdate (fn : FnId)
  /-- R220 -/ | dmaDelete (fn : FnId)
  /-- R220 -/ | dmaRead (fn : FnId)
  /-- R220 -/ | lockRead (fn : FnId)
  /-- R220 -/ | writeUnlock (fn : FnId)
  /-- R220 -/ | dmaUnlock (fn : FnId)
  /-- R220 -/ | scan (fn : FnId)
  /-- R220 -/ | fcRead (fn : FnId)
  /-- R220 -/ | fcWrite (fn : FnId)
  /-- R220 -/ | ctrRead (fn : FnId)
  /-- R220 -/ | ctrClear (fn : FnId)
  /-- R223 -/ | dmaResultsWrite (fn : FnId)
  /-- R242 -/ | seqGrpCommit (fn : FnId) (g : Fin 256)
  /-- R253 -/ | seqFoCommit (fn : FnId)
  -- timebase
  /-- R264 -/ | tbsAdjGo (fn : FnId)
  /-- R265 -/ | slewEnd
  /-- R262 -/ | midnight
  /-- R262 -/ | epochBaseAdvance
  /-- R278 -/ | ppsInEdge (time : BitVec 64)
  /-- R278 -/ | ppsOutEdge (rise : Bool)
  /-- R273 -/ | servoEstimate (offset : Int) (incr : BitVec 48)
  /-- R273 -/ | referenceLost
  /-- R279 -/ | healthRecord
  /-- R280 -/ | tbsSnap (fn : FnId)
  /-- R276 -/ | txtsHeadRead (fn : FnId) (port : Fin 16)
  -- ledger
  /-- R287 -/ | blockCloseTimeout
  /-- R289 -/ | seal
  /-- R289 -/ | sealComplete
  /-- R295 -/ | driveWriteComplete (drive : Fin 8) (block : Nat) (ok : Bool)
  /-- R295 -/ | c0CommandTimeout (drive : Fin 8) (block : Nat)
  /-- R296 -/ | ledgerEnable (fn : FnId)
  /-- R296 -/ | ledgerDisable (fn : FnId)
  /-- R297 -/ | ledgerRead (ring : Fin 65536)
  -- group, port, window, scheduler and encryption commits
  /-- R302 -/ | macGrpCommit (fn : FnId) (group : Fin 4)
  /-- R303 -/ | portReset (fn : FnId) (port : Fin 16)
  /-- R406 -/ | pwnCommit (fn : FnId)
  /-- R338 -/ | schCommit (fn : FnId)
  /-- R337 -/ | schRead (fn : FnId)
  /-- R337 -/ | schWrite (fn : FnId)
  /-- R342 -/ | cryCommit (fn : FnId)
  /-- R355 -/ | cryRead (fn : FnId)
  /-- R355 -/ | cryWrite (fn : FnId)
  /-- R355 -/ | writeKey (fn : FnId)
  /-- R355 -/ | counters (fn : FnId)
  -- TCP engine
  /-- R377 -/ | offload (fn : FnId) (conn : Fin 262144) (record : List Byte)
      (fail : Option ReadFail)
  /-- R384 -/ | tcpRead (fn : FnId) (conn : Fin 262144)
  /-- R384 -/ | close (fn : FnId) (conn : Fin 262144)
  /-- R384 -/ | tcpAbort (fn : FnId) (conn : Fin 262144)
  /-- R385 -/ | connSel (fn : FnId) (conn : Fin 262144)
  /-- R379 -/ | segmentReceive (f : Nat)
  /-- R383 -/ | segmentSend (conn : Fin 262144)
  /-- R378 -/ | retransmitTimeout (conn : Fin 262144)
  /-- R378 -/ | persistTimeout (conn : Fin 262144)
  /-- R377 -/ | delayedAck (conn : Fin 262144)
  -- storage engine
  /-- R384 -/ | stoCommit (fn : FnId)
  /-- R372 -/ | targetGo (fn : FnId) (target : Fin 4096)
  /-- R366 -/ | nvmeDoorbell (ctrl : Fin 1024) (queue : Nat) (completion : Bool) (val : BitVec 32)
  /-- R368 -/ | nvmeCommandFetch (ctrl : Fin 1024) (queue cid opcode nsid bytes : Nat)
  /-- R367 -/ | deleteIoSubmissionQueue (id : NvmeId) (sq : Nat)
  /-- R367 -/ | createIoSubmissionQueue (id : NvmeId) (sq size cq : Nat) (contiguous : Bool)
  /-- R367 -/ | deleteIoCompletionQueue (id : NvmeId) (cq : Nat)
  /-- R367 -/ | createIoCompletionQueue (id : NvmeId) (cq size vector : Nat)
      (contiguous intEn : Bool)
  /-- R370 -/ | getLogPage (id : NvmeId) (lid : BitVec 8) (retain : Bool)
  /-- R367 -/ | identify (id : NvmeId) (cns : BitVec 8) (nsid : Nat)
  /-- R375 -/ | abort (id : NvmeId) (sq target : Nat)
  /-- R367 -/ | setFeatures (id : NvmeId) (feature : BitVec 8) (value : BitVec 32)
  /-- R367 -/ | getFeatures (id : NvmeId) (feature : BitVec 8)
  /-- R370 -/ | asynchronousEventRequest (id : NvmeId)
  /-- R367 -/ | flush (id : NvmeId) (nsid : Nat)
  /-- R374 -/ | write (id : NvmeId) (nsid slba blocks : Nat) (pi : ProtInfo)
      (data md : List Byte) (fail : Option ReadFail)
  /-- R374 -/ | read (id : NvmeId) (nsid slba blocks : Nat) (pi : ProtInfo)
      (fail : Option ReadFail)
  /-- R367 -/ | writeZeroes (id : NvmeId) (nsid slba blocks : Nat)
  /-- R367 -/ | datasetManagement (id : NvmeId) (nsid : Nat) (deallocate : Bool)
      (ranges : List (Nat × Nat))
  /-- R373 -/ | pduReceive (target : Fin 4096) (conn : Option (Fin 8)) (pdu : PduKind)
      (headerOk dataOk : Bool)
  /-- R375 -/ | remoteCompletion (id : NvmeId) (status : BitVec 16)
  /-- R375 -/ | commandTimeout (id : NvmeId)
  /-- R375 -/ | unreachTimeout (ctrl : Fin 1024) (queue : Nat) (cid nsid : Nat)
  /-- R375 -/ | connectionClose (target : Fin 4096) (conn : Fin 8)
  -- mailboxes and firmware requests
  /-- R473 -/ | send (fn : FnId)
  /-- R476 -/ | withdraw (fn : FnId)
  /-- R474 -/ | mbxF2hRead (fn : FnId) (off : Nat) (wide : Bool)
  /-- R479 -/ | firmwareTake (pair : Pair)
  /-- R479 -/ | f2hPost (pair : Pair)
  /-- R475 -/ | mailboxTimeout (pair : Pair) (toHost : Bool)
  /-- R458 -/ | fwStage (fn : FnId) (cookie : BitVec 32) (image : List Byte)
      (fail : Option ReadFail) (flashOk : Bool)
  /-- R468 -/ | fwActivate (fn : FnId) (cookie : BitVec 32) (commitSvn swapOnly : Bool)
  /-- R458 -/ | cfgWrite (fn : FnId) (cookie : BitVec 32) (store : StoredConfig)
      (fail : Option ReadFail) (flashOk : Bool)
  /-- R457 -/ | pkeyEnroll (fn : FnId) (cookie : BitVec 32) (slot : Nat) (keyHash : List Byte)
  /-- R457 -/ | pkeyRevoke (fn : FnId) (cookie : BitVec 32) (slot : Nat) (payload : List Byte)
  /-- R489 -/ | evrClear (fn : FnId) (cookie : BitVec 32) (token : List Byte)
  /-- R460 -/ | getVersion (fn : FnId)
  /-- R460 -/ | getCapabilities (fn : FnId)
  /-- R460 -/ | negotiateAlgorithms (fn : FnId) (p384 sha384 : Bool)
  /-- R460 -/ | getDigests (fn : FnId)
  /-- R460 -/ | getCertificate (fn : FnId) (slot offset length : Nat)
  /-- R460 -/ | challenge (fn : FnId) (slot : Nat) (nonce : List Byte)
  /-- R461 -/ | getMeasurements (fn : FnId) (index : Nat) (mailbox : Bool)
  /-- R468 -/ | updateResume
  /-- R469 -/ | handover
  -- locks, tenancies, start-up and reset
  /-- R448 -/ | lckSet (fn : FnId) (bits : BitVec 32)
  /-- R440 -/ | tenCommit (fn : FnId)
  /-- R453 -/ | fundamentalReset (bootSel : BitVec 2)
  /-- R453 -/ | forenoon (r : ForenoonResult)
  /-- R459 -/ | noon (store : Option StoredConfig)
  /-- R467 -/ | warmReset (fn : Option FnId) (key : BitVec 32)
  /-- R467 -/ | fallback (cause : FallbackCause)
  /-- R462 -/ | clusterReset (fn : FnId) (cluster : Nat)
  /-- R18 -/ | spareTakeover
  /-- R465 -/ | rstSpare (fn : FnId) (cluster : Nat)
  -- event recorder
  /-- R486 -/ | eventPlace
  /-- R488 -/ | copyGo (fn : FnId)
  /-- R488 -/ | copyComplete
  /-- R492 -/ | cursorWrite (fn : FnId) (cursor : BitVec 64)
  /-- R494 -/ | evrViewLostRead (fn : FnId)
  -- power and thermal
  /-- R499 -/ | railUndervoltage (rail : Rail)
  /-- R499 -/ | railSequence (rail : Rail)
  /-- R499 -/ | railOvervoltage (rail : Rail)
  /-- R499 -/ | vddAonLoss
  /-- R508 -/ | sensorRead (temps : List (BitVec 12))
  /-- R512 -/ | tempPeakRead (fn : FnId)
  -- the remaining happenings
  /-- R13 -/ | registerReadUnaligned (fn : FnId) (off : Nat) (wide : Bool)
  /-- R107 -/ | illegalInstruction (t : Tid)
  /-- R19 -/ | clusterTestsDone (cluster : Fin 17) (pass : Bool)
  /-- R387 -/ | hostLinkTrained (ep : Endpoint) (speed : BitVec 3) (width : BitVec 5) (flit : Bool)
  /-- R398 -/ | linkWidthChange (ep : Endpoint) (width : BitVec 5)
  /-- R399 -/ | aspmL1Transition (ep : Endpoint) (enter : Bool)
  /-- R412 -/ | configurationWrite (fn : FnId) (change : CfgChange)
  /-- R409 -/ | malformedTlp (ep : Endpoint)
  /-- R273 -/ | freqInEdge
  /-- R278 -/ | ppsPresentExpire
  /-- R315 -/ | lpiEnter (port : Fin 16)
  /-- R297 -/ | driveReadComplete (drive : Fin 8) (block : Nat) (data : List Byte)
      (fail : Option ReadFail)
  /-- R487 -/ | powerOn
  /-- R497 -/ | railInRange (rail : Rail)
  /-- R449 -/ | perst0NAssert
  /-- R502 -/ | refClkLoss
  /-- R502 -/ | refclkStable (clock : LateClock)
  /-- R504 -/ | ncsiCommand (channel : Nat) (command : BitVec 8) (payload : List Byte)
  /-- R504 -/ | pldmRequest (type : BitVec 6) (command : BitVec 8) (payload : List Byte)
  deriving DecidableEq, Repr

end Sys2Proof
end

