-- ==== Sys2Proof/Decode.lean ====
section
/-! DEFINITION. The commands that words of the opcode table spell. The table of this block gives no
row any bits: a command comes with its operands, not as a word. -/

namespace Sys2Proof

/-- The command that a table word spells: none, because no row has bits. -/
def decodeTableWord (_nbits _w : Nat) : Option Instr := none

end Sys2Proof
end

