-- ==== Sys2Proof/Machine/Encode.lean ====
section
/-! DEFINITION. The words of the Falfimi instructions (R106, R109, R113–R117, R131, R137), which the
instruction fetch compares with the program's code. -/

namespace Sys2Proof.Machine

open Sys2Proof

/-- A word of fields given as (value, low bit) pairs. -/
def packed (fs : List (Nat × Nat)) : Word :=
  BitVec.ofNat 32 (fs.foldl (fun a f => a + f.1 * 2 ^ f.2) 0)

/-- Format A. -/
def wordA (op : Nat) (rd ra rb : BitVec 5) (gd : Guard) (fn : Nat) : Word :=
  packed [(op, 26), (rd.toNat, 21), (ra.toNat, 16), (rb.toNat, 11), (gd.pq.toNat, 8),
    (gd.pn.toNat, 7), (fn, 0)]

/-- Format A of a compare: the destination predicate in [25:23]. -/
def wordCmp (pd : BitVec 3) (ra rb : BitVec 5) (gd : Guard) (fn : Nat) : Word :=
  packed [(0x02, 26), (pd.toNat, 23), (ra.toNat, 16), (rb.toNat, 11), (gd.pq.toNat, 8),
    (gd.pn.toNat, 7), (fn, 0)]

/-- Format A of a predicate function: PA in [20:18], PB in [15:13]. -/
def wordPrd (pd pa pb : BitVec 3) (gd : Guard) (fn : Nat) : Word :=
  packed [(0x03, 26), (pd.toNat, 23), (pa.toNat, 18), (pb.toNat, 13), (gd.pq.toNat, 8),
    (gd.pn.toNat, 7), (fn, 0)]

/-- Format I. -/
def wordI (op top : Nat) (ra : BitVec 5) (imm : Nat) : Word :=
  packed [(op, 26), (top, 21), (ra.toNat, 16), (imm, 0)]

/-- An I-format instruction with its X word before it when it is widened (R108). -/
def wordsI (op top : Nat) (ra : BitVec 5) (imm : Imm) : List Word :=
  match imm.high with
  | none => [wordI op top ra imm.low.toNat]
  | some x => [packed [(0x3E, 26), (x.toNat, 0)], wordI op top ra imm.low.toNat]

/-- SZ of an access size (R106). -/
def MemSize.code : MemSize → Nat
  | .byte => 0
  | .half => 1
  | .word => 2
  | .double => 3

/-- Bytes of an access size. -/
def MemSize.bytes (z : MemSize) : Nat := 2 ^ MemSize.code z

/-- Format M. -/
def wordM (op : Nat) (rt ra : BitVec 5) (sz : MemSize) (le sx : Bool) (off : BitVec 12) : Word :=
  packed [(op, 26), (rt.toNat, 21), (ra.toNat, 16), (MemSize.code sz, 14), (le.toNat, 13),
    (sx.toNat, 12), (off.toNat, 0)]

/-- Format B with a condition. -/
def wordB (op : Nat) (cd : Cond) (low : Nat) : Word :=
  packed [(op, 26), (cd.pred.toNat, 23), (cd.neg.toNat, 22), (low, 0)]

/-- Format D. -/
def wordD (rd ra rb : BitVec 5) (md fn : Nat) : Word :=
  packed [(0x38, 26), (rd.toNat, 21), (ra.toNat, 16), (rb.toNat, 11), (md, 8), (fn, 0)]

/-- Format D with an 8-bit object number in RB and MOD (R140, R145). -/
def wordN (rd ra : BitVec 5) (n : BitVec 8) (fn : Nat) : Word :=
  wordD rd ra (BitVec.ofNat 5 (n.toNat / 8)) (n.toNat % 8) fn

/-- The polynomial column p of R137. -/
def CheckPoly.code : CheckPoly → Nat
  | .crc32 => 0
  | .crc32c => 1
  | .crc16 => 2
  | .crc64 => 3

/-- The words of a Falfimi instruction; none for the other commands. -/
def encodeInstr : Instr → List Word
  | .add _ rd ra rb gd => [wordA 1 rd ra rb gd 0x00]
  | .sub _ rd ra rb gd => [wordA 1 rd ra rb gd 0x01]
  | .mul _ rd ra rb gd => [wordA 1 rd ra rb gd 0x02]
  | .mulhu _ rd ra rb gd => [wordA 1 rd ra rb gd 0x03]
  | .and_ _ rd ra rb gd => [wordA 1 rd ra rb gd 0x04]
  | .or_ _ rd ra rb gd => [wordA 1 rd ra rb gd 0x05]
  | .xor_ _ rd ra rb gd => [wordA 1 rd ra rb gd 0x06]
  | .andn _ rd ra rb gd => [wordA 1 rd ra rb gd 0x07]
  | .shl _ rd ra rb gd => [wordA 1 rd ra rb gd 0x08]
  | .shr _ rd ra rb gd => [wordA 1 rd ra rb gd 0x09]
  | .sar _ rd ra rb gd => [wordA 1 rd ra rb gd 0x0A]
  | .rol _ rd ra rb gd => [wordA 1 rd ra rb gd 0x0B]
  | .min_ _ rd ra rb gd => [wordA 1 rd ra rb gd 0x0C]
  | .max_ _ rd ra rb gd => [wordA 1 rd ra rb gd 0x0D]
  | .minu _ rd ra rb gd => [wordA 1 rd ra rb gd 0x0E]
  | .maxu _ rd ra rb gd => [wordA 1 rd ra rb gd 0x0F]
  | .sel _ rd ra rb gd => [wordA 1 rd ra rb gd 0x10]
  | .clz _ rd ra gd => [wordA 1 rd ra 0 gd 0x11]
  | .ctz _ rd ra gd => [wordA 1 rd ra 0 gd 0x12]
  | .popc _ rd ra gd => [wordA 1 rd ra 0 gd 0x13]
  | .bsw16 _ rd ra gd => [wordA 1 rd ra 0 gd 0x14]
  | .bsw32 _ rd ra gd => [wordA 1 rd ra 0 gd 0x15]
  | .bsw64 _ rd ra gd => [wordA 1 rd ra 0 gd 0x16]
  | .addi _ rd ra imm => wordsI 0x04 rd.toNat ra imm
  | .andi _ rd ra imm => wordsI 0x05 rd.toNat ra imm
  | .ori _ rd ra imm => wordsI 0x06 rd.toNat ra imm
  | .xori _ rd ra imm => wordsI 0x07 rd.toNat ra imm
  | .shli _ rd ra sh => [wordI 0x08 rd.toNat ra sh.toNat]
  | .shri _ rd ra sh => [wordI 0x09 rd.toNat ra sh.toNat]
  | .sari _ rd ra sh => [wordI 0x0A rd.toNat ra sh.toNat]
  | .movh _ rd ra imm => wordsI 0x11 rd.toNat ra imm
  | .extf _ rd ra pos lenM1 => [wordI 0x12 rd.toNat ra (pos.toNat + lenM1.toNat * 64)]
  | .insf _ rd ra pos lenM1 => [wordI 0x13 rd.toNat ra (pos.toNat + lenM1.toNat * 64)]
  | .ceqi _ pd ra imm => wordsI 0x0B (pd.toNat * 4) ra imm
  | .cnei _ pd ra imm => wordsI 0x0C (pd.toNat * 4) ra imm
  | .clti _ pd ra imm => wordsI 0x0D (pd.toNat * 4) ra imm
  | .cltui _ pd ra imm => wordsI 0x0E (pd.toNat * 4) ra imm
  | .cgti _ pd ra imm => wordsI 0x0F (pd.toNat * 4) ra imm
  | .cgtui _ pd ra imm => wordsI 0x10 (pd.toNat * 4) ra imm
  | .ceq _ pd ra rb gd => [wordCmp pd ra rb gd 0x00]
  | .cne _ pd ra rb gd => [wordCmp pd ra rb gd 0x01]
  | .clt _ pd ra rb gd => [wordCmp pd ra rb gd 0x02]
  | .cltu _ pd ra rb gd => [wordCmp pd ra rb gd 0x03]
  | .cle _ pd ra rb gd => [wordCmp pd ra rb gd 0x04]
  | .cleu _ pd ra rb gd => [wordCmp pd ra rb gd 0x05]
  | .tst _ pd ra rb gd => [wordCmp pd ra rb gd 0x06]
  | .tstz _ pd ra rb gd => [wordCmp pd ra rb gd 0x07]
  | .pand _ pd pa pb gd => [wordPrd pd pa pb gd 0x00]
  | .por _ pd pa pb gd => [wordPrd pd pa pb gd 0x01]
  | .pxor _ pd pa pb gd => [wordPrd pd pa pb gd 0x02]
  | .pandn _ pd pa pb gd => [wordPrd pd pa pb gd 0x03]
  | .pnot _ pd pa gd => [wordPrd pd pa 0 gd 0x04]
  | .pnz _ pd ra gd => [packed [(0x03, 26), (pd.toNat, 23), (ra.toNat, 16), (gd.pq.toNat, 8),
      (gd.pn.toNat, 7), (0x05, 0)]]
  | .pget _ rd gd => [packed [(0x03, 26), (rd.toNat, 21), (gd.pq.toNat, 8), (gd.pn.toNat, 7),
      (0x06, 0)]]
  | .pput _ ra gd => [packed [(0x03, 26), (ra.toNat, 16), (gd.pq.toNat, 8), (gd.pn.toNat, 7),
      (0x07, 0)]]
  | .hld _ rt ra sz le sx off => [wordM 0x14 rt ra sz le sx off]
  | .hst _ rt ra sz le off => [wordM 0x15 rt ra sz le false off]
  | .lld _ rt ra sz sx off => [wordM 0x16 rt ra sz false sx off]
  | .lst _ rt ra sz off => [wordM 0x17 rt ra sz false false off]
  | .sld _ rt ra sz sx off => [wordM 0x18 rt ra sz false sx off]
  | .sst _ rt ra sz off => [wordM 0x19 rt ra sz false false off]
  | .br _ cd disp => [wordB 0x20 cd disp.toNat]
  | .loop _ gc reg max body => [packed [(0x21, 26), (gc.toNat, 21), (reg.toNat, 20),
      (max.toNat, 10), (body.toNat, 0)]]
  | .endl _ gc back => [packed [(0x22, 26), (gc.toNat, 21), (back.toNat, 0)]]
  | .call _ cd target => [wordB 0x23 cd target.toNat]
  | .ret _ cd => [wordB 0x24 cd 0]
  | .done _ cd drop => [wordB 0x25 cd drop.toNat]
  | .lookup _ rd ra n => [wordN rd ra n 0x00]
  | .insert _ rd ra n => [wordN rd ra n 0x01]
  | .delete _ rd ra n => [wordN rd ra n 0x02]
  | .learn _ rd ra rb => [wordD rd ra rb 0 0x03]
  | .classify _ rd ra n => [wordN rd ra n 0x04]
  | .hash _ rd ra rb f h => [wordD rd ra rb (f.toNat + 4 * h.toNat) 0x05]
  | .fcld _ rd ra rb m => [wordD rd ra rb m.toNat 0x08]
  | .fcst _ rd ra rb m => [wordD rd ra rb m.toNat 0x09]
  | .fcstv _ rd ra rb m => [wordD rd ra rb m.toNat 0x0A]
  | .fetch _ rd ra rb n => [wordD rd ra rb n.toNat 0x0C]
  | .emit _ rd ra rb c o h => [wordD rd ra rb (c.toNat + 2 * o.toNat + 4 * h.toNat) 0x10]
  | .time _ rd rb m => [wordD rd 0 rb m.toNat 0x14]
  | .cadd _ ra rb => [wordD 0 ra rb 0 0x18]
  | .crd _ rd ra b => [wordD rd ra 0 b.toNat 0x19]
  | .lock _ rd ra => [wordD rd ra 0 0 0x20]
  | .lockw _ rd ra rb => [wordD rd ra rb 0 0x21]
  | .unlock _ rd ra => [wordD rd ra 0 0 0x22]
  | .wait _ rd ra rb => [wordD rd ra rb 0 0x24]
  | .notify _ rd ra => [wordD rd ra 0 0 0x25]
  | .cput _ rd ra rb => [wordD rd ra rb 0 0x28]
  | .ccommit _ rd ra => [wordD rd ra 0 0 0x29]
  | .cget _ rd ra rb => [wordD rd ra rb 0 0x2A]
  | .mbsend _ rd ra => [wordD rd ra 0 0 0x30]
  | .mbrecv _ rd ra => [wordD rd ra 0 0 0x31]
  | .mbwdraw _ rd => [wordD rd 0 0 0 0x32]
  | .capture _ rd rb n => [wordD rd 0 rb n.toNat 0x38]
  | .chks _ p rd ra rb h => [wordD rd ra rb (4 * h.toNat) (0x40 + CheckPoly.code p)]
  | .chkc _ p rd ra rb h => [wordD rd ra rb (4 * h.toNat) (0x44 + CheckPoly.code p)]
  | .chka _ p rd ra => [wordD rd ra 0 0 (0x48 + CheckPoly.code p)]
  | .chkv _ p rd ra => [wordD rd ra 0 0 (0x4C + CheckPoly.code p)]
  | _ => []

/-! ### Legality of words (R107, R108, R130, R131) -/

/-- Field [hi:lo] of a word. -/
def wfld (w : Word) (hi lo : Nat) : Nat := w.toNat / 2 ^ lo % 2 ^ (hi + 1 - lo)

/-- A device-operation word has no reserved FN, field or immediate value (R131, R137). -/
def legalDev (w : Word) : Bool :=
  let rd := wfld w 25 21
  let ra := wfld w 20 16
  let rb := wfld w 15 11
  let md := wfld w 10 8
  let fn := wfld w 7 0
  let n := rb * 8 + md
  match fn with
  | 0x00 | 0x01 | 0x02 => decide (n < 72)
  | 0x03 => md == 0
  | 0x04 => decide (n < 64)
  | 0x05 => decide (md % 4 < 2)
  | 0x08 | 0x09 | 0x0A => decide (md < 2) && (md == 0 || rb == 0)
  | 0x0C => true
  | 0x10 => (md / 4 % 2 == 1 || rb == 0) && (md / 2 % 2 == 1 || ra == 0)
  | 0x14 => ra == 0 && decide (md < 3) && (md == 2 || rb == 0) && !(md == 2 && rb == rd && rd != 0)
  | 0x18 => rd == 0 && md == 0
  | 0x19 => rb == 0 && decide (md < 2)
  | 0x20 | 0x22 | 0x25 | 0x29 | 0x30 | 0x31 => rb == 0 && md == 0
  | 0x21 | 0x24 | 0x28 => md == 0
  | 0x2A => md == 0 && !(rb == rd && rd != 0)
  | 0x32 => ra == 0 && rb == 0 && md == 0
  | 0x38 => ra == 0 && decide (md < 2)
  | _ =>
    if 0x40 ≤ fn ∧ fn ≤ 0x47 then md % 4 == 0
    else if 0x48 ≤ fn ∧ fn ≤ 0x4F then rb == 0 && md == 0
    else false

/-- A word alone raises no ILLEGAL_INSTRUCTION at its issue for its encoding. -/
def legalWord (w : Word) : Bool :=
  let op := wfld w 31 26
  let fn := wfld w 6 0
  match op with
  | 0x01 => decide (fn ≤ 0x16) && (decide (fn < 0x11) || wfld w 15 11 == 0)
  | 0x02 => decide (fn ≤ 7) && wfld w 22 21 == 0
  | 0x03 =>
    if fn ≤ 3 then wfld w 22 21 == 0 && wfld w 17 16 == 0 && wfld w 12 11 == 0
    else if fn = 4 then wfld w 22 21 == 0 && wfld w 17 16 == 0 && wfld w 15 11 == 0
    else if fn = 5 then wfld w 22 21 == 0 && wfld w 15 11 == 0
    else if fn = 6 then wfld w 20 11 == 0
    else if fn = 7 then wfld w 25 21 == 0 && wfld w 15 11 == 0
    else false
  | 0x04 | 0x05 | 0x06 | 0x07 | 0x11 => true
  | 0x08 | 0x09 | 0x0A => wfld w 15 6 == 0
  | 0x0B | 0x0C | 0x0D | 0x0E | 0x0F | 0x10 => wfld w 22 21 == 0
  | 0x12 | 0x13 => wfld w 15 12 == 0 && decide (wfld w 5 0 + wfld w 11 6 + 1 ≤ 64)
  | 0x14 => !(wfld w 12 12 == 1 && wfld w 15 14 == 3)
  | 0x15 => wfld w 12 12 == 0
  | 0x16 | 0x18 => wfld w 13 13 == 0 && !(wfld w 12 12 == 1 && wfld w 15 14 == 3)
  | 0x17 | 0x19 => wfld w 13 12 == 0
  | 0x20 | 0x23 => true
  | 0x21 => wfld w 25 21 != 0 && wfld w 25 21 != 31 && wfld w 9 0 != 0
  | 0x22 => wfld w 20 10 == 0 && wfld w 9 0 != 0
  | 0x24 => wfld w 21 0 == 0
  | 0x25 => wfld w 21 1 == 0
  | 0x38 => legalDev w
  | _ => false

/-- A word that an X word may widen (R108), legal with that X word. -/
def legalPair (x w : Word) : Bool :=
  let op := wfld w 31 26
  (op == 0x04 || op == 0x05 || op == 0x06 || op == 0x07 || (0x0B ≤ op && op ≤ 0x10) || op == 0x11)
    && legalWord w && !(op == 0x11 && wfld x 25 16 != 0)

/-- What the words at an instruction's start raise by their encoding: true when they raise
ILLEGAL_INSTRUCTION. The second word matters only after an X word. -/
def illegalAt (w : Word) (second : Option Word) : Bool :=
  if wfld w 31 26 = 0x3E then
    match second with
    | some v => !legalPair w v
    | none => true
  else !legalWord w

end Sys2Proof.Machine
end

