-- ==== Sys2Proof/Config.lean ====
section
/-! DEFINITION. What one part or its surroundings fixes and the specification leaves open: identity,
calibration and flash contents of the part, the signatures of its own keys, contents that other standards define,
and the free values. None has a body, so nothing can be proved of a particular value. -/

namespace Sys2Proof.Config

/-- DEVICE_ID of the part (R393). -/
opaque deviceId : BitVec 64
/-- The n-th draw of 64-bit words from the device's random source (R288, R489). -/
opaque random : Nat → BitVec 64
/-- FACTORY delays of lane l, receive and transmit, loaded at Daybreak (R269, R280). -/
opaque laneRx : Nat → BitVec 32
opaque laneTx : Nat → BitVec 32
/-- Routing ID of PF0 of an endpoint, as its host numbers the bus (R388). -/
opaque routingBase : Bool → BitVec 16
/-- Entries of the resource directory of a function's view, 32 bytes each, the END entry left out: H1, function,
tenancy. The specification gives their layout, and leaves to the part which blocks it lists and where (R393). -/
opaque directoryEntries : Bool → Nat → Nat → List (List Byte)
/-- The expansion ROM image that flash holds (R392, R456). -/
opaque romImage : List Byte
/-- Station address of a port in the identity region (R312, R394). -/
opaque portAddress : Nat → BitVec 48
/-- STRICT of each endpoint as flash holds it; false when flash holds none (R399). -/
opaque flashStrict : Bool → Bool
/-- MODE of port group A as flash holds it (R316). -/
opaque flashModeA : BitVec 3
/-- A signature of the device identity key over a message, 96 bytes. -/
opaque identitySign : List Byte → List Byte
/-- The identity certificate chain, DER certificates end to end, leaf first (R288). -/
opaque identityCerts : List Byte
/-- The identity public key as its uncompressed point, 97 bytes (R288). -/
opaque identityPoint : List Byte
/-- Congestion window under CUBIC (RFC 9438) after an acknowledgment: window, window before the last
reduction, MSS, rounds since then, smoothed round trip. -/
opaque cubicWindow : Nat → Nat → Nat → Nat → Nat → Nat
/-- Identify data of a controller (by CNS, controller and namespace) and log pages, beside the fields
that the specification states. -/
opaque identifyData : Nat → Nat → Nat → List Byte
opaque logPage : Nat → Nat → List Byte
/-- The key that verifies Pelautik signatures, x ‖ y, and the SHA-384 of the boot ROM, both in the boot ROM (R456,
R461). -/
opaque romKey : List Byte
opaque romHash : List Byte
/-- Verification of a signature under the public key whose SHA-384 a platform key slot holds: hash, message,
r ‖ s (R456, R457, R459). -/
opaque slotVerify : List Byte → List Byte → List Byte → Bool
/-- Data of an NC-SI answer or AEN whose layout DSP0222 gives: command, channel, link up, and the settings that
the channel holds (R504). -/
opaque ncsiPayload : Nat → Nat → Bool → List (Nat × List Byte) → List Byte
/-- Data of a PLDM answer whose contents DSP0240 and DSP0267 give: type and command (R504). -/
opaque pldmPayload : Nat → Nat → List Byte
/-- A value that the specification leaves open; the argument is the count of such reads before. -/
opaque freeValue : Nat → BitVec 64

end Sys2Proof.Config
end

