-- ==== Sys2Proof/Machine/State.lean ====
section
/-! DEFINITION. The state of the SZ9-3200 as plain data, the reasons a step can stop, and the state
right after power is applied. Register words live in one sparse store keyed by Device Control Space
offset; the structured parts below hold what the registers do not. -/

namespace Sys2Proof.Machine

/-- Why the machine stops with a fault. -/
inductive Fault where
  /-- Raised by every command once REF_CLK has stopped or left its range while the device runs
  (R502 makes every rule void and leaves the behaviour undefined). Safe: nothing can be proved of a
  state that the specification does not describe. -/
  | clockVoid
  deriving DecidableEq, Repr

/-- Why a command is refused. -/
inductive Refusal where
  /-- Raised by an arm of `exec` whose command has no meaning yet; no meaning raises it. Safe. -/
  | notModelled (mnemonic : String)
  deriving DecidableEq, Repr

/-- The sixteen words of a carrier tag (R56). -/
abbrev Tag := List Word

/-! ### Frames -/

/-- Where a frame came from (R21, R58). -/
inductive Src where
  | port (p : Nat)
  | ring (r : Nat)
  | peer (ep : Endpoint) (w : Nat)
  | program (cls : Nat)
  | tcp (conn : Nat)
  | storage
  deriving DecidableEq, Repr

/-- Where a frame stands on its way (R24). -/
inductive Stage where
  /-- Whole in the ingress buffer, before its parse. -/
  | whole
  /-- Parsed, before its classifier stage. -/
  | parsed
  /-- Past its classifier stage and to be admitted in the next tick, to the exception path under a reason other
  than 0 (R48). -/
  | settled (reason : Nat)
  /-- Admitted and in the dispatch queue of its path class (R84). -/
  | queued
  /-- A reject frame whose session is being looked up (R250). -/
  | reject
  /-- Held by a thread. -/
  | thread (t : Tid)
  /-- Handed on by EMIT or DONE, not yet with the release engine (R152). -/
  | emitted
  /-- Held by the release engine until its due tick. -/
  | held
  /-- In a sequence group's hold storage, before admission (R244). -/
  | group (g : Nat)
  /-- Admitted to its group and waiting for hand-on. -/
  | member (g : Nat)
  /-- In an egress queue node (R318). -/
  | queue (node : Nat)
  /-- Chosen by a port's scheduler, its first bit due in a later tick (R320). -/
  | wire (port : Nat)
  /-- Waiting for, or being written to, a receive ring (R427). -/
  | ring (r : Nat)
  /-- With the TCP or the storage engine. -/
  | engine
  deriving DecidableEq, Repr

/-- A header record of a parse: kind, layer, frame offset and length (R182). -/
structure Hdr where
  kind : Nat
  layer : Nat
  off : Nat
  len : Nat
  deriving DecidableEq, Repr

/-- One frame or copy of a frame inside the device. -/
structure Frame where
  id : Nat
  stage : Stage
  src : Src
  tag : Tag
  bytes : List Byte
  /-- Send ring and descriptor position, for a host-ring frame. -/
  sendPos : Option (Nat × Nat) := none
  endTick : Nat
  wholeTick : Nat
  /-- Governing round (R21). -/
  round : Nat
  /-- Due tick, set at admission (R48). -/
  due : Nat := 0
  /-- The due tick without DUE_DELAY and EMIT overrides: end tick plus C (R153, R424). -/
  plainDue : Nat := 0
  /-- DUE_DELAY of the send descriptor (R424). -/
  dueDelay : Nat := 0
  /-- Admission order number of R53. -/
  order : Nat := 0
  /-- Earliest tick in which the frame may be dispatched (R48); in an egress queue, the earliest tick in
  which its first bit may pass (R320). -/
  ready : Nat := 0
  /-- Tick from which the release engine holds the frame. -/
  heldFrom : Nat := 0
  /-- Ticks of the parse that the frame's binding takes. -/
  parseTicks : Nat := 0
  hdrs : List Hdr := []
  key : List Byte := []
  /-- Class hint of the parse, metered by its class; none: the parse failed (R185). -/
  hint : Option Nat := none
  /-- Entry of the program that the rule named (R77). -/
  entry : Nat := 0
  /-- Security association selected for the frame (R353). -/
  sa : Option Nat := none
  /-- Snap length of the frame's ledger record (R154, R192). -/
  snap : Option Nat := none
  /-- MIRROR_KIND and MIRROR_INDEX of the rule (R192). -/
  mirror : Option (Nat × Nat) := none
  /-- The frame whose thread created this copy, by number + 1 (R354). -/
  origin : Nat := 0
  /-- The frame's flow key as the release engine formed it (R53, R59). -/
  flow : Nat × Nat × Nat := (0, 0, 0)
  /-- Fan-out bookkeeping: the copy's place in its list (R254). -/
  copyOf : Option Nat := none
  /-- Bytes that CHK_EN of the send descriptor appends at the hand-on (R424). -/
  append : List Byte := []
  /-- RO of the send descriptor (R424). -/
  relaxed : Bool := false
  /-- Tick that holds the ingress time (R34, R244). -/
  ingressTick : Nat := 0
  /-- Members of a fan-out list already served (R254). -/
  served : List Nat := []
  /-- First tick in which the release engine may hand the frame on, after an earlier frame of its
  flow left late (R53). -/
  notBefore : Nat := 0
  /-- Receive buffers and completion slot reserved or taken for the frame (R246, R427). -/
  bufs : List Nat := []
  cplSlot : Option Nat := none
  /-- Priority under which the frame is counted in the ingress buffer (R304, R312). -/
  buffered : Option (Nat × Nat × Nat) := none
  /-- The bytes belong to a TCP delivery or segment of this connection (R381). -/
  conn : Option Nat := none
  deriving DecidableEq, Repr

/-! ### Clusters, cores and threads -/

/-- A register or predicate that an instruction names (R111). -/
inductive Dest where
  | g (n : BitVec 5)
  | p (n : BitVec 3)
  deriving DecidableEq, Repr

/-- A result not yet usable: its destination, its value (none: nothing is written) and the tick from
which it is usable (none: the lock unit has not answered yet). -/
structure Pend where
  dest : Dest
  val : Option DWord
  ready : Option Nat
  deriving DecidableEq, Repr

/-- What a waiting thread waits on (R95). -/
inductive WaitOn where
  | lock (n : Nat)
  | chan (n : Nat)
  deriving DecidableEq, Repr

/-- A wait in force in the lock unit. -/
structure LockWait where
  on : WaitOn
  issue : Nat
  limit : Nat
  rd : BitVec 5
  deriving DecidableEq, Repr

/-- A fault that a thread raised in the current tick (R87). -/
structure ThreadFault where
  code : Nat
  pc : Word
  word : Word
  addr : DWord
  /-- Where an uncorrectable error was met: 0 nowhere, 1 header buffer, 2 local data, 3 cluster shared
  memory, 4 instruction memory (R91). -/
  place : Nat := 0
  deriving DecidableEq, Repr

/-- A hardware thread (R76). -/
structure Thread where
  /-- The frame it handles; none: the thread is free. -/
  frame : Option Nat := none
  /-- That frame as the dispatcher handed it over: its round, due tick and origin stand here after the
  frame itself has been handed on. -/
  base : Option Frame := none
  cls : Nat := 0
  /-- First tick of the budget. -/
  start : Nat := 0
  /-- First tick in which the thread is free again (R84). -/
  freeFrom : Nat := 0
  g : Sparse DWord := []
  /-- p0–p7; bit 0 always 1. -/
  p : BitVec 8 := 1
  pc : Word := 0
  /-- The header buffer, bytes 0–511; unlisted bytes read 0. -/
  hdr : Sparse Byte := []
  /-- The frame's bytes as they stood at the thread's start, in the packet buffer (R150). -/
  source : List Byte := []
  depth : Nat := 0
  budget : Nat := 0
  locks : List Nat := []
  /-- Staged words with their channels, oldest first. -/
  staged : List (Nat × DWord) := []
  pend : List Pend := []
  wait : Option LockWait := none
  /-- Tick of the last instruction issued in the thread's own cycle. -/
  issued : Option Nat := none
  /-- Tick of the last branch, store or CADD: the next instruction issues in a later tick (R110). -/
  lastOfTick : Option Nat := none
  /-- The frame itself has been handed on. -/
  handedOn : Bool := false
  copies : Nat := 0
  records : Nat := 0
  /-- Bytes that CHKA set for appending. -/
  append : List Byte := []
  /-- Bytes that CHKV set for stripping. -/
  strip : Nat := 0
  /-- First tick after the latency of the last CHKA or CHKV (R360). -/
  scanUntil : Nat := 0
  /-- First tick in which the thread's check lane is free again (R358). -/
  laneUntil : Nat := 0
  /-- Destination fields that the program wrote (R66). -/
  destWritten : Bool := false
  halted : Bool := false
  /-- A halt was asked for: the tick whose own cycle it takes effect in (R101). -/
  haltFrom : Option Nat := none
  stepping : Bool := false
  /-- Tick and path class of the thread's last start on a frame (R84). -/
  lastStart : Option (Nat × Nat) := none
  /-- Ingress-buffer cells of a frame that has left while its thread still runs (R152). -/
  cells : Option (Nat × Nat × Nat) := none
  fault : Option ThreadFault := none
  deriving DecidableEq, Repr

/-- A core of a cluster (R87–R91). -/
structure CoreState where
  stopped : Bool := false
  fenced : Bool := false
  /-- A core reset arrived in this tick (R103). -/
  resetNow : Bool := false
  /-- Round in which the core takes frames again. -/
  restart : Nat := 0
  /-- The record bytes of the last fault, waiting to be written (R90). -/
  record : Option (List Byte) := none
  recordRound : Nat := 0
  recordDetail : BitVec 64 := 0
  /-- Compact time of the tick of the fault, and the parity of its Midnight count. -/
  recordTime : BitVec 64 := 0
  recordEpoch : Bool := false
  /-- Rounds of the core's faults since its cluster reset. -/
  history : List Nat := []
  /-- Tick of the last issue, and the first core cycle of that tick that is still to come (R80). -/
  issueTick : Nat := 0
  issueCount : Nat := 0
  deriving DecidableEq, Repr

/-- A lock of a cluster's lock unit (R93–R100). -/
structure Lock where
  holder : Option Tid := none
  /-- First tick in which the lock is free again. -/
  freeAt : Nat := 0
  abandoned : Bool := false
  deriving DecidableEq, Repr

/-- A channel of a cluster's lock unit (R97, R98). -/
structure Chan where
  events : Nat := 0
  /-- Committed messages, oldest first. -/
  messages : List (List DWord) := []
  deriving DecidableEq, Repr

/-- A cluster's own state beside its registers. -/
structure Cluster where
  /-- Rounds in which cores of the cluster were fenced. -/
  coreFences : List Nat := []
  /-- Fencing began in this tick; the spare takes over within 20 ms. -/
  fencedAt : Option Nat := none
  /-- Path classes waiting for the spare to take them over. -/
  moving : Bool := false
  /-- No spare was left to take them over: their frames are dropped until a cluster returns to service (R19). -/
  unplaced : Bool := false
  /-- Tests are running (R19). -/
  testing : Bool := false
  /-- The tests have ended, passed or failed: the cluster's role follows at the next round boundary (R39). -/
  tested : Option Bool := none
  /-- A cluster reset is to begin at the next round boundary (R39, R462). -/
  resetAsked : Bool := false
  /-- Round from which its work moved to the spare (R20, R462). -/
  movedAt : Nat := 0
  deriving DecidableEq, Repr

/-- An operation that the lock unit acts on in the tick after its issue, with its operands as issued (R95–R98). -/
inductive LockOp where
  | lock (rd : BitVec 5) (n limit : Nat)
  | unlock (rd : BitVec 5) (n : Nat)
  | wait (rd : BitVec 5) (n limit : Nat)
  /-- `sender`: the class is in the sender set of the frame's governing round. -/
  | notify (rd : BitVec 5) (n : Nat) (sender : Bool)
  | cput (rd : BitVec 5) (n : Nat) (w : DWord) (sender : Bool)
  /-- The words that the thread had staged for the channel at the issue. -/
  | ccommit (rd : BitVec 5) (n : Nat) (words : List DWord)
  | cget (rd rb : BitVec 5) (n : Nat)
  deriving DecidableEq, Repr

/-- An operation that an update or learning engine takes in the tick after its issue (R143, R144). -/
inductive TableOp where
  | insert (rd : BitVec 5) (table part : Nat) (key value : List Byte) (latency : Nat)
  | delete (rd : BitVec 5) (table part : Nat) (key : List Byte) (latency : Nat)
  /-- Bridge domain, address, source and ingress time; the frame that a learn may mark. -/
  | learn (bd : Nat) (mac : BitVec 48) (src ingress : Nat) (f : Nat) (r : Nat)
  deriving DecidableEq, Repr

/-- The instruction of an access that a later tick makes: its place and word, its address operand, and the
thread's start tick, by which a later run of the thread is told apart (R92, R122). -/
structure AccessBy where
  t : Tid
  pc : Word
  word : Word
  addr : DWord
  start : Nat
  deriving DecidableEq, Repr

/-- An effect that falls due at the end of a tick. Work of one end of tick is done in phase order,
then in slot order (R121, R147, R149). -/
inductive Effect where
  /-- A shared-memory write of SST (R121). -/
  | shmWrite (by_ : AccessBy) (addr : Nat) (data : List Byte)
  /-- The shared-memory read of SLD (R121). -/
  | shmRead (by_ : AccessBy) (rt : BitVec 5) (addr n : Nat) (sx : Bool) (ready : Nat)
  /-- Slice bytes that an operation returns (R135). -/
  | sliceWrite (t : Tid) (off : Nat) (data : List Byte)
  /-- FCST's write of a context (R148). -/
  | fcWrite (ctx : Nat) (data : List Byte)
  /-- FCLD's read of a context (R148). -/
  | fcRead (t : Tid) (rd : BitVec 5) (ctx off : Nat) (done : Nat)
  /-- FCSTV's compare and write; its result is discarded when the thread has ended (R136, R148). -/
  | fcCompare (t : Tid) (rd : BitVec 5) (ctx off : Nat) (expect data : List Byte) (done : Nat)
      (live : Bool)
  /-- CADD's add (R149). -/
  | counterAdd (ctr : Nat) (bytes : BitVec 64)
  /-- CRD's read (R149). -/
  | counterRead (t : Tid) (rd : BitVec 5) (ctr : Nat) (bytes : Bool) (ready : Nat)
  /-- A frame or copy passes to the release engine (R152). -/
  | emitTaken (t : Tid) (f : Nat)
  /-- A change of the live tag of a running thread (R516). -/
  | tagField (t : Tid) (word hi lo : Nat) (val : Nat)
  /-- The end of a CHKA or CHKV: bytes to append, bytes to strip, and a CHKV's mismatch (R156, R360). -/
  | checkDone (t : Tid) (append : List Byte) (strip : Nat) (mismatch : Option Bool)
  /-- The security association that the flow context selected for a thread's frame (R354). -/
  | fcSelect (t : Tid) (f sa : Nat)
  /-- A ledger record written at once (R154). -/
  | captureRecord (f : Frame)
  /-- The lock unit acts on an operation of a thread (R95). -/
  | lockUnit (t : Tid) (op : LockOp)
  /-- An update or learning engine takes an operation of a thread (R143, R144). -/
  | tableUnit (t : Tid) (op : TableOp)
  /-- TCP_CONN_SEL latches a connection for a function (R385). -/
  | connLatch (fn : FnId) (conn : Nat)
  deriving DecidableEq, Repr

/-- A due effect with its tick, phase and slot. -/
structure Due where
  tick : Nat
  phase : Nat
  slot : Nat
  what : Effect
  /-- The issuing thread, when a stop of its core discards the effect (R89). -/
  discardWith : Option Tid := none
  deriving DecidableEq, Repr

/-! ### Registers and commits -/

/-- A block that commits configuration at round boundaries (R39). -/
inductive Blk where
  | clu (n : Nat)
  | cls (fn : FnId)
  | tbl (n : Nat)
  | tblAux
  | seqGrp (g : Nat)
  | seqFo
  | macGrp (g : Nat)
  | pwn
  | sch
  | cry (fn : FnId)
  | sto
  | ten
  | lck
  | tbs
  | loader (cls : Nat)
  | spare
  deriving DecidableEq, Repr

/-- An uncommitted shadow value that a function wrote (R39, R514). -/
structure Shadow where
  blk : Blk
  fn : FnId
  addr : Nat
  /-- The bits written. -/
  mask : Word
  val : Word
  deriving DecidableEq, Repr

/-- The value that a register word held before a change that took effect from a round (R26). -/
structure Undo where
  round : Nat
  addr : Nat
  old : Word
  deriving DecidableEq, Repr

/-! ### Programs, parse programs and rule sets -/

/-- A resource record of a certificate (R167). -/
structure Res where
  kind : Nat
  attr : Nat
  size : Nat
  num : Nat
  deriving DecidableEq, Repr

/-- A loaded program image (R163–R167). -/
structure Program where
  tenancy : Nat
  /-- Code offset and worst-case ticks of each entry. -/
  entries : List (Nat × Nat)
  code : List Word
  data : List Byte
  /-- The parse section; empty: none (R181). -/
  parse : List Byte
  budget : Nat
  parseWc : Nat
  rate : Nat
  overrideMax : Nat
  tblUses : Nat
  hbmUses : Nat
  clsUses : Nat
  chkUses : Nat
  buildId : Nat
  res : List Res
  /-- SHA-384 of the image (R461). -/
  digest : List Byte := []
  deriving DecidableEq, Repr

/-- A version of a path class from a round on (R42, R175). -/
structure PathClass where
  round : Nat
  cls : Nat
  owner : Nat := 0
  k : Nat := 1
  s : Nat := 1
  a : Nat := 96
  /-- The constant that the platform asked for; 0: the minimum (R46). -/
  cAsked : Nat := 0
  c : Nat := 0
  cMin : Nat := 0
  sequenced : Bool := false
  group : Nat := 0
  /-- Cluster and core of each assigned core. -/
  cores : List (Nat × Nat) := []
  /-- Round from which the program was loaded; a new load reloads the slices (R78). -/
  loadedAt : Nat := 0
  /-- Round from which each core, by cluster * 16 + core, has been assigned to the class (R78). -/
  since : Sparse Nat := []
  program : Option Program := none
  deriving DecidableEq, Repr

/-- A rule record (R188). -/
structure Rule where
  rule : Nat
  mask : Nat
  act : Nat
  values : List (BitVec 64)
  deriving DecidableEq, Repr

/-- A mask record: the words it tests and their masks (R188). -/
structure Mask where
  words : List Nat
  masks : List (BitVec 64)
  deriving DecidableEq, Repr

/-- A version of a rule set from a round on (R187, R188). -/
structure RuleSet where
  round : Nat
  tenancy : Nat
  num : Nat
  nodes : List (BitVec 128)
  rules : List Rule
  masks : List Mask
  /-- Action records, 64 bytes each (R192). -/
  acts : List (List Byte)
  /-- First byte and bytes of its extent in table memory (R518). -/
  start : Nat := 768 * 65536
  size : Nat := 0
  deriving DecidableEq, Repr

/-! ### Exact-match tables -/

/-- A table entry, visible to the governing rounds `since ≤ r < until_` (R210, R26). -/
structure Entry where
  table : Nat
  /-- Tenancy of the partition; 0 for a pinned table. -/
  part : Nat
  /-- Bucket of the region; a pinned table's overflow store is bucket 2^32 (R217). -/
  bucket : Nat
  slot : Nat
  key : List Byte
  value : List Byte
  static : Bool := false
  lock : Bool := false
  flapping : Bool := false
  moves : Nat := 0
  lastSeen : Nat := 0
  mark : Nat := 0
  since : Nat
  until_ : Option Nat := none
  deriving DecidableEq, Repr

/-- Which writer made a table change (R74). -/
inductive Writer where
  | inBand (ring pos : Nat)
  | dma (fn : FnId) (index : Nat)
  | thread (slot : Nat)
  /-- Learning and aging: the result is in force at its boundary, and the engine's writes follow. -/
  | engine
  deriving DecidableEq, Repr

/-- What a table change does. -/
inductive ChangeOp where
  | insert (value : List Byte) (static : Bool) (bucket slot : Nat)
  | update (value : List Byte) (static : Option Bool)
  | delete
  | setLock
  | writeUnlock (value : List Byte)
  | unlock
  | read
  deriving DecidableEq, Repr

/-- An accepted table change that is not yet in effect (R71, R143, R221). -/
structure Change where
  table : Nat
  part : Nat
  key : List Byte
  op : ChangeOp
  by_ : Writer
  /-- Resolution tick, which is the commit tick. -/
  tick : Nat
  /-- Round from which it takes effect. -/
  effect : Nat
  /-- Moves still to write, last move first: key, new bucket, new slot (R213, R214). -/
  moves : List (List Byte × Nat × Nat) := []
  /-- The write of the entry itself, after those moves, is still to be made (R216). -/
  unwritten : Bool := true
  /-- Tick of the last of those writes (R216). -/
  written : Nat := 0
  /-- In effect, and kept only for frames of its ring that earlier rounds govern (R71). -/
  done : Bool := false
  /-- Boundaries at which its table deferred it for want of a version (R41). -/
  defers : Nat := 0
  /-- It was not written in time and has been counted (R216). -/
  late : Bool := false
  deriving DecidableEq, Repr

/-- A learn request in the batch of a round (R226). -/
structure Learn where
  round : Nat
  bd : Nat
  mac : BitVec 48
  source : BitVec 12
  ingress : Nat
  order : Nat
  deriving DecidableEq, Repr

/-- A meter or action-record change accepted on a ring (R71). -/
inductive OverlayWhat where
  | meter (m : Nat) (cir pir cbs pbs : Nat)
  | meterFill (m : Nat)
  | action (set rule : Nat) (record : List Byte)
  | table
  deriving DecidableEq, Repr

/-- An accepted in-band change in its tenancy's overlay (R71–R73). -/
structure Overlay where
  ring : Nat
  tenancy : Nat
  pos : Nat
  tick : Nat
  effect : Nat
  doorbell : Nat
  cq : Nat
  what : OverlayWhat
  /-- In effect, and kept only for frames of its ring that earlier rounds govern (R71). -/
  done : Bool := false
  deriving DecidableEq, Repr

/-- State of a DMA table access queue (R219–R223). -/
structure DmaQueue where
  busy : Bool := false
  /-- Commands with their operand blocks. -/
  list : List (List Byte × List Byte) := []
  fetched : Bool := false
  next : Nat := 0
  /-- Results so far: status, flags and bytes of each command. -/
  results : List (Nat × Nat × List Byte) := []
  effect : Nat := 0
  /-- Tick of the last resolution, which is the commit tick after the last command (R221). -/
  resolved : Nat := 0
  /-- The list has taken effect and its results are to be written (R223). -/
  applied : Bool := false
  /-- The function was reset since: no results are written (R463). -/
  muted : Bool := false
  deriving DecidableEq, Repr

/-! ### Sequence groups -/

/-- A place in a sequence group's output, in position order (R244–R248). -/
structure Position where
  seq : Nat
  /-- The frame's number, which tells positions of equal sequence numbers apart. -/
  id : Nat := 0
  /-- The output ring; none: a port output. -/
  ring : Option Nat := none
  /-- The output ring has been disabled since the admission (R248, R252). -/
  lost : Bool := false
  /-- Of a refusal: its completion is still to be written, and its ledger record has been written. -/
  notice : Bool := false
  logged : Bool := false
  /-- The admitted frame; none: a refusal. -/
  frame : Option Nat
  /-- Reason, due tick, ingress time and cells of a refusal whose completion waits. -/
  reason : Nat := 0
  due : Nat := 0
  ingress : BitVec 64 := 0
  /-- Completion slot on the output ring: reserved, or none while a refusal waits for one. -/
  slot : Option Nat := none
  /-- First receive buffer reserved, and how many. -/
  buf : Nat := 0
  bufs : Nat := 0
  /-- The refused frame's tag, length, send ring and kept bytes, for its completion and its record. -/
  tag : Tag := []
  length : Nat := 0
  sendRing : Nat := 0
  body : List Byte := []
  /-- Governing round, and the output ring or port (R239). -/
  round : Nat := 0
  deriving DecidableEq, Repr

/-- The dynamic state of a sequence group. -/
structure Group where
  /-- Frames that arrived without hold storage (R249). -/
  unstored : List Nat := []
  positions : List Position := []
  deriving DecidableEq, Repr

/-! ### Events and mailboxes -/

/-- An event record before it is laid out (R484). -/
structure EvRec where
  tick : BitVec 64
  time : BitVec 64
  source : Nat
  epoch : Bool
  fatal : Bool
  lost : Bool
  morning : Bool
  tenancy : Nat
  code : Nat
  reason : Nat
  boot : BitVec 16
  detail : BitVec 64
  deriving DecidableEq, Repr

/-- A record placed in the Evening area with its view sequence number (R487). -/
structure Placed where
  view : Nat
  rec_ : EvRec
  deriving DecidableEq, Repr

/-- The window of a function's event view: records with their sequence or index (R491). -/
structure View where
  slots : List (EvRec × Nat) := []
  deriving DecidableEq, Repr

/-- A copy of the Morning area in flash, or on its way there (R488). -/
structure FlashCopy where
  boot : BitVec 16
  tick : BitVec 64
  next : Nat
  /-- 1 full, 2 fatal, 3 requested. -/
  cause : Nat
  morning : List EvRec
  /-- The last Evening records, oldest first. -/
  evening : List EvRec
  deriving DecidableEq, Repr

/-- The event recorder (R486–R490). -/
structure Recorder where
  /-- The queue of each source, oldest record first, and the sources that lost a record since. -/
  queues : Sparse (List EvRec) := []
  lostFlags : List Nat := []
  /-- Tick of the last placement. -/
  placedAt : Option Nat := none
  /-- The Evening area, newest first. -/
  evening : List Placed := []
  /-- The Morning area, oldest first. -/
  morning : List EvRec := []
  next : Nat := 0
  /-- Next view sequence of each tenancy. -/
  viewNext : Sparse Nat := []
  boot : BitVec 16 := 0
  /-- The copy in progress, the cause of one more after it, and the copy in flash. -/
  copying : Option FlashCopy := none
  copyAgain : Option Nat := none
  flash : Option FlashCopy := none
  views : Sparse View := []
  nonce : List Byte := []
  deriving DecidableEq, Repr

/-- A mailbox message (R472). -/
structure Msg where
  cookie : BitVec 32
  payload : List Byte
  deriving DecidableEq, Repr

/-- One channel of a mailbox pair (R473–R478). -/
structure Channel where
  msg : Option Msg := none
  /-- The message last taken, which reads of the buffer go on returning (R474). -/
  last : Option Msg := none
  full : Bool := false
  opened : Bool := false
  timeout : Bool := false
  reason : Nat := 0
  post : Nat := 0
  /-- Round boundaries within a management handover since the post (R469). -/
  held : Nat := 0
  deriving DecidableEq, Repr

/-- A mailbox pair: host or thread to firmware, and firmware to host or thread. -/
structure Mailbox where
  up : Channel := {}
  down : Channel := {}
  /-- Outgoing messages that the firmware holds, oldest first (R479). -/
  queue : List Msg := []
  deriving DecidableEq, Repr

/-- A request that the firmware has taken from a function's channel and not yet served (R170, R458, R479). -/
structure Taken where
  fn : FnId
  msg : Msg
  /-- Tick of the take (R517). -/
  tick : Nat
  /-- The sender's function was reset since (R176). -/
  discard : Bool := false
  deriving DecidableEq, Repr

/-- A loader request between acceptance and effect (R172). -/
structure LoadJob where
  fn : FnId
  cookie : BitVec 32
  req : Nat
  cls : Nat
  len : Nat := 0
  /-- Requests that the read of the image was cut into, and whether one of them failed (R400, R517). -/
  parts : Nat := 0
  failed : Bool := false
  /-- The image is checked and the commit request sent (R175). -/
  sent : Bool := false
  /-- The sender's function was reset before the answer (R176). -/
  discard : Bool := false
  deriving DecidableEq, Repr

/-! ### Host link and rings -/

/-- What an outstanding host read serves (R401). -/
inductive ReadOp where
  | sendDesc (ring pos : Nat)
  | sendGather (ring pos : Nat)
  | sendData (ring pos : Nat)
  | operand (ring pos : Nat)
  | rxDesc (ring pos : Nat) (retry : Bool)
  | image (cls : Nat)
  deriving DecidableEq, Repr

/-- A non-posted request in flight or a quarantined tag (R400, R402). -/
structure Request where
  fn : FnId
  generation : Nat
  op : ReadOp
  /-- Place of the request among those of its operation. -/
  part : Nat := 0
  addr : BitVec 64
  len : Nat
  /-- Tick in which the request entered the link. -/
  sent : Nat
  /-- Timeout in ticks. -/
  timeout : Nat
  got : List Byte := []
  quarantined : Bool := false
  deriving DecidableEq, Repr

/-- A TLP that the device put into an endpoint's transmit path (R520). -/
inductive Tlp where
  | read (fn : FnId) (tag : Nat) (addr : BitVec 64) (len : Nat)
  | write (fn : FnId) (addr : BitVec 64) (data : List Byte) (ro : Bool)
  | msix (fn : FnId) (vector : Nat)
  | unsupported (rid : BitVec 16)
  | errorMessage (kind : Nat)
  deriving DecidableEq, Repr

/-- An endpoint's own state beside its registers (R386–R412). -/
structure EndpointState where
  requests : Sparse Request := []
  /-- Reads that wait for a free tag or for their function's bus mastering, oldest first: function,
  operation, part, address and length. -/
  waiting : List (FnId × ReadOp × Nat × BitVec 64 × Nat) := []
  /-- The transmit path: tick of entry and TLP, oldest first. -/
  path : List (Nat × Tlp) := []
  /-- Posted-write credit is withheld (R412). -/
  noCredit : Bool := false
  /-- Width that the device has asked for and the link has not taken yet; 0: none (R398). -/
  askedWidth : Nat := 0
  /-- STRICT as it governs the device's own requests, and as the advertised capabilities show it
  (R399). -/
  strict : Bool := false
  strictShown : Bool := false
  /-- TOTAL_VFS of the four PFs in effect (R388). -/
  totalVfs : List Nat := [1020, 0, 0, 0]
  ecrcGen : Bool := false
  ecrcCheck : Bool := false
  /-- The endpoint is in hot reset or its link is down. -/
  down : Bool := true
  /-- PFs whose expansion ROM BAR is enabled (R392). -/
  romEnabled : List Nat := []
  /-- Generation of the endpoint (R464). -/
  generation : Nat := 0
  deriving DecidableEq, Repr

/-- Configuration-space state of a function that the host writes (R386, R412, R433). -/
structure FnState where
  generation : Nat := 0
  busMaster : Bool := false
  d3 : Bool := false
  relaxed : Bool := false
  ido : Bool := false
  /-- Completion timeout in ticks; 0 means 10 ms (R400). -/
  timeout : Nat := 0
  maxPayload : Nat := 128
  maxRead : Nat := 512
  msix : Bool := false
  masked : List Nat := []
  pendingVectors : List Nat := []
  /-- The function's vector range in force (R433). -/
  vecBase : Nat := 0
  vecCount : Nat := 0
  /-- In Dusk since the reset that arrived in this tick (R463). -/
  dusk : Option Nat := none
  /-- The reset is a PCIe function-level reset, which also resets configuration space (R462). -/
  flr : Bool := false
  /-- Steps 2 to 5 of R463 are done. -/
  drained : Bool := false
  /-- The event at an increment of the generation that has to wait is recorded (R464). -/
  held : Bool := false
  aspm : Nat := 0
  memorySpace : Bool := false
  /-- AER uncorrectable and correctable errors logged. -/
  aer : List Nat := []
  deriving DecidableEq, Repr

/-- A published send descriptor that is not yet complete (R423). -/
structure SendItem where
  pos : Nat
  doorbell : Nat
  ingress : BitVec 64
  epoch : Bool
  round : Nat
  /-- Reserved slot of the completion ring. -/
  slot : Option Nat := none
  desc : Option (List Byte) := none
  gather : List GatherEntry := []
  /-- Requests that the descriptor's data read was split into. -/
  parts : Nat := 0
  asked : Bool := false
  frame : Option Nat := none
  /-- Last tick of the item's parse stage, or, for a control descriptor, of the parse stage of a
  frame in its place (R70). -/
  ready : Option Nat := none
  /-- Tick in which the item reaches the classifier stage, in ring order (R70, R423). -/
  stageAt : Option Nat := none
  /-- A control descriptor's operand block. -/
  operand : Option (List Byte) := none
  /-- The control descriptor has been processed (R70). -/
  processed : Bool := false
  deriving DecidableEq, Repr

/-- The dynamic state of a ring beside its registers (R419–R434). -/
structure RingState where
  items : List SendItem := []
  /-- Classifier-stage tick of the last item that reached it. -/
  lastStage : Nat := 0
  /-- R72 holds the ring back. -/
  stalled : Bool := false
  /-- Receive descriptors asked for so far, counted from enable. -/
  asked : Nat := 0
  /-- Receive descriptors on chip: position and bytes. -/
  onChip : List (Nat × List Byte) := []
  /-- Positions known to hold a bad descriptor and not yet passed (R426). -/
  bad : List Nat := []
  /-- Buffers taken so far, bad ones included. -/
  taken : Nat := 0
  /-- Frames waiting to start, in hand-over order but for R53. -/
  waiting : List Nat := []
  /-- Completion slots reserved since enable. -/
  reserved : Nat := 0
  /-- Interrupt moderation: pending completions and the round of the first (R434). -/
  pendingInts : Nat := 0
  firstRound : Nat := 0
  /-- Tick from which a write of ENABLE takes effect (R416). -/
  enabling : Option Nat := none
  /-- Failed descriptor reads that are tried once more: first position, count, and the tick from which
  the retry is sent; none: it is under way (R401). -/
  retry : List (Nat × Nat × Option Nat) := []
  deriving DecidableEq, Repr

/-- A completion waiting for its tick of writing (R425, R432). -/
structure CplDue where
  tick : Nat
  cq : Nat
  slot : Nat
  bytes : List Byte
  /-- The ring whose entries it finishes, and how many (D of R419). -/
  ring : Nat := 0
  entries : Nat := 0
  deriving DecidableEq, Repr

/-- A slot of a LANDING or SEQUENCE window: its bytes and its written granules (R405). -/
structure PeerSlot where
  data : Sparse Byte := []
  marks : List Nat := []
  deriving DecidableEq, Repr

/-! ### Timebase and ledger -/

/-- A pending timebase commit's parameters (R264). -/
structure TbsCommit where
  mode : Nat
  incr : BitVec 48
  /-- Signed units. -/
  offset : Int
  sec : Nat
  ns : Nat
  frac : Nat
  deriving DecidableEq, Repr

/-- A change of the reading at the current boundary whose records are still to be written
(R266, R268): the net change, and whether an EPOCH record follows. -/
structure StepDue where
  net : Int
  epoch : Bool
  /-- The STEP_BEFORE record's body, its OFFSET still 0, and its compact time. -/
  body : List Byte
  time : BitVec 64
  deriving DecidableEq, Repr

/-- A run of readings of the timebase: its first tick, the compact time there, what each further tick adds, both in
units of 2^-32 of a unit, and the parity of the Midnight count (R34, R262). -/
structure Reading where
  tick : Nat
  acc : BitVec 96
  rate : Nat
  parity : Bool
  deriving DecidableEq, Repr

/-- The timebase (R258–R273). -/
structure Timebase where
  /-- Units of 2^-40 ns since the TAI epoch: 96 bits of 2^-8 ns and 32 of fraction. -/
  acc : BitVec 128 := 0
  /-- The accumulator in the tick before. -/
  last : BitVec 128 := 0
  incr : BitVec 48 := 4398046511104
  /-- Epoch base in units of 2^-8 ns. -/
  base : BitVec 96 := 0
  midnights : BitVec 16 := 0
  /-- Wrap tick of a Midnight whose base advance is due (R262). -/
  wrapAt : Option Nat := none
  /-- A slew in progress: ticks left, units per tick, and units added in the last tick beside them
  (R265). -/
  slewLeft : Nat := 0
  slewPer : Int := 0
  slewRem : Int := 0
  stepDue : Option StepDue := none
  /-- The runs of readings since the oldest time that can still be asked for, newest first. -/
  past : List Reading := [⟨0, 0, 4398046511104, false⟩]
  /-- Successive estimates within, and beyond, the limits of the servo's state (R273). -/
  good : Nat := 0
  bad : Nat := 0
  /-- The servo's last estimate; 0 without reference. -/
  offset : Int := 0
  refPresent : Bool := false
  /-- PPS_PRESENT holds until this tick; compact time of the last edge; its error (R278, R279). -/
  ppsUntil : Option Nat := none
  ppsEdge : Option (BitVec 64) := none
  ppsError : Int := 0
  /-- Tick of the last edge of TB_FREQ_IN. -/
  freqEdge : Option Nat := none
  stepsSinceHealth : Nat := 0
  lostSinceHealth : Bool := false
  /-- TB_PPS_OUT is high since this full time in units (R278). -/
  ppsOut : Option Nat := none
  /-- Rounds whose first boundary changed the reading (R266). -/
  stepRounds : List Nat := []
  /-- INCR values in force in the rounds of LOCKED, newest first, with their numbers of rounds
  (R273). -/
  incrLog : List (BitVec 48 × Nat) := []
  /-- Tick whose readings the snapshot registers take (R280). -/
  snapAt : Option Nat := none
  /-- Transmit timestamp queues of the ports: sequenceId, messageType, domain, time (R276). -/
  txts : Sparse (List (Nat × Nat × Nat × BitVec 64)) := []
  deriving DecidableEq, Repr

/-- A pending gap of one cause and tenancy (R293, R294). -/
structure Gap where
  cause : Nat
  tenancy : Nat
  lost : Nat
  refusals : Nat
  first : BitVec 64
  last : BitVec 64
  bytes : Nat
  deriving DecidableEq, Repr

/-- A ledger block (R286). -/
structure Block where
  num : Nat
  prev : List Byte
  cont : Nat := 0
  records : Nat := 0
  payload : List Byte := []
  /-- RELEASE of the last record that starts in the block, or before it. -/
  last : BitVec 64 := 0
  /-- Payload offsets of FRAME headers with reason NONE (R294). -/
  heads : List Nat := []
  opened : Nat := 0
  /-- Holds a record other than FRAME and REFUSAL (R293). -/
  reserved : Bool := false
  /-- The seal's 352 bytes at the payload's start are not complete yet (R289). -/
  sealing : Bool := false
  closed : Bool := false
  deriving DecidableEq, Repr

/-- A command in flight to a drive of C0 (R295). -/
structure DriveCmd where
  drive : Nat
  block : Nat
  sent : Nat
  tries : Nat
  deriving DecidableEq, Repr

/-- A seal whose place is reserved and whose body is not complete (R289). -/
structure SealDue where
  tick : Nat
  release : BitVec 64
  health : List Byte
  block : Nat
  head : List Byte
  records : Nat
  gaps : Nat
  lost : Nat
  deriving DecidableEq, Repr

/-- A ledger read descriptor that waits for blocks from the drives (R297). -/
structure LedgerRead where
  ring : Nat
  pos : Nat
  first : Nat
  count : Nat
  got : List (Nat × List Byte) := []
  deriving DecidableEq, Repr

/-- The capture ledger (R281–R297). -/
structure Ledger where
  chainId : List Byte := []
  enabled : Bool := false
  open_ : Option Block := none
  /-- Closed blocks not yet stored, in block order. -/
  spill : List Block := []
  inFlight : List DriveCmd := []
  /-- Stored blocks by number, each with the RELEASE of its last record. -/
  journal : Sparse (List Byte × BitVec 64) := []
  drives : List Nat := []
  stripes : Nat := 0
  gaps : List Gap := []
  sealNo : Nat := 0
  /-- A reserved seal: round of its boundary, HEALTH body, sealed block, counts. -/
  sealDue : Option SealDue := none
  totalRecords : Nat := 0
  totalGaps : Nat := 0
  totalLost : Nat := 0
  /-- Credits of the tenancies' capture buckets in thousandths of a byte; unlisted: full (R284). -/
  credit : Sparse Nat := []
  /-- Why the chain stopped (R296), and the drive map's words then. -/
  stopCause : Nat := 0
  mapAtStop : List Nat := []
  lastRelease : BitVec 64 := 0
  /-- Body of the last HEALTH record (R290). -/
  lastHealth : List Byte := []
  /-- Blocks that a read descriptor still waits for (R297). -/
  reads : List LedgerRead := []
  deriving DecidableEq, Repr

/-! ### Ports and scheduler -/

/-- A pause that a port received (R310, R311). -/
structure PauseDue where
  act : Nat
  /-- Link pause (none) or the priority of a PFC entry. -/
  prio : Option (Fin 8)
  quanta : Nat
  deriving DecidableEq, Repr

/-- A frame on the wire or sent: first-bit tick and bytes with FCS (R305). -/
structure Sent where
  tick : Nat
  bytes : List Byte
  deriving DecidableEq, Repr

/-- A frame that a port's scheduler has chosen (R320): the bit time of its first bit, and whether the
transmitter has started it; until then a pause can hold it (R311). -/
structure OnWay where
  first : Nat
  started : Bool
  frame : Nat
  deriving DecidableEq, Repr

/-- The dynamic state of a port beside its registers (R304–R315). Bit times count in 1/100 ns. -/
structure PortState where
  generation : Nat := 0
  pauses : List PauseDue := []
  /-- Ticks until which link pause and each priority's PFC hold transmission. -/
  pausedUntil : Nat := 0
  pfcUntil : List Nat := [0, 0, 0, 0, 0, 0, 0, 0]
  /-- Bytes of the ingress buffer in cells per priority. -/
  cells : List Nat := [0, 0, 0, 0, 0, 0, 0, 0]
  /-- Priorities for which pause or PFC was sent and not yet ended, with the tick of the last. -/
  xoff : List (Nat × Nat) := []
  sent : List Sent := []
  /-- Bit time at which the wire is next free for a choice (R320), and at which the frames started so
  far leave it. -/
  wireFree : Nat := 0
  started : Nat := 0
  /-- Tick of the last pause with time 0 that acted (R311). -/
  resumed : Option Nat := none
  /-- Tick of the port's last reset: a reception that began before it was cut off (R303). -/
  resetAt : Option Nat := none
  /-- Frames chosen for the wire, in the order of their choice. -/
  onWay : List OnWay := []
  deriving DecidableEq, Repr

/-- A credit with its remainder below 2^-16 unit (R324, R333, R519). -/
structure Credit where
  /-- Units of 2^-16 byte, frame or token. -/
  amount : Int := 0
  rem : Nat := 0
  last : Nat := 0
  deriving DecidableEq, Repr

/-- The dynamic state of a scheduler node (R323, R324, R330). -/
structure Node where
  v : Nat := 0
  flast : Nat := 0
  /-- Shaper credit; none: equal to BURST. -/
  credit : Option Credit := none
  queue : List Nat := []
  cells : Nat := 0
  deriving DecidableEq, Repr

/-- A pending leave of queue cells: frame's node, cells and the tick of its last bit (R330). -/
structure CellsDue where
  tick : Nat
  node : Nat
  cells : Nat
  deriving DecidableEq, Repr

/-! ### Pending commits -/

/-- What a commit does at its boundary beside its register words. -/
inductive CommitWhat where
  | regs
  | timebase (c : TbsCommit)
  | pathClass (c : PathClass) (sets : List RuleSet) (job : LoadJob)
  | locks (bits : BitVec 32)
  /-- The work of a cluster moves to the spare; `dusk`: on its way to a reset (R20, R465). -/
  | spare (cluster : Nat) (dusk : Bool)
  deriving DecidableEq, Repr

/-- A commit that waits for its round boundary (R40). -/
structure Commit where
  blk : Blk
  fn : FnId
  /-- Commit tick. -/
  tick : Nat
  /-- Round from which it takes effect. -/
  effect : Nat
  /-- Offset, bits written and their values. -/
  writes : List (Nat × Word × Word)
  what : CommitWhat
  defers : Nat := 0
  deriving DecidableEq, Repr

/-! ### Errors -/

/-- Uncorrectable errors that memories hold. No command of the table puts one there; a state that
holds one behaves as the rules give. -/
structure Errors where
  /-- 8-byte granules of local, shared, flow-context and counter memory, by model address / 8. -/
  granules : List Nat := []
  /-- Granules of cluster memories whose error the next access or scrub corrects (R466). -/
  corrected : List Nat := []
  /-- Header-buffer granules: thread number and granule. -/
  headers : List (Nat × Nat) := []
  /-- Instruction words: cluster, path class and word offset. -/
  code : List (Nat × Nat × Nat) := []
  /-- Table buckets: table and bucket. -/
  buckets : List (Nat × Nat) := []
  /-- Keys of security associations. -/
  keys : List Nat := []
  deriving DecidableEq, Repr

/-! ### Power -/

/-- Clock, supply and reset inputs (R449, R496–R502). -/
structure Power where
  /-- REF_CLK stopped or left its range while the device ran (R502). -/
  clockVoid : Bool := false
  /-- PERST0_N is asserted: the device is held in reset (R453). -/
  perst0 : Bool := false
  thermTrip : Bool := false
  /-- A rail failure stopped the device (R499). -/
  railStop : Bool := false
  /-- Rails in their operating range, by number (R497). -/
  rails : List Rail :=
    [.vddCore, .vddSram, .vddqHbm, .vppHbm, .vddaNet, .vddhNet, .vddaPcie, .vddhPcie, .vddIo]
  aon : Bool := true
  h1Clock : Bool := true
  c0Clock : Bool := true
  deriving DecidableEq, Repr

/-! ### TCP engine and storage engine -/

/-- The context of an offloaded TCP connection (R376–R385). Times count in rounds, but for `opened` and
`sendFrom`, which are ticks. -/
structure Conn where
  /-- Function that offloaded it, and the tick in which the engine took it. -/
  fn : FnId
  opened : Nat
  /-- STATE of R384: 1 established, 2 closing, 3 closed by reset, 4 closed by retries. -/
  state : Nat := 1
  /-- The offload record (R377). -/
  rec_ : List Byte
  sndUna : BitVec 32
  sndNxt : BitVec 32
  sndWnd : Nat
  /-- Sequence and acknowledgment numbers of the segment that last updated the window (RFC 9293). -/
  wl1 : BitVec 32
  wl2 : BitVec 32
  rcvNxt : BitVec 32
  /-- Stream offset of the next byte to deliver, counted from the offload (R381). -/
  offset : Nat := 0
  /-- Stream bytes from SND_UNA on. -/
  sndBuf : List Byte := []
  /-- First tick in which a segment of new bytes may be built (R383). -/
  sendFrom : Nat := 0
  /-- Ingress and end times of the last frame appended. -/
  sendTimes : BitVec 64 × BitVec 64 := (0, 0)
  /-- Bytes received out of order: sequence number and data. -/
  ooo : List (BitVec 32 × List Byte) := []
  /-- Ranges that the peer acknowledged selectively. -/
  sacked : List (BitVec 32 × BitVec 32) := []
  tsRecent : BitVec 32
  srtt : Nat
  rttvar : Nat
  rto : Nat
  /-- The segment whose round trip is measured: number after it and round of its sending. -/
  timed : Option (BitVec 32 × Nat) := none
  cwnd : Nat
  ssthresh : Nat := 2 ^ 30
  dups : Nat := 0
  /-- End of the data outstanding when a fast recovery began. -/
  recover : Option (BitVec 32) := none
  /-- CUBIC: window before the last reduction, and round of that reduction. -/
  wmax : Nat := 0
  epoch : Nat := 0
  retries : Nat := 0
  rtxAt : Option Nat := none
  persistAt : Option Nat := none
  ackAt : Option Nat := none
  finAsked : Bool := false
  finSent : Bool := false
  finAcked : Bool := false
  /-- The peer's FIN has been received in order. -/
  peerFin : Bool := false
  /-- Sequence number of a FIN that waits for earlier bytes. -/
  finAt : Option (BitVec 32) := none
  /-- Received stream bytes of an unfinished TLS record. -/
  tls : List Byte := []
  /-- TCP_CONN_DATA_0–5: retransmissions, checksum errors, duplicates, out of window, reassembly drops,
  send drops. -/
  counts : List (BitVec 32) := [0, 0, 0, 0, 0, 0]
  deriving DecidableEq, Repr

/-- A PDU that the storage engine sent on a connection of a target (R372); its bytes are those of the
transport's specification. Connection 8 is the admin connection. -/
inductive SentPdu where
  | icReq (hdgst ddgst : Bool)
  | connect
  | identify (nsid : Nat)
  | capsule (rcid opcode nsid slba blocks : Nat) (data : List Byte)
  | h2cData (rcid offset : Nat) (data : List Byte)
  | abort (rcid : Nat)
  | h2cTermReq
  deriving DecidableEq, Repr

/-- A connection of a target as the storage engine set it up: the stage of the set-up (0 ICReq sent,
1 Connect sent, 2 open, 3 closed or refused), MAXH2CDATA, and the digests granted (R372, R373). -/
structure TgtLink where
  stage : Nat := 0
  maxH2c : Nat := 0
  hdgst : Bool := false
  ddgst : Bool := false
  deriving DecidableEq, Repr

/-- The state of a target beside its record (R372). -/
structure Target where
  links : Sparse TgtLink := []
  /-- Remote namespaces whose Identify has not been answered. -/
  idents : List Nat := []
  /-- PDUs sent, oldest first, with their connections. -/
  sent : List (Nat × SentPdu) := []
  /-- Tick since which no I/O connection is open. -/
  closedAt : Nat := 0
  deriving DecidableEq, Repr

/-- A submission queue: size, tail written by the host, head, completion queue, and the ticks in which
the waiting entries were published. -/
structure SubQueue where
  size : Nat
  cq : Nat
  tail : Nat := 0
  head : Nat := 0
  published : List Nat := []
  deriving DecidableEq, Repr

/-- A completion queue: size, head written by the host, tail, and interrupt vector. -/
structure CplQueue where
  size : Nat
  vector : Nat
  intEn : Bool
  head : Nat := 0
  tail : Nat := 0
  deriving DecidableEq, Repr

/-- A command that the engine has fetched and not completed (R368). -/
structure NvmeCmd where
  qid : Nat
  cid : Nat
  opcode : Nat
  nsid : Nat
  /-- Bytes that it stages. -/
  bytes : Nat
  fetched : Nat
  /-- Its command row has run: it is with the target since this tick. -/
  sent : Option Nat := none
  target : Nat := 0
  conn : Nat := 0
  /-- Command identifier on the target's connection. -/
  rcid : Nat := 0
  slba : Nat := 0
  blocks : Nat := 0
  prot : Option ProtInfo := none
  /-- Write data staged, or read data and protection information received so far. -/
  data : List Byte := []
  pi : List Byte := []
  /-- Status of the remote completion, once it has been received. -/
  answer : Option (BitVec 16) := none
  deriving DecidableEq, Repr

/-- A completion as the engine writes it for the host: status code type and code, do-not-retry, result,
and the data and metadata written to the host's buffers. -/
structure NvmeDone where
  qid : Nat
  cid : Nat
  sct : Nat
  sc : Nat
  dnr : Bool
  result : Nat
  data : List Byte
  md : List Byte
  deriving DecidableEq, Repr

/-- The state of an emulated controller (R365–R375). -/
structure Ctrl where
  sqs : Sparse SubQueue := []
  cqs : Sparse CplQueue := []
  cmds : List NvmeCmd := []
  /-- Asynchronous Event Requests outstanding, oldest first. -/
  aers : List Nat := []
  /-- A notice event has been reported and log page 0xC0 not read since (R370). -/
  noticeTold : Bool := false
  features : Sparse Nat := []
  /-- Completions that wait for room in their queue, oldest first. -/
  held : List NvmeDone := []
  /-- Completions written, oldest first. -/
  done : List NvmeDone := []
  deriving DecidableEq, Repr

/-- What a security association holds beside its record (R342, R345, R350, R352). -/
structure SaState where
  /-- Frames protected or verified, and those refused (COUNTERS of R355). -/
  frames : Nat := 0
  authFail : Nat := 0
  replay : Nat := 0
  /-- Accepted sequence numbers within the window. -/
  window : List Nat := []
  /-- The number space is used up. -/
  spent : Bool := false
  /-- The event at the first drop for a used-up number space is recorded (R351). -/
  dropped : Bool := false
  /-- The event at PN_THRESH is recorded. -/
  warned : Bool := false
  /-- A TLS receive association that failed decrypts no further records (R352). -/
  failed : Bool := false
  deriving DecidableEq, Repr

/-! ### Start-up, update and management -/

/-- A rolling update in progress (R468): who asked, whether it raises the SVN counter, the clusters
still to be updated, and the cluster in hand. -/
structure Update where
  fn : FnId
  cookie : BitVec 32
  commitSvn : Bool
  left : List Nat
  inHand : Option Nat := none
  deriving DecidableEq, Repr

/-- OTP, flash and the boot ROM's and firmware's own state (R455–R468). -/
structure Boot where
  bootSel : BitVec 2 := 0
  otpSvn : Nat := 0
  /-- Platform key slots: SHA-384 of the key, and the revoke bit. -/
  slots : Sparse (List Byte × Bool) := []
  /-- Images that the two banks are known to hold. -/
  banks : Sparse (List Byte) := []
  activeBank : Nat := 0
  stores : Sparse StoredConfig := []
  activeStore : Nat := 0
  /-- The running image; empty: none. -/
  running : List Byte := []
  /-- The image staged last, for FW_ACTIVATE. -/
  staged : Option (List Byte) := none
  /-- The stored configuration applied at the last Noon (R461). -/
  applied : Option StoredConfig := none
  /-- Tick of the last entry to Daybreak. -/
  entered : Nat := 0
  /-- Rounds of the fallbacks since the last fundamental or warm reset. -/
  fallbacks : List Nat := []
  update : Option Update := none
  /-- The function that RST_FUNC_CTRL named last. -/
  named : Option FnId := none
  /-- Bytes of an image that PLDM has transferred so far (R455). -/
  pldm : Option (List Byte) := none
  deriving DecidableEq, Repr

/-- A measurement block of R461. -/
structure Measurement where
  index : Nat
  value : List Byte
  deriving DecidableEq, Repr

/-- An answer of the SPDM responder (R460, R461). -/
inductive SpdmAnswer where
  | version (v : Nat)
  | capabilities (cert chal measSig : Bool)
  | algorithms (p384 sha384 : Bool)
  | digests (slotMask : Nat) (digest : List Byte)
  | certificate (slot : Nat) (portion : List Byte) (remainder : Nat)
  | challengeAuth (slot : Nat) (chainHash nonce measurements signature : List Byte)
  | measurements (count : Nat) (blocks : List Measurement) (signature : List Byte)
  | error (code : Nat)
  deriving DecidableEq, Repr

/-- An NC-SI channel, 0–3 for P0–P3 (R504). -/
structure NcsiChannel where
  initialised : Bool := false
  enabled : Bool := false
  txEnabled : Bool := false
  aenMask : Nat := 0
  linkSetting : Nat := 0
  /-- Filters and addresses set last, by command. -/
  settings : Sparse (List Byte) := []
  deriving DecidableEq, Repr

/-- An answer of a management interface: command, response code, reason or completion code, payload. -/
structure MgmtAnswer where
  channel : Nat
  command : Nat
  code : Nat
  reason : Nat
  payload : List Byte
  deriving DecidableEq, Repr

/-- The machine. -/
structure State where
  power : Power := {}
  /-- Tick count since the core clock first locked (R33). -/
  tick : BitVec 64 := 0
  tbs : Timebase := {}
  /-- Register and structure words in force, by Device Control Space offset; an unlisted word reads
  its reset value. -/
  words : Sparse Word := []
  /-- Tick of the last round boundary whose work is done. -/
  boundary : Option Nat := none
  /-- Earlier values of words that frames of earlier rounds still consult (R26). -/
  undo : List Undo := []
  /-- Effect rounds of each block's commits (R41). -/
  versions : List (Blk × Nat) := []
  shadow : List Shadow := []
  commits : List Commit := []
  /-- High halves latched by reads of counter low halves (R14), by offset. -/
  latch : Sparse Word := []
  /-- Words returned by the last register read. -/
  reply : List Word := []
  /-- Local slices, shared memories, flow contexts and program counters as one byte memory. -/
  mem : List Host.Cell := []
  frames : Sparse Frame := []
  nextFrame : Nat := 0
  /-- Release-engine admissions so far (R53). -/
  admissions : Nat := 0
  threads : Sparse Thread := []
  cores : Sparse CoreState := []
  clusters : Sparse Cluster := []
  locks : Sparse Lock := []
  chans : Sparse Chan := []
  due : List Due := []
  classes : List PathClass := []
  /-- Program whose data each thread's slice holds: its load's effect round × 64 + class (R78). -/
  sliceOf : Sparse Nat := []
  /-- Requests that the firmware has taken, oldest first (R479). -/
  taken : List Taken := []
  jobs : List LoadJob := []
  ruleSets : List RuleSet := []
  entries : List Entry := []
  changes : List Change := []
  learns : List Learn := []
  /-- Frames that a LEARN marked: frame, bridge domain, drop (R231). -/
  learnMarks : List (Nat × Nat × Bool) := []
  overlays : List Overlay := []
  dma : Sparse DmaQueue := []
  groups : Sparse Group := []
  conns : Sparse Conn := []
  targets : Sparse Target := []
  ctrls : Sparse Ctrl := []
  /-- Notice logs of the storage controllers, oldest entry first (R370). -/
  notices : Sparse (List (List Byte)) := []
  recorder : Recorder := {}
  mailboxes : Sparse Mailbox := []
  endpoints : Sparse EndpointState := []
  functions : Sparse FnState := []
  rings : Sparse RingState := []
  cplDue : List CplDue := []
  /-- Interrupt signals due: tick and completion ring (R434), or 65,536 plus a function's number for
  its mailbox pair (R480). -/
  signals : List (Nat × Nat) := []
  peerSlots : Sparse PeerSlot := []
  /-- Bytes that host reads returned and that no consumer has taken yet. -/
  delivered : List (ReadOp × Nat × List Byte) := []
  ledger : Ledger := {}
  ports : Sparse PortState := []
  nodes : Sparse Node := []
  cellsDue : List CellsDue := []
  /-- Token buckets of path classes, exception paths and meters; unlisted: full. -/
  buckets : Sparse Credit := []
  /-- Buckets of meters as in-band changes of a ring show them to its frames (R71); unlisted: full. -/
  buckets2 : Sparse Credit := []
  /-- Drop counts by place and reason (R25). -/
  drops : Sparse Nat := []
  /-- Security associations' numbers and windows (R342). -/
  sas : Sparse SaState := []
  /-- Uncorrectable memory errors that no access has met yet (R122, R466). -/
  errors : Errors := {}
  /-- Management handover in progress until this tick (R469). -/
  handover : Option Nat := none
  boot : Boot := {}
  /-- Answers of the SPDM responder, oldest first. -/
  spdm : List (FnId × SpdmAnswer) := []
  ncsi : Sparse NcsiChannel := []
  /-- Answers of NC-SI and PLDM, oldest first. -/
  mgmt : List MgmtAnswer := []
  /-- Free values read so far. -/
  freeReads : Nat := 0
  /-- 64-bit words drawn from the random source so far (R288, R489). -/
  draws : Nat := 0
  /-- Commands waiting, first in first out. -/
  pending : List Instr := []
  deriving DecidableEq, Repr

/-- The record that the device places when VDD_AON has come up (R485, R487). -/
def powerOnRecord (boot : BitVec 16) : EvRec :=
  { tick := 0, time := 0, source := 6, epoch := false, fatal := false, lost := false, morning := true, tenancy := 0,
    code := 1, reason := 0, boot := boot, detail := 0 }

/-- The record of the entry to Daybreak after a fundamental reset (R485, R487). -/
def resetRecord (boot : BitVec 16) : EvRec :=
  { tick := 0, time := 0, source := 0, epoch := false, fatal := false, lost := false, morning := false, tenancy := 0,
    code := 2, reason := 0, boot := boot, detail := 0 }

/-- The machine at the first tick after power-on and its first fundamental reset: Daybreak, with nothing listed
in any memory, the POWER_ON record placed and the RESET record waiting (R33, R261, R453, R487). -/
def State.reset : State := {
  words := [(0x400000, 1), (0x400008, 1), (0x40000C, 0x10000), (0x401000, 1), (0x401018, 1)],
  recorder := {
    queues := [(0, [resetRecord 1])],
    evening := [⟨0, powerOnRecord 1⟩],
    morning := [powerOnRecord 1],
    next := 1,
    viewNext := [(0, 1)],
    boot := 1,
    nonce := (List.range 32).map fun i => BitVec.ofNat 8 ((Config.random (i / 8)).toNat / 256 ^ (i % 8)) },
  endpoints := [
    (0, { strict := Config.flashStrict false, strictShown := Config.flashStrict false }),
    (1, { strict := Config.flashStrict true, strictShown := Config.flashStrict true })],
  draws := 4 }

end Sys2Proof.Machine
end

