-- ==== Sys2Proof/Machine/Named.lean ====
section
/-! DEFINITION. What the issue logic reads from a code word before it issues: the registers and predicates that it
names (R111), and whether a cycle may be lent to it (R82, R109). -/

namespace Sys2Proof.Machine

open Sys2Proof

/-- A register field and a predicate field of a word. -/
def gAt (w : Word) (lo : Nat) : Dest := .g (BitVec.ofNat 5 (w.toNat / 2 ^ lo))
def pAt (w : Word) (lo : Nat) : Dest := .p (BitVec.ofNat 3 (w.toNat / 2 ^ lo))

/-- Every predicate's name. -/
def allPreds : List Dest := [.p 0, .p 1, .p 2, .p 3, .p 4, .p 5, .p 6, .p 7]

/-- Function codes of device operations whose RB names a register (R131, R137). -/
def namesRb (fn : Nat) : Bool :=
  fn == 0x03 || fn == 0x05 || fn == 0x08 || fn == 0x09 || fn == 0x0A || fn == 0x0C || fn == 0x10 || fn == 0x14 ||
    fn == 0x18 || fn == 0x21 || fn == 0x24 || fn == 0x28 || fn == 0x2A || fn == 0x38 ||
    decide (0x40 ≤ fn ∧ fn ≤ 0x47)

/-- The registers and predicates that a word names by its fields, of an opcode that is not X (R106, R111). -/
def namedIn (w : Word) : List Dest :=
  let op := wfld w 31 26
  let fn := wfld w 6 0
  let rd := gAt w 21
  let ra := gAt w 16
  let rb := gAt w 11
  if op = 0x01 then [rd, ra, rb, pAt w 8]
  else if op = 0x02 then [pAt w 23, ra, rb, pAt w 8]
  else if op = 0x03 then
    (if fn ≤ 4 then [pAt w 23, pAt w 18, pAt w 13, pAt w 8]
      else if fn = 5 then [pAt w 23, ra, pAt w 8]
      else if fn = 6 then rd :: pAt w 8 :: allPreds
      else ra :: pAt w 8 :: allPreds)
  else if 0x0B ≤ op ∧ op ≤ 0x10 then [pAt w 23, ra]
  else if 0x04 ≤ op ∧ op ≤ 0x19 then [rd, ra]
  else if op = 0x20 ∨ op = 0x25 then [pAt w 23]
  else if op = 0x21 ∨ op = 0x22 then [rd]
  else if op = 0x23 ∨ op = 0x24 then [pAt w 23, .g 31]
  else if op = 0x38 then
    (if wfld w 7 0 = 0x18 ∨ wfld w 7 0 = 0x14 ∨ wfld w 7 0 = 0x38 then [] else [ra]) ++
      (if wfld w 7 0 = 0x18 then [ra] else [rd]) ++ (if namesRb (wfld w 7 0) then [rb] else [])
  else []

/-- The word at a place of the code that says what issues there: for an X pair its second word (R108). -/
def kindWord (code : List Word) (k : Nat) : Option Word :=
  match code[k]? with
  | none => none
  | some w =>
    if illegalAt w (code[k + 1]?) then none
    else if wfld w 31 26 = 0x3E then code[k + 1]?
    else some w

/-- The kinds to which R82 lends a cycle; a reserved word, for which 0 stands, is of none (R107, R109). -/
def lendableWord (w : Word) : Bool :=
  let op := wfld w 31 26
  op != 0 && op != 0x18 && op != 0x19 && op != 0x25 && op != 0x38

/-- An opcode that an X word widens (R108). -/
def widened (w : Word) : Bool :=
  let op := wfld w 31 26
  decide (4 ≤ op ∧ op ≤ 7) || decide (0x0B ≤ op ∧ op ≤ 0x11)

/-- The faulting instruction word at a place of the code: for an X-prefixed instruction its second word (R92). -/
def faultWord (code : List Word) (k : Nat) : Word :=
  match code[k]?, code[k + 1]? with
  | some w, some v => if wfld w 31 26 = 0x3E && widened v then v else w
  | some w, none => w
  | none, _ => 0

end Sys2Proof.Machine
end

