-- ==== Sys2Proof/Machine/Sparse.lean ====
section
/-! DEFINITION. Sparse stores: lists of (index, value) pairs with rising indices that list no pair
equal to what an unlisted index reads as. Memory (cells of bytes), the register words and every
other addressed collection are kept this way, so that equal stores are equal data. -/

namespace Sys2Proof.Machine

/-- The value at index `k`: the listed one, or the default `d k` of an unlisted index. -/
def sparseGet {α : Type} (d : Nat → α) : Sparse α → Nat → α
  | [], k => d k
  | (j, v) :: m, k => if j = k then v else sparseGet d m k

/-- The pair at `k` removed. -/
def sparseErase {α : Type} : Sparse α → Nat → Sparse α
  | [], _ => []
  | (j, v) :: m, k => if j = k then m else (j, v) :: sparseErase m k

/-- The pair `(k, v)` put in place, keeping the indices rising. -/
def sparseInsert {α : Type} : Sparse α → Nat → α → Sparse α
  | [], k, v => [(k, v)]
  | (j, w) :: m, k, v =>
    if k < j then (k, v) :: (j, w) :: m
    else if j = k then (k, v) :: m
    else (j, w) :: sparseInsert m k v

/-- Index `k` set to `v`; writing the default removes the entry. -/
def sparseSet {α : Type} [DecidableEq α] (d : Nat → α) (m : Sparse α) (k : Nat) (v : α) :
    Sparse α :=
  if v = d k then sparseErase m k else sparseInsert m k v

/-- The canonical form: indices rise and no listed value is its index's default. -/
abbrev sparseWf {α : Type} (d : Nat → α) (m : Sparse α) : Prop :=
  m.Pairwise (fun p q => p.1 < q.1) ∧ ∀ p ∈ m, p.2 ≠ d p.1

/-- An index read from a store of things that may be absent. -/
def look {α : Type} (m : Sparse α) (k : Nat) : Option α :=
  sparseGet (fun _ => none) (m.map fun p => (p.1, some p.2)) k

/-- An index set in a store of things that may be absent. -/
def place {α : Type} (m : Sparse α) (k : Nat) (v : α) : Sparse α := sparseInsert m k v

/-- An index removed from a store of things that may be absent. -/
def remove {α : Type} (m : Sparse α) (k : Nat) : Sparse α := sparseErase m k

/-- An element put in order before the first one that it does not follow. -/
def insertBy {α : Type} (le : α → α → Bool) (x : α) : List α → List α
  | [] => [x]
  | y :: ys => if le x y then x :: y :: ys else y :: insertBy le x ys

/-- A list sorted by insertion; elements that `le` holds equal keep their order. -/
def sortBy {α : Type} (le : α → α → Bool) : List α → List α
  | [] => []
  | x :: xs => insertBy le x (sortBy le xs)

end Sys2Proof.Machine
end

