-- ==== Sys2Proof/Machine/Ops.lean ====
section
/-! DEFINITION. The named operations over the state: register words and their fields, memory, time,
frames and tags, counters, events and drops. -/

namespace Sys2Proof.Machine

open Sys2Proof

/-- The outcome type of every meaning. -/
abbrev Out := Host.Outcome State Fault Refusal

/-! ### Numbers, bytes and fields -/

/-- Bits `hi` down to `lo` of a number. -/
def bits (v hi lo : Nat) : Nat := v / 2 ^ lo % 2 ^ (hi + 1 - lo)

/-- Field [hi:lo] of a word. -/
def fld (w : Word) (hi lo : Nat) : Nat := bits w.toNat hi lo

/-- Bit `n` of a word. -/
def bit (w : Word) (n : Nat) : Bool := w.getLsbD n

/-- Field [hi:lo] of a word replaced by `v`, cut to the field's width. -/
def setFld (w : Word) (hi lo v : Nat) : Word :=
  let width := hi + 1 - lo
  let keep := w.toNat - bits w.toNat hi lo * 2 ^ lo
  BitVec.ofNat 32 (keep + v % 2 ^ width * 2 ^ lo)

/-- `n` bytes of a number, least significant first. -/
def le (n v : Nat) : List Byte := (List.range n).map fun i => BitVec.ofNat 8 (v / 256 ^ i)

/-- `n` bytes of a number, most significant first. -/
def be (n v : Nat) : List Byte := (le n v).reverse

/-- The number of a little-endian byte list. -/
def leNat : List Byte → Nat
  | [] => 0
  | b :: m => b.toNat + 256 * leNat m

/-- The number of a big-endian byte list. -/
def beNat (bs : List Byte) : Nat := leNat bs.reverse

/-- `len` bytes from offset `off`; bytes beyond the end read 0. -/
def slice (bs : List Byte) (off len : Nat) : List Byte :=
  let got := (bs.drop off).take len
  got ++ List.replicate (len - got.length) 0

/-- Little-endian number of `len` bytes at `off`. -/
def leAt (bs : List Byte) (off len : Nat) : Nat := leNat (slice bs off len)

/-- Big-endian number of `len` bytes at `off`. -/
def beAt (bs : List Byte) (off len : Nat) : Nat := beNat (slice bs off len)

/-- Bytes `new` written over `bs` at `off`, within its length. -/
def patch (bs : List Byte) (off : Nat) (new : List Byte) : List Byte :=
  (bs.take off ++ new ++ bs.drop (off + new.length)).take (max bs.length (off + new.length))

/-- Quotient rounded up. -/
def ceilDiv (a b : Nat) : Nat := (a + b - 1) / b

/-- A word list's bytes, each word little-endian. -/
def wordBytes (ws : List Word) : List Byte := ws.flatMap fun w => le 4 w.toNat

/-! ### Register words -/

/-- The endpoint as a number: 0 for H0, 1 for H1. -/
def Endpoint.num : Endpoint → Nat
  | .h0 => 0
  | .h1 => 1

/-- Number of a function: endpoint × 1,024 + function. -/
def fnNum (f : FnId) : Nat := Endpoint.num f.ep * 1024 + f.fn.val

/-- PF0 of H0, the platform function (R389). -/
def pf0 : FnId := ⟨.h0, 0⟩

/-- Number of a thread: (cluster × 16 + core) × 8 + thread. -/
def tidNum (t : Tid) : Nat := (t.cluster.val * 16 + t.core.val) * 8 + t.thread.val

/-- Number of a core: cluster × 16 + core. -/
def coreNum (t : Tid) : Nat := t.cluster.val * 16 + t.core.val

/-- Is `a` word `off` of an element of an array at `base` with `count` elements of `stride` bytes? -/
def inArray (a base count stride off : Nat) : Bool :=
  base + off ≤ a && (a - base - off) % stride == 0 && decide ((a - base - off) / stride < count)

/-- Reset value of a register word, by offset (the Reset columns of the register tables). -/
def resetWord (a : Nat) : Word :=
  if a < 0x100 then
    if a = 0 then 0x5A393200 else if a = 4 then 0xB0
    else if a = 8 then BitVec.ofNat 32 Config.deviceId.toNat
    else if a = 0xC then BitVec.ofNat 32 (Config.deviceId.toNat / 2 ^ 32)
    else 0
  else if a < 0x00300000 then
    if a = 0x100020 then 16 else 0
  else if a < 0x00400000 then
    if a = 0x300000 then 0x04000000
    else if a = 0x30000C then 0x0400
    else if a = 0x300018 then 25600
    else if a = 0x30001C then 0xA00
    else if a = 0x300080 then 100000
    else if inArray a 0x301000 16 16 0 then Config.laneRx ((a - 0x301000) / 16)
    else if inArray a 0x301000 16 16 4 then Config.laneTx ((a - 0x301000) / 16)
    else 0
  else if a < 0x00600000 then 0
  else if a < 0x00800000 then
    if a = 0x600004 then (if Config.flashStrict false then 3 else 2)
    else if a = 0x700004 then (if Config.flashStrict true then 11 else 10)
    else if a = 0x60000C ∨ a = 0x70000C then 10000
    else if a = 0x600040 ∨ a = 0x700040 then 1020
    else if a = 0x601000 ∨ a = 0x701000 then 0x00400000
    else 0
  else if a < 0x01000000 then 0
  else if a < 0x01400000 then
    if a % 0x40 = 0x14 then 0x808 else 0
  else if a < 0x01420000 then
    if a = 0x1410000 then
      setFld 0 2 0 Config.flashModeA.toNat
    else if a < 0x01410000 then
      if a = 0x1400000 then 0x41
      else if a % 0x1000 = 0 then 0x40
      else if a % 0x1000 = 4 then 1522
      else if a % 0x1000 = 0x14 then 0xFFFF
      else if a % 0x1000 = 0x1C then 1
      else if 0x100 ≤ a % 0x1000 ∧ a % 0x1000 < 0x180 then
        (if a % 0x10 = 0 then 64 else if a % 0x10 = 4 then 32
         else if a % 0x10 = 8 then
          -- the 5 m value of R314 for the mode in force after reset; ports of groups B to D have none
          (if a < 0x1404000 then
            (match Config.flashModeA.toNat with
              | 1 => 66 | 2 => 44 | 3 => 31 | 4 => 23 | 5 => 18 | 6 => 13 | 7 => 13 | _ => 0)
           else 0)
         else 0)
      else 0
    else 0
  else if a < 0x01600000 then 0
  else if a < 0x01800000 then
    if inArray a 0x1610000 1024 0x20 4 then 100000
    else if inArray a 0x1610000 1024 0x20 8 then 1024
    else if a = 0x16C000C then 768
    else 0
  else if a < 0x01A00000 then
    if inArray a 0x1800000 72 0x80 0x10 then 0x00080000
    else if inArray a 0x1820000 2064 0x10 0 then 0xFFFFFFFF
    else 0
  else if a < 0x01B00000 then
    if inArray a 0x1A20000 256 0x200 0xC then 0xFFFF else 0
  else if a < 0x01C00000 then
    if 0x1B10000 ≤ a ∧ a < 0x1B30000 then 0x07FF07FF else 0
  else if a < 0x01D00000 then
    if inArray a 0x1C10000 16 0x800 0 then 8 else 0
  else if 0x01E00000 ≤ a ∧ a < 0x01E10000 then
    if a % 0x40 = 8 then 0x03E87530 else 0
  else if a < 0x03200000 then
    if a = 0x3000000 then 1 else 0
  else if a < 0x04000000 then 0
  else if a < 0x05000000 then
    if a = 0x4000040 then 1 else if a = 0x4000054 then 100
    else if inArray a 0x4001000 1024 0x10 0 then 0xFFFFFFFF
    else 0
  else if a < 0x100000000 then 0
  -- queue nodes and tenancy nodes of the scheduler, four words each
  else if a < 0x110000000 then
    if a % 16 = 0 then 0x00010000 else if a % 16 = 12 then 0xFFFF0100 else 0
  else if a < 0x120000000 then
    if a % 16 = 0 then 1 else 0
  else if a < 0x1000000000 then 0
  -- registers of which every function has its own copy: TCP_TIMERS
  else if a % 0x10000000 = 0x1EF0010 then 0xFFFF03D1 else 0

/-- The word in force at offset `a`. -/
def word (s : State) (a : Nat) : Word := sparseGet resetWord s.words a

/-- The word at `a` set. -/
def setWord (s : State) (a : Nat) (w : Word) : State :=
  { s with words := sparseSet resetWord s.words a w }

/-- Field [hi:lo] of the word at `a`. -/
def rf (s : State) (a hi lo : Nat) : Nat := fld (word s a) hi lo

/-- Field [hi:lo] of the word at `a` set to `v`. -/
def setRf (s : State) (a hi lo v : Nat) : State := setWord s a (setFld (word s a) hi lo v)

/-- A 32-bit wrapping counter raised by `n`. -/
def count (s : State) (a : Nat) (n : Nat := 1) : State :=
  setWord s a (word s a + BitVec.ofNat 32 n)

/-- A 64-bit number held as low word at `a` and high word at `a + 4`. -/
def word64 (s : State) (a : Nat) : Nat := (word s a).toNat + 2 ^ 32 * (word s (a + 4)).toNat

/-- A 64-bit number stored as low word at `a` and high word at `a + 4`. -/
def setWord64 (s : State) (a v : Nat) : State :=
  setWord (setWord s a (BitVec.ofNat 32 v)) (a + 4) (BitVec.ofNat 32 (v / 2 ^ 32))

/-- A 64-bit wrapping counter pair raised by `n`. -/
def count64 (s : State) (a : Nat) (n : Nat := 1) : State := setWord64 s a (word64 s a + n)

/-- The word at `a` as a frame of governing round `r` sees it (R26): the value before the earliest
change that took effect from a later round. -/
def wordAt (s : State) (r a : Nat) : Word :=
  match s.undo.find? (fun u => u.addr == a && decide (r < u.round)) with
  | some u => u.old
  | none => word s a

/-- Field [hi:lo] of `wordAt`. -/
def rfAt (s : State) (r a hi lo : Nat) : Nat := fld (wordAt s r a) hi lo

/-! ### Time -/

/-- The tick number. -/
def now (s : State) : Nat := s.tick.toNat

/-- Round number of a tick (R33). -/
def roundOf (t : Nat) : Nat := t / 256

/-- The current round. -/
def round (s : State) : Nat := roundOf (now s)

/-- Full time in units of 2^-8 ns at the start of the current tick (R258). -/
def fullUnits (s : State) : Nat := s.tbs.acc.toNat / 2 ^ 32

/-- Compact time at the start of the current tick (R260). -/
def compactNow (s : State) : BitVec 64 :=
  BitVec.ofNat 64 (fullUnits s + 2 ^ 96 - s.tbs.base.toNat)

/-- Seconds, nanoseconds and fraction of a full time in units (R258). -/
def fullParts (u : Nat) : Nat × Nat × Nat :=
  (u / (256 * 10 ^ 9), u / 256 % 10 ^ 9, u % 256)

/-- The round from which a commit of tick `t` takes effect (R40, R513). -/
def effectRound (t : Nat) : Nat := if t % 256 ≤ 239 then roundOf t + 1 else roundOf t + 2

/-- The first round boundary's round that follows tick `t` by at least `d` ticks (R513). -/
def roundAfter (t d : Nat) : Nat := ceilDiv (t + 1 + d) 256

/-! ### Running or not -/

/-- The device runs: its clock is in range, no reset is asserted and nothing has stopped it. -/
def running (s : State) : Bool :=
  !s.power.perst0 && !s.power.thermTrip && !s.power.railStop && s.power.aon

/-- Every meaning's frame: REF_CLK out of range voids every rule (R502); a device held in reset or
stopped does nothing; otherwise the step is taken. -/
def act (s : State) (f : State → State) : Out :=
  if s.power.clockVoid then .fault .clockVoid
  else if running s then .next (f s) else .next s

/-- As `act`, for the commands of power, clocks and reset inputs, which act on a stopped device. -/
def actAlways (s : State) (f : State → State) : Out :=
  if s.power.clockVoid then .fault .clockVoid else .next (f s)

/-! ### Memory -/

/-- What a byte that nothing has written reads as: memories are cleared before use (R235, R453). -/
def memReset (_ : Nat) : Byte := 0

/-- The memory's canonical form. -/
abbrev Memory.wf (m : List Host.Cell) : Prop := sparseWf memReset m

/-- One byte of memory. -/
def readByte (s : State) (a : Nat) : Byte := sparseGet memReset s.mem a

/-- One byte of memory written. -/
def writeByte (s : State) (a : Nat) (b : Byte) : State :=
  { s with mem := sparseSet memReset s.mem a b }

/-- `n` bytes from `a`. -/
def readBytes (s : State) (a n : Nat) : List Byte := (List.range n).map fun i => readByte s (a + i)

/-- Bytes written from `a` on. -/
def writeBytes (s : State) (a : Nat) : List Byte → State
  | [] => s
  | b :: bs => writeBytes (writeByte s a b) (a + 1) bs

/-- Model address of byte `off` of a thread's local slice (R76). -/
def sliceAddr (t : Tid) (off : Nat) : Nat := tidNum t * 16384 + off

/-- Model address of byte `off` of a cluster's shared memory (R79). -/
def shmAddr (cluster off : Nat) : Nat := 0x10000000 + cluster * 0x400000 + off

/-- Model address of byte `off` of flow context `c` (R233). -/
def fcAddr (c off : Nat) : Nat := 0x20000000 + c * 128 + off

/-- Model address of the frame count of program counter pair `c`; the byte count follows (R149). -/
def ctrAddr (c : Nat) : Nat := 0x400000000 + c * 16

/-! ### Tags -/

/-- Word `n` of a tag. -/
def tagWord (t : Tag) (n : Nat) : Word := t.getD n 0

/-- Field [hi:lo] of tag word `n`. -/
def tagFld (t : Tag) (n hi lo : Nat) : Nat := fld (tagWord t n) hi lo

/-- Field [hi:lo] of tag word `n` set. -/
def setTag (t : Tag) (n hi lo v : Nat) : Tag := t.set n (setFld (tagWord t n) hi lo v)

/-- The 64 bytes of a tag, each word little-endian (R56). -/
def tagBytes (t : Tag) : List Byte := wordBytes ((List.range 16).map (tagWord t))

/-- The tag of 64 header-buffer bytes. -/
def tagOf (bs : List Byte) : Tag := (List.range 16).map fun n => BitVec.ofNat 32 (leAt bs (4 * n) 4)

/-- A new tag: VERSION 1, COLOR 3, FLOW_CTX NONE, everything else 0 (R56). -/
def newTag : Tag :=
  [0x10000000, 0, 0, 0, 0, 0, 0, 0, 0x00FFFFFF, 0, 0, 0, 0x300, 0, 0, 0]

/-- A 64-bit value in tag words `n` and `n + 1`. -/
def tag64 (t : Tag) (n : Nat) : Nat := (tagWord t n).toNat + 2 ^ 32 * (tagWord t (n + 1)).toNat

/-- A 64-bit value put into tag words `n` and `n + 1`. -/
def setTag64 (t : Tag) (n v : Nat) : Tag :=
  (t.set n (BitVec.ofNat 32 v)).set (n + 1) (BitVec.ofNat 32 (v / 2 ^ 32))

def tagTenancy (t : Tag) : Nat := tagFld t 0 21 12
def tagClass (t : Tag) : Nat := tagFld t 0 27 22
def tagSource (t : Tag) : Nat := tagFld t 0 11 0
def tagSrcKind (t : Tag) : Nat := tagFld t 0 11 10
def tagLength (t : Tag) : Nat := tagFld t 7 15 0
def tagFlag (t : Tag) (n : Nat) : Bool := bit (tagWord t 7) n
def tagDestKind (t : Tag) : Nat := tagFld t 8 31 24
def tagDest (t : Tag) : Nat := (tagWord t 9).toNat
def tagFlow (t : Tag) : Nat := tagFld t 8 23 0
def tagHash (t : Tag) : Nat := (tagWord t 11).toNat
def tagGroup (t : Tag) : Nat := tagFld t 12 7 0
def tagNode (t : Tag) : Nat := tagFld t 12 31 13
def tagReason (t : Tag) : Nat := tagFld t 15 31 24

/-- Flag `n` of tag word 7 set or cleared. -/
def setFlag (t : Tag) (n : Nat) (v : Bool) : Tag := setTag t 7 n n (if v then 1 else 0)

/-! ### Frames, threads and other keyed parts -/

/-- A frame by number. -/
def frame? (s : State) (f : Nat) : Option Frame := look s.frames f

/-- A frame stored under its number. -/
def putFrame (s : State) (f : Frame) : State := { s with frames := place s.frames f.id f }

/-- A frame removed. -/
def dropFrameRec (s : State) (f : Nat) : State := { s with frames := remove s.frames f }

/-- A new frame, numbered and stored. -/
def newFrame (s : State) (f : Frame) : State :=
  putFrame { s with nextFrame := s.nextFrame + 1 } { f with id := s.nextFrame }

def thread (s : State) (t : Tid) : Thread := (look s.threads (tidNum t)).getD {}
def putThread (s : State) (t : Tid) (v : Thread) : State :=
  { s with threads := place s.threads (tidNum t) v }
def core (s : State) (n : Nat) : CoreState := (look s.cores n).getD {}
def putCore (s : State) (n : Nat) (v : CoreState) : State := { s with cores := place s.cores n v }
def cluster (s : State) (n : Nat) : Cluster := (look s.clusters n).getD {}
def putCluster (s : State) (n : Nat) (v : Cluster) : State :=
  { s with clusters := place s.clusters n v }
def lock (s : State) (n : Nat) : Lock := (look s.locks n).getD {}
def putLock (s : State) (n : Nat) (v : Lock) : State := { s with locks := place s.locks n v }
def chan (s : State) (n : Nat) : Chan := (look s.chans n).getD {}
def putChan (s : State) (n : Nat) (v : Chan) : State := { s with chans := place s.chans n v }
def group (s : State) (n : Nat) : Group := (look s.groups n).getD {}
def putGroup (s : State) (n : Nat) (v : Group) : State := { s with groups := place s.groups n v }
def ring (s : State) (n : Nat) : RingState := (look s.rings n).getD {}
def putRing (s : State) (n : Nat) (v : RingState) : State := { s with rings := place s.rings n v }
def fnState (s : State) (f : FnId) : FnState := (look s.functions (fnNum f)).getD {}
def putFn (s : State) (f : FnId) (v : FnState) : State :=
  { s with functions := place s.functions (fnNum f) v }
def endpoint (s : State) (e : Endpoint) : EndpointState := (look s.endpoints (Endpoint.num e)).getD {}
def putEndpoint (s : State) (e : Endpoint) (v : EndpointState) : State :=
  { s with endpoints := place s.endpoints (Endpoint.num e) v }
def port (s : State) (n : Nat) : PortState := (look s.ports n).getD {}
def putPort (s : State) (n : Nat) (v : PortState) : State := { s with ports := place s.ports n v }
def node (s : State) (n : Nat) : Node := (look s.nodes n).getD {}
def putNode (s : State) (n : Nat) (v : Node) : State := { s with nodes := place s.nodes n v }
def mailbox (s : State) (n : Nat) : Mailbox := (look s.mailboxes n).getD {}
def putMailbox (s : State) (n : Nat) (v : Mailbox) : State :=
  { s with mailboxes := place s.mailboxes n v }

/-- The thread of a number. -/
def tidOf (n : Nat) : Tid :=
  ⟨⟨n / 128 % 17, Nat.mod_lt _ (by decide)⟩, ⟨n / 8 % 16, Nat.mod_lt _ (by decide)⟩,
    ⟨n % 8, Nat.mod_lt _ (by decide)⟩⟩

/-- The function of a number. -/
def fnOf (n : Nat) : FnId :=
  ⟨if n / 1024 % 2 = 0 then .h0 else .h1, ⟨n % 1024, Nat.mod_lt _ (by decide)⟩⟩

/-! ### Events (R483–R486) -/

/-- Event sources of R483. -/
def srcReset : Nat := 0
def srcFirmware : Nat := 1
def srcTenancy : Nat := 2
def srcTimebase : Nat := 3
def srcRecorder : Nat := 4
def srcLedger : Nat := 5
def srcPower : Nat := 6
def srcHost (e : Endpoint) : Nat := 8 + Endpoint.num e
def srcPort (p : Nat) : Nat := 16 + p
def srcClassifier : Nat := 32
def srcTables : Nat := 33
def srcRelease : Nat := 34
def srcScheduler : Nat := 35
def srcCrypto : Nat := 36
def srcCheck : Nat := 37
def srcStorage : Nat := 38
def srcTcp : Nat := 39
def srcCluster (n : Nat) : Nat := 64 + n
def srcCore (cl c : Nat) : Nat := 128 + 16 * cl + c

/-- Codes of R485. -/
def evPowerOn : Nat := 0x01
def evReset : Nat := 0x02
def evStage : Nat := 0x03
def evWriteIgnored : Nat := 0x04
def evCommit : Nat := 0x05
def evFault : Nat := 0x06
def evFence : Nat := 0x07
def evWait : Nat := 0x08
def evLink : Nat := 0x09
def evTimebase : Nat := 0x0A
def evHostError : Nat := 0x0B
def evLimit : Nat := 0x0C
def evMemory : Nat := 0x0D
def evMailbox : Nat := 0x0E
def evLoader : Nat := 0x0F
def evSecurity : Nat := 0x10
def evThermal : Nat := 0x11
def evClear : Nat := 0x12
def evState : Nat := 0x13

/-- A record raised by a source for a happening of the given tick and compact time: queued when its source's
queue holds fewer than 16 records, counted in EVR_LOST otherwise, with LOST set in the source's next record
(R484, R486). -/
def eventAt (s : State) (tick time : BitVec 64) (epoch : Bool) (source code detail tenancy reason : Nat)
    (fatal : Bool) : State :=
  let s := count s (0x401000 + source * 4)
  let r := s.recorder
  let q := (look r.queues source).getD []
  if q.length < 16 then
    let e : EvRec := ⟨tick, time, source, epoch, fatal,
      r.lostFlags.contains source, false, tenancy, code, reason, r.boot, BitVec.ofNat 64 detail⟩
    { s with recorder := { r with
        queues := place r.queues source (q ++ [e]),
        lostFlags := r.lostFlags.filter (fun x => x != source) } }
  else
    { count s 0x400010 with recorder := { r with
        lostFlags := if r.lostFlags.contains source then r.lostFlags
          else r.lostFlags ++ [source] } }

/-- A record raised by a source for a happening of the current tick (R484). -/
def event (s : State) (source code : Nat) (detail : Nat) (tenancy reason : Nat := 0)
    (fatal : Bool := false) : State :=
  eventAt s s.tick (compactNow s) (s.tbs.midnights.getLsbD 0) source code detail tenancy reason fatal

/-- DETAIL of a happening in the general form: object and value (R484). -/
def detail (object value : Nat) : Nat := object % 2 ^ 32 + value % 2 ^ 32 * 2 ^ 32

/-- The source that owns a register offset (R483). -/
def sourceOf (a : Nat) : Nat :=
  if a < 0x200000 then 0
  else if a < 0x300000 then srcTenancy
  else if a < 0x400000 then srcTimebase
  else if a < 0x600000 then srcRecorder
  else if a < 0x700000 then 8
  else if a < 0x800000 then 9
  else if a < 0x900000 then (if a < 0x801000 then 8 else 9)
  else if a < 0x1000000 then srcRecorder
  else if a < 0x1400000 then 8
  else if a < 0x1410000 then srcPort ((a - 0x1400000) / 0x1000)
  else if a < 0x1500000 then srcPort ((a - 0x1410000) / 0x40 * 4)
  else if a < 0x1800000 then srcClassifier
  else if a < 0x1A00000 then srcTables
  else if a < 0x1B00000 then srcRelease
  else if a < 0x1C00000 then srcScheduler
  else if a < 0x1D00000 then srcCrypto
  else if a < 0x1E00000 then srcCheck
  else if a < 0x1EF0000 then srcStorage
  else if a < 0x2000000 then srcTcp
  else if a < 0x3110000 then srcCluster ((a - 0x2000000) / 0x100000)
  else if a < 0x5000000 then srcLedger
  else if a < 0x6000000 then srcReset
  else srcTenancy

/-- A write or access ignored with an event of a source: offset, function and cause of R485. -/
def ignoredAt (s : State) (source : Nat) (fn : FnId) (a cause : Nat) : State :=
  event s source evWriteIgnored
    (a % 2 ^ 28 + fn.fn.val * 2 ^ 28 + Endpoint.num fn.ep * 2 ^ 38 + cause * 2 ^ 40)

/-- A write or access ignored with an event of the block that owns the register. -/
def ignored (s : State) (fn : FnId) (a cause : Nat) : State := ignoredAt s (sourceOf a) fn a cause

/-- A read that is not aligned returns zeros, changes nothing and is recorded (R13). -/
def alignedRead (fn : FnId) (off : Nat) (wide : Bool) (f : State → State) (s : State) : State :=
  if off % (if wide then 8 else 4) = 0 then f s
  else ignored { s with reply := List.replicate (if wide then 2 else 1) 0 } fn off 6

/-! ### Tenancies (R438, R439) -/

/-- Address of TEN_FUNC of a function. -/
def tenFuncAddr (f : FnId) : Nat := 0x6010000 + fnNum f * 4

/-- Tenancy of a function; PF0 of H0 and of H1 belong to tenancy 0 (R441). -/
def fnTenancy (s : State) (f : FnId) : Nat :=
  if f.fn = 0 then 0 else rf s (tenFuncAddr f) 9 0

/-- Address of word `off` of a ring's block. -/
def rngAddr (r off : Nat) : Nat := 0x1000000 + r * 0x40 + off

/-- Owner function of a ring, when it is assigned. -/
def ringOwner (s : State) (r : Nat) : Option FnId :=
  let w := word s (rngAddr r 0)
  if bit w 31 then some (fnOf (fld w 10 0)) else none

/-- Tenancy of a ring: its owner's; 0 when it is not assigned. -/
def ringTenancy (s : State) (r : Nat) : Nat :=
  match ringOwner s r with
  | some f => fnTenancy s f
  | none => 0

/-- Base address of a cluster's registers. -/
def cluAddr (n off : Nat) : Nat := 0x2000000 + n * 0x100000 + off

/-- Tenancy served by a core (R439). -/
def coreTenancy (s : State) (cl c : Nat) : Nat := rf s (cluAddr cl (0x300 + c * 8)) 9 0

/-- Tenancy that a thread serves. -/
def tidTenancy (s : State) (t : Tid) : Nat := coreTenancy s t.cluster.val t.core.val

/-- An object of owner `o` is open to tenancy `t`: owned by it, or tenancy 0's and named by `named`
in `t`'s open sets (R441). -/
def openTo (o t : Nat) (named : Bool) : Bool := o == t || (o == 0 && named)

/-- Ring open to tenancy `t` (R66, R441). -/
def ringOpen (s : State) (r t ring : Nat) : Bool :=
  let base := rfAt s r (0x6000000 + t * 0x40 + 0x28) 15 0
  let cnt := rfAt s r (0x6000000 + t * 0x40 + 0x2C) 16 0
  openTo (ringTenancy s ring) t (decide (base ≤ ring ∧ ring < base + cnt))

/-- Fan-out list open to tenancy `t` (R66, R441). -/
def fanoutOpen (s : State) (r t l : Nat) : Bool :=
  let w := wordAt s r (0x6000000 + t * 0x40 + 0x30)
  openTo (rfAt s r (0x1A40000 + l * 0x10) 9 0) t
    (decide (fld w 11 0 ≤ l ∧ l < fld w 11 0 + fld w 24 12))

/-- Path class of owner `o` open to tenancy `t` (R42, R441). -/
def classOpen (s : State) (r t c o : Nat) : Bool :=
  openTo o t (bit (wordAt s r (0x6000000 + t * 0x40 + 4 * (c / 32))) (c % 32))

/-- Flow context `c` usable by tenancy `t` in the governing round `r`; NONE is no context (R233). -/
def fcOwned (s : State) (r t c : Nat) : Bool :=
  decide (c < 0xFFFFFF) && rfAt s r (0x6020000 + c / 4096 * 4) 9 0 == t

/-- Counter pair `c` owned by tenancy `t`. -/
def ctrOwned (s : State) (r t c : Nat) : Bool := rfAt s r (0x6024000 + c / 4096 * 4) 9 0 == t

/-- Meter `m` owned by tenancy `t`. -/
def meterOwned (s : State) (r t m : Nat) : Bool := rfAt s r (0x6028000 + m / 1024 * 4) 9 0 == t

/-- TCP connection `c` owned by tenancy `t`. -/
def connOwned (s : State) (r t c : Nat) : Bool := rfAt s r (0x6029000 + c / 1024 * 4) 9 0 == t

/-- Tenancy of bridge domain `b` (R439). -/
def bdTenancy (s : State) (r b : Nat) : Nat := rfAt s r (0x1810000 + b * 0x10) 9 0

/-- Tenancy of NVMe controller `c`. -/
def ctrlTenancy (s : State) (r c : Nat) : Nat := rfAt s r (0x1E00000 + c * 0x40) 25 16

/-- Word address of queue node `n`'s data words (R338), in the model's object space. -/
def queueAddr (n w : Nat) : Nat := 0x100000000 + n * 16 + w * 4

/-- Word address of a tenancy node's data words. -/
def tnodeAddr (p t w : Nat) : Nat := 0x110000000 + (p * 1024 + t) * 16 + w * 4

/-- Word address of a meter's data words. -/
def meterAddr (m w : Nat) : Nat := 0x120000000 + m * 16 + w * 4

/-- Tenancy of a queue node. -/
def queueTenancy (s : State) (r n : Nat) : Nat := rfAt s r (queueAddr n 0) 9 0

/-- Sequence group `g` open to tenancy `t` in the governing round `r`, and its output ring or queue with it (R66, R239,
R441). -/
def groupOpen (s : State) (r t g : Nat) : Bool :=
  let a := fun (off : Nat) => 0x1A20000 + g * 0x200 + off
  openTo (rfAt s r (a 0) 25 16) t (bit (wordAt s r (0x6000000 + t * 0x40 + 8 + 4 * (g / 32))) (g % 32)) &&
    if bit (wordAt s r (a 0)) 1 then queueTenancy s r (rfAt s r (a 8) 18 0) == t
    else ringOpen s r t (rfAt s r (a 4) 15 0)

/-! ### Path classes -/

/-- The version of a path class that governs frames of round `r` (R26, R42). -/
def pathAt (s : State) (r cls : Nat) : PathClass :=
  match (s.classes.filter fun c => c.cls == cls && decide (c.round ≤ r)).getLast? with
  | some c => c
  | none => { round := 0, cls := cls }

/-- Round from which a core has been assigned to the class (R78). -/
def assignedAt (c : PathClass) (cl core : Nat) : Nat := (look c.since (cl * 16 + core)).getD 0

/-- A version of a class with the rounds of its cores' assignments: a core that the version before had as well keeps its
round (R78). -/
def assignCores (old new : PathClass) : PathClass :=
  { new with since := new.cores.foldl (fun m k =>
      place m (k.1 * 16 + k.2) (if old.cores.contains k then assignedAt old k.1 k.2 else new.round)) [] }

/-- The version of a path class in force now. -/
def pathNow (s : State) (cls : Nat) : PathClass := pathAt s (round s) cls

/-! ### Drops (R25) -/

/-- Where a drop is counted. -/
inductive DropAt where
  | port (p : Nat)
  | ring (r : Nat)
  | node (n : Nat)
  | tenancy (t : Nat)
  deriving DecidableEq, Repr

/-- Key of a drop counter. -/
def dropKey (w : DropAt) (reason : Nat) : Nat :=
  (match w with
    | .port p => p
    | .ring r => 0x1000000 + r
    | .node n => 0x2000000 + n
    | .tenancy t => 0x3000000 + t) * 256 + reason

/-- A drop counted once under its place and reason. -/
def countDrop (s : State) (w : DropAt) (reason : Nat) : State :=
  { s with drops := place s.drops (dropKey w reason) ((look s.drops (dropKey w reason)).getD 0 + 1) }

/-- Reason codes of R31. -/
def rsTenancy : Nat := 0x59
def rsFcsError : Nat := 0x01
def rsRunt : Nat := 0x02
def rsOversize : Nat := 0x03
def rsBufferFull : Nat := 0x04
def rsFilter : Nat := 0x05
def rsPathRate : Nat := 0x06
def rsMeterRed : Nat := 0x07
def rsPortDown : Nat := 0x08
def rsParseFail : Nat := 0x10
def rsMiss : Nat := 0x11
def rsExceptionRate : Nat := 0x12
def rsRuleDrop : Nat := 0x13
def rsInsertFailed : Nat := 0x20
def rsTableFull : Nat := 0x21
def rsLearnLimit : Nat := 0x24
def rsCoreFault : Nat := 0x30
def rsClusterFenced : Nat := 0x31
def rsDebugAbandon : Nat := 0x32
def rsProgramDrop : Nat := 0x33
def rsNoProgram : Nat := 0x34
def rsQueueFull : Nat := 0x40
def rsSeqStorage : Nat := 0x41
def rsTailDrop : Nat := 0x42
def rsNoBuffer : Nat := 0x50
def rsRingDisabled : Nat := 0x51
def rsEmpty : Nat := 0x52
def rsHostDown : Nat := 0x53
def rsTimeout : Nat := 0x54
def rsUnexpected : Nat := 0x55
def rsUnsupported : Nat := 0x56
def rsPoisoned : Nat := 0x57
def rsCheckFailed : Nat := 0x64
def rsBadDescriptor : Nat := 0x58
def rsAuthFail : Nat := 0x60
def rsReplay : Nat := 0x61
def rsNoSa : Nat := 0x62
def rsPnExhausted : Nat := 0x63
def rsTargetReset : Nat := 0x70
def rsTargetFenced : Nat := 0x71
def rsStale : Nat := 0x72
def rsFallback : Nat := 0x73
def rsMemory : Nat := 0x74

/-- A write by a function that may not write the register: of PF0 of the other endpoint, ignored with an event;
of any other function it reaches no register of its view, and is discarded and counted (R389, R391). -/
def denied (s : State) (fn : FnId) (a : Nat) : State :=
  if fn.fn = 0 then ignored s fn a 5 else countDrop s (.tenancy (fnTenancy s fn)) rsTenancy

/-- A drop count. -/
def dropCount (s : State) (w : DropAt) (reason : Nat) : Nat :=
  (look s.drops (dropKey w reason)).getD 0

/-- A free value: an opaque constant applied to a counter that the read advances. -/
def freeRead (s : State) : BitVec 64 × State :=
  (Config.freeValue s.freeReads, { s with freeReads := s.freeReads + 1 })

end Sys2Proof.Machine
end

