-- ==== Sys2Proof/Machine/Operands.lean ====
section
/-! DEFINITION. How a Falfimi instruction issues: the fetch, the pending registers, the issue slots
(R80–R82, R105, R110–R112), register and predicate operands, immediates and effective addresses. -/

namespace Sys2Proof.Machine

open Sys2Proof

/-- General register `n` of a thread; g0 reads 0 (R76). -/
def gReg (th : Thread) (n : BitVec 5) : DWord :=
  if n = 0 then 0 else sparseGet (fun _ => 0) th.g n.toNat

/-- Predicate `n` of a thread; p0 reads 1 (R76). -/
def pReg (th : Thread) (n : BitVec 3) : Bool := n == 0 || th.p.getLsbD n.toNat

/-- General register `n` set; a write to g0 is discarded (R76). -/
def setG (th : Thread) (n : BitVec 5) (v : DWord) : Thread :=
  if n = 0 then th else { th with g := sparseSet (fun _ => 0) th.g n.toNat v }

/-- Predicate `n` set; a write to p0 is discarded (R76). -/
def setP (th : Thread) (n : BitVec 3) (v : Bool) : Thread :=
  if n = 0 then th
  else { th with p := if v then th.p ||| (1#8 <<< n.toNat) else th.p &&& ~~~(1#8 <<< n.toNat) }

/-- A destination written. -/
def setDest (th : Thread) (d : Dest) (v : DWord) : Thread :=
  match d with
  | .g n => setG th n v
  | .p n => setP th n (v.getLsbD 0)

/-- A result usable from tick `ready`; a result for g0 or p0 is discarded, and nothing pends. -/
def pendTo (th : Thread) (d : Dest) (v : Option DWord) (ready : Option Nat) : Thread :=
  if d = .g 0 ∨ d = .p 0 then th else { th with pend := th.pend ++ [⟨d, v, ready⟩] }

/-- Results whose tick has come are written, oldest first (R110). -/
def retire (th : Thread) (t : Nat) : Thread :=
  let isDue := fun (p : Pend) => match p.ready with | some r => decide (r ≤ t) | none => false
  let th' := (th.pend.filter isDue).foldl (fun th p =>
    match p.val with | some v => setDest th p.dest v | none => th) th
  { th' with pend := th.pend.filter fun p => !isDue p }

/-- The value of a pending result filled in, and its tick. -/
def fillPend (th : Thread) (d : Dest) (v : DWord) (ready : Nat) : Thread :=
  { th with pend := th.pend.map fun p => if p.dest = d then ⟨d, some v, some ready⟩ else p }

/-- One of the named registers or predicates is pending in tick `t` (R111). -/
def stalls (th : Thread) (t : Nat) (named : List Dest) : Bool :=
  th.pend.any fun p => named.contains p.dest &&
    (match p.ready with | some r => decide (t < r) | none => true)

/-- The governing round of a thread's frame. -/
def threadRound (s : State) (th : Thread) : Nat :=
  match th.base with
  | some f => f.round
  | none => round s

/-- The program that a thread runs: its class's in its frame's governing round (R175). -/
def threadProgram (s : State) (th : Thread) : Option Program :=
  (pathAt s (threadRound s th) th.cls).program

/-- The code of the thread's program. -/
def threadCode (s : State) (th : Thread) : List Word :=
  match threadProgram s th with
  | some p => p.code
  | none => []

/-- The words `ws` stand in the code at byte offset `pc` (R105). -/
def codeAt (code : List Word) (pc : Nat) (ws : List Word) : Bool :=
  !ws.isEmpty && pc % 4 == 0 && (code.drop (pc / 4)).take ws.length == ws

/-- The thread may issue in this tick at all: it holds a frame, has budget left, is not halted, not
waiting in the lock unit, not faulted, and its core is not stopped or fenced (R81, R85, R88). -/
def threadReady (s : State) (t : Tid) : Bool :=
  let th := thread s t
  let c := core s (coreNum t)
  th.frame.isSome && decide (0 < th.budget) && !th.halted && th.wait.isNone && th.fault.isNone &&
    !c.stopped && !c.fenced

/-- The first cycle of the current tick that the core has not yet used (R80). -/
def nextCycle (s : State) (t : Tid) : Nat :=
  let c := core s (coreNum t)
  if c.issueTick = now s then c.issueCount else 0

/-- LEND of the thread's core (R83). -/
def lends (s : State) (t : Tid) : Bool := bit (word s (cluAddr t.cluster.val 4)) t.core.val

/-- The thread's debug halt has taken effect by cycle `c` of the current tick: its own cycle has passed (R101). -/
def haltedBy (s : State) (t : Tid) (c : Nat) : Bool :=
  match (thread s t).haltFrom with
  | some k => decide (k < now s ∨ (k = now s ∧ t.thread.val < c))
  | none => false

/-- The word that thread `t` would issue in cycle `c` of the current tick; none: it has nothing to issue (R81, R110,
R111). A DONE that hands on and an EMIT wait for the thread's scans, a check operation for its lane (R358, R360). -/
def readyWord (s : State) (t : Tid) (c : Nat) : Option Word :=
  let th := thread s t
  let w := if th.pc.toNat % 4 = 0 then (kindWord (threadCode s th) (th.pc.toNat / 4)).getD 0 else 0
  let op := wfld w 31 26
  let fn := wfld w 7 0
  let waits := decide (now s < th.scanUntil) && ((op == 0x38 && fn == 0x10) ||
      (op == 0x25 && !bit w 0 && pReg th (BitVec.ofNat 3 (wfld w 25 23)) != bit w 22)) ||
    (decide (now s < th.laneUntil) && op == 0x38 && decide (0x40 ≤ fn ∧ fn ≤ 0x4F))
  if threadReady s t && !haltedBy s t c && decide (th.lastOfTick ≠ some (now s)) && !stalls th (now s) (namedIn w) &&
      !waits then some w else none

/-- Thread `k` of the core of `t`. -/
def coreMate (t : Tid) (k : Nat) : Tid := { t with thread := ⟨k % 8, Nat.mod_lt _ (by decide)⟩ }

/-- The thread that cycle `c` of a core in Lend mode goes to: its owner when it has something to issue, else the first
thread after it with a ready lendable instruction; none: the cycle stays empty (R82). -/
def cycleFor (s : State) (t : Tid) (c : Nat) : Option (Fin 8) :=
  if (readyWord s (coreMate t c) c).isSome then some (coreMate t c).thread
  else (((List.range 7).map fun k => coreMate t (c + 1 + k)).find? fun u =>
    match readyWord s u c with
    | some w => lendableWord w
    | none => false).map fun u => u.thread

/-- The first cycle of the current tick, from the core's next on, that goes to a thread, with that thread (R80, R82). -/
def nextSlot (s : State) (t : Tid) : Option (Nat × Fin 8) :=
  ((List.range 8).filter fun c => decide (nextCycle s t ≤ c)).findSome? fun c => (cycleFor s t c).map fun u => (c, u)

/-- A cycle is left for the thread (R80, R82). In Strict mode it is the thread's own. In Lend mode the instructions of
a tick come in cycle order, and the next cycle that goes to any thread has to go to this one: its own, or, for a
lendable instruction, a lent one. No instruction follows a branch or store in its tick (R110). -/
def slotFree (s : State) (t : Tid) (lendable : Bool) : Bool :=
  decide ((thread s t).lastOfTick ≠ some (now s)) &&
    (if lends s t then
      (match nextSlot s t with
        | some (c, u) => u == t.thread && (lendable || c == t.thread.val)
        | none => false)
    else decide ((thread s t).issued ≠ some (now s)))

/-- The instruction with words `ws`, naming `named`, issues in this tick. -/
def canIssue (s : State) (t : Tid) (ws : List Word) (named : List Dest) (lendable : Bool) : Bool :=
  threadReady s t && codeAt (threadCode s (thread s t)) (thread s t).pc.toNat ws &&
    !stalls (thread s t) (now s) named && slotFree s t lendable

/-- The cycle in which the thread's instruction issues. -/
def issueCycle (s : State) (t : Tid) : Nat :=
  if lends s t then (match nextSlot s t with | some (c, _) => c | none => 8) else t.thread.val

/-- The halt asked for comes about with an issue in this tick: it issues in the thread's own cycle (R101). -/
def haltsNow (s : State) (t : Tid) : Bool :=
  issueCycle s t == t.thread.val && (match (thread s t).haltFrom with
    | some k => decide (k ≤ now s)
    | none => false)

/-- The issue counted in its core, in Lend mode (R80). -/
def countIssue (s : State) (t : Tid) : State :=
  if lends s t then
    putCore s (coreNum t) { core s (coreNum t) with issueTick := now s, issueCount := issueCycle s t + 1 }
  else s

/-- The issue counted in its core and in the thread. A step of one instruction halts the thread again, and so does an
issue in the own cycle that a halt waited for (R101). -/
def markIssued (s : State) (t : Tid) : State :=
  let th := thread s t
  putThread (countIssue s t) t { th with
    issued := some (now s),
    halted := haltsNow s t || th.stepping,
    haltFrom := if haltsNow s t then none else th.haltFrom,
    stepping := false }

/-- The program counter moved by an instruction's words. -/
def advance (th : Thread) (words : Nat) : Thread :=
  { th with pc := th.pc + BitVec.ofNat 32 (4 * words) }

/-- No further instruction of the thread issues in this tick (R110). -/
def lastIn (s : State) (th : Thread) : Thread := { th with lastOfTick := some (now s) }

/-- A thread changed in place. -/
def onThread (s : State) (t : Tid) (f : Thread → Thread) : State := putThread s t (f (thread s t))

/-- A fault that the thread raises in this tick; its core stops at the end of the tick (R88). -/
def raise (s : State) (t : Tid) (code : Nat) (w : Word) (addr : DWord) (place : Nat := 0) : State :=
  onThread s t fun th => { th with fault := some ⟨code, th.pc, w, addr, place⟩ }

/-- Fault codes of R87. -/
def faultIllegal : Nat := 1
def faultBound : Nat := 2
def faultTenancy : Nat := 3
def faultBudget : Nat := 4
def faultMemory : Nat := 5

/-- The instruction word that a fault record names: the last word of the instruction (R92). -/
def lastWord (i : Instr) : Word := (encodeInstr i).getLastD 0

/-- A word of the instruction about to issue holds an uncorrectable error (R122). -/
def codeError (s : State) (t : Tid) (words : Nat) : Bool :=
  let th := thread s t
  (List.range words).any fun k =>
    s.errors.code.contains (t.cluster.val, th.cls, th.pc.toNat / 4 + k)

/-- An instruction issues when it can and does `body`; otherwise the thread stalls, and the command
changes nothing. A fetched word with an uncorrectable error raises MEMORY_ERROR instead (R122). -/
def issue (s : State) (t : Tid) (i : Instr) (named : List Dest) (lendable : Bool)
    (body : State → State) : State :=
  if canIssue s t (encodeInstr i) named lendable then
    if codeError s t (encodeInstr i).length then
      raise (markIssued s t) t faultMemory (lastWord i) 0 4
    else body (markIssued s t)
  else s

/-- A result written to a general register with latency `l`, and the program counter advanced. -/
def resultG (s : State) (t : Tid) (rd : BitVec 5) (v : Option DWord) (l words : Nat) : State :=
  onThread s t fun th => pendTo (advance th words) (.g rd) v (some (now s + l))

/-- A result written to a predicate with latency 1, and the program counter advanced. -/
def resultP (s : State) (t : Tid) (pd : BitVec 3) (v : Option Bool) (words : Nat) : State :=
  onThread s t fun th => pendTo (advance th words) (.p pd)
    (v.map fun b => if b then 1 else 0) (some (now s + 1))

/-- The guard of an A-format instruction (R112). -/
def guardOf (th : Thread) (gd : Guard) : Bool := pReg th gd.pq != gd.pn

/-- The condition of a B-format instruction (R123). -/
def condOf (th : Thread) (cd : Cond) : Bool := pReg th cd.pred != cd.neg

/-- An immediate sign-extended to 64 bits (R108, R114). -/
def immS (i : Imm) : DWord :=
  match i.high with
  | none => i.low.signExtend 64
  | some x => (x ++ i.low : BitVec 42).signExtend 64

/-- An immediate zero-extended to 64 bits (R108, R114). -/
def immZ (i : Imm) : DWord :=
  match i.high with
  | none => i.low.zeroExtend 64
  | some x => (x ++ i.low : BitVec 42).zeroExtend 64

/-- Words of an instruction with a widenable immediate. -/
def immWords (i : Imm) : Nat := if i.high.isSome then 2 else 1

/-- The effective address as a 64-bit sum (R118). -/
def effAddr (th : Thread) (ra : BitVec 5) (off : BitVec 12) : DWord := gReg th ra + off.zeroExtend 64

/-- Loaded bytes as a number extended to 64 bits (R118). -/
def extend (n : Nat) (sx : Bool) (v : Nat) : DWord :=
  if sx && decide (2 ^ (8 * n - 1) ≤ v) then BitVec.ofNat 64 (v + 2 ^ 64 - 2 ^ (8 * n))
  else BitVec.ofNat 64 v

/-- Byte `i` of the header buffer. -/
def hdrByte (th : Thread) (i : Nat) : Byte := sparseGet (fun _ => 0) th.hdr i

/-- `n` header-buffer bytes from `a`. -/
def hdrBytes (th : Thread) (a n : Nat) : List Byte := (List.range n).map fun i => hdrByte th (a + i)

/-- One header-buffer byte set. -/
def setHdrByte (th : Thread) (i : Nat) (b : Byte) : Thread :=
  { th with hdr := sparseSet (fun _ => 0) th.hdr i b }

/-- Header-buffer bytes set from `a` on. -/
def setHdr (th : Thread) (a : Nat) : List Byte → Thread
  | [] => th
  | b :: bs => setHdr (setHdrByte th a b) (a + 1) bs

/-- The live tag (R516). -/
def liveTag (th : Thread) : Tag := tagOf (hdrBytes th 0 64)

/-- Work due at the end of a tick, kept in order of tick, phase and slot. -/
def addDue (s : State) (d : Due) : State :=
  let before := fun (x : Due) => decide (x.tick < d.tick ∨ (x.tick = d.tick ∧
    (x.phase < d.phase ∨ (x.phase = d.phase ∧ x.slot ≤ d.slot))))
  { s with due := s.due.filter before ++ [d] ++ s.due.filter (fun x => !before x) }

end Sys2Proof.Machine
end

