-- ==== Sys2Proof/Machine/Alu.lean ====
section
/-! DEFINITION. The ALU functions and the I-format arithmetic, logic and field instructions
(R113, R114). -/

namespace Sys2Proof.Machine

open Sys2Proof

/-- Count of leading zero bits; 64 for 0. -/
def clz64 (a : DWord) : Nat :=
  (List.range 64).foldl (fun n i => if a.getLsbD i then 63 - i else n) 64

/-- Count of trailing zero bits; 64 for 0. -/
def ctz64 (a : DWord) : Nat :=
  (List.range 64).reverse.foldl (fun n i => if a.getLsbD i then i else n) 64

/-- Count of 1 bits. -/
def popc64 (a : DWord) : Nat :=
  (List.range 64).foldl (fun n i => if a.getLsbD i then n + 1 else n) 0

/-- The low `n` bytes of a value in reverse order, zero-extended. -/
def byteSwap (n : Nat) (a : DWord) : DWord := BitVec.ofNat 64 (leNat (be n (a.toNat % 256 ^ n)))

def aluAdd (a b : DWord) : DWord := a + b
def aluSub (a b : DWord) : DWord := a - b
def aluMul (a b : DWord) : DWord := a * b
def aluMulhu (a b : DWord) : DWord := BitVec.ofNat 64 (a.toNat * b.toNat / 2 ^ 64)
def aluAnd (a b : DWord) : DWord := a &&& b
def aluOr (a b : DWord) : DWord := a ||| b
def aluXor (a b : DWord) : DWord := a ^^^ b
def aluAndn (a b : DWord) : DWord := a &&& ~~~b
def aluShl (a b : DWord) : DWord := a <<< (b.toNat % 64)
def aluShr (a b : DWord) : DWord := a >>> (b.toNat % 64)
def aluSar (a b : DWord) : DWord := a.sshiftRight (b.toNat % 64)
def aluRol (a b : DWord) : DWord := a.rotateLeft (b.toNat % 64)
def aluMin (a b : DWord) : DWord := if a.slt b then a else b
def aluMax (a b : DWord) : DWord := if a.slt b then b else a
def aluMinu (a b : DWord) : DWord := if a.ult b then a else b
def aluMaxu (a b : DWord) : DWord := if a.ult b then b else a
def aluClz (a _ : DWord) : DWord := BitVec.ofNat 64 (clz64 a)
def aluCtz (a _ : DWord) : DWord := BitVec.ofNat 64 (ctz64 a)
def aluPopc (a _ : DWord) : DWord := BitVec.ofNat 64 (popc64 a)
def aluBsw16 (a _ : DWord) : DWord := byteSwap 2 a
def aluBsw32 (a _ : DWord) : DWord := byteSwap 4 a
def aluBsw64 (a _ : DWord) : DWord := byteSwap 8 a

/-- An ALU instruction: rd written with latency 1 when the guard holds (R112, R113). -/
def alu (i : Instr) (t : Tid) (rd ra rb : BitVec 5) (gd : Guard) (f : DWord → DWord → DWord)
    (s : State) : State :=
  issue s t i [.g rd, .g ra, .g rb, .p gd.pq] true fun s =>
    let th := thread s t
    resultG s t rd (if guardOf th gd then some (f (gReg th ra) (gReg th rb)) else none) 1 1

/-- SEL: the guard selects, and rd is always written (R113). -/
def selStep (t : Tid) (rd ra rb : BitVec 5) (gd : Guard) (s : State) : State :=
  issue s t (.sel t rd ra rb gd) [.g rd, .g ra, .g rb, .p gd.pq] true fun s =>
    let th := thread s t
    resultG s t rd (some (if guardOf th gd then gReg th ra else gReg th rb)) 1 1

/-- An I-format instruction: rd written with latency 1 (R114). -/
def aluI (i : Instr) (t : Tid) (rd ra : BitVec 5) (words : Nat) (f : DWord → DWord)
    (s : State) : State :=
  issue s t i [.g rd, .g ra] true fun s =>
    resultG s t rd (some (f (gReg (thread s t) ra))) 1 words

/-- Bits [41:32] of a widened immediate are not all 0 (R114). -/
def movhReserved (imm : Imm) : Bool :=
  match imm.high with
  | some x => decide (2 ^ 16 ≤ x.toNat)
  | none => false

/-- MOVH: the low word of a beneath a 32-bit immediate; v[41:32] set is reserved (R114). -/
def movhStep (t : Tid) (rd ra : BitVec 5) (imm : Imm) (s : State) : State :=
  let i := Instr.movh t rd ra imm
  issue s t i [.g rd, .g ra] true fun s =>
    let v := (immS imm).toNat
    if movhReserved imm then raise s t faultIllegal (lastWord i) 0
    else
      let a := gReg (thread s t) ra
      resultG s t rd (some (BitVec.ofNat 64 (a.toNat % 2 ^ 32 + v % 2 ^ 32 * 2 ^ 32))) 1
        (immWords imm)

/-- EXTF: a field extracted, zero-extended; pos + len above 64 is reserved (R114). -/
def extfStep (t : Tid) (rd ra : BitVec 5) (pos lenM1 : BitVec 6) (s : State) : State :=
  let i := Instr.extf t rd ra pos lenM1
  issue s t i [.g rd, .g ra] true fun s =>
    if 64 < pos.toNat + lenM1.toNat + 1 then raise s t faultIllegal (lastWord i) 0
    else
      let a := gReg (thread s t) ra
      resultG s t rd
        (some (BitVec.ofNat 64 (bits a.toNat (pos.toNat + lenM1.toNat) pos.toNat))) 1 1

/-- INSF: a field inserted into rd, which it also reads; pos + len above 64 is reserved (R114). -/
def insfStep (t : Tid) (rd ra : BitVec 5) (pos lenM1 : BitVec 6) (s : State) : State :=
  let i := Instr.insf t rd ra pos lenM1
  issue s t i [.g rd, .g ra] true fun s =>
    if 64 < pos.toNat + lenM1.toNat + 1 then raise s t faultIllegal (lastWord i) 0
    else
      let th := thread s t
      let d := (gReg th rd).toNat
      let a := (gReg th ra).toNat
      let hi := pos.toNat + lenM1.toNat
      resultG s t rd (some (BitVec.ofNat 64
        (d - bits d hi pos.toNat * 2 ^ pos.toNat + bits a lenM1.toNat 0 * 2 ^ pos.toNat))) 1 1

/-! ### The meanings -/

def execAdd (t : Tid) (rd ra rb : BitVec 5) (gd : Guard) (s : State) : Out :=
  act s (alu (.add t rd ra rb gd) t rd ra rb gd aluAdd)
def execSub (t : Tid) (rd ra rb : BitVec 5) (gd : Guard) (s : State) : Out :=
  act s (alu (.sub t rd ra rb gd) t rd ra rb gd aluSub)
def execMul (t : Tid) (rd ra rb : BitVec 5) (gd : Guard) (s : State) : Out :=
  act s (alu (.mul t rd ra rb gd) t rd ra rb gd aluMul)
def execMulhu (t : Tid) (rd ra rb : BitVec 5) (gd : Guard) (s : State) : Out :=
  act s (alu (.mulhu t rd ra rb gd) t rd ra rb gd aluMulhu)
def execAnd (t : Tid) (rd ra rb : BitVec 5) (gd : Guard) (s : State) : Out :=
  act s (alu (.and_ t rd ra rb gd) t rd ra rb gd aluAnd)
def execOr (t : Tid) (rd ra rb : BitVec 5) (gd : Guard) (s : State) : Out :=
  act s (alu (.or_ t rd ra rb gd) t rd ra rb gd aluOr)
def execXor (t : Tid) (rd ra rb : BitVec 5) (gd : Guard) (s : State) : Out :=
  act s (alu (.xor_ t rd ra rb gd) t rd ra rb gd aluXor)
def execAndn (t : Tid) (rd ra rb : BitVec 5) (gd : Guard) (s : State) : Out :=
  act s (alu (.andn t rd ra rb gd) t rd ra rb gd aluAndn)
def execShl (t : Tid) (rd ra rb : BitVec 5) (gd : Guard) (s : State) : Out :=
  act s (alu (.shl t rd ra rb gd) t rd ra rb gd aluShl)
def execShr (t : Tid) (rd ra rb : BitVec 5) (gd : Guard) (s : State) : Out :=
  act s (alu (.shr t rd ra rb gd) t rd ra rb gd aluShr)
def execSar (t : Tid) (rd ra rb : BitVec 5) (gd : Guard) (s : State) : Out :=
  act s (alu (.sar t rd ra rb gd) t rd ra rb gd aluSar)
def execRol (t : Tid) (rd ra rb : BitVec 5) (gd : Guard) (s : State) : Out :=
  act s (alu (.rol t rd ra rb gd) t rd ra rb gd aluRol)
def execMin (t : Tid) (rd ra rb : BitVec 5) (gd : Guard) (s : State) : Out :=
  act s (alu (.min_ t rd ra rb gd) t rd ra rb gd aluMin)
def execMax (t : Tid) (rd ra rb : BitVec 5) (gd : Guard) (s : State) : Out :=
  act s (alu (.max_ t rd ra rb gd) t rd ra rb gd aluMax)
def execMinu (t : Tid) (rd ra rb : BitVec 5) (gd : Guard) (s : State) : Out :=
  act s (alu (.minu t rd ra rb gd) t rd ra rb gd aluMinu)
def execMaxu (t : Tid) (rd ra rb : BitVec 5) (gd : Guard) (s : State) : Out :=
  act s (alu (.maxu t rd ra rb gd) t rd ra rb gd aluMaxu)
def execSel (t : Tid) (rd ra rb : BitVec 5) (gd : Guard) (s : State) : Out :=
  act s (selStep t rd ra rb gd)
def execClz (t : Tid) (rd ra : BitVec 5) (gd : Guard) (s : State) : Out :=
  act s (alu (.clz t rd ra gd) t rd ra 0 gd aluClz)
def execCtz (t : Tid) (rd ra : BitVec 5) (gd : Guard) (s : State) : Out :=
  act s (alu (.ctz t rd ra gd) t rd ra 0 gd aluCtz)
def execPopc (t : Tid) (rd ra : BitVec 5) (gd : Guard) (s : State) : Out :=
  act s (alu (.popc t rd ra gd) t rd ra 0 gd aluPopc)
def execBsw16 (t : Tid) (rd ra : BitVec 5) (gd : Guard) (s : State) : Out :=
  act s (alu (.bsw16 t rd ra gd) t rd ra 0 gd aluBsw16)
def execBsw32 (t : Tid) (rd ra : BitVec 5) (gd : Guard) (s : State) : Out :=
  act s (alu (.bsw32 t rd ra gd) t rd ra 0 gd aluBsw32)
def execBsw64 (t : Tid) (rd ra : BitVec 5) (gd : Guard) (s : State) : Out :=
  act s (alu (.bsw64 t rd ra gd) t rd ra 0 gd aluBsw64)
def execAddi (t : Tid) (rd ra : BitVec 5) (imm : Imm) (s : State) : Out :=
  act s (aluI (.addi t rd ra imm) t rd ra (immWords imm) fun a => a + immS imm)
def execAndi (t : Tid) (rd ra : BitVec 5) (imm : Imm) (s : State) : Out :=
  act s (aluI (.andi t rd ra imm) t rd ra (immWords imm) fun a => a &&& immZ imm)
def execOri (t : Tid) (rd ra : BitVec 5) (imm : Imm) (s : State) : Out :=
  act s (aluI (.ori t rd ra imm) t rd ra (immWords imm) fun a => a ||| immZ imm)
def execXori (t : Tid) (rd ra : BitVec 5) (imm : Imm) (s : State) : Out :=
  act s (aluI (.xori t rd ra imm) t rd ra (immWords imm) fun a => a ^^^ immZ imm)
def execShli (t : Tid) (rd ra : BitVec 5) (sh : BitVec 6) (s : State) : Out :=
  act s (aluI (.shli t rd ra sh) t rd ra 1 fun a => a <<< sh.toNat)
def execShri (t : Tid) (rd ra : BitVec 5) (sh : BitVec 6) (s : State) : Out :=
  act s (aluI (.shri t rd ra sh) t rd ra 1 fun a => a >>> sh.toNat)
def execSari (t : Tid) (rd ra : BitVec 5) (sh : BitVec 6) (s : State) : Out :=
  act s (aluI (.sari t rd ra sh) t rd ra 1 fun a => a.sshiftRight sh.toNat)
def execMovh (t : Tid) (rd ra : BitVec 5) (imm : Imm) (s : State) : Out :=
  act s (movhStep t rd ra imm)
def execExtf (t : Tid) (rd ra : BitVec 5) (pos lenM1 : BitVec 6) (s : State) : Out :=
  act s (extfStep t rd ra pos lenM1)
def execInsf (t : Tid) (rd ra : BitVec 5) (pos lenM1 : BitVec 6) (s : State) : Out :=
  act s (insfStep t rd ra pos lenM1)

end Sys2Proof.Machine
end

