-- ==== Sys2Proof/Machine/Crc.lean ====
section
/-! DEFINITION. The arithmetic of the check values and hashes: the four cyclic redundancy checks
(R356, R357), the Toeplitz hash (R199) and the Internet checksum that header edits use (R194). -/

namespace Sys2Proof.Machine

open Sys2Proof

/-- Parameters of a check: width in bits, polynomial (bit-reversed where the check is reflected),
final XOR, reflected, and whether the value lies least significant byte first (R356). -/
structure CrcParams where
  width : Nat
  poly : Nat
  xorOut : Nat
  reflected : Bool
  lsbFirst : Bool
  deriving DecidableEq, Repr

/-- The parameters of polynomial column p (R356). -/
def crcParams : CheckPoly → CrcParams
  | .crc32 => ⟨32, 0xEDB88320, 0xFFFFFFFF, true, true⟩
  | .crc32c => ⟨32, 0x82F63B78, 0xFFFFFFFF, true, true⟩
  | .crc16 => ⟨16, 0x8BB7, 0, false, false⟩
  | .crc64 => ⟨64, 0x9A6C9329AC4BC9B5, 0xFFFFFFFFFFFFFFFF, true, false⟩

/-- One bit step of a check's register. -/
def crcBit (p : CrcParams) (r : Nat) : Nat :=
  if p.reflected then (r / 2) ^^^ (if r % 2 = 1 then p.poly else 0)
  else (r * 2) % 2 ^ p.width ^^^ (if r / 2 ^ (p.width - 1) % 2 = 1 then p.poly else 0)

/-- One byte taken into a check's register. -/
def crcByte (p : CrcParams) (r : Nat) (x : Byte) : Nat :=
  let r := if p.reflected then r ^^^ x.toNat else r ^^^ (x.toNat * 2 ^ (p.width - 8))
  crcBit p (crcBit p (crcBit p (crcBit p (crcBit p (crcBit p (crcBit p (crcBit p r)))))))

/-- A check value continued from the finished value `f` over bytes (R357). -/
def crcFrom (c : CheckPoly) (f : Nat) (bs : List Byte) : Nat :=
  let p := crcParams c
  bs.foldl (crcByte p) (f ^^^ p.xorOut) ^^^ p.xorOut

/-- A check value of bytes from the start of a stream. -/
def crc (c : CheckPoly) (bs : List Byte) : Nat := crcFrom c 0 bs

/-- Bytes W of a check value. -/
def crcWidth (c : CheckPoly) : Nat := (crcParams c).width / 8

/-- A finished value as bytes in the order that CHKA appends (R356). -/
def crcBytes (c : CheckPoly) (v : Nat) : List Byte :=
  if (crcParams c).lsbFirst then le (crcWidth c) v else be (crcWidth c) v

/-- A finished value read from bytes in that order. -/
def crcOf (c : CheckPoly) (bs : List Byte) : Nat :=
  if (crcParams c).lsbFirst then leNat bs else beNat bs

/-- Bit `k` of a byte list, bit 7 of byte 0 first. -/
def wireBit (bs : List Byte) (k : Nat) : Bool := (bs.getD (k / 8) 0).getLsbD (7 - k % 8)

/-- 32 key bits from bit `i`, bit i most significant. -/
def keyBits (key : List Byte) (i : Nat) : Nat :=
  beAt key (i / 8) 5 / 2 ^ (8 - i % 8) % 2 ^ 32

/-- The Toeplitz hash over the input bytes (R199). -/
def toeplitz (key input : List Byte) : Nat :=
  (List.range (8 * input.length)).foldl
    (fun r i => if wireBit input i then r ^^^ keyBits key i else r) 0

/-- One's complement sum of the 16-bit big-endian words of a byte list. -/
def onesSum : List Byte → Nat
  | [] => 0
  | [a] => a.toNat * 256
  | a :: b :: m => a.toNat * 256 + b.toNat + onesSum m

/-- A sum folded to 16 bits. -/
def fold16 (v : Nat) : Nat :=
  let v := v / 65536 + v % 65536
  let v := v / 65536 + v % 65536
  v / 65536 + v % 65536

/-- The Internet checksum of a byte list. -/
def inetChecksum (bs : List Byte) : Nat := 65535 - fold16 (onesSum bs)

end Sys2Proof.Machine
end

