-- ==== Sys2Proof/Machine/Digest.lean ====
section
/-! DEFINITION. The published functions that signatures rest on: SHA-384 and ECDSA verification over P-384 (R164, R456,
R457). The specification names them and leaves their arithmetic to the standards that publish them, FIPS 180-4 and
FIPS 186-5, from which it is taken here (PRESUMED). -/

namespace Sys2Proof.Machine

open Sys2Proof

/-! ### SHA-384 -/

/-- A number is prime. -/
def isPrime (n : Nat) : Bool := decide (2 ≤ n) && (List.range n).all fun d => decide (d < 2) || n % d != 0

/-- The first 80 primes. -/
def firstPrimes : List Nat := (List.range 410).filter isPrime

/-- The `k`-th root of `n`, rounded down, of at most `b` bits. -/
def rootOf (k b n : Nat) : Nat :=
  (List.range b).reverse.foldl (fun x i => if (x + 2 ^ i) ^ k ≤ n then x + 2 ^ i else x) 0

/-- First 64 bits of the fractional parts of the cube roots of the first 80 primes. -/
def shaRound : List (BitVec 64) := firstPrimes.map fun p => BitVec.ofNat 64 (rootOf 3 70 (p * 2 ^ 192))

/-- First 64 bits of the fractional parts of the square roots of the ninth to sixteenth primes. -/
def shaStart : List (BitVec 64) :=
  ((firstPrimes.drop 8).take 8).map fun p => BitVec.ofNat 64 (rootOf 2 70 (p * 2 ^ 128))

/-- The message schedule of a block, the last word first: `n` more words after the 16 of the block. -/
def shaSchedule : Nat → List (BitVec 64) → List (BitVec 64)
  | 0, ws => ws
  | n + 1, ws =>
    let w := fun (k : Nat) => ws.getD k 0
    let s0 := (w 14).rotateRight 1 ^^^ (w 14).rotateRight 8 ^^^ (w 14 >>> 7)
    let s1 := (w 1).rotateRight 19 ^^^ (w 1).rotateRight 61 ^^^ (w 1 >>> 6)
    shaSchedule n ((s1 + w 6 + s0 + w 15) :: ws)

/-- One round on the eight working variables. -/
def shaStep (v : List (BitVec 64)) (x : BitVec 64 × BitVec 64) : List (BitVec 64) :=
  match v with
  | [a, b, c, d, e, f, g, h] =>
    let t1 := h + x.1 + x.2 + (e.rotateRight 14 ^^^ e.rotateRight 18 ^^^ e.rotateRight 41) +
      ((e &&& f) ^^^ (~~~e &&& g))
    let t2 := (a.rotateRight 28 ^^^ a.rotateRight 34 ^^^ a.rotateRight 39) + ((a &&& b) ^^^ (a &&& c) ^^^ (b &&& c))
    [t1 + t2, a, b, c, d + t1, e, f, g]
  | v => v

/-- A block of 128 bytes taken into the hash value. -/
def shaBlock (h : List (BitVec 64)) (bs : List Byte) : List (BitVec 64) :=
  let ws := (List.range 16).map fun k => BitVec.ofNat 64 (beNat (slice bs (8 * k) 8))
  let v := (shaRound.zip (shaSchedule 64 ws.reverse).reverse).foldl shaStep h
  List.zipWith (· + ·) h v

/-- Blocks of 128 bytes, `n` of them. -/
def shaBlocks : Nat → List Byte → List (BitVec 64) → List (BitVec 64)
  | 0, _, h => h
  | n + 1, bs, h => shaBlocks n (bs.drop 128) (shaBlock h (bs.take 128))

/-- SHA-384 of a byte list, 48 bytes. -/
def sha384 (bs : List Byte) : List Byte :=
  let zeros := (239 - bs.length % 128) % 128
  let padded := bs ++ [0x80] ++ List.replicate zeros 0 ++ be 16 (8 * bs.length)
  ((shaBlocks (padded.length / 128) padded shaStart).take 6).flatMap fun w => be 8 w.toNat

/-! ### ECDSA over P-384 -/

/-- Field, order, coefficient b and generator of the group; the coefficient a is −3. -/
def p384Field : Nat := 2 ^ 384 - 2 ^ 128 - 2 ^ 96 + 2 ^ 32 - 1
def p384Order : Nat :=
  0xFFFFFFFFFFFFFFFFFFFFFFFFFFFFFFFFFFFFFFFFFFFFFFFFC7634D81F4372DDF581A0DB248B0A77AECEC196ACCC52973
def p384B : Nat :=
  0xB3312FA7E23EE7E4988E056BE3F82D19181D9C6EFE8141120314088F5013875AC656398D8A2ED19D2A85C8EDD3EC2AEF
def p384G : Nat × Nat :=
  (0xAA87CA22BE8B05378EB1C71EF320AD746E1D3B628BA79B9859F741E082542A385502F25DBF55296C3A545E3872760AB7,
    0x3617DE4A96262C6F5D9E98BF9292DC29F8F41DBD289A147CE9DA3113B5F0B8C00A60B1CE1D7E819D7A431D7C90EA0E5F)

/-- Bits of a number, the highest of 384 first. -/
def bitsDown (n : Nat) : List Bool := ((List.range 384).map fun i => n.testBit i).reverse

/-- A power modulo m. -/
def powMod (m x e : Nat) : Nat := (bitsDown e).foldl (fun y b => if b then y * y % m * x % m else y * y % m) 1

/-- The inverse modulo a prime. -/
def invMod (m x : Nat) : Nat := powMod m x (m - 2)

/-- A difference modulo m of numbers below m. -/
def subMod (m x y : Nat) : Nat := (x + (m - y)) % m

/-- The sum of two points of the curve; none is the point at infinity. -/
def ecAdd : Option (Nat × Nat) → Option (Nat × Nat) → Option (Nat × Nat)
  | none, q => q
  | p, none => p
  | some (x1, y1), some (x2, y2) =>
    let m := p384Field
    if x1 = x2 ∧ (y1 + y2) % m = 0 then none
    else
      let k := if x1 = x2 then subMod m (3 * x1 * x1 % m) 3 * invMod m (2 * y1 % m) % m
        else subMod m y2 y1 * invMod m (subMod m x2 x1) % m
      let x := subMod m (subMod m (k * k % m) x1) x2
      some (x, subMod m (k * subMod m x1 x % m) y1)

/-- A multiple of a point. -/
def ecMul (n : Nat) (p : Option (Nat × Nat)) : Option (Nat × Nat) :=
  (bitsDown n).foldl (fun q b => if b then ecAdd (ecAdd q q) p else ecAdd q q) none

/-- A pair of numbers is a point of the curve. -/
def onCurve (x y : Nat) : Bool :=
  let m := p384Field
  decide (x < m ∧ y < m) && decide ((y * y + 3 * x) % m = (x * x * x + p384B) % m)

/-- The signature r ‖ s verifies under the key x ‖ y over the SHA-384 of the message; r and s are neither 0 nor at or
above the order of the group (R163, R164). -/
def signatureOk (key msg sig : List Byte) : Bool :=
  let n := p384Order
  let r := beNat (sig.take 48)
  let v := beNat (sig.drop 48)
  let x := beNat (key.take 48)
  let y := beNat (key.drop 48)
  decide (0 < r ∧ r < n ∧ 0 < v ∧ v < n) && onCurve x y &&
    let w := invMod n v
    match ecAdd (ecMul (beNat (sha384 msg) * w % n) (some p384G)) (ecMul (r * w % n) (some (x, y))) with
    | none => false
    | some q => q.1 % n == r

end Sys2Proof.Machine
end

