-- ==== Sys2Proof/Machine/Ledger.lean ====
section
/-! DEFINITION. The capture ledger's writer: record headers, blocks and their chain, gaps, quotas,
the spill buffer and the issue of writes to the drives of C0 (R281–R296). -/

namespace Sys2Proof.Machine

open Sys2Proof

/-- Record kinds of R281. -/
def recFrame : Nat := 1
def recRefusal : Nat := 2
def recTimebase : Nat := 3
def recGap : Nat := 4
def recSeal : Nat := 5
def recRestart : Nat := 6
def recChainStart : Nat := 7

/-- Bytes padded with zeros to a multiple of 8. -/
def pad8 (bs : List Byte) : List Byte := bs ++ List.replicate ((8 - bs.length % 8) % 8) 0

/-- A record of kinds 3 to 7: every header field but KIND, REASON, RELEASE and SNAP is 0 (R285). -/
def plainRecord (kind reason : Nat) (release : BitVec 64) (body : List Byte) : List Byte :=
  le 1 kind ++ le 1 reason ++ List.replicate 22 0 ++ le 8 release.toNat ++ le 2 0 ++
    le 2 body.length ++ List.replicate 28 0 ++ pad8 body

/-- A FRAME or REFUSAL record of a tag and frame bytes (R282, R285). -/
def frameRecord (kind reason : Nat) (tag : Tag) (release : BitVec 64) (length lateness sendRing : Nat)
    (body : List Byte) : List Byte :=
  le 1 kind ++ le 1 reason ++ le 2 (tagFld tag 7 31 16) ++ le 2 (tagSource tag) ++
    le 2 (tagTenancy tag + tagClass tag * 1024) ++ le 8 (tag64 tag 1) ++ le 8 (tag64 tag 3) ++
    le 8 release.toNat ++ le 2 length ++ le 2 body.length ++ le 4 (tagHash tag) ++
    le 8 (tag64 tag 13) ++ le 1 (tagGroup tag) ++ le 1 (tagDestKind tag) ++
    le 2 (min lateness 65535) ++ le 4 (tagDest tag) ++ le 4 (tagWord tag 10).toNat ++
    le 2 sendRing ++ le 2 0 ++ pad8 body

/-- The 4,096 bytes of a block (R286). -/
def blockBytes (l : Ledger) (b : Block) : List Byte :=
  [0x53, 0x5A, 0x4C, 0x42] ++ le 2 1 ++ le 2 0 ++ le 8 b.num ++ slice l.chainId 0 16 ++
    slice b.prev 0 48 ++ le 2 b.cont ++ le 2 b.records ++ le 2 (96 + b.payload.length) ++
    List.replicate 10 0 ++ slice b.payload 0 4000

/-- Blocks that the spill buffer holds, and those of them reserved for kinds 3 to 7 (R293). -/
def spillBlocks : Nat := 2097152
def spillReserved : Nat := 256

/-- Valid entries of the drive map in force, in entry order (R292). -/
def driveMap (s : State) : List Nat :=
  (List.range 8).filter fun d =>
    bit (word s (0x4000100 + d * 0x20)) 0 && (word s (0x4000110 + d * 0x20) != 0)

/-- Journal slots J (R292). -/
def journalSize (s : State) (drives : List Nat) : Nat :=
  let least := drives.foldl (fun m d =>
    min m (word s (0x4000110 + d * 0x20)).toNat) (2 ^ 32)
  min (256 * drives.length * (if drives.isEmpty then 0 else least)) (2 ^ 35)

/-- The drive that holds journal block `b`: stripe k of 256 blocks lies on entry k mod D (R292). -/
def driveOf (s : State) (b : Nat) : Nat :=
  let l := s.ledger
  let j := max 1 l.stripes
  l.drives.getD (b % j / 256 % max 1 l.drives.length) 0

/-- FAILED of a drive (R295). -/
def driveFailed (s : State) (d : Nat) : Bool := bit (word s (0x4000114 + d * 0x20)) 1

/-- LDG_STATUS.STATE and the registers that show the ledger's place are brought up to date (R298). -/
def ledgerStatus (s : State) : State :=
  let l := s.ledger
  let state := if !l.enabled then 0
    else if l.gaps.any (fun g => g.cause == 1) then 3
    else if decide (1 < l.spill.length) then 2 else 1
  let s := setRf s 0x4000004 1 0 state
  let s := setRf s 0x4000030 13 0 (ceilDiv (l.spill.length * 4096) 1048576)
  setWord64 s 0x4000008 (match l.open_ with | some b => b.num | none => word64 s 0x4000008)

/-- Writes of closed blocks go to their drives in block order, up to 1,024 in flight for each drive;
a block whose drive has failed is not stored and is counted (R291, R293, R295). -/
def issueWrites (s : State) : State :=
  let go := fun (s : State) (b : Block) =>
    let l := s.ledger
    if !b.closed || l.inFlight.any (fun c => c.block == b.num) then s
    else
      let d := driveOf s b.num
      if l.drives.isEmpty || driveFailed s d then
        { count s 0x4000034 with
          ledger := { l with spill := l.spill.filter fun x => x.num != b.num } }
      else if (l.inFlight.filter fun c => c.drive == d).length < 1024 then
        { s with ledger := { l with inFlight := l.inFlight ++ [⟨d, b.num, now s, 0⟩] } }
      else s
  s.ledger.spill.foldl go s

/-- The open block closed: its hash becomes PREV of the next (R287). A block that cannot be written
at once waits in the spill buffer, and its FRAME records of reason NONE then carry LEDGER_SPILL
(R294). A block whose seal is not in place stays unclosed and its successor's PREV is filled in when
it closes (R289). -/
def closeBlock (s : State) : State :=
  let l := s.ledger
  match l.open_ with
  | none => s
  | some b =>
    let waits := !l.spill.isEmpty && decide (1024 ≤ l.inFlight.length)
    let payload := if waits then
        b.heads.foldl (fun p o => patch p (o + 1) [0x81]) b.payload else b.payload
    let ready := !b.sealing && l.spill.all (fun x => x.closed)
    let b := { b with payload := payload, closed := ready }
    let next : Block :=
      { num := b.num + 1, last := b.last, prev := if ready then sha384 (blockBytes l b) else [],
        opened := round s }
    issueWrites { s with ledger := { l with spill := l.spill ++ [b], open_ := some next } }

/-- Payload bytes left in the open block. -/
def blockRoom (s : State) : Nat :=
  match s.ledger.open_ with
  | some b => 4000 - b.payload.length
  | none => 0

/-- Bytes of one record laid down from the open block on (R286). `fuel` bounds the blocks that it
spans; a record spans at most six, and a CHAIN_START two. -/
def layBytes (s : State) (fuel : Nat) (kind : Nat) (plain : Bool) (first : Bool)
    (bs : List Byte) : State :=
  match fuel with
  | 0 => s
  | fuel + 1 =>
    match s.ledger.open_ with
    | none => s
    | some b =>
      let room := 4000 - b.payload.length
      let part := bs.take room
      let rest := bs.drop room
      let b := { b with
        payload := b.payload ++ part,
        heads := if first && plain then b.heads ++ [b.payload.length] else b.heads,
        records := if first then b.records + 1 else b.records,
        last := if first then BitVec.ofNat 64 (leAt bs 24 8) else b.last,
        cont := if first then b.cont else part.length,
        opened := if b.payload.isEmpty then round s else b.opened,
        reserved := b.reserved || decide (kind ≠ recFrame ∧ kind ≠ recRefusal) }
      let s := { s with ledger := { s.ledger with open_ := some b } }
      let s := if b.payload.length = 4000 then closeBlock s else s
      if rest.isEmpty then s else layBytes s fuel kind plain false rest

/-- A record put at the end of the ledger and counted. -/
def putRecord (s : State) (kind reason : Nat) (bs : List Byte) : State :=
  let s := count64 s 0x4000020
  let l := s.ledger
  let s := { s with ledger := { l with
    totalRecords := l.totalRecords + 1,
    totalGaps := if kind = recGap then l.totalGaps + 1 else l.totalGaps,
    lastRelease := BitVec.ofNat 64 (leAt bs 24 8) } }
  ledgerStatus (layBytes s 8 kind (kind == recFrame && reason == 0) true bs)

/-- The body of a GAP record (R294). -/
def gapBody (g : Gap) : List Byte :=
  le 8 g.lost ++ le 8 g.refusals ++ le 8 g.first.toNat ++ le 8 g.last.toNat ++ le 8 g.bytes ++
    le 1 g.cause ++ le 1 0 ++ le 2 (if g.cause = 2 then g.tenancy else 0) ++ List.replicate 20 0

/-- Pending gaps are ended by their GAP records (R293). -/
def endGaps (s : State) : State :=
  let gs := s.ledger.gaps
  let s := { s with ledger := { s.ledger with
    gaps := [], totalLost := gs.foldl (fun n g => n + g.lost) s.ledger.totalLost } }
  gs.foldl (fun s g =>
    putRecord s recGap 0x80 (plainRecord recGap 0x80 (compactNow s) (gapBody g))) s

/-- A record lost to a gap of a cause and tenancy: gaps of different causes or tenancies are never
merged (R294). -/
def loseRecord (s : State) (cause tenancy kind : Nat) (release : BitVec 64) (bytes : Nat) : State :=
  let l := s.ledger
  let same := fun (g : Gap) => g.cause == cause && g.tenancy == tenancy
  let one := if kind = recRefusal then 1 else 0
  let gaps := if l.gaps.any same then
      l.gaps.map fun g => if same g then
        { g with lost := g.lost + 1, refusals := g.refusals + one, last := release,
                 bytes := g.bytes + bytes } else g
    else l.gaps ++ [⟨cause, tenancy, 1, one, release, release, bytes⟩]
  ledgerStatus { s with ledger := { l with gaps := gaps } }

/-- Credit of a tenancy's capture bucket in thousandths of a byte: a round gains
1,024 × QUOTA, and 64 rounds' worth is 65,536 × QUOTA (R284). -/
def captureCredit (s : State) (t : Nat) : Nat :=
  (look s.ledger.credit t).getD (65536 * (word s (0x4001000 + t * 16)).toNat)

/-- A record enters the ledger writer (R281–R293). `charged` records pay their tenancy's quota. -/
def ledgerRecord (s : State) (kind reason tenancy : Nat) (charged : Bool) (bs : List Byte) : State :=
  if !s.ledger.enabled then count s 0x400003C
  else
    let release := BitVec.ofNat 64 (leAt bs 24 8)
    let quota := (word s (0x4001000 + tenancy * 16)).toNat
    let price := bs.length * 1000
    let have_ := captureCredit s tenancy
    if charged && quota != 0xFFFFFFFF && decide (have_ < price) then
      loseRecord (count s (0x4001008 + tenancy * 16)) 2 tenancy kind release bs.length
    else
      let full := decide (kind = recFrame ∨ kind = recRefusal) &&
        decide (blockRoom s ≤ bs.length) &&
        decide (spillBlocks - spillReserved ≤ s.ledger.spill.length)
      if full then loseRecord (count64 s 0x4000028) 1 0 kind release bs.length
      else
        let s := if charged && quota != 0xFFFFFFFF then
            { s with ledger := { s.ledger with
              credit := place s.ledger.credit tenancy (have_ - price) } } else s
        putRecord (endGaps s) kind reason bs

/-- Snap bytes of a frame's record: the frame's own snap, or DEFAULT_SNAP of its tenancy (R282). -/
def snapBytes (s : State) (f : Frame) : List Byte :=
  let want := match f.snap with
    | some n => n
    | none => rf s (0x4001004 + tagTenancy f.tag * 16) 14 0
  f.bytes.take want

/-- The FRAME record of a frame handed on or dropped (R281, R282). -/
def recordFrame (s : State) (f : Frame) (reason : Nat) (release : BitVec 64) (lateness : Nat)
    (charged : Bool) : State :=
  let ring := match f.sendPos with | some p => p.1 | none => 0
  ledgerRecord s recFrame reason (tagTenancy f.tag) charged
    (frameRecord recFrame reason f.tag release f.bytes.length lateness ring (snapBytes s f))

/-- The frame carries CAPTURE. -/
def captured (f : Frame) : Bool := tagFlag f.tag 20

/-- The FRAME record of a frame handed on: one that CAPTURE asks for is of a copy with COPY set (R67). -/
def recordRelease (s : State) (f : Frame) (release : BitVec 64) (lateness : Nat) : State :=
  let g := if captured f then { f with tag := setFlag f.tag 27 true } else f
  recordFrame s g (tagReason f.tag) release lateness true

end Sys2Proof.Machine
end

