-- ==== Sys2Proof/Machine/Link.lean ====
section
/-! DEFINITION. The host link's shared operations: TLPs into an endpoint's transmit path, host reads
and their tags, error logs, completion slots and completions, MSI-X signals (R386–R412, R430–R434). -/

namespace Sys2Proof.Machine

open Sys2Proof

/-- Address of a host link register of an endpoint (R413). -/
def hlkAddr (e : Endpoint) (off : Nat) : Nat := 0x600000 + Endpoint.num e * 0x100000 + off

/-- The device may send requests for a function: Bus Master Enable is 1, it is in D0, not in Dusk,
and its endpoint is up (R412, R463). -/
def mayRequest (s : State) (fn : FnId) : Bool :=
  let f := fnState s fn
  f.busMaster && !f.d3 && f.dusk.isNone && !(endpoint s fn.ep).down

/-- A TLP put at the end of an endpoint's transmit path (R520). -/
def putTlp (s : State) (e : Endpoint) (t : Tlp) : State :=
  let v := endpoint s e
  putEndpoint s e { v with path := v.path ++ [(now s, t)] }

/-- A memory write of a function (R396, R397). -/
def hostWrite (s : State) (fn : FnId) (addr : Nat) (data : List Byte) (ro : Bool) : State :=
  putTlp s fn.ep (.write fn (BitVec.ofNat 64 addr) data ro)

/-! ### Errors -/

/-- AER error kinds of R409. -/
def aerTimeout : Nat := 1
def aerUnexpected : Nat := 2
def aerUnsupported : Nat := 3
def aerPoisoned : Nat := 4
def aerEcrc : Nat := 5
def aerMalformed : Nat := 6

/-- PF0 of an endpoint. -/
def pf0Of (e : Endpoint) : FnId := ⟨e, 0⟩

/-- An error logged in a function's AER capability. -/
def aerLog (s : State) (fn : FnId) (kind : Nat) : State :=
  let f := fnState s fn
  if f.aer.contains kind then s else putFn s fn { f with aer := f.aer ++ [kind] }

/-- An error put into HLK_ERR_LOG and its event (R413, R485). -/
def logHostError (s : State) (e : Endpoint) (rid kind : Nat) (addr : Nat) : State :=
  let s := setWord s (hlkAddr e 0x50) (BitVec.ofNat 32 (rid % 65536 + kind * 65536))
  let s := setWord64 s (hlkAddr e 0x54) addr
  setWord s (hlkAddr e 0x5C) (BitVec.ofNat 32 (round s))

/-- The HOST_ERROR event of R485. -/
def hostErrorEvent (s : State) (e : Endpoint) (rid kind tag tenancy reason : Nat) : State :=
  event s (srcHost e) evHostError (rid % 65536 + kind * 65536 + tag % 16384 * 2 ^ 24) tenancy reason

/-- Routing ID of a function (R388). -/
def routingId (fn : FnId) : Nat := ((Config.routingBase (fn.ep == .h1)).toNat + fn.fn.val) % 65536

/-! ### Access to a function (R389, R409) -/

/-- MIRROR of H1 (R389). -/
def mirror (s : State) : Nat := rf s (hlkAddr .h1 4) 3 2

/-- PF0 of H1. -/
def pf0h1 : FnId := ⟨.h1, 0⟩

/-- PF0 of H0, or the mirror with its rights, where a rule names PF0 and no endpoint (R389). -/
def platform (s : State) (fn : FnId) : Bool := fn == pf0 || (fn == pf0h1 && mirror s == 2)

/-- The function exists: it is a PF, or one of the VFs that TOTAL_VFS in effect give, and is not the
disabled platform mirror (R388, R389); before Noon only PF0 answers (R453, R467). -/
def fnExists (s : State) (fn : FnId) : Bool :=
  decide (fn.fn.val < 4 + (endpoint s fn.ep).totalVfs.foldl (· + ·) 0) &&
    !(fn == pf0h1 && mirror s == 0) && (fn.fn == 0 || rf s 0x100000 2 0 == 2)

/-- Some existing function of the endpoint belongs to the tenancy (R27). -/
def tenancyOn (s : State) (t : Nat) (e : Endpoint) : Bool :=
  (List.range 1024).any fun k =>
    let fn := fnOf (Endpoint.num e * 1024 + k)
    fnExists s fn && fnTenancy s fn == t

/-- Requests to the function's memory BARs reach it: its link is up, it exists, is in D0 and has Memory
Space Enable 1 (R409). In Dusk it goes on answering (R463). -/
def reachable (s : State) (fn : FnId) : Bool :=
  let f := fnState s fn
  !(endpoint s fn.ep).down && fnExists s fn && f.memorySpace && !f.d3

/-- An Unsupported Request at a function (R409). -/
def unsupported (s : State) (fn : FnId) : State :=
  let s := count s (hlkAddr fn.ep 0x18)
  let log := if fnExists s fn then fn else pf0Of fn.ep
  hostErrorEvent (aerLog s log aerUnsupported) fn.ep (routingId fn) 0 0 0 rsUnsupported

/-- A posted write to a BAR of a function, discarded when the function cannot be reached. -/
def postAs (s : State) (fn : FnId) (f : State → State) : State :=
  if (endpoint s fn.ep).down then s
  else if !reachable s fn then unsupported s fn
  else f s

/-- An offset lies in the array of blocks at `base` whose element `k` is the function's. -/
def ownBlock (a base stride k : Nat) : Bool := decide (base + k * stride ≤ a ∧ a < base + (k + 1) * stride)

/-- Owner of a function group, in force (R200). -/
def fgOwner (s : State) (g : Nat) : Nat := rf s (0x1630008 + g * 0x10) 9 0

/-- The function groups with spreading on whose pool range holds an entry (R200). -/
def groupsOfEntry (s : State) (e : Nat) : List Nat :=
  (s.words.filterMap fun p =>
    if 0x1630000 ≤ p.1 ∧ p.1 < 0x1640000 ∧ p.1 % 0x10 = 0 then
      let g := (p.1 - 0x1630000) / 0x10
      let b := rf s (0x1630004 + g * 0x10) 17 0
      if fld p.2 19 16 ≠ 0 ∧ b ≤ e ∧ e < b + 2 ^ fld p.2 19 16 then some g else none
    else none)

/-- The cluster registers that a tenancy with a core there sees: the modes, the counters, and the fault records of
its own cores, whose number stands in byte 11 (R92, R104). -/
def clusterView (s : State) (t a : Nat) : Bool :=
  let cl := (a - 0x2000000) / 0x100000
  let o := (a - 0x2000000) % 0x100000
  let own := fun (c : Nat) => coreTenancy s cl c == t
  if o = 4 ∨ (0x10 ≤ o ∧ o < 0x30) then (List.range 16).any own
  else 0x2000 ≤ o && o < 0x6000 && own (rf s (cluAddr cl (o / 0x1000 * 0x1000 + 8)) 27 24)

/-- The classifier's registers in a tenancy's view: its exception block, the keys of its classes, its groups and
templates, and the commit; the pool as a whole, for a write that R200 decides (R195, R202, R203). -/
def classifierView (s : State) (t a : Nat) : Bool :=
  if a < 0x1610000 then false
  else if a < 0x1620000 then ownBlock a 0x1610000 0x20 t
  else if a < 0x1630000 then decide (a < 0x1621000) && (pathNow s ((a - 0x1620000) / 0x40)).owner == t
  else if a < 0x1640000 then fgOwner s ((a - 0x1630000) / 0x10) == t
  else if a < 0x16C0000 then true
  else if a < 0x1700000 then a == 0x16C0004 || a == 0x16C0008
  else rf s (0x1700000 + (a - 0x1700000) / 0x100 * 0x100) 9 0 == t

/-- The view of a function other than PF0: identity, directory, and the blocks of its own function and tenancy, each
at its offset in the Device Control Space (R391; R55, R75, R104, R177, R203, R236, R257, R280, R298, R336, R355, R364,
R384, R415, R440, R450, R470, R481, R494). -/
def tenantView (s : State) (fn : FnId) (a : Nat) : Bool :=
  let t := fnTenancy s fn
  let within := fun (lo hi : Nat) => decide (lo ≤ a ∧ a < hi)
  if a < 0x400000 then
    within 0 0x100 || within 0x1000 0x100000 || a == 0x100000 || within 0x101000 0x103000 || a == 0x200004 ||
      a == 0x300004 || within 0x300044 0x300060
  else if a < 0x1600000 then
    within 0x410000 0x412000 || ownBlock a 0x900000 0x800 (fnNum fn) ||
      (within 0x1000000 0x1400000 && ringOwner s ((a - 0x1000000) / 0x40) == some fn)
  else if a < 0x1800000 then classifierView s t a
  else if a < 0x1A00000 then
    ownBlock a 0x180C000 0x10 t || ownBlock a 0x1960000 0x20 (fnNum fn) ||
      ownBlock a 0x1820000 0x10 (16 + fnNum fn) ||
      (within 0x1810000 0x1820000 && bdTenancy s (round s) ((a - 0x1810000) / 0x10) == t) ||
      (within 0x1840000 0x1960000 && (a - 0x1840000) / 0x10 % 1024 == t) || ownBlock a 0x1980000 4 t
  else if a < 0x2000000 then
    ownBlock a 0x1A0A000 0x20 t ||
      (within 0x1A09000 0x1A0A000 && (pathNow s ((a - 0x1A09000) / 0x40)).owner == t) ||
      (within 0x1A20000 0x1A40000 && decide (0x20 ≤ a % 0x200 ∧ a % 0x200 < 0x54) &&
        rf s (0x1A20000 + (a - 0x1A20000) / 0x200 * 0x200) 25 16 == t) ||
      (within 0x1A40000 0x1A50000 && decide (8 ≤ a % 0x10) && rf s (a / 0x10 * 0x10) 9 0 == t) ||
      within 0x1B00000 0x1B00020 || ownBlock a 0x1B30000 0x20 t || within 0x1C00000 0x1C00050 ||
      ownBlock a 0x1D01000 0x10 t || within 0x1EF0000 0x1EF0040 ||
      (within 0x1E00000 0x1E10000 && ctrlTenancy s (round s) ((a - 0x1E00000) / 0x40) == t) ||
      (within 0x1E10000 0x1E90000 && ctrlTenancy s (round s) ((a - 0x1E10000) / 0x200) == t) ||
      (within 0x1EA0000 0x1EE0000 && rf s (a / 0x40 * 0x40) 9 0 == t)
  else if a < 0x3100000 then clusterView s t a
  else
    ownBlock a 0x4001000 0x10 t || ownBlock a 0x6000000 0x40 t ||
      (within 0x6010000 0x6012000 && fnTenancy s (fnOf ((a - 0x6010000) / 4)) == t) ||
      (within 0x6020000 0x6029400 && rf s (a / 4 * 4) 9 0 == t) || ownBlock a 0x60C0000 0x10 t

/-- What a function other than PF0 reads of its view: of the pool, only the entries of its groups (R200, R203). -/
def readView (s : State) (fn : FnId) (a : Nat) : Bool :=
  tenantView s fn a && (decide (a < 0x1640000 ∨ 0x16C0000 ≤ a) ||
    (groupsOfEntry s ((a - 0x1640000) / 4 * 2)).any fun g => fgOwner s g == fnTenancy s fn)

/-- A register write through a function's BAR0. One of the mirror with MIRROR 1 is ignored with an event
(R389); one outside the function's view is discarded and counted (R391). -/
def writeAs (s : State) (fn : FnId) (off : Nat) (f : State → State) : State :=
  postAs s fn fun s =>
    if fn = pf0h1 ∧ mirror s = 1 then ignored s fn off 5
    else if fn.fn = 0 ∨ tenantView s fn off then f s
    else countDrop s (.tenancy (fnTenancy s fn)) rsTenancy

/-- A host read that a function's BAR0 takes; one that cannot reach it is completed with UR. -/
def readAs (s : State) (fn : FnId) (f : State → State) : State :=
  let s := { s with reply := [] }
  if (endpoint s fn.ep).down then s
  else if !reachable s fn then putTlp (unsupported s fn) fn.ep (.unsupported (BitVec.ofNat 16 (routingId fn)))
  else f s

/-! ### Host reads -/

/-- A read cut into requests of at most `max` bytes that cross no 4,096-byte boundary. -/
def splitReads (max : Nat) : Nat → Nat → Nat → List (Nat × Nat)
  | 0, _, _ => []
  | fuel + 1, addr, len =>
    if len = 0 then []
    else
      let n := min len (min max (4096 - addr % 4096))
      (addr, n) :: splitReads max fuel (addr + n) (len - n)

/-- The requests of one read of a function (R386, R423). -/
def readParts (s : State) (fn : FnId) (addr len : Nat) : List (Nat × Nat) :=
  splitReads (min 4096 (max 128 (fnState s fn).maxRead)) (len + 1) addr len

/-- The completion timeout of a function in ticks; 0 means 10 ms (R400). -/
def timeoutTicks (f : FnState) : Nat := if f.timeout = 0 then 2500000 else f.timeout

/-- The lowest free tag (R386). -/
def freeTag (v : EndpointState) : Option Nat :=
  (List.range 4096).find? fun n => (look v.requests n).isNone

/-- One waiting read sent when its function may request and a tag is free; kept otherwise. -/
def issueRead (s : State) (e : Endpoint) (r : FnId × ReadOp × Nat × BitVec 64 × Nat) : State :=
  let v := endpoint s e
  let keep := putEndpoint s e { v with waiting := v.waiting ++ [r] }
  if !mayRequest s r.1 then keep
  else match freeTag v with
    | none => keep
    | some tag =>
      let f := fnState s r.1
      let q : Request :=
        { fn := r.1, generation := f.generation, op := r.2.1, part := r.2.2.1,
          addr := r.2.2.2.1, len := r.2.2.2.2, sent := now s, timeout := timeoutTicks f }
      putTlp (putEndpoint s e { v with requests := place v.requests tag q }) e
        (.read r.1 tag q.addr q.len)

/-- Waiting reads of an endpoint sent in their order, as far as they can be (R402, R412). -/
def issueReads (s : State) (e : Endpoint) : State :=
  let v := endpoint s e
  v.waiting.foldl (fun s r => issueRead s e r) (putEndpoint s e { v with waiting := [] })

/-- A read asked for by an operation. -/
def askRead (s : State) (fn : FnId) (op : ReadOp) (addr len : Nat) (part : Nat := 0) : State :=
  let ps := (readParts s fn addr len).zipIdx part
  let v := endpoint s fn.ep
  issueReads (putEndpoint s fn.ep { v with
    waiting := v.waiting ++ ps.map fun p => (fn, op, p.2, BitVec.ofNat 64 p.1.1, p.1.2) }) fn.ep

/-- Reads that wait only because quarantined tags leave no tag free are counted by the tick
(R402). -/
def countTagWaits (s : State) (e : Endpoint) : State :=
  let v := endpoint s e
  if v.waiting.any (fun r => mayRequest s r.1) && (freeTag v).isNone &&
      v.requests.any (fun q => q.2.quarantined) then count s (hlkAddr e 0x28) else s

/-- Bytes that host reads delivered for an operation, in part order, when all `n` parts are there. -/
def deliveredFor (s : State) (op : ReadOp) (n : Nat) : Option (List Byte) :=
  let got := s.delivered.filter fun d => d.1 == op
  let parts := (List.range n).filterMap fun i => (got.find? fun d => d.2.1 == i).map fun d => d.2.2
  if parts.length = n then some parts.flatten else none

/-- Delivered bytes of an operation removed. -/
def dropDelivered (s : State) (op : ReadOp) : State :=
  { s with delivered := s.delivered.filter fun d => d.1 != op }

/-! ### Rings -/

/-- KIND, ENABLE and size of a ring (R415, R416). -/
def ringKind (s : State) (r : Nat) : Nat := rf s (rngAddr r 4) 2 0
def ringEnabled (s : State) (r : Nat) : Bool := bit (word s (rngAddr r 4)) 3
def ringSize (s : State) (r : Nat) : Nat :=
  let l := rf s (rngAddr r 4) 8 4
  if l = 0 then 0 else 2 ^ l

/-- The ring is enabled, has a size and is of kind `k`. -/
def ringOn (s : State) (r k : Nat) : Bool :=
  ringEnabled s r && ringSize s r != 0 && ringKind s r == k

/-- Completion ring of a ring. -/
def ringCq (s : State) (r : Nat) : Nat := rf s (rngAddr r 0x10) 15 0

/-- Host address of entry `k` of a ring (R416). -/
def ringEntry (s : State) (r k : Nat) : Nat :=
  word64 s (rngAddr r 8) + 32 * (k % max 1 (ringSize s r))

/-- P and D of a ring (R419). -/
def ringProd (s : State) (r : Nat) : Nat := (word s (rngAddr r 0x24)).toNat
def ringDone (s : State) (r : Nat) : Nat := (word s (rngAddr r 0x28)).toNat

/-- The difference of two free-running counts mod 2^32. -/
def sub32 (a b : Nat) : Nat := (a + 2 ^ 32 - b % 2 ^ 32) % 2 ^ 32

/-- Free completion slots of a completion ring (R419). -/
def cqFree (s : State) (cq : Nat) : Nat :=
  if ringOn s cq 3 then ringSize s cq - sub32 (ring s cq).reserved (ringProd s cq) else 0

/-- The next completion slot reserved; the number of the slot since enable. -/
def reserveSlot (s : State) (cq : Nat) : Nat × State :=
  let v := ring s cq
  (v.reserved, putRing s cq { v with reserved := v.reserved + 1 })

/-! ### Interrupts (R433, R434) -/

/-- An MSI-X vector of a function signalled, or its pending bit set. -/
def signalVector (s : State) (fn : FnId) (vector : Nat) : State :=
  let f := fnState s fn
  if f.vecCount ≤ vector then s
  else if f.msix && mayRequest s fn && !f.masked.contains vector then
    putTlp s fn.ep (.msix fn vector)
  else putFn s fn { f with
    pendingVectors := if f.pendingVectors.contains vector then f.pendingVectors
      else f.pendingVectors ++ [vector] }

/-- Pending vectors of a function signalled as far as they now can be (R412, R433). -/
def flushVectors (s : State) (fn : FnId) : State :=
  let f := fnState s fn
  f.pendingVectors.foldl (fun s v => signalVector s fn v) (putFn s fn { f with pendingVectors := [] })

/-- The signal of a completion ring: its vector when INT_EN is 1; its pending count becomes 0. -/
def signalCq (s : State) (cq : Nat) : State :=
  let w := word s (rngAddr cq 0x20)
  let s := match ringOwner s cq with
    | some fn => if bit w 15 then signalVector s fn (fld w 10 0) else s
    | none => s
  putRing s cq { ring s cq with pendingInts := 0 }

/-- A completion written to a ring counts towards its interrupt (R434). -/
def countInterrupt (s : State) (cq : Nat) : State :=
  let v := ring s cq
  let v := { v with
    pendingInts := v.pendingInts + 1,
    firstRound := if v.pendingInts = 0 then round s else v.firstRound }
  let n := rf s (rngAddr cq 0x1C) 15 0
  let s := putRing s cq v
  if n ≤ v.pendingInts then { s with signals := s.signals ++ [(now s + 1, cq)] } else s

/-! ### Completions (R430–R432) -/

/-- What a completion says beside its phase. -/
structure Completion where
  ingress : Nat := 0
  release : Nat := 0
  seqLo : Nat := 0
  seqGroup : Nat := 0
  reason : Nat := 0
  length : Nat := 0
  lateness : Nat := 0
  check : Nat := 0
  crypto : Nat := 0
  flags : Nat := 0
  ring : Nat := 0
  status : Nat := 0
  kind : Nat := 0
  bufs : Nat := 1
  deriving DecidableEq, Repr

/-- The 32 bytes of a completion with its phase (R430). -/
def completionBytes (c : Completion) (phase : Bool) : List Byte :=
  le 8 c.ingress ++ le 8 c.release ++ le 4 c.seqLo ++ le 1 c.seqGroup ++ le 1 c.reason ++
    le 2 c.length ++ le 2 (min c.lateness 65535) ++ le 1 (c.check % 16 + c.crypto % 16 * 16) ++
    le 1 c.flags ++ le 2 c.ring ++
    le 1 (c.status % 16 + c.kind % 8 * 16 + (if phase then 128 else 0)) ++ le 1 c.bufs

/-- Bit `n` as a number. -/
def flagBit (b : Bool) (n : Nat) : Nat := if b then 2 ^ n else 0

/-- The flags byte of a completion from a tag (R430). -/
def completionFlags (t : Tag) (stripped : Bool) : Nat :=
  flagBit (tagFlag t 16) 0 + flagBit (tagFlag t 24) 1 + flagBit (tagFlag t 25) 2 +
    flagBit (tagFlag t 26) 3 + flagBit (tagFlag t 27) 4 + flagBit (tagFlag t 22) 5 +
    flagBit stripped 6 + flagBit (tag64 t 13 != 0) 7

/-- The completion of a frame, from its tag: a sequenced frame carries its number and group, including
when it is refused (R425, R430). -/
def frameCompletion (t : Tag) (kind status reason release lateness ring length bufs : Nat)
    (strip : List Nat := []) : Completion :=
  let seqd := tag64 t 13 != 0
  { ingress := tag64 t 1, release := release,
    seqLo := if seqd then tag64 t 13 % 2 ^ 32
      else strip.getD 0 0 + 65536 * strip.getD 1 0,
    seqGroup := if seqd then tagGroup t else 0,
    reason := reason, length := length, lateness := lateness,
    check := tagFld t 15 23 20, crypto := tagFld t 15 19 16,
    flags := completionFlags t (!strip.isEmpty && !seqd),
    ring := ring, status := status, kind := kind, bufs := bufs }

/-- A completion is due in a tick, in its reserved slot. The phase is 1 on the first pass since enable
and alternates (R430). -/
def scheduleCompletion (s : State) (tick cq slot : Nat) (c : Completion) (ring entries : Nat) :
    State :=
  let phase := slot / max 1 (ringSize s cq) % 2 == 0
  { s with cplDue := s.cplDue ++ [⟨tick, cq, slot, completionBytes c phase, ring, entries⟩] }

/-- One completion written: its bytes into its slot, D of the completion ring and of the ring whose
entries it finishes raised, and its interrupt counted. -/
def writeCompletion (s : State) (d : CplDue) : State :=
  match ringOwner s d.cq with
  | none => s
  | some fn =>
    if !ringOn s d.cq 3 then s
    else
      let s := hostWrite s fn (ringEntry s d.cq d.slot) d.bytes false
      let s := count s (rngAddr d.cq 0x28)
      let s := if d.entries = 0 then s else count s (rngAddr d.ring 0x28) d.entries
      countInterrupt s d.cq

/-- A completion can be written now: its ring's function may write and the endpoint has posted-write
credit (R412). -/
def canWrite (s : State) (r : Nat) : Bool :=
  match ringOwner s r with
  | some fn => mayRequest s fn && !(endpoint s fn.ep).noCredit
  | none => true

/-- Completions due by now are written in order; those that cannot be written yet wait. -/
def flushCompletions (s : State) : State :=
  s.cplDue.foldl (fun s d =>
    if d.tick ≤ now s && canWrite s d.cq then writeCompletion s d
    else { s with cplDue := s.cplDue ++ [d] }) { s with cplDue := [] }

/-- Address of a register of a function's mailbox block (R481). -/
def mbxAddr (fn : FnId) (off : Nat) : Nat := 0x900000 + fnNum fn * 0x800 + off

/-- The interrupt of a function's mailbox pair (R480). -/
def signalMailbox (s : State) (fn : FnId) : State :=
  let w := word s (mbxAddr fn 0x710)
  if bit w 15 then signalVector s fn (fld w 10 0) else s

/-- Interrupt signals due by now. -/
def flushSignals (s : State) : State :=
  (s.signals.filter fun p => decide (p.1 ≤ now s)).foldl
    (fun s p => if p.2 < 65536 then signalCq s p.2 else signalMailbox s (fnOf (p.2 - 65536)))
    { s with signals := s.signals.filter fun p => !decide (p.1 ≤ now s) }

/-- INT_TIMER_EXPIRE: at a round boundary a ring whose timer has run out signals (R434). -/
def intTimerStep (cq : Nat) (s : State) : State :=
  let v := ring s cq
  let t := rf s (rngAddr cq 0x1C) 23 16
  if now s % 256 = 0 ∧ t ≠ 0 ∧ 0 < v.pendingInts ∧ t ≤ round s - v.firstRound then signalCq s cq
  else s

/-- INT_TIMER_EXPIRE (R434). -/
def execIntTimerExpire (cq : Fin 65536) (s : State) : Out := act s (intTimerStep cq.val)

end Sys2Proof.Machine
end

