-- ==== Sys2Proof/Machine/Directory.lean ====
section
/-! DEFINITION. The resource directory of a function's view (R393, R394), and the expansion ROM that holds the UEFI
image and a copy of it (R392). -/

namespace Sys2Proof.Machine

open Sys2Proof

/-- The resource directory of a function's view, with the given CRC: header, entries and an END entry (R393). -/
def directoryWith (s : State) (fn : FnId) (check : Nat) : List Byte :=
  let es := Config.directoryEntries (fn.ep == .h1) fn.fn.val (fnTenancy s fn)
  [0x53, 0x5A, 0x52, 0x44] ++ le 2 1 ++ le 2 es.length ++ le 8 Config.deviceId.toNat ++
    le 2 (fn.fn.val + if fn.ep == .h1 then 1024 else 0) ++ le 2 (fnTenancy s fn) ++ le 4 check ++ le 40 0 ++
    (es.map fun e => (e ++ le 32 0).take 32).flatten ++ le 32 0

/-- The resource directory, with the CRC-32C taken over it while its own field is 0 (R393). -/
def directory (s : State) (fn : FnId) : List Byte := directoryWith s fn (crc .crc32c (directoryWith s fn 0))

/-! ### The expansion ROM (R392)

An access to a function's BAR0 names its offset, which lies below 2^28. An access to byte `o` of a PF's expansion ROM
names the offset 2^32 + o (DESIGN CHOICE: the table's rows for register accesses name no BAR). -/

/-- The offset that stands for byte 0 of the expansion ROM, and the size of the ROM (R390). -/
def romBase : Nat := 2 ^ 32
def romSize : Nat := 2 ^ 20

/-- The place of the directory's copy in the ROM. -/
def romCopy : Nat := 0xF0000

/-- A byte of a PF's expansion ROM: the image from flash, the copy of the PF's directory, and 0 elsewhere. -/
def romByte (s : State) (fn : FnId) (o : Nat) : Byte :=
  if romCopy ≤ o ∧ o < romCopy + (directory s fn).length then (directory s fn).getD (o - romCopy) 0
  else Config.romImage.getD o 0

/-- Bytes of the ROM, at any offset and of any length. -/
def romBytes (s : State) (fn : FnId) (o len : Nat) : List Byte := (List.range len).map fun k => romByte s fn (o + k)

/-- The device answers for bytes of a PF's ROM: its BAR is enabled, and they lie within the ROM. -/
def romOpen (s : State) (fn : FnId) (o len : Nat) : Bool :=
  reachable s fn && decide (fn.fn.val < 4) && (endpoint s fn.ep).romEnabled.contains fn.fn.val &&
    decide (o + len ≤ romSize)

/-- A read of 4 or 8 bytes of the ROM, of any alignment; one that the ROM does not answer is completed with UR. -/
def romRead (fn : FnId) (off : Nat) (wide : Bool) (s : State) : State :=
  let o := off - romBase
  let s := { s with reply := [] }
  if (endpoint s fn.ep).down then s
  else if !romOpen s fn o (if wide then 8 else 4) then
    putTlp (unsupported s fn) fn.ep (.unsupported (BitVec.ofNat 16 (routingId fn)))
  else
    let at_ := fun (o : Nat) => BitVec.ofNat 32 (leNat (romBytes s fn o 4))
    { s with reply := if wide then [at_ o, at_ (o + 4)] else [at_ o] }

/-- A write to the ROM is discarded with an event; one that the ROM does not answer is an Unsupported Request. -/
def romWrite (fn : FnId) (off : Nat) (s : State) : State :=
  if (endpoint s fn.ep).down then s
  else if !romOpen s fn (off - romBase) 1 then unsupported s fn
  else ignoredAt s (sourceOf (hlkAddr fn.ep 0)) fn off 5

/-- A read through BAR0, or of the ROM. -/
def readAt (s : State) (fn : FnId) (off : Nat) (wide : Bool) (f : State → State) : State :=
  if romBase ≤ off then romRead fn off wide s else readAs s fn f

end Sys2Proof.Machine
end

