-- ==== Sys2Proof/Machine/PortBase.lean ====
section
/-! DEFINITION. Port registers, modes and delays, frame fields on the wire, and the ingress buffer with
the pause frames that its occupancy sends (R44, R299–R300, R310, R312–R313). -/

namespace Sys2Proof.Machine

open Sys2Proof

/-- Address of a port register and of a group register (R316). -/
def macAddr (p off : Nat) : Nat := 0x1400000 + p * 0x1000 + off
def grpAddr (g off : Nat) : Nat := 0x1410000 + g * 0x40 + off

/-- Port counter `n` of R316 raised. -/
def macCount (s : State) (p n : Nat) (by_ : Nat := 1) : State := count64 s (macAddr p (0x400 + 8 * n)) by_

/-- Rate in Gb/s of a port under a group mode; 0: the mode does not use the port (R299). -/
def modeRate (mode p : Nat) : Nat :=
  match mode with
  | 1 => if p % 4 = 0 then 800 else 0
  | 2 => if p % 2 = 0 then 400 else 0
  | 3 => 200
  | 4 => 100
  | 5 => 50
  | 6 => 25
  | 7 => 10
  | _ => 0

/-- Receive and transmit delay of a rate and FEC (R44, R300). FEC 1 is RS(272,257). -/
def modeDelays (rate fec : Nat) : Nat × Nat :=
  match rate with
  | 800 => (12, 8)
  | 400 => (16, 10)
  | 200 => if fec = 1 then (10, 6) else (20, 12)
  | 100 => if fec = 1 then (12, 8) else (24, 14)
  | 50 => (32, 16)
  | 25 => (3, 2)
  | 10 => (4, 3)
  | _ => (0, 0)

/-- Mode of a port's group in force. -/
def portMode (s : State) (p : Nat) : Nat := rf s (grpAddr (p / 4) 0) 2 0

/-- Rate of a port in Gb/s. -/
def portRate (s : State) (p : Nat) : Nat := modeRate (portMode s p) p

/-- MAC_CTRL fields. -/
def portEnabled (s : State) (p : Nat) : Bool := bit (word s (macAddr p 0)) 0
def portFec (s : State) (p : Nat) : Nat := rf s (macAddr p 0) 5 4
def portLpiEn (s : State) (p : Nat) : Bool := bit (word s (macAddr p 0)) 7

/-- Low-power idle is available on a PHY type: 10GBASE-KR, 25GBASE-KR-S and 25GBASE-CR-S (R315). -/
def lpiType (mode media : Nat) : Bool := (mode == 7 && media == 1) || (mode == 6 && decide (media < 2))

/-- f_rx and f_tx of a port (R44); with LPI_EN the wake time is part of f_tx (R315). -/
def frx (s : State) (p : Nat) : Nat := (modeDelays (portRate s p) (portFec s p)).1
def ftx (s : State) (p : Nat) : Nat :=
  (modeDelays (portRate s p) (portFec s p)).2 +
    if portLpiEn s p && lpiType (portMode s p) (rf s (macAddr p 0) 3 2) then 1120 else 0

/-- Link up of a port. -/
def linkUp (s : State) (p : Nat) : Bool := bit (word s (macAddr p 8)) 0

/-- Ticks of a pause of `q` quanta at a rate (R310). -/
def pauseTicks (rate q : Nat) : Nat := if rate = 0 then 0 else ceilDiv (q * 512) (rate * 4)

/-! ### Frame fields -/

/-- EtherType or TPID at a frame offset. -/
def etherAt (bs : List Byte) (off : Nat) : Nat := beAt bs off 2

/-- Is a 16-bit value an 802.1Q or 802.1ad TPID? -/
def isTpid (v : Nat) : Bool := v == 0x8100 || v == 0x88A8

/-- VLAN tags after the source address, outermost first: their TCIs (at most two). -/
def vlanTags (bs : List Byte) : List Nat :=
  if isTpid (etherAt bs 12) then
    beAt bs 14 2 :: (if isTpid (etherAt bs 16) then [beAt bs 18 2] else [])
  else []

/-- PCP of the outer tag; 0 for a frame with none. -/
def outerPcp (bs : List Byte) : Nat := (vlanTags bs).headD 0 / 8192

/-- A tag inserted after the source address. -/
def insertTag (bs : List Byte) (tpid tci : Nat) : List Byte :=
  bs.take 12 ++ be 2 tpid ++ be 2 tci ++ bs.drop 12

/-- The outer tag removed. -/
def removeTag (bs : List Byte) : List Byte := bs.take 12 ++ bs.drop 16

/-- Bytes padded with zeros to a least length (R194, R305, R422). -/
def padTo (n : Nat) (bs : List Byte) : List Byte := bs ++ List.replicate (n - bs.length) 0

/-- Cells of 256 bytes that a frame occupies with its tag (R249, R330). -/
def cellsOf (length : Nat) : Nat := ceilDiv (length + 64) 256

/-- The largest frame, without FCS (R57). -/
def maxLength : Nat := 16380

/-! ### Pause frames (R312) -/

/-- Source address of the port's own control frames (R312). -/
def pauseSource (s : State) (p : Nat) : List Byte :=
  let hi := word s (macAddr p 0x24)
  if bit hi 31 && !bit hi 8 then be 2 (fld hi 15 0) ++ be 4 (word s (macAddr p 0x20)).toNat
  else be 6 (Config.portAddress p).toNat

/-- A link pause or PFC frame, padded and with its FCS. -/
def pauseFrame (s : State) (p : Nat) (prio : Option Nat) (quanta : Nat) : List Byte :=
  let head := be 6 0x0180C2000001 ++ pauseSource s p ++ be 2 0x8808
  let body := match prio with
    | none => be 2 0x0001 ++ be 2 quanta
    | some q => be 2 0x0101 ++ be 2 (2 ^ q) ++
        (List.range 8).flatMap fun i => be 2 (if i = q then quanta else 0)
  let frame := padTo 60 (head ++ body)
  frame ++ crcBytes .crc32 (crc .crc32 frame)

/-- Bit time, in 1/100 ns, of the start of a tick: every bit of every rate falls on a whole one. -/
def bitTime (tick : Nat) : Nat := tick * 400

/-- Wire time of `bytes` on a port, in 1/100 ns (R319). -/
def wireTime (s : State) (p bytes : Nat) : Nat :=
  if portRate s p = 0 then 0 else bytes * 800 / portRate s p

/-- The device's own control frame follows the frames already started, whatever the pause state
(R311). -/
def sendControl (s : State) (p : Nat) (bytes : List Byte) : State :=
  let v := port s p
  let start := max (bitTime (now s + ftx s p)) v.started
  let stop := start + wireTime s p (bytes.length + 20)
  putPort s p { v with
    sent := v.sent ++ [⟨start / 400, bytes⟩],
    started := stop,
    wireFree := max v.wireFree stop }

/-- A pause (none) or PFC frame sent by a port, and counted. -/
def sendPause (s : State) (p : Nat) (prio : Option Nat) (quanta : Nat) : State :=
  let s := match prio with
    | none => macCount s p 13
    | some q => count64 s (macAddr p (0x508 + q * 0x10))
  sendControl s p (pauseFrame s p prio quanta)

/-- TX_PAUSE: 1 link pause, 2 PFC. -/
def txPause (s : State) (p : Nat) : Nat := rf s (macAddr p 0) 11 10

/-- Cells of one priority, and of the whole port. -/
def cellsAt (v : PortState) (q : Nat) : Nat := v.cells.getD q 0
def cellsTotal (v : PortState) : Nat := v.cells.foldl (· + ·) 0

/-- The account of a priority: the port's as a whole under q = 0 unless PFC sends for the priority
(R312, R313). -/
def bufferKey (s : State) (p q : Nat) : Nat :=
  if txPause s p = 2 ∧ bit (word s (macAddr p 0x18)) q then q else if txPause s p = 2 then q else 0

/-- Occupancy under an account. -/
def occupancy (s : State) (p key : Nat) : Nat :=
  if txPause s p = 2 then cellsAt (port s p) key else cellsTotal (port s p)

/-- Limit of an account: XOFF + HEADROOM where pause is sent for it, XOFF alone otherwise (R313). -/
def bufferLimit (s : State) (p key : Nat) : Nat :=
  let xoff := rf s (macAddr p (0x100 + key * 16)) 15 0
  let head := rf s (macAddr p (0x108 + key * 16)) 11 0
  let sends := txPause s p = 1 ∨ (txPause s p = 2 ∧ bit (word s (macAddr p 0x18)) key)
  if sends then xoff + head else xoff

/-- Pause is sent for an account at all. -/
def sendsPause (s : State) (p key : Nat) : Bool :=
  txPause s p == 1 || (txPause s p == 2 && bit (word s (macAddr p 0x18)) key)

/-- The kind of pause frame of an account. -/
def pauseKind (s : State) (p key : Nat) : Option Nat := if txPause s p = 2 then some key else none

/-- Occupancy shown in MAC_OCCUPANCY. -/
def showOccupancy (s : State) (p key : Nat) : State :=
  setRf s (macAddr p (0x10C + key * 16)) 15 0 (occupancy s p key)

/-- Cells taken in the ingress buffer; pause is sent when XOFF is reached (R312). -/
def takeCells (s : State) (p q n : Nat) : State :=
  let v := port s p
  let s := putPort s p { v with cells := v.cells.set q (cellsAt v q + n) }
  let key := bufferKey s p q
  let s := showOccupancy s p key
  let xoff := rf s (macAddr p (0x100 + key * 16)) 15 0
  let v := port s p
  if sendsPause s p key && decide (xoff ≤ occupancy s p key) && !v.xoff.any (fun x => x.1 == key) then
    let quanta := rf s (macAddr p 0x14) 15 0
    let s := putPort s p { v with xoff := v.xoff ++ [(key, now s)] }
    if quanta = 0 then s else sendPause s p (pauseKind s p key) quanta
  else s

/-- Cells given back; a time-0 frame is sent once when occupancy falls below XON (R312). -/
def freeCells (s : State) (p q n : Nat) : State :=
  let v := port s p
  let s := putPort s p { v with cells := v.cells.set q (cellsAt v q - n) }
  let key := bufferKey s p q
  let s := showOccupancy s p key
  let xon := rf s (macAddr p (0x104 + key * 16)) 15 0
  let v := port s p
  if v.xoff.any (fun x => x.1 == key) && decide (occupancy s p key < xon) then
    sendPause (putPort s p { v with xoff := v.xoff.filter fun x => x.1 != key }) p
      (pauseKind s p key) 0
  else s

/-- A frame's cells in the ingress buffer given back. -/
def freeBuffer (s : State) (f : Frame) : State :=
  match f.buffered with
  | some b => freeCells s b.1 b.2.1 b.2.2
  | none => s

/-! ### Link-status AENs (R504) -/

/-- The AEN of a change of the link of P0–P3, where its channel enabled it. -/
def linkAen (s : State) (p : Nat) : State :=
  let c := (look s.ncsi p).getD {}
  if p < 4 ∧ c.initialised ∧ c.aenMask % 2 = 1 then
    { s with mgmt := s.mgmt ++ [⟨p, 0xFF, 0, 0, Config.ncsiPayload 0xFF p (linkUp s p) c.settings⟩] }
  else s

end Sys2Proof.Machine
end

