-- ==== Sys2Proof/Machine/Frames.lean ====
section
/-! DEFINITION. How a frame ends: handed to its destination or dropped with exactly one reason, with
the completion of its send descriptor, its ledger record and its lateness counts (R25, R52–R54, R281,
R425). -/

namespace Sys2Proof.Machine

open Sys2Proof

/-- Address of a path-class register and of a tenancy's lateness block (R55). -/
def pcAddr (c off : Nat) : Nat := 0x1A09000 + c * 0x40 + off
def lateAddr (t off : Nat) : Nat := 0x1A0A000 + t * 0x20 + off

/-- A LATE frame counted for its path class and its tenancy (R54). -/
def countLate (s : State) (cls tenancy lateness : Nat) : State :=
  let s := count64 s (pcAddr cls 0x20)
  let s := count64 s (pcAddr cls 0x28) lateness
  let s := setWord s (pcAddr cls 0x30)
    (BitVec.ofNat 32 (min (2 ^ 32 - 1) (max (word s (pcAddr cls 0x30)).toNat lateness)))
  let s := count64 s (lateAddr tenancy 0)
  let s := count64 s (lateAddr tenancy 8) lateness
  setWord s (lateAddr tenancy 0x10)
    (BitVec.ofNat 32 (min (2 ^ 32 - 1) (max (word s (lateAddr tenancy 0x10)).toNat lateness)))

/-- Items of a send ring that are not `pos`. -/
def withoutItem (s : State) (r pos : Nat) : State :=
  let v := ring s r
  putRing s r { v with items := v.items.filter fun i => i.pos != pos }

/-- An item of a send ring. -/
def item? (s : State) (r pos : Nat) : Option SendItem := (ring s r).items.find? fun i => i.pos == pos

/-- An item of a send ring changed. -/
def setItem (s : State) (r pos : Nat) (f : SendItem → SendItem) : State :=
  let v := ring s r
  putRing s r { v with items := v.items.map fun i => if i.pos = pos then f i else i }

/-- The completion of a send or control descriptor, due in the next tick; the item is finished
(R425). -/
def finishItem (s : State) (r pos : Nat) (tick : Nat) (c : Completion) : State :=
  match item? s r pos with
  | none => s
  | some i =>
    let s := withoutItem s r pos
    match i.slot with
    | none => s
    | some slot => scheduleCompletion s tick (ringCq s r) slot { c with ring := r, bufs := 1 } r 1

/-- The send descriptor of a frame completed with its release (R425). -/
def completeSent (s : State) (f : Frame) (status reason : Nat) (release : Nat) (lateness : Nat) :
    State :=
  match f.sendPos with
  | none => s
  | some p =>
    if f.copyOf.isSome then s
    else
      let c := frameCompletion f.tag 0 status reason release lateness p.1
        (if status = 0 then tagLength f.tag else 0) 1
      finishItem (if status = 0 then s else count s (rngAddr p.1 0x30)) p.1 p.2 (now s + 1) c

/-- Where a drop at a frame's tenancy is counted. -/
def atTenancy (f : Frame) : DropAt := .tenancy (tagTenancy f.tag)

/-- The release engine holds the frame, a ring's waiting frames among them (R237, R428). -/
def heldStage : Stage → Bool
  | .held | .member _ | .ring _ => true
  | _ => false

/-- Frames of a flow whose due tick has come while an earlier one was still held wait until the tick after it
leaves (R53). -/
def leaveFlow (s : State) (f : Frame) : State :=
  { s with frames := s.frames.map fun p =>
      if heldStage p.2.stage ∧ p.2.flow = f.flow ∧ f.order < p.2.order ∧ p.2.due ≤ now s then
        (p.1, { p.2 with notBefore := now s + 1 })
      else p }

/-- The thread that still runs on the frame of number `root`. -/
def threadOn (s : State) (root : Nat) : Option (Nat × Thread) := s.threads.find? fun p => p.2.frame == some root

/-- The ingress-buffer cells of a frame that leaves: kept for its thread until DONE, and for a copy of the frame that
has not left; free when there is neither (R152). -/
def leaveBuffer (s : State) (f : Frame) : State :=
  let root := if f.origin = 0 then f.id else f.origin - 1
  if f.buffered.isNone then s
  else match threadOn s root with
    | some (k, th) => { s with threads := place s.threads k { th with cells := f.buffered } }
    | none => match s.frames.find? fun p => p.2.origin == root + 1 && p.1 != f.id with
      | some p => putFrame s { p.2 with buffered := f.buffered }
      | none => freeBuffer s f

/-- The frame leaves the device's keeping: its record is gone, and its buffer cells are left (R152). -/
def endFrame (s : State) (f : Frame) : State :=
  let s := leaveBuffer s f
  dropFrameRec (match f.stage with
    | .queue _ | .wire _ => s
    | _ => leaveFlow s f) f.id

/-- A frame dropped under a reason: counted once at its place, its send descriptor completed FAILED,
and, when it carries CAPTURE past the classifier stage, recorded with the reason (R25, R281, R425). -/
def dropFrame (s : State) (f : Frame) (w : DropAt) (reason : Nat) : State :=
  let s := countDrop s w reason
  let s := match w with
    | .ring r => count s (rngAddr r 0x30)
    | _ => s
  let f := { f with tag := setTag f.tag 15 31 24 reason }
  let s := completeSent s f 2 reason (compactNow s).toNat 0
  let s := if captured f then recordFrame s f reason (compactNow s) 0 true else s
  endFrame s f

/-- As `dropFrame` for a frame by number. -/
def dropById (s : State) (id : Nat) (w : Frame → DropAt) (reason : Nat) : State :=
  match frame? s id with
  | some f => dropFrame s f (w f) reason
  | none => s

/-- Every frame that satisfies `p` dropped. -/
def dropAll (s : State) (p : Frame → Bool) (w : Frame → DropAt) (reason : Nat) : State :=
  (s.frames.filter fun q => p q.2).foldl (fun s q => dropFrame s q.2 (w q.2) reason) s


end Sys2Proof.Machine
end

