-- ==== Sys2Proof/Machine/Shadow.lean ====
section
/-! DEFINITION. Shadow registers and commit requests: what a GO takes, when it takes effect, and the
configuration versions that a block holds (R26, R39–R41, R513–R515). -/

namespace Sys2Proof.Machine

open Sys2Proof

/-- Bits `mask` of `old` replaced by those of `val`. -/
def blend (old mask val : Word) : Word := (old &&& ~~~mask) ||| (val &&& mask)

/-- Mask of bits [hi:lo]. -/
def maskOf (hi lo : Nat) : Word := setFld 0 hi lo (2 ^ (hi + 1 - lo) - 1)

/-- Model address of a register of which every function has its own copy (R202, R336, R355, R481). -/
def fnWordAddr (fn : FnId) (off : Nat) : Nat := 0x1000000000 + fnNum fn * 0x10000000 + off

/-- Bits of a shadow field written by a function; they join its uncommitted values (R39, R514). -/
def writeShadow (s : State) (b : Blk) (fn : FnId) (a : Nat) (mask val : Word) : State :=
  if s.shadow.any fun x => x.blk == b && x.fn == fn && x.addr == a then
    { s with shadow := s.shadow.map fun x =>
        if x.blk = b ∧ x.fn = fn ∧ x.addr = a then
          { x with mask := x.mask ||| mask, val := blend x.val mask val } else x }
  else { s with shadow := s.shadow ++ [⟨b, fn, a, mask, val &&& mask⟩] }

/-- The word as the function's commit would leave it: the value in force, commits of the function that
are still pending, and its uncommitted values (R10, R514). -/
def shadowWord (s : State) (b : Blk) (fn : FnId) (a : Nat) : Word :=
  let w := s.commits.foldl (fun w c =>
    if c.blk = b ∧ c.fn = fn then
      c.writes.foldl (fun w x => if x.1 = a then blend w x.2.1 x.2.2 else w) w else w) (word s a)
  s.shadow.foldl (fun w x =>
    if x.blk = b ∧ x.fn = fn ∧ x.addr = a then blend w x.mask x.val else w) w

/-- Field [hi:lo] of `shadowWord`. -/
def shadowFld (s : State) (b : Blk) (fn : FnId) (a hi lo : Nat) : Nat := fld (shadowWord s b fn a) hi lo

/-- A commit requested in this tick: the function's uncommitted values are taken, to take effect under
R40. -/
def requestCommit (s : State) (b : Blk) (fn : FnId) (what : CommitWhat) : State :=
  let mine := s.shadow.filter fun x => x.blk == b && x.fn == fn
  { s with
    shadow := s.shadow.filter fun x => !(x.blk == b && x.fn == fn),
    commits := s.commits ++ [
      ⟨b, fn, now s, effectRound (now s), mine.map fun x => (x.addr, x.mask, x.val), what, 0⟩] }

/-- A commit of the block, by the function, is not yet in effect. -/
def commitPending (s : State) (b : Blk) (fn : FnId) : Bool :=
  s.commits.any fun c => c.blk == b && c.fn == fn

/-- Any commit of the block is not yet in effect. -/
def blockPending (s : State) (b : Blk) : Bool := s.commits.any fun c => c.blk == b

/-- Governing rounds of the frames and published descriptors inside the device (R21, R26). -/
def governingRounds (s : State) : List Nat :=
  s.frames.map (fun p => p.2.round) ++
    s.threads.filterMap (fun p => if p.2.frame.isSome then p.2.base.map (·.round) else none) ++
    s.rings.flatMap fun p => p.2.items.map fun i => i.round

/-- The earliest round that a frame inside the device, or still arriving at a port, is governed by. -/
def oldestRound (s : State) : Nat := (governingRounds s).foldl min (round s - 1)

/-- The effect round of the version of a block that governs round `r`. -/
def versionAt (s : State) (b : Blk) (r : Nat) : Nat :=
  s.versions.foldl (fun m v => if v.1 = b ∧ v.2 ≤ r then max m v.2 else m) 0

/-- Configuration versions that a block holds: the one in force and those that still govern frames
(R41). -/
def heldVersions (s : State) (b : Blk) : Nat :=
  ((versionAt s b (round s)) :: (governingRounds s).map fun r => versionAt s b r).eraseDups.length

/-- A block can take no further version at this boundary: it holds four, and none of them is this boundary's own, to
which commits of the same boundary belong too (R41; DEDUCED: R41's table applies two commits at one boundary). -/
def versionsFull (s : State) (b : Blk) : Bool :=
  decide (4 ≤ heldVersions s b) && versionAt s b (round s) != round s

/-- A word of configuration changed from the current round on; frames of earlier rounds go on reading
the value before (R26). -/
def setConfig (s : State) (a : Nat) (w : Word) : State :=
  setWord { s with undo := s.undo ++ [⟨round s, a, word s a⟩] } a w

/-- Values that no frame consults any more retire (R41). -/
def retireVersions (s : State) : State :=
  let r := oldestRound s
  { s with
    undo := s.undo.filter fun u => decide (r < u.round),
    versions := s.versions.filter fun v => decide (r < v.2 ∨ v.2 = versionAt s v.1 r) }

/-- The words of a commit come into force. -/
def applyWrites (s : State) (c : Commit) : State :=
  c.writes.foldl (fun s w => setConfig s w.1 (blend (word s w.1) w.2.1 w.2.2)) s

/-- Lock `n` of R447 has been requested: the registers that it guards behave as read-only (R448). -/
def lockAsked (s : State) (n : Nat) : Bool := bit (word s 0x200000) n

/-- A write ignored because a lock guards its register (R10, R448). -/
def deniedByLock (s : State) (fn : FnId) (a : Nat) : State :=
  let s := setWord (count s 0x200010) 0x200014 (BitVec.ofNat 32 (a % 2 ^ 28))
  ignored (setWord s 0x200018 (BitVec.ofNat 32 (fn.fn.val + Endpoint.num fn.ep * 1024))) fn a 2

/-- REFUSAL, bits [15:8] of a block's status register, set by a GO (R515). -/
def setRefusal (s : State) (a code : Nat) : State := setRf s a 15 8 code

end Sys2Proof.Machine
end

