-- ==== Sys2Proof/Machine/Mailbox.lean ====
section
/-! DEFINITION. Mailbox channels between functions or threads and the management firmware
(R471–R482). -/

namespace Sys2Proof.Machine

open Sys2Proof

/-- Number of a pair: functions 0–2,047, threads from 2,048 on. -/
def pairNum : Pair → Nat
  | .ofFn f => fnNum f
  | .ofThread t => 2048 + tidNum t

/-- STAGE of RST_STAGE: 0 Daybreak, 1 Forenoon, 2 Noon, 3 held (R470). -/
def stage (s : State) : Nat := rf s 0x100000 2 0

/-- The interrupt of a function's pair is due in the next tick (R480). -/
def mailboxSignal (s : State) (p : Pair) : State :=
  match p with
  | .ofFn f => { s with signals := s.signals ++ [(now s + 1, 65536 + fnNum f)] }
  | .ofThread _ => s

/-- Function, endpoint and pair bits of a MAILBOX event's detail (R485). -/
def pairDetail (p : Pair) (toHost : Bool) (reason : Nat) : Nat :=
  (match p with
    | .ofFn f => f.fn.val + flagBit (f.ep == .h1) 12
    | .ofThread t => tidNum t % 4096 + flagBit true 13) + flagBit toHost 14 + reason * 65536

/-- Tenancy of a pair (R471). -/
def pairTenancy (s : State) : Pair → Nat
  | .ofFn f => fnTenancy s f
  | .ofThread t => tidTenancy s t

/-- MBX reason codes. -/
def rsMailboxBusy : Nat := 0x90
def rsReceiverReset : Nat := 0x91
def rsReceiverAsleep : Nat := 0x92
def rsNoResponse : Nat := 0x93

/-- A message posted in a channel in this tick (R473). -/
def postMsg (s : State) (c : Channel) (m : Msg) : Channel :=
  { c with msg := some m, full := true, opened := false, timeout := false, reason := 0,
           post := now s, held := 0 }

/-- A message taken: FULL and OPENED clear (R474). -/
def takeMsg (c : Channel) : Channel :=
  { c with full := false, opened := false, timeout := false, reason := 0, last := c.msg, msg := none }

/-- A message discarded by its sender (R476). -/
def withdrawMsg (c : Channel) : Channel :=
  { c with full := false, timeout := false, msg := none }

/-- The message that a function's H2F buffer holds (R472). -/
def h2fMsg (s : State) (fn : FnId) : Msg :=
  let n := rf s (mbxAddr fn 0) 9 0
  ⟨word s (mbxAddr fn 4),
    (wordBytes ((List.range 128).map fun k => word s (mbxAddr fn (8 + 4 * k)))).take n⟩

/-- The busy reason of a posted message: MAILBOX_BUSY, or the timeout reason when it has timed out
(R478). -/
def busyReason (c : Channel) : Nat := if c.timeout then c.reason else rsMailboxBusy

/-- SEND: the doorbell of a function's H2F channel (R473, R478). -/
def sendStep (fn : FnId) (s : State) : State :=
  let n := fnNum fn
  let m := mailbox s n
  if m.up.full then
    count (putMailbox s n { m with up := { m.up with reason := busyReason m.up } }) (mbxAddr fn 0x71C)
  else if 512 < rf s (mbxAddr fn 0) 9 0 then
    putMailbox s n { m with up := { m.up with reason := rsBadDescriptor } }
  else count (putMailbox s n { m with up := postMsg s m.up (h2fMsg s fn) }) (mbxAddr fn 0x714)

/-- WITHDRAW of a function's posted message (R476). -/
def withdrawStep (fn : FnId) (s : State) : State :=
  let m := mailbox s (fnNum fn)
  if m.up.full && !m.up.opened then putMailbox s (fnNum fn) { m with up := withdrawMsg m.up } else s

/-- Header and payload bytes of a message, padded to its buffer of 520 bytes (R472). -/
def msgBytes (m : Msg) : List Byte :=
  le 2 m.payload.length ++ le 2 0 ++ le 4 m.cookie.toNat ++ slice m.payload 0 512

/-- The message that an F2H buffer shows: the posted one, or the one last taken (R474). -/
def shownMsg (c : Channel) : Option Msg := if c.full then c.msg else c.last

/-- Word of the F2H buffer at an offset of the block. -/
def f2hWord (s : State) (fn : FnId) (off : Nat) : Word :=
  match shownMsg (mailbox s (fnNum fn)).down with
  | some m => if 0x400 ≤ off ∧ off < 0x608 then BitVec.ofNat 32 (leAt (msgBytes m) (off - 0x400) 4) else 0
  | none => 0

/-- Offset in the block of the last word of a message (R474). -/
def lastWordOff (m : Msg) : Nat :=
  if m.payload.isEmpty then 0x404 else 0x408 + (m.payload.length - 1) / 4 * 4

/-- A host read of its own F2H buffer: OPENED at header bytes 0–3, FULL cleared by the last word
(R474). -/
def f2hRead (fn : FnId) (off : Nat) (wide : Bool) (s : State) : State :=
  let n := fnNum fn
  let words := if wide then [f2hWord s fn off, f2hWord s fn (off + 4)] else [f2hWord s fn off]
  let covers := fun (o : Nat) => o == off || (wide && o == off + 4)
  let m := mailbox s n
  let s := { s with reply := words }
  match m.down.msg with
  | none => s
  | some msg =>
    if !m.down.full then s
    else if covers (lastWordOff msg) then putMailbox s n { m with down := takeMsg m.down }
    else if covers 0x400 then putMailbox s n { m with down := { m.down with opened := true } }
    else s

/-- MBX_F2H_READ; a read that is not aligned clears nothing (R13, R474). -/
def f2hReadStep (fn : FnId) (off : Nat) (wide : Bool) (s : State) : State :=
  alignedRead fn (mbxAddr fn off) wide (f2hRead fn off wide) s

/-- A message put into the firmware's outgoing queue of a function; the 65th is discarded (R479). -/
def fwAnswer (s : State) (fn : FnId) (m : Msg) : State :=
  let v := mailbox s (fnNum fn)
  if v.queue.length < 64 then putMailbox s (fnNum fn) { v with queue := v.queue ++ [m] }
  else event (count s 0x502100) srcRecorder evMailbox (pairDetail (.ofFn fn) true 0)
    (fnTenancy s fn) 0

/-- Statuses of R173. -/
def ldDone : Nat := 0
def ldBusy : Nat := 1
def ldFormat : Nat := 2
def ldCertificate : Nat := 3
def ldUnknownKey : Nat := 4
def ldSignature : Nat := 5
def ldWrongClass : Nat := 6
def ldCode : Nat := 7
def ldOverBudget : Nat := 8
def ldParse : Nat := 9
def ldTree : Nat := 10
def ldMismatch : Nat := 11
def ldNotOpen : Nat := 12
def ldPartition : Nat := 13
def ldThreads : Nat := 14
def ldCalendar : Nat := 15
def ldConstant : Nat := 16
def ldSpace : Nat := 17
def ldPlacement : Nat := 18
def ldReadFailed : Nat := 19

/-- Requests of R170. -/
def rqLoad : Nat := 1
def rqUnload : Nat := 2
def rqClass : Nat := 3

/-- The answer to a request: the counters of the sender's tenancy, the event, and the message to the sender (R171,
R177). The event concerns the class's owner where PF0 of H0 asked, and else the sender's tenancy, which owns the class
or has been refused (R170, R176, R484). -/
def loaderAnswer (s : State) (j : LoadJob) (status detail_ rnd : Nat) : State :=
  let t := fnTenancy s j.fn
  let a := 0x60C0000 + t * 0x10
  let s := if status = ldDone then count s a else count s (a + 4)
  let s := setWord s (a + 8) (BitVec.ofNat 32 (status + j.cls % 64 * 256))
  let owner := if j.fn = pf0 ∧ j.cls < 64 then (pathNow s j.cls).owner else t
  let s := event s srcFirmware evLoader (j.req + status * 256 + j.cls % 256 * 65536 + detail_ % 2 ^ 32 * 2 ^ 32) owner
  if j.discard then s
  else fwAnswer s j.fn ⟨j.cookie, le 1 j.req ++ le 1 status ++ le 2 0 ++ le 4 detail_ ++ le 8 rnd⟩

/-- The answer to a request of R458, with its event (R171). -/
def fwReply (s : State) (fn : FnId) (cookie : BitVec 32) (req status : Nat) : State :=
  let s := event s srcFirmware evLoader (req + status * 256) (fnTenancy s fn)
  fwAnswer s fn ⟨cookie, le 1 req ++ le 1 status ++ List.replicate 14 0⟩

/-- F2H_POST: the next queued message is posted once FULL is clear (R479). -/
def f2hPostStep (p : Pair) (s : State) : State :=
  let v := mailbox s (pairNum p)
  match v.queue with
  | [] => s
  | m :: rest =>
    if v.down.full then s
    else mailboxSignal (putMailbox s (pairNum p) { v with
      queue := rest, down := postMsg s v.down m }) p

/-- The firmware, or the boot ROM for PF0 of H0, serves a pair in the present stage; during a handover
posted messages stay posted (R469, R479). -/
def firmwareServes (s : State) (p : Pair) : Bool :=
  s.handover.isNone && (stage s == 2 || p == .ofFn pf0)

/-- Requests that the firmware knows: the loader's, and those of R458 and R489 (R170). -/
def knownRequests : List Nat := [0x01, 0x02, 0x03, 0x10, 0x11, 0x12, 0x13, 0x14, 0x15, 0x20]

/-- The loader's request that a message is, for its answer. -/
def jobOf (t : Taken) : LoadJob :=
  { fn := t.fn, cookie := t.msg.cookie, req := leAt t.msg.payload 0 1, cls := leAt t.msg.payload 16 1,
    discard := t.discard }

/-- A message that the firmware has taken: a request that it knows waits to be served, any other is refused with
NOT_OPEN; outside Noon all but FW_STAGE, and SPDM from Forenoon on, are answered BUSY (R170, R458, R460, R479). -/
def takeRequest (s : State) (fn : FnId) (m : Msg) : State :=
  let req := leAt m.payload 0 1
  let t : Taken := { fn := fn, msg := m, tick := now s }
  if req = 0x20 ∧ (stage s = 1 ∨ stage s = 2) then s
  else if req ≠ 0x10 ∧ stage s ≠ 2 then
    if req < 0x10 then loaderAnswer s (jobOf t) ldBusy 0 0 else fwReply s fn m.cookie req ldBusy
  else if knownRequests.contains req then { s with taken := s.taken ++ [t] }
  else loaderAnswer s (jobOf t) ldNotOpen 0 0

/-- FIRMWARE_TAKE: the firmware takes a posted message (R474, R479). -/
def firmwareTakeStep (p : Pair) (s : State) : State :=
  let v := mailbox s (pairNum p)
  if v.up.full && firmwareServes s p then
    let s := mailboxSignal (putMailbox s (pairNum p) { v with up := takeMsg v.up }) p
    match p, v.up.msg with
    | .ofFn fn, some m => takeRequest s fn m
    | _, _ => s
  else s

/-- A request that the firmware has taken from a function's channel: with the cookie and the request byte, and a
payload that the command spells. The answers of a request go to its sender. -/
def takenRequest (s : State) (fn : FnId) (cookie : BitVec 32) (req : Nat) (fits : List Byte → Bool) : Option Taken :=
  s.taken.find? fun t => t.fn == fn && t.msg.cookie == cookie && leAt t.msg.payload 0 1 == req && fits t.msg.payload

/-- A request that the firmware serves now: one that it has taken, outside a handover (R469, R479). -/
def onTaken (fn : FnId) (cookie : BitVec 32) (req : Nat) (fits : List Byte → Bool) (f : Taken → State → State)
    (s : State) : State :=
  if s.handover.isSome then s
  else match takenRequest s fn cookie req fits with
    | none => s
    | some t => f t { s with taken := s.taken.erase t }

/-- The answer to a request of R458 that the firmware has taken; one whose sender was reset since is discarded. -/
def replyTo (s : State) (t : Taken) (status : Nat) : State :=
  let req := leAt t.msg.payload 0 1
  if t.discard then event s srcFirmware evLoader (req + status * 256) (fnTenancy s t.fn)
  else fwReply s t.fn t.msg.cookie req status

/-- At Noon and outside a handover the firmware takes a function's message by 1 ms after its post tick (R479, R517). -/
def takeOverdue (s : State) : State :=
  if s.handover.isSome ∨ stage s ≠ 2 then s
  else (s.mailboxes.filter fun m => decide (m.1 < 2048) && m.2.up.full &&
      decide (m.2.up.post + 250000 + 256 * m.2.up.held ≤ now s)).foldl
    (fun s m => firmwareTakeStep (.ofFn (fnOf m.1)) s) s

/-- Timeout of a pair in ticks: MS milliseconds, 0 meaning 20 ms (R475). -/
def pairTimeout (s : State) (p : Pair) : Nat :=
  let ms := match p with
    | .ofFn f => rf s (mbxAddr f 0x70C) 9 0
    | .ofThread t => rf s (0x502000 + t.cluster.val * 4) 9 0
  (if ms = 0 then 20 else ms) * 250000

/-- Assignment of a thread's core to some path class in force. -/
def assigned (s : State) (cl c : Nat) : Bool :=
  (List.range 64).any fun n => (pathNow s n).cores.contains (cl, c)

/-- The reason of a timeout, from the receiver's state (R475). -/
def timeoutReason (s : State) (p : Pair) (toHost : Bool) : Nat :=
  if toHost then
    match p with
    | .ofFn f =>
      if (fnState s f).dusk.isSome then rsReceiverReset
      else if (fnState s f).d3 then rsReceiverAsleep else rsNoResponse
    | .ofThread t =>
      let c := core s (coreNum t)
      let role := rf s (cluAddr t.cluster.val 0) 2 0
      if c.stopped || c.fenced || role == 2 || role == 4 then rsReceiverReset
      else if !assigned s t.cluster.val t.core.val then rsReceiverAsleep else rsNoResponse
  else if stage s = 2 then rsNoResponse else rsReceiverReset

/-- A channel timed out: TIMEOUT and its reason, the counter and one event (R475). -/
def timeOut (s : State) (p : Pair) (toHost : Bool) (reason : Nat) : State :=
  let v := mailbox s (pairNum p)
  let set := fun (c : Channel) => { c with timeout := true, reason := reason }
  let s := putMailbox s (pairNum p)
    (if toHost then { v with down := set v.down } else { v with up := set v.up })
  let s := if toHost then s else
    match p with
    | .ofFn f => mailboxSignal (count s (mbxAddr f 0x718)) p
    | .ofThread _ => s
  event s srcRecorder evMailbox (pairDetail p toHost reason) (pairTenancy s p) reason

/-- MAILBOX_TIMEOUT: at the first round boundary at least T after the post, handover boundaries not
counted (R475). -/
def mailboxTimeoutStep (p : Pair) (toHost : Bool) (s : State) : State :=
  let v := mailbox s (pairNum p)
  let c := if toHost then v.down else v.up
  if c.full && !c.timeout && s.handover.isNone &&
      decide (roundAfter c.post (pairTimeout s p) + c.held ≤ round s) then
    timeOut s p toHost (timeoutReason s p toHost)
  else s

/-- A receiver's pair reset: messages of both channels discarded, FULL clear, and the sender of a
message to it is told RECEIVER_RESET at once (R477). -/
def resetPair (s : State) (p : Pair) : State :=
  let v := mailbox s (pairNum p)
  let clear := fun (c : Channel) => { c with msg := none, last := none, full := false, opened := false }
  let s := putMailbox s (pairNum p) { up := clear v.up, down := clear v.down, queue := [] }
  if v.down.full then timeOut s p true rsReceiverReset else s

/-- Boundaries within a handover do not count towards a posted message's timeout (R469, R475). -/
def holdTimeouts (s : State) : State :=
  let more := fun (c : Channel) => if c.full then { c with held := c.held + 1 } else c
  { s with mailboxes := s.mailboxes.map fun m =>
      (m.1, { m.2 with up := more m.2.up, down := more m.2.down }) }

/-- SEND (R473). -/
def execSend (fn : FnId) (s : State) : Out := act s fun s => writeAs s fn (mbxAddr fn 0x700) (sendStep fn)
/-- WITHDRAW (R476). -/
def execWithdraw (fn : FnId) (s : State) : Out := act s fun s => writeAs s fn (mbxAddr fn 0x700) (withdrawStep fn)
/-- MBX_F2H_READ (R474). -/
def execMbxF2hRead (fn : FnId) (off : Nat) (wide : Bool) (s : State) : Out :=
  act s fun s => readAs s fn (f2hReadStep fn off wide)
/-- FIRMWARE_TAKE (R479). -/
def execFirmwareTake (pair : Pair) (s : State) : Out := act s (firmwareTakeStep pair)
/-- F2H_POST (R479). -/
def execF2hPost (pair : Pair) (s : State) : Out := act s (f2hPostStep pair)
/-- MAILBOX_TIMEOUT (R475). -/
def execMailboxTimeout (pair : Pair) (toHost : Bool) (s : State) : Out :=
  act s (mailboxTimeoutStep pair toHost)

end Sys2Proof.Machine
end

