-- ==== Sys2Proof/Machine/Cores.lean ====
section
/-! DEFINITION. Cores and clusters: faults and the stop of a core, what its work in flight comes to,
locks left behind, fault records, fences, restarts, and the debug port (R85–R92, R100–R103). -/

namespace Sys2Proof.Machine

open Sys2Proof

/-- Model number of a lock or channel of a cluster. -/
def lockNum (cl n : Nat) : Nat := cl * 4096 + n
def chanNum (cl n : Nat) : Nat := cl * 1024 + n

/-- The thread of a core by number. -/
def threadOf (cl c t : Nat) : Tid := tidOf ((cl * 16 + c) * 8 + t)

/-- ROLE and generation of a cluster (R104). -/
def clusterRole (s : State) (n : Nat) : Nat := rf s (cluAddr n 0) 2 0
def setRole (s : State) (n role : Nat) : State := setRf s (cluAddr n 0) 2 0 role
def clusterGen (s : State) (n : Nat) : Nat := rf s (cluAddr n 0) 7 4

/-- The generation of a cluster raised (R464). -/
def bumpCluster (s : State) (n : Nat) : State := setRf s (cluAddr n 0) 7 4 (clusterGen s n + 1)

/-- The cluster that holds the spare role, when there is one. -/
def spareCluster (s : State) : Option Nat := (List.range 17).find? fun n => clusterRole s n == 1

/-- Show CLU_CORE_STOPPED and CLU_CORE_FENCED of a core. -/
def showCore (s : State) (cl c : Nat) : State :=
  let v := core s (cl * 16 + c)
  let s := setRf s (cluAddr cl 0xC) c c (if v.stopped && !v.fenced then 1 else 0)
  setRf s (cluAddr cl 8) c c (if v.fenced then 1 else 0)

/-- State of a thread as a fault record gives it (R92). -/
def threadStateCode (s : State) (t : Tid) : Nat :=
  let th := thread s t
  if th.frame.isNone then 0
  else if th.halted then 4
  else if th.wait.isSome then 3
  else if th.issued = some (now s) then 1 else 2

/-- The 2,304 bytes of a fault record; `fence` is its byte 35, and a fenced cluster has the next generation after
the stop (R92, R464). -/
def faultRecordBytes (s : State) (cl c : Nat) (primary : Tid) (f : ThreadFault) (mask faults fence : Nat) :
    List Byte :=
  let th := thread s primary
  let ts := (List.range 8).map fun t => threadOf cl c t
  let ingress := fun (t : Tid) =>
    match (thread s t).base with
    | some fr => tag64 fr.tag 1
    | none => 0
  le 8 (now s) ++ le 1 f.code ++ le 1 primary.thread.val ++ le 1 mask ++ le 1 c ++
    le 2 (coreTenancy s cl c) ++ le 1 th.cls ++ le 1 ((clusterGen s cl + if fence = 2 then 1 else 0) % 16) ++
      le 4 f.pc.toNat ++
    le 4 f.word.toNat ++ le 8 f.addr.toNat ++ le 2 th.budget ++ le 1 faults ++ le 1 fence ++
    List.replicate 28 0 ++
    ts.flatMap (fun t => let v := thread s t
      le 4 v.pc.toNat ++ le 1 (v.p ||| 1).toNat ++ le 1 (threadStateCode s t) ++ le 2 v.budget) ++
    ts.flatMap (fun t => let v := thread s t
      le 8 (ingress t) ++ le 1 v.cls ++ le 1 v.depth ++ le 1 v.locks.length ++
        le 1 v.staged.length ++ le 4 0) ++
    ts.flatMap (fun t => (List.range 32).flatMap fun n =>
      le 8 (gReg (thread s t) (BitVec.ofNat 5 n)).toNat)

/-- A lock freed from a tick on; with the ABANDONED mark when its holder's core stopped (R100). -/
def freeLock (s : State) (n : Nat) (tick : Nat) (abandoned : Bool) : State :=
  let l := lock s n
  putLock s n { holder := none, freeAt := tick, abandoned := l.abandoned || abandoned }

/-- Ingress-buffer cells that a thread still keeps for a frame that has left are free, or pass to a copy of the
frame that has not (R152). -/
def releaseCells (s : State) (t : Tid) : State :=
  let th := thread s t
  match th.cells, th.frame with
  | some c, some root => match s.frames.find? fun p => p.2.origin == root + 1 with
    | some p => putFrame s { p.2 with buffered := some c }
    | none => freeCells s c.1 c.2.1 c.2.2
  | _, _ => s

/-- A thread taken off its frame, its cycle given back from tick `free` on. -/
def idleThread (s : State) (t : Tid) (free : Nat) : State :=
  let s := releaseCells s t
  putThread s t { freeFrom := free, lastStart := (thread s t).lastStart }

/-- What becomes of the frame of a thread of a stopped core, and of what the thread emitted in the
stop's own tick (R89, R103). -/
def settleFrames (s : State) (t : Tid) (reason : Nat) : State :=
  dropAll s (fun f => f.stage == .thread t || (f.stage == .emitted &&
    s.due.any fun d => d.what == .emitTaken t f.id)) atTenancy reason

/-- Results of work in flight that end with the thread: register results, slice bytes, scans; a store
still takes place (R86, R89, R136). -/
def discardWork (s : State) (t : Tid) : State :=
  { s with due := (s.due.filter fun d => d.discardWith != some t).map fun d =>
      match d.what with
      | .fcCompare t' rd ctx off e b done live =>
        { d with what := .fcCompare t' rd ctx off e b done (live && t' != t) }
      | _ => d }

/-- The tag of the frame that a thread still holds, as its header buffer has it (R516). -/
def syncTag (s : State) (t : Tid) : State :=
  let th := thread s t
  match th.frame.bind (frame? s) with
  | some f => if f.stage = .thread t then putFrame s { f with tag := tagOf (hdrBytes th 0 64) } else s
  | none => s

/-- The locks whose UNLOCK the thread has issued and the lock unit acts on in the next tick. -/
def unlocking (s : State) (t : Tid) : List Nat :=
  s.due.filterMap fun d => match d.what with
    | .lockUnit u (.unlock _ n) => if u = t then some (lockNum t.cluster.val n) else none
    | _ => none

/-- One thread of a stopped core settled: its frame dropped, its locks freed in the next tick with the
ABANDONED mark, its waits, results, scans and staged words discarded (R89). A lock whose UNLOCK it had issued is
freed without the mark: the thread had given it up (DEDUCED). -/
def stopThread (s : State) (t : Tid) (reason : Nat) : State :=
  let th := thread s t
  let given := unlocking s t
  let s := settleFrames (syncTag s t) t reason
  let s := th.locks.foldl (fun s n => freeLock s n (now s + 1) (!given.contains n)) s
  idleThread (discardWork s t) t (now s + 1)

/-- With no spare left, the path classes that wait for one have no cores (R19). -/
def markUnplaced (s : State) : State :=
  if (spareCluster s).isSome then s
  else { s with clusters := s.clusters.map fun p => if p.2.moving then (p.1, { p.2 with unplaced := true }) else p }

/-- A cluster fenced: its cores stop, the frames on it are dropped under CLUSTER_FENCED, its generation
rises, and the spare is to take over the path classes of an active one (R18, R91). The cores stop at once, so ROLE
shows the fence at once and not from the next round boundary, at which R39 places the other changes of role (DESIGN
CHOICE). -/
def fenceCluster (s : State) (n : Nat) : State :=
  if clusterRole s n = 3 then s
  else
    let ts := (List.range 128).map fun k => tidOf (n * 128 + k)
    let s := ts.foldl (fun s t => stopThread s t rsClusterFenced) s
    let active := clusterRole s n == 0
    let s := bumpCluster (setRole s n 3) n
    let s := markUnplaced (putCluster s n { cluster s n with fencedAt := some (now s), moving := active })
    event s (srcCluster n) evFence (detail n 3)

/-- Faults of the list within 2^20 rounds before round `r`. -/
def recentRounds (h : List Nat) (r : Nat) : List Nat := h.filter fun x => decide (r ≤ x + 2 ^ 20)

/-- A fenced core's threads leave every path-class assignment, of the versions held and of the commits to come
(R91). -/
def unassignCore (s : State) (cl c : Nat) : State :=
  let out := fun (p : PathClass) => { p with cores := p.cores.filter (· != (cl, c)) }
  { s with
    classes := s.classes.map out,
    commits := s.commits.map fun m => match m.what with
      | .pathClass p sets j => { m with what := .pathClass (out p) sets j }
      | _ => m }

/-- A core stopped by the faults of its threads at the end of the tick; a core reset of the same tick is then one that
names a stopped core (R88–R91, R103). -/
def stopFaulted (s : State) (cl c : Nat) : State :=
  let ts := (List.range 8).map fun t => threadOf cl c t
  let bad := ts.filter fun t => (thread s t).fault.isSome
  match bad with
  | [] => s
  | primary :: _ =>
    match (thread s primary).fault with
    | none => s
    | some f =>
      let n := cl * 16 + c
      let v := core s n
      let r := round s
      let history := recentRounds (v.history ++ [r]) r
      let places := bad.filterMap fun t => (thread s t).fault.map fun x => x.place
      let coreFence := decide (3 ≤ history.length) || places.contains 2
      let fences := recentRounds (cluster s cl).coreFences r
      let cluFence := places.contains 3 || places.contains 4 || (coreFence && !fences.isEmpty)
      let mask := bad.foldl (fun m t => m + 2 ^ t.thread.val) 0
      let bytes := faultRecordBytes s cl c primary f mask history.length
        (if cluFence then 2 else if coreFence then 1 else 0)
      let d := f.code + primary.thread.val * 2 ^ 8 + mask * 2 ^ 16 + f.pc.toNat * 2 ^ 32
      let s := count s (cluAddr cl 0x10)
      let s := ts.foldl (fun s t => stopThread s t rsCoreFault) s
      let s := putCore s n { core s n with
        stopped := true, fenced := coreFence, restart := r + 2, resetNow := false,
        record := some bytes, recordRound := r + 1, recordDetail := BitVec.ofNat 64 d,
        recordTime := compactNow s, recordEpoch := s.tbs.midnights.getLsbD 0,
        history := history }
      let s := showCore s cl c
      let s := if v.resetNow then event s (srcCluster cl) evState (detail c 0) else s
      let s := if coreFence then
          event (putCluster (unassignCore s cl c) cl { cluster s cl with coreFences := fences ++ [r] })
            (srcCore cl c) evFence (detail c 0) (coreTenancy s cl c)
        else s
      if cluFence then fenceCluster s cl else s

/-- A core stopped by a core reset: as a fault, without record and without counting towards a fence
(R103). -/
def stopReset (s : State) (cl c : Nat) : State :=
  let n := cl * 16 + c
  let ts := (List.range 8).map fun t => threadOf cl c t
  let s := ts.foldl (fun s t =>
    stopThread s t (if (thread s t).halted then rsDebugAbandon else rsCoreFault)) s
  let s := putCore s n { core s n with stopped := true, resetNow := false, restart := round s + 2 }
  event (showCore s cl c) (srcCore cl c) evState (detail c 0) (coreTenancy s cl c)

/-- Cores whose threads faulted, or that a reset reached, stop at the end of the tick (R88, R103). -/
def settleStops (s : State) : State :=
  let faulted := (s.threads.filter fun p => p.2.fault.isSome).map fun p => p.1 / 8
  let s := faulted.eraseDups.foldl (fun s n => stopFaulted s (n / 16) (n % 16)) s
  let reset := (s.cores.filter fun p => p.2.resetNow && !p.2.stopped).map fun p => p.1
  reset.foldl (fun s n => stopReset s (n / 16) (n % 16)) s

/-! ### Commands -/

/-- BUDGET_OVERRUN: a thread whose budget has run out faults (R85). -/
def budgetOverrunStep (t : Tid) (s : State) : State :=
  let th := thread s t
  let c := core s (coreNum t)
  if th.frame.isSome && th.budget == 0 && !th.halted && th.fault.isNone && !c.stopped && !c.fenced then
    raise s t faultBudget (faultWord (threadCode s th) (th.pc.toNat / 4)) 0
  else s

/-- FAULT_RECORD: the supervisor writes the record and the event in the round after the fault; the event
carries the tick of the fault (R90, R92, R484). The slots are used in turn; R92 does not say which one the first
record after a cluster reset takes, and here it takes slot 0 (DESIGN CHOICE). -/
def faultRecordStep (cl c : Nat) (s : State) : State :=
  let n := cl * 16 + c
  let v := core s n
  match v.record with
  | none => s
  | some bytes =>
    if round s < v.recordRound then s
    else
      let head := word s (cluAddr cl 0x2C)
      let written := fld head 15 8
      let slot := if written = 0 then 0 else (fld head 1 0 + 1) % 4
      let s := (List.range 576).foldl (fun s k =>
        setWord s (cluAddr cl (0x2000 + slot * 0x1000 + 4 * k)) (BitVec.ofNat 32 (leAt bytes (4 * k) 4)))
        s
      let s := setRf s (cluAddr cl 0x2C) 1 0 slot
      let s := setRf s (cluAddr cl 0x2C) 15 8 (min 255 (written + 1))
      let s := putCore s n { core s n with record := none }
      eventAt s (BitVec.ofNat 64 (leAt bytes 0 8)) v.recordTime v.recordEpoch (srcCore cl c) evFault
        (v.recordDetail.toNat + slot * 2 ^ 24) (coreTenancy s cl c) 0 false

/-- A core's threads cleared and their slices to be reloaded; the threads' mailbox pairs are reset
(R90, R160). -/
def clearCore (s : State) (cl c : Nat) : State :=
  (List.range 8).foldl (fun s t =>
    let tid := threadOf cl c t
    let s := idleThread s tid (now s)
    resetPair { s with sliceOf := remove s.sliceOf (tidNum tid) } (.ofThread tid)) s

/-- CORE_RESTART: from the second round after the stop the core takes frames again (R90). -/
def coreRestartStep (cl c : Nat) (s : State) : State :=
  let n := cl * 16 + c
  let v := core s n
  if v.stopped && !v.fenced && decide (v.restart ≤ round s) then
    showCore (clearCore (putCore s n { v with stopped := false }) cl c) cl c
  else s

/-- CORE_RESET: a write of CLU_CORE_RESET by PF0 of H0 (R103). -/
def coreResetStep (fn : FnId) (cl c : Nat) (s : State) : State :=
  let v := core s (cl * 16 + c)
  if fn ≠ pf0 then denied s fn (cluAddr cl 0x38)
  else if v.stopped || v.fenced then
    event s (srcCluster cl) evState (detail c 0)
  else putCore s (cl * 16 + c) { v with resetNow := true }

/-- The debug lock (R451, R447 bit 5) is in force. -/
def debugLocked (s : State) : Bool := bit (word s 0x200004) 5

/-- A debug command acts only while the debug lock is clear; otherwise it is ignored with an event
(R101). -/
def debugAct (t : Tid) (s : State) (f : Thread → Thread) : State :=
  if debugLocked s then ignored s pf0 (cluAddr t.cluster.val 0x40) 2
  else onThread s t f

/-- The own cycle of thread `t` in the current tick has passed (R80). -/
def ownPassed (s : State) (t : Tid) : Bool :=
  if lends s t then decide (t.thread.val < nextCycle s t) else decide ((thread s t).issued = some (now s))

/-- DEBUG_HALT: the thread halts at its next own cycle, after the instruction issuing in it (R101). -/
def debugHaltStep (t : Tid) (s : State) : State :=
  let from_ := if ownPassed s t then now s + 1 else now s
  debugAct t s fun th => if th.halted ∨ th.haltFrom.isSome then th else { th with haltFrom := some from_ }

/-- Statuses of waits that ended while the thread was halted are delivered: usable from tick `k` (R101). -/
def deliverStatuses (th : Thread) (k : Nat) : Thread :=
  { th with pend := th.pend.map fun p => if p.val.isSome ∧ p.ready = none then { p with ready := some k } else p }

/-- DEBUG_RESUME (R101). -/
def debugResumeStep (t : Tid) (s : State) : State :=
  debugAct t s fun th => deliverStatuses { th with halted := false, haltFrom := none, stepping := false } (now s + 1)

/-- DEBUG_STEP: one instruction of a halted thread issues, and it halts again (R101). -/
def debugStepStep (t : Tid) (s : State) : State :=
  debugAct t s fun th =>
    if th.halted then deliverStatuses { th with halted := false, stepping := true } (now s + 1) else th

/-- A halt whose own cycle has passed by the end of the tick has taken effect (R101). -/
def applyHalts (s : State) : State :=
  { s with threads := s.threads.map fun p => match p.2.haltFrom with
      | some k => if k ≤ now s then (p.1, { p.2 with halted := true, haltFrom := none }) else p
      | none => p }

/-- Word `k` of CLU_DBG_HALTED of a cluster (R104). -/
def haltedWord (s : State) (cl k : Nat) : Word :=
  BitVec.ofNat 32 (((List.range 32).filter fun b =>
    (thread s (tidOf (cl * 128 + 32 * k + b))).halted).foldl (fun n b => n + 2 ^ b) 0)

/-- BUDGET_OVERRUN (R85). -/
def execBudgetOverrun (t : Tid) (s : State) : Out := act s (budgetOverrunStep t)
/-- FAULT_RECORD (R90). -/
def execFaultRecord (cluster : Fin 17) (core : Fin 16) (s : State) : Out :=
  act s (faultRecordStep cluster.val core.val)
/-- CORE_RESTART (R90). -/
def execCoreRestart (cluster : Fin 17) (core : Fin 16) (s : State) : Out :=
  act s (coreRestartStep cluster.val core.val)
/-- CORE_RESET (R103). -/
def execCoreReset (fn : FnId) (cluster : Fin 17) (core : Fin 16) (s : State) : Out :=
  act s fun s => writeAs s fn (cluAddr cluster.val 0x38) (coreResetStep fn cluster.val core.val)
/-- DEBUG_HALT (R101). -/
def execDebugHalt (t : Tid) (s : State) : Out := act s (debugHaltStep t)
/-- DEBUG_RESUME (R101). -/
def execDebugResume (t : Tid) (s : State) : Out := act s (debugResumeStep t)
/-- DEBUG_STEP (R101). -/
def execDebugStep (t : Tid) (s : State) : Out := act s (debugStepStep t)

end Sys2Proof.Machine
end

