-- ==== Sys2Proof/Machine/Mem.lean ====
section
/-! DEFINITION. The M-format loads and stores: header buffer, local slice and cluster shared memory
(R118–R122). -/

namespace Sys2Proof.Machine

open Sys2Proof

/-- The bits of tag word `n` that the program of a class of owner tenancy `owner` may write (R64). -/
def tagWritable (owner n : Nat) : Word :=
  if n = 0 then (if owner = 0 then 0x003FF000 else 0)
  else if n = 7 then 0x00300000
  else if n = 8 ∨ n = 9 ∨ n = 11 then 0xFFFFFFFF
  else if n = 12 then 0xFFFFFCFF
  else 0

/-- The bits of header-buffer byte `i` that a program may write: all of a frame byte, the R64 fields
of a tag byte (R65, R119). -/
def writableBits (owner i : Nat) : Byte :=
  if 64 ≤ i then 0xFF
  else BitVec.ofNat 8 ((tagWritable owner (i / 4)).toNat / 256 ^ (i % 4))

/-- Header-buffer bytes stored by a program from `a` on (R119). -/
def storeHdr (owner : Nat) (th : Thread) (a : Nat) : List Byte → Thread
  | [] => th
  | b :: bs =>
    let m := writableBits owner a
    storeHdr owner (setHdrByte th a ((hdrByte th a &&& ~~~m) ||| (b &&& m))) (a + 1) bs

/-- Owner tenancy of the path class that a thread serves. -/
def threadOwner (s : State) (th : Thread) : Nat := (pathAt s (threadRound s th) th.cls).owner

/-- Bytes `[a, a+n)` meet bytes `[lo, hi]`. -/
def meets (a n lo hi : Nat) : Bool := decide (a ≤ hi ∧ lo < a + n)

/-- Granules of 8 bytes that `n` bytes from `a` touch. -/
def granules (a n : Nat) : List Nat := (List.range ((a + n - 1) / 8 - a / 8 + 1)).map (a / 8 + ·)

/-- One of `n` bytes from model address `a` lies in a granule with an uncorrectable error (R122). -/
def memError (s : State) (a n : Nat) : Bool := (granules a n).any s.errors.granules.contains

/-- As `memError` for a header buffer. -/
def hdrError (s : State) (t : Tid) (a n : Nat) : Bool :=
  (granules a n).any fun g => s.errors.headers.contains (tidNum t, g)

/-- Cluster of a model address of a thread slice or of shared memory (R76, R79). -/
def clusterOf (a : Nat) : Nat := if a < 0x10000000 then a / 16384 / 128 else (a - 0x10000000) / 0x400000

/-- Corrected errors that an access meets are written back corrected, and counted (R104, R466). -/
def correct (s : State) (a n : Nat) : State :=
  let met := (granules a n).filter s.errors.corrected.contains
  if met.isEmpty then s
  else count { s with errors := { s.errors with
    corrected := s.errors.corrected.filter fun g => !met.contains g } } (cluAddr (clusterOf a) 0x28) met.length

/-- A store of 8 aligned bytes gives its granule good check bits (R122). -/
def repair (s : State) (a n : Nat) : State :=
  if n = 8 ∧ a % 8 = 0 then
    { s with errors := { s.errors with granules := s.errors.granules.filter (· != a / 8) } }
  else s

/-- As `repair` for a header buffer. -/
def repairHdr (s : State) (t : Tid) (a n : Nat) : State :=
  if n = 8 ∧ a % 8 = 0 then
    { s with errors := { s.errors with
        headers := s.errors.headers.filter (· != (tidNum t, a / 8)) } }
  else s

/-- A store meets an error unless it replaces the whole granule. -/
def partialStore (a n : Nat) : Bool := !(n == 8 && a % 8 == 0)

/-- HLD: a header-buffer load with latency 1, in wire order or least significant byte first (R119). -/
def hldStep (t : Tid) (rt ra : BitVec 5) (sz : MemSize) (lsb sx : Bool) (off : BitVec 12)
    (s : State) : State :=
  let i := Instr.hld t rt ra sz lsb sx off
  issue s t i [.g rt, .g ra] true fun s =>
    let th := thread s t
    let ea := effAddr th ra off
    let n := MemSize.bytes sz
    if sx && sz == .double then raise s t faultIllegal (lastWord i) ea
    else if 512 < ea.toNat + n then raise s t faultBound (lastWord i) ea
    else if hdrError s t ea.toNat n then raise s t faultMemory (lastWord i) ea 1
    else
      let bs := hdrBytes th ea.toNat n
      resultG s t rt (some (extend n sx (if lsb then leNat bs else beNat bs))) 1 1

/-- A pending device change of CAPTURE in this tick is overtaken by the program's store (R516). -/
def overtakeTag (s : State) (t : Tid) (a n : Nat) : State :=
  if meets a n 30 30 then
    { s with due := s.due.filter fun d =>
        match d.what with
        | .tagField t' w hi _ _ => !(t' == t && w == 7 && hi == 20 && d.tick == now s)
        | _ => true }
  else s

/-- HST: a header-buffer store; in bytes 0–63 only the fields of R64 change (R119). R66 has DONE check a destination
that the program has set; which stores set one it does not say: here every store that meets bytes 32–39 (FLOW_CTX and
the destination) or 48–51 (PRIORITY and the node) of the tag (DESIGN CHOICE). -/
def hstStep (t : Tid) (rt ra : BitVec 5) (sz : MemSize) (lsb : Bool) (off : BitVec 12)
    (s : State) : State :=
  let i := Instr.hst t rt ra sz lsb off
  issue s t i [.g rt, .g ra] true fun s =>
    let th := thread s t
    let ea := effAddr th ra off
    let n := MemSize.bytes sz
    if 512 < ea.toNat + n then raise s t faultBound (lastWord i) ea
    else if hdrError s t ea.toNat n && partialStore ea.toNat n then
      raise s t faultMemory (lastWord i) ea 1
    else
      let v := (gReg th rt).toNat
      let bs := if lsb then le n v else be n v
      let owner := threadOwner s th
      let s := overtakeTag (repairHdr s t ea.toNat n) t ea.toNat n
      onThread s t fun th =>
        { lastIn s (advance (storeHdr owner th ea.toNat bs) 1) with
          destWritten := th.destWritten || meets ea.toNat n 32 39 || meets ea.toNat n 48 51 }

/-- LLD: a load from the local slice, latency 2 (R120). -/
def lldStep (t : Tid) (rt ra : BitVec 5) (sz : MemSize) (sx : Bool) (off : BitVec 12)
    (s : State) : State :=
  let i := Instr.lld t rt ra sz sx off
  issue s t i [.g rt, .g ra] true fun s =>
    let ea := effAddr (thread s t) ra off
    let n := MemSize.bytes sz
    let a := sliceAddr t ea.toNat
    if sx && sz == .double then raise s t faultIllegal (lastWord i) ea
    else if 0x4000 < ea.toNat + n ∨ ea.toNat % n ≠ 0 then raise s t faultBound (lastWord i) ea
    else if memError s a n then raise s t faultMemory (lastWord i) ea 2
    else resultG (correct s a n) t rt (some (extend n sx (leNat (readBytes s a n)))) 2 1

/-- LST: a store to the local slice (R120). -/
def lstStep (t : Tid) (rt ra : BitVec 5) (sz : MemSize) (off : BitVec 12) (s : State) : State :=
  let i := Instr.lst t rt ra sz off
  issue s t i [.g rt, .g ra] true fun s =>
    let th := thread s t
    let ea := effAddr th ra off
    let n := MemSize.bytes sz
    let a := sliceAddr t ea.toNat
    if 0x4000 < ea.toNat + n ∨ ea.toNat % n ≠ 0 then raise s t faultBound (lastWord i) ea
    else if memError s a n && partialStore a n then raise s t faultMemory (lastWord i) ea 2
    else
      let s := writeBytes (repair (correct s a n) a n) a (le n (gReg th rt).toNat)
      onThread s t fun th => lastIn s (advance th 1)

/-- Base and size in bytes of a thread's shared-memory partition (R79, R104). -/
def partition (s : State) (t : Tid) : Nat × Nat :=
  let w := word s (cluAddr t.cluster.val (0x304 + t.core.val * 8))
  (fld w 5 0 * 65536, fld w 13 8 * 65536)

/-- SLD: the partition is read at the end of tick j+3 and the value is usable from j+6 (R110, R121). -/
def sldStep (t : Tid) (rt ra : BitVec 5) (sz : MemSize) (sx : Bool) (off : BitVec 12)
    (s : State) : State :=
  let i := Instr.sld t rt ra sz sx off
  issue s t i [.g rt, .g ra] false fun s =>
    let th := thread s t
    let ea := effAddr th ra off
    let n := MemSize.bytes sz
    let part := partition s t
    let a := shmAddr t.cluster.val (part.1 + ea.toNat)
    if sx && sz == .double then raise s t faultIllegal (lastWord i) ea
    else if part.2 < ea.toNat + n ∨ ea.toNat % n ≠ 0 then raise s t faultBound (lastWord i) ea
    else
      let s := resultG s t rt none 6 1
      addDue s ⟨now s + 3, 1, tidNum t, .shmRead ⟨t, th.pc, lastWord i, ea, th.start⟩ rt a n sx (now s + 6), some t⟩

/-- SST: the partition is written at the end of tick i+3, before the reads of that tick and in slot
order among the writes (R121). -/
def sstStep (t : Tid) (rt ra : BitVec 5) (sz : MemSize) (off : BitVec 12) (s : State) : State :=
  let i := Instr.sst t rt ra sz off
  issue s t i [.g rt, .g ra] false fun s =>
    let th := thread s t
    let ea := effAddr th ra off
    let n := MemSize.bytes sz
    let part := partition s t
    let a := shmAddr t.cluster.val (part.1 + ea.toNat)
    if part.2 < ea.toNat + n ∨ ea.toNat % n ≠ 0 then raise s t faultBound (lastWord i) ea
    else
      let s := addDue s ⟨now s + 3, 0, tidNum t,
        .shmWrite ⟨t, th.pc, lastWord i, ea, th.start⟩ a (le n (gReg th rt).toNat), none⟩
      onThread s t fun th => lastIn s (advance th 1)

/-- HLD (R119). -/
def execHld (t : Tid) (rt ra : BitVec 5) (sz : MemSize) (le sx : Bool) (off : BitVec 12)
    (s : State) : Out := act s (hldStep t rt ra sz le sx off)
/-- HST (R119). -/
def execHst (t : Tid) (rt ra : BitVec 5) (sz : MemSize) (le : Bool) (off : BitVec 12)
    (s : State) : Out := act s (hstStep t rt ra sz le off)
/-- LLD (R120). -/
def execLld (t : Tid) (rt ra : BitVec 5) (sz : MemSize) (sx : Bool) (off : BitVec 12)
    (s : State) : Out := act s (lldStep t rt ra sz sx off)
/-- LST (R120). -/
def execLst (t : Tid) (rt ra : BitVec 5) (sz : MemSize) (off : BitVec 12) (s : State) : Out :=
  act s (lstStep t rt ra sz off)
/-- SLD (R121). -/
def execSld (t : Tid) (rt ra : BitVec 5) (sz : MemSize) (sx : Bool) (off : BitVec 12)
    (s : State) : Out := act s (sldStep t rt ra sz sx off)
/-- SST (R121). -/
def execSst (t : Tid) (rt ra : BitVec 5) (sz : MemSize) (off : BitVec 12) (s : State) : Out :=
  act s (sstStep t rt ra sz off)

end Sys2Proof.Machine
end

