-- ==== Sys2Proof/Machine/Handon.lean ====
section
/-! DEFINITION. How a thread's frame is assembled, checked and handed on by EMIT and DONE (R66,
R150–R153), and the end of a thread (R86, R127). -/

namespace Sys2Proof.Machine

open Sys2Proof

/-- T of R150: the part of the frame that the header buffer holds from the start. -/
def headPart (th : Thread) : Nat := min th.source.length 448

/-- The frame as EMIT assembles it with head length `h` (R151): the head, the rest of the frame, less
the stripped bytes and with the appended value. -/
def assemble (th : Thread) (h : Nat) : List Byte :=
  let whole := hdrBytes th 64 h ++ th.source.drop (headPart th)
  whole.take (whole.length - th.strip) ++ th.append

/-- DEST_KIND values of R61. -/
def dkUnset : Nat := 0
def dkRing : Nat := 1
def dkPort : Nat := 2
def dkSequence : Nat := 3
def dkFanout : Nat := 4
def dkLedger : Nat := 5
def dkDiscard : Nat := 6
def dkException : Nat := 7
def dkFlood : Nat := 8
def dkTcp : Nat := 9
def dkStorage : Nat := 10

/-- FLOW_CTX passes R66: NONE, or a context of the tenancy (R233). -/
def flowCtxOk (s : State) (r : Nat) (g : Tag) : Bool :=
  tagFlow g == 0xFFFFFF || fcOwned s r (tagTenancy g) (tagFlow g)

/-- The destination fields of a tag pass R66 against its TENANCY in governing round `r`. -/
def destOk (s : State) (r : Nat) (g : Tag) : Bool :=
  let t := tagTenancy g
  let k := tagDestKind g
  let d := tagDest g
  if k = dkRing ∨ k = dkException then decide (d < 65536) && ringOpen s r t d
  else if k = dkPort then
    decide (d < 16) && tagNode g / 32768 == d && queueTenancy s r (tagNode g) == t
  else if k = dkSequence then d == tagGroup g && groupOpen s r t (tagGroup g)
  else if k = dkFanout then decide (d < 4096) && fanoutOpen s r t d
  else if k = dkFlood then decide (d < 4096) && bdTenancy s r d == t
  else if k = dkTcp then decide (d < 262144) && connOwned s r t d
  else if k = dkStorage then decide (d < 1024) && ctrlTenancy s r d == t
  else true

/-- A reserved DEST_KIND is an illegal operand (R66). -/
def kindReserved (g : Tag) : Bool := decide (10 < tagDestKind g)

/-- The due tick and due compact time of an override of `d` ticks (R153). -/
def dueTag (g : Tag) (d : Nat) : Tag := setTag64 g 5 (tag64 g 5 + d * 1024)

/-- Frames and copies handed on with an appended value are counted (R364). -/
def countAppend (s : State) (t : Tid) (th : Thread) (tenancy : Nat) : State :=
  if th.append.isEmpty then s
  else count (count s (0x1D00014 + t.cluster.val * 0x20)) (0x1D01008 + tenancy * 0x10)

/-- A frame or copy handed on in this tick passes to the release engine at the end of the next
(R152). -/
def sendOn (s : State) (t : Tid) (f : Nat) : State :=
  addDue s ⟨now s + 1, 2, tidNum t, .emitTaken t f, none⟩

/-- The frame itself handed on with its assembled bytes, tag and due tick. -/
def handOnFrame (s : State) (t : Tid) (bytes : List Byte) (g : Tag) (d : Nat) : State :=
  let th := thread s t
  match th.frame.bind (frame? s) with
  | none => s
  | some f =>
    let s := putFrame s { f with
      stage := .emitted, bytes := bytes, tag := dueTag (setTag g 7 15 0 bytes.length) d,
      due := f.due + d }
    let s := onThread s t fun th => { th with handedOn := true }
    countAppend (sendOn s t f.id) t th (tagTenancy g)

/-- A copy handed on (R152). -/
def handOnCopy (s : State) (t : Tid) (bytes : List Byte) (g : Tag) (d : Nat) : State :=
  let th := thread s t
  match th.base with
  | none => s
  | some f =>
    let g := setTag64 (setTag (setTag (setTag g 0 11 0 (0xE00 + th.cls)) 7 27 27 0) 7 17 17 0) 13 0
    let g := dueTag (setTag g 7 15 0 bytes.length) d
    let id := s.nextFrame
    let s := newFrame s { f with
      stage := .emitted, src := .program th.cls, bytes := bytes, tag := g, due := f.due + d,
      sendPos := none, buffered := none, origin := f.id + 1 }
    let s := onThread s t fun th => { th with copies := th.copies + 1 }
    countAppend (sendOn s t id) t th (tagTenancy g)

/-- The frame of a thread dropped as the program left its tag (R127). -/
def dropHeld (s : State) (t : Tid) (reason : Nat) : State :=
  let g := liveTag (thread s t)
  match (thread s t).frame.bind (frame? s) with
  | none => s
  | some f => dropFrame s { f with tag := g } (atTenancy { f with tag := g }) reason

/-- The reason under which a frame bound for UNSET or DISCARD is dropped (R127). -/
def settleReason (g : Tag) : Nat :=
  if tagDestKind g = dkDiscard ∧ tagReason g ≠ 0 then tagReason g else rsProgramDrop

/-- A thread ended by DONE: its locks are free from the next tick, its staged words, results and scans
are discarded, and it is free from the next tick (R86). -/
def endThread (s : State) (t : Tid) : State :=
  let th := thread s t
  let s := th.locks.foldl (fun s n => freeLock s n (now s + 1) false) s
  let s := discardWork s t
  let s := if th.locks.isEmpty && th.staged.isEmpty then s
    else event (count s (cluAddr t.cluster.val 0x24)) (srcCore t.cluster.val t.core.val) evState
      (detail (tidNum t) th.locks.length) (tidTenancy s t)
  let s := idleThread s t (now s + 1)
  onThread s t fun v => { v with halted := th.halted, haltFrom := th.haltFrom, stepping := th.stepping }

/-- The settlement of the table of R127, or the fault that the hand-on raises: of the destination check of R66, or of
an uncorrectable error in the header bytes that it reads (R87). -/
def settleDone (s : State) (t : Tid) (drop : Bool) : Except Nat State :=
  let th := thread s t
  let g := liveTag th
  if th.handedOn then .ok (endThread s t)
  else if drop then .ok (endThread (dropHeld s t rsProgramDrop) t)
  else if hdrError s t 0 64 then .error faultMemory
  else if tagDestKind g = dkUnset ∨ tagDestKind g = dkDiscard then
    .ok (endThread (dropHeld s t (settleReason g)) t)
  else if th.destWritten && kindReserved g then .error faultIllegal
  else
    let bytes := assemble th (headPart th)
    if headPart th ≠ 0 && hdrError s t 64 (headPart th) then .error faultMemory
    else if bytes.length < 60 ∨ maxLength < bytes.length then .error faultIllegal
    else if th.destWritten && !(destOk s (threadRound s th) g && flowCtxOk s (threadRound s th) g) then
      .error faultTenancy
    else .ok (endThread (handOnFrame s t bytes g 0) t)

end Sys2Proof.Machine
end

