-- ==== Sys2Proof/Machine/Aead.lean ====
section
/-! DEFINITION. The ciphers of MACsec, ESP and TLS records: AES-GCM with keys of 128 and 256 bits, and ChaCha20-Poly1305
(R343, R347, R352). The specification names them and leaves their arithmetic to the standards that publish them, FIPS
197, SP 800-38D and RFC 8439, from which it is taken here (PRESUMED). -/

namespace Sys2Proof.Machine

open Sys2Proof

/-! ### AES -/

/-- Byte lists combined bit by bit. -/
def xorBytes (a b : List Byte) : List Byte := List.zipWith (· ^^^ ·) a b

/-- Twice a byte in the field of AES. -/
def xtime (b : Byte) : Byte := (b <<< 1) ^^^ (if b.msb then 0x1B else 0)

/-- The product of two bytes in the field of AES. -/
def aesMul (a b : Byte) : Byte :=
  ((List.range 8).foldl (fun (z, v) i => (if b.getLsbD i then z ^^^ v else z, xtime v)) ((0 : Byte), a)).1

/-- The inverse of a byte in the field of AES, its 254th power; 0 of 0. -/
def aesInv (a : Byte) : Byte :=
  ((List.range 7).foldl (fun (z, v) _ => let w := aesMul v v; (aesMul z w, w)) ((1 : Byte), a)).1

/-- SubBytes of a byte. -/
def aesSub (a : Byte) : Byte :=
  let b := aesInv a
  b ^^^ b.rotateLeft 1 ^^^ b.rotateLeft 2 ^^^ b.rotateLeft 3 ^^^ b.rotateLeft 4 ^^^ 0x63

/-- The bytes of the substitution box. -/
def aesBox : List Byte := (List.range 256).map fun k => aesSub (BitVec.ofNat 8 k)

/-- Bytes substituted by a box. -/
def aesLook (box bs : List Byte) : List Byte := bs.map fun b => box.getD b.toNat 0

/-- `n` more words of a key schedule of keys of `nk` words, the last word first. -/
def aesWords (box : List Byte) (nk : Nat) : Nat → Byte → List (List Byte) → List (List Byte)
  | 0, _, ws => ws
  | n + 1, rcon, ws =>
    let i := ws.length
    let t := ws.headD []
    let t := if i % nk = 0 then xorBytes (aesLook box (t.drop 1 ++ t.take 1)) (rcon :: [0, 0, 0])
      else if 6 < nk ∧ i % nk = 4 then aesLook box t else t
    aesWords box nk n (if i % nk = 0 then xtime rcon else rcon) (xorBytes (ws.getD (nk - 1) []) t :: ws)

/-- The round keys of a key of 16 or 32 bytes, 16 bytes each. -/
def aesRoundKeys (box key : List Byte) : List (List Byte) :=
  let nk := key.length / 4
  let ws := (List.range nk).reverse.map fun k => slice key (4 * k) 4
  let all := (aesWords box nk (3 * nk + 28) 1 ws).reverse.flatten
  (List.range (nk + 7)).map fun k => slice all (16 * k) 16

/-- ShiftRows of a block, whose byte `r + 4 c` stands in row `r` and column `c`. -/
def aesShift (bs : List Byte) : List Byte := (List.range 16).map fun i => bs.getD ((i + 4 * (i % 4)) % 16) 0

/-- MixColumns of a block. -/
def aesMix (bs : List Byte) : List Byte :=
  (List.range 16).map fun i =>
    let x := fun (k : Nat) => bs.getD (i / 4 * 4 + (i + k) % 4) 0
    xtime (x 0) ^^^ xtime (x 1) ^^^ x 1 ^^^ x 2 ^^^ x 3

/-- The rounds of AES but the first key: all mix columns but the last. -/
def aesRounds (box : List Byte) : List (List Byte) → List Byte → List Byte
  | [], bs => bs
  | [k], bs => xorBytes (aesShift (aesLook box bs)) k
  | k :: ks, bs => aesRounds box ks (xorBytes (aesMix (aesShift (aesLook box bs))) k)

/-- A block of 16 bytes enciphered under round keys. -/
def aesBlock (box : List Byte) (keys : List (List Byte)) (bs : List Byte) : List Byte :=
  match keys with
  | [] => bs
  | k :: ks => aesRounds box ks (xorBytes bs k)

/-! ### Galois counter mode -/

/-- The product of two blocks of GHASH. -/
def ghashMul (x y : BitVec 128) : BitVec 128 :=
  ((List.range 128).foldl (fun (z, v) i =>
    (if x.getMsbD i then z ^^^ v else z, (v >>> 1) ^^^ (if v.getLsbD 0 then (0xE1 : BitVec 128) <<< 120 else 0)))
    ((0 : BitVec 128), y)).1

/-- Bytes filled up with zeros to whole blocks of 16. -/
def blocks16 (bs : List Byte) : List Byte := slice bs 0 (ceilDiv bs.length 16 * 16)

/-- GHASH of whole blocks. -/
def ghash (h : BitVec 128) (bs : List Byte) : BitVec 128 :=
  (List.range (bs.length / 16)).foldl (fun y k => ghashMul (y ^^^ BitVec.ofNat 128 (beAt bs (16 * k) 16)) h) 0

/-- Bytes combined with the counter blocks of an IV from a count on. -/
def gcmCtr (block : List Byte → List Byte) (iv : List Byte) (first : Nat) (bs : List Byte) : List Byte :=
  xorBytes bs ((List.range (ceilDiv bs.length 16)).flatMap fun k => block (iv ++ be 4 (first + k)))

/-- The tag of a ciphertext. -/
def gcmTag (block : List Byte → List Byte) (iv aad ct : List Byte) : List Byte :=
  let h := BitVec.ofNat 128 (beNat (block (le 16 0)))
  let s := ghash h (blocks16 aad ++ blocks16 ct ++ be 8 (8 * aad.length) ++ be 8 (8 * ct.length))
  gcmCtr block iv 1 (be 16 s.toNat)

/-! ### ChaCha20-Poly1305 -/

/-- A quarter round on four of the 16 words. -/
def chachaQuarter (s : List Word) (i : Nat × Nat × Nat × Nat) : List Word :=
  let g := fun (k : Nat) => s.getD k 0
  let half := fun (a b d : Word) (n m : Nat) (c : Word) =>
    let a := a + b
    let d := (d ^^^ a).rotateLeft n
    let c := c + d
    (a, (b ^^^ c).rotateLeft m, c, d)
  let (a, b, c, d) := half (g i.1) (g i.2.1) (g i.2.2.2) 16 12 (g i.2.2.1)
  let (a, b, c, d) := half a b d 8 7 c
  (((s.set i.1 a).set i.2.1 b).set i.2.2.1 c).set i.2.2.2 d

/-- The places of the quarter rounds of two rounds, by columns and by diagonals. -/
def chachaPlaces : List (Nat × Nat × Nat × Nat) :=
  (List.range 4).map (fun k => (k, 4 + k, 8 + k, 12 + k)) ++
    (List.range 4).map fun k => (k, 4 + (k + 1) % 4, 8 + (k + 2) % 4, 12 + (k + 3) % 4)

/-- A key stream block of 64 bytes. -/
def chachaBlock (key nonce : List Byte) (count : Nat) : List Byte :=
  let text := le 4 0x61707865 ++ le 4 0x3320646E ++ le 4 0x79622D32 ++ le 4 0x6B206574 ++ key ++ le 4 count ++ nonce
  let start := (List.range 16).map fun k => BitVec.ofNat 32 (leAt text (4 * k) 4)
  let mixed := (List.range 10).foldl (fun s _ => chachaPlaces.foldl chachaQuarter s) start
  wordBytes (List.zipWith (· + ·) start mixed)

/-- Bytes combined with the key stream from block 1 on. -/
def chachaStream (key nonce bs : List Byte) : List Byte :=
  xorBytes bs ((List.range (ceilDiv bs.length 64)).flatMap fun k => chachaBlock key nonce (1 + k))

/-- Poly1305 of whole blocks of 16 bytes under a one-time key of 32 bytes. -/
def poly1305 (key bs : List Byte) : List Byte :=
  let r := leAt key 0 16 &&& 0x0FFFFFFC0FFFFFFC0FFFFFFC0FFFFFFF
  let a := (List.range (bs.length / 16)).foldl
    (fun a k => (a + leAt bs (16 * k) 16 + 2 ^ 128) * r % (2 ^ 130 - 5)) 0
  le 16 (a + leAt key 16 16)

/-- The tag of a ciphertext. -/
def chachaTag (key nonce aad ct : List Byte) : List Byte :=
  poly1305 ((chachaBlock key nonce 0).take 32) (blocks16 aad ++ blocks16 ct ++ le 8 aad.length ++ le 8 ct.length)

/-! ### Sealing and opening -/

/-- Plaintext and ciphertext under a suite, each from the other: 2 is ChaCha20-Poly1305, any other AES-GCM by the length
of its key (R355). -/
def aeadText (suite : Nat) (key iv text : List Byte) : List Byte :=
  if suite = 2 then chachaStream key iv text
  else
    let keys := aesRoundKeys aesBox key
    gcmCtr (aesBlock aesBox keys) iv 2 text

/-- The tag of a ciphertext and its additional data under a suite. -/
def aeadTag (suite : Nat) (key iv aad ct : List Byte) : List Byte :=
  if suite = 2 then chachaTag key iv aad ct
  else
    let keys := aesRoundKeys aesBox key
    gcmTag (aesBlock aesBox keys) iv aad ct

/-- A plaintext sealed: its ciphertext, and the tag of 16 bytes behind it. -/
def aeadSeal (suite : Nat) (key iv aad text : List Byte) : List Byte :=
  let ct := aeadText suite key iv text
  ct ++ aeadTag suite key iv aad ct

/-- A ciphertext with its tag opened; none when the tag fails. -/
def aeadOpen (suite : Nat) (key iv aad sealed : List Byte) : Option (List Byte) :=
  let ct := sealed.take (sealed.length - 16)
  if 16 ≤ sealed.length ∧ sealed.drop ct.length = aeadTag suite key iv aad ct then some (aeadText suite key iv ct)
  else none

end Sys2Proof.Machine
end

