-- ==== Sys2Proof/Machine/Tables.lean ====
section
/-! DEFINITION. The exact-match tables: shapes and partitions, what a frame of a round finds, the
placement of insertions, and the changes that a round boundary brings into effect (R204–R218, R224,
R71, R74). -/

namespace Sys2Proof.Machine

open Sys2Proof

/-- Word `off` of the configuration block of table `n` (R236). -/
def tblAddr (n off : Nat) : Nat := 0x1800000 + n * 0x80 + off

/-- Word `off` of the partition block of tenancy `t` in standard table `n`. -/
def partAddr (n t off : Nat) : Nat := 0x1840000 + (n * 1024 + t) * 0x10 + off

/-- A table number of R140 names a pinned table. -/
def isPinned (n : Nat) : Bool := decide (64 ≤ n)

def tblPlace (s : State) (r n : Nat) : Nat := rfAt s r (tblAddr n 0) 1 0
def tblKeyBytes (s : State) (r n : Nat) : Nat := rfAt s r (tblAddr n 0) 12 6
def tblValueBytes (s : State) (r n : Nat) : Nat := rfAt s r (tblAddr n 0) 19 13
def tblLearning (s : State) (r n : Nat) : Bool := bit (wordAt s r (tblAddr n 0)) 4

/-- SIZE_LOG2 of a partition; 0: none (R206). -/
def partSize (s : State) (r n t : Nat) : Nat := rfAt s r (partAddr n t 4) 4 0

/-- The partition of a table that acts for tenancy `t` exists: a pinned table's for tenancy 0 only
(R206, R207, R133). -/
def tableOpen (s : State) (r n t : Nat) : Bool :=
  decide (n < 72) && tblPlace s r n != 0 &&
    (if isPinned n then t == 0 else partSize s r n t != 0)

/-- The partition number that the entries of tenancy `t` carry: 0 in a pinned table. -/
def partOf (n t : Nat) : Nat := if isPinned n then 0 else t

/-- Latency of a table operation (R137). -/
def tableLatency (s : State) (r n : Nat) : Nat :=
  if isPinned n then 5 else if tblPlace s r n = 2 then 48 else 6

/-- First bucket and log2 of the buckets of a partition in force (R206, R207). -/
def partRange (s : State) (n part : Nat) : Nat × Nat :=
  if isPinned n then (0, rf s (tblAddr n 4) 24 20)
  else (rf s (partAddr n part 0) 27 0, rf s (partAddr n part 4) 4 0)

/-- Candidate buckets of a key (R212). -/
def candidates (s : State) (n part : Nat) (key : List Byte) : Nat × Nat :=
  let p := partRange s n part
  let size := 2 ^ p.2
  let h := fun (off : Nat) => crc .crc32c (le 4 (word s (tblAddr n off)).toNat ++ key) % size
  let h1 := h 8
  let h2 := if isPinned n then h1 else h 12
  (p.1 + h1, p.1 + if h2 = h1 ∧ !isPinned n then h1 ^^^ 1 else h2)

/-- An entry is in force now. -/
def inForce (e : Entry) : Bool := e.until_.isNone

/-- An entry is visible to frames of round `r` (R26). -/
def visibleAt (r : Nat) (e : Entry) : Bool :=
  decide (e.since ≤ r) && (match e.until_ with | some u => decide (r < u) | none => true)

/-- The entry of a key that frames of round `r` find. -/
def findAt (s : State) (r n part : Nat) (key : List Byte) : Option Entry :=
  s.entries.find? fun e => e.table == n && e.part == part && e.key == key && visibleAt r e

/-- The entry of a key in force. -/
def findNow (s : State) (n part : Nat) (key : List Byte) : Option Entry :=
  s.entries.find? fun e => e.table == n && e.part == part && e.key == key && inForce e

/-- Value, STATIC and LOCK of a key after a change. -/
def afterChange (v : Option (List Byte × Bool × Bool)) (op : ChangeOp) :
    Option (List Byte × Bool × Bool) :=
  match op with
  | .insert value st _ _ => some (value, st, false)
  | .update value st => v.map fun x => (value, st.getD x.2.1, x.2.2)
  | .delete => none
  | .setLock => v.map fun x => (x.1, x.2.1, true)
  | .writeUnlock value => v.map fun x => (value, x.2.1, false)
  | .unlock => v.map fun x => (x.1, x.2.1, false)
  | .read => v

/-- A key as the table in force and every accepted change not yet in effect leave it (R70, R143,
R221). -/
def pendingView (s : State) (n part : Nat) (key : List Byte) : Option (List Byte × Bool × Bool) :=
  (s.changes.filter fun c => !c.done && c.table == n && c.part == part && c.key == key).foldl
    (fun v c => afterChange v c.op)
    ((findNow s n part key).map fun e => (e.value, e.static, e.lock))

/-- Position `a` on a ring comes before position `b`, with the ring's 32-bit count wrapping. -/
def before32 (a b : Nat) : Bool := decide (0 < sub32 b a ∧ sub32 b a < 2 ^ 31)

/-- The same after an in-band change of the overlay: the key of an accepted update is present, though the table of the
frame's round may not hold it yet (R70, R71). -/
def afterOverlay (pend v : Option (List Byte × Bool × Bool)) (op : ChangeOp) : Option (List Byte × Bool × Bool) :=
  match op with
  | .update value st =>
    let x := (v.orElse fun _ => pend).getD ([], false, false)
    some (value, st.getD x.2.1, x.2.2)
  | op => afterChange v op

/-- Value, STATIC and LOCK of a key as a lookup for a frame finds it: the table of its round, with the
in-band changes ahead of it on its ring (R71, R142). -/
def lookupFor (s : State) (f : Frame) (n part : Nat) (key : List Byte) :
    Option (List Byte × Bool × Bool) :=
  let base := (findAt s f.round n part key).map fun e => (e.value, e.static, e.lock)
  match f.sendPos with
  | none => base
  | some p =>
    (s.changes.filter fun c => c.table == n && c.part == part && c.key == key &&
      decide (f.round < c.effect) &&
      (match c.by_ with
        | .inBand ring pos => ring == p.1 && before32 pos p.2
        | _ => false)).foldl (fun v c => afterOverlay (pendingView s n part key) v c.op) base

/-- A bucket holds an uncorrectable error. -/
def bucketBad (s : State) (n b : Nat) : Bool := s.errors.buckets.contains (n, b)

/-- One of a key's buckets holds an uncorrectable error. -/
def keyBad (s : State) (n part : Nat) (key : List Byte) : Bool :=
  let c := candidates s n part key
  bucketBad s n c.1 || bucketBad s n c.2

/-- The overflow store of a pinned table counts as this bucket (R217). -/
def overflowBucket : Nat := 2 ^ 32

/-- Slots of a bucket. -/
def bucketSlots (n b : Nat) : Nat :=
  if b = overflowBucket then 4096 else if isPinned n then 4 else 2

/-- The slot that a change reserves for its entry, and those that its moves still take. -/
def reserves (c : Change) : List (Nat × Nat) :=
  (match c.op with | .insert _ _ b v => [(b, v)] | _ => []) ++ c.moves.map fun m => m.2

/-- A slot is free: no entry in force holds it and no pending change has reserved it (R213). -/
def slotIsFree (s : State) (n b v : Nat) : Bool :=
  !(s.entries.any fun e => e.table == n && inForce e && e.bucket == b && e.slot == v) &&
    !(s.changes.any fun c => !c.done && c.table == n && (reserves c).contains (b, v))

/-- The lowest free slot of a bucket. -/
def freeSlot (s : State) (n b : Nat) : Option Nat :=
  (List.range (bucketSlots n b)).find? fun v => slotIsFree s n b v

/-- Bucket and slot of an entry in force once every accepted chain of moves has been made (R213). -/
def placeOf (s : State) (n : Nat) (e : Entry) : Nat × Nat :=
  (s.changes.filter fun c => !c.done && c.table == n && c.part == e.part).foldl (fun p c =>
    c.moves.foldl (fun p m => if m.1 = e.key then m.2 else p) p) (e.bucket, e.slot)

/-- An entry that stands at a place may be moved by an insertion that has already moved the keys `moved`: it is not
locked, an accepted lock included, and no accepted insertion of its own key takes its place (R143, R213). -/
def movable (s : State) (n : Nat) (moved : List (List Byte)) (e : Entry) (at_ : Nat × Nat) : Bool :=
  let locked := match pendingView s n e.part e.key with
    | some v => v.2.2
    | none => e.lock
  !locked && !moved.contains e.key && !(s.changes.any fun c => !c.done && c.table == n &&
    (match c.op with | .insert _ _ b v => (b, v) == at_ | _ => false))

/-- The lowest slot of a bucket that holds a movable entry, with the entry. -/
def victim (s : State) (n b : Nat) (moved : List (List Byte)) : Option (Entry × Nat) :=
  (List.range (bucketSlots n b)).findSome? fun v =>
    (s.entries.find? fun e => e.table == n && inForce e && placeOf s n e == (b, v) &&
      movable s n moved e (b, v)).map fun e => (e, v)

/-- A chain of moves planned from a bucket, the last move first; `none`: PLACE_FAILED (R213). The moved
entry takes the slot of the entry that it displaces. -/
def planChain (s : State) (n part : Nat) :
    Nat → Nat → List (List Byte) → List (List Byte × Nat × Nat) →
      Option (List (List Byte × Nat × Nat))
  | 0, _, _, _ => none
  | k + 1, b, moved, plan =>
    match victim s n b moved with
    | none => none
    | some (e, slot) =>
      -- the displaced entry's slot completes the move that was planned before it
      let plan := match plan with
        | (key, bk, _) :: m => (key, bk, slot) :: m
        | [] => []
      let c := candidates s n part e.key
      let a := if b = c.1 then c.2 else c.1
      match freeSlot s n a with
      | some v => some ((e.key, a, v) :: plan)
      | none => planChain s n part k a (e.key :: moved) ((e.key, a, 0) :: plan)

/-- Slots that an entry of the key itself holds, or that an accepted insertion of it has reserved: an insertion that
is resolved against a pending delete of the key finds them free (R143). -/
def ownSlots (s : State) (n part : Nat) (key : List Byte) : List (Nat × Nat) :=
  (match findNow s n part key with | some e => [(e.bucket, e.slot)] | none => []) ++
    (s.changes.filter fun c => !c.done && c.table == n && c.part == part && c.key == key).filterMap fun c =>
      match c.op with
      | .insert _ _ b v => some (b, v)
      | _ => none

/-- The lowest slot of a bucket that is free for the key. -/
def freeFor (s : State) (n part : Nat) (key : List Byte) (b : Nat) : Option Nat :=
  (List.range (bucketSlots n b)).find? fun v => slotIsFree s n b v || (ownSlots s n part key).contains (b, v)

/-- Where an insertion of a key goes: bucket, slot and moves; `none`: no room (R213, R217). -/
def placement (s : State) (n part : Nat) (key : List Byte) :
    Option (Nat × Nat × List (List Byte × Nat × Nat)) :=
  let c := candidates s n part key
  match freeFor s n part key c.1 with
  | some v => some (c.1, v, [])
  | none =>
    if isPinned n then (freeFor s n part key overflowBucket).map fun v => (overflowBucket, v, [])
    else
      match freeFor s n part key c.2 with
      | some v => some (c.2, v, [])
      | none =>
        let b := if (victim s n c.1 []).isSome then c.1 else c.2
        match victim s n b [] with
        | none => none
        | some (_, slot) => (planChain s n part 32 b [] []).map fun m => (b, slot, m)

/-- Outcomes of resolving a change, numbered as the statuses of R141. -/
def tsOk : Nat := 0
def tsMiss : Nat := 1
def tsExists : Nat := 2
def tsAbsent : Nat := 3
def tsFull : Nat := 4
def tsPlaceFailed : Nat := 5
def tsLocked : Nat := 6
def tsNoSource : Nat := 7
def tsError : Nat := 8

/-- A placement that failed is counted for the table and the partition (R213, R217). -/
def countPlaceFailed (s : State) (n part : Nat) : State :=
  if isPinned n then count s (tblAddr n 0x28)
  else count (count s (tblAddr n 0x24)) (partAddr n part 0xC)

/-- A change accepted. -/
def accept (s : State) (c : Change) : State := { s with changes := s.changes ++ [c] }

/-- An insertion resolved (R213, R217): the state and its outcome. -/
def resolveInsert (s : State) (n part : Nat) (key value : List Byte) (st : Bool) (by_ : Writer)
    (tick effect : Nat) : State × Nat :=
  if keyBad s n part key then (s, tsError)
  else if (pendingView s n part key).isSome then (s, tsExists)
  else
    match placement s n part key with
    | none => (countPlaceFailed s n part, if isPinned n then tsFull else tsPlaceFailed)
    | some (b, v, moves) =>
      (accept s ⟨n, part, key, .insert value st b v, by_, tick, effect, moves, true, tick, false, 0, false⟩, tsOk)

/-- A change of an existing key resolved; `lockStops`: a lock bit in the pending view refuses it. -/
def resolveChange (s : State) (n part : Nat) (key : List Byte) (op : ChangeOp) (lockStops : Bool)
    (by_ : Writer) (tick effect : Nat) : State × Nat :=
  if keyBad s n part key then (s, tsError)
  else
    match pendingView s n part key with
    | none => (s, tsAbsent)
    | some v =>
      if lockStops && v.2.2 then (s, tsLocked)
      else (accept s ⟨n, part, key, op, by_, tick, effect, [], op != .read, tick, false, 0, false⟩, tsOk)

/-! ### Writing the tables -/

/-- Entry numbers that close at round `r`: the versions in force of a key. -/
def closeEntry (s : State) (n part : Nat) (key : List Byte) (r : Nat) : State :=
  { s with entries := s.entries.map fun e =>
      if e.table = n ∧ e.part = part ∧ e.key = key ∧ e.until_ = none then
        { e with until_ := some r } else e }

/-- A new version of an entry in force from round `r`, in place of the one in force. -/
def replaceEntry (s : State) (e : Entry) (r : Nat) : State :=
  let s := closeEntry s e.table e.part e.key r
  { s with entries := s.entries ++ [{ e with since := r, until_ := none }] }

/-- Age unit of a round (R210). -/
def ageUnit (r : Nat) : Nat := r / 2 ^ 20 % 65536

/-- A change brought into effect from round `r` (R74). -/
def applyChange (s : State) (c : Change) (r : Nat) : State :=
  let old := findNow s c.table c.part c.key
  match c.op with
  | .insert value st b v =>
    replaceEntry s
      { table := c.table, part := c.part, bucket := b, slot := v, key := c.key
        value := value, static := st, lastSeen := ageUnit r, since := r } r
  | .update value st =>
    match old with
    | some e =>
      let seen := if st.isSome then ageUnit r else e.lastSeen
      replaceEntry s { e with value := value, static := st.getD e.static, lastSeen := seen } r
    | none => s
  | .delete => closeEntry s c.table c.part c.key r
  | .setLock => match old with
    | some e => replaceEntry s { e with lock := true } r
    | none => s
  | .writeUnlock value => match old with
    | some e => replaceEntry s { e with value := value, lock := false } r
    | none => s
  | .unlock => match old with
    | some e => replaceEntry s { e with lock := false } r
    | none => s
  | .read => s

/-- A planned move written: the entry's bucket and slot change, its content does not (R214, R215). -/
def moveEntry (s : State) (n part : Nat) (m : List Byte × Nat × Nat) : State :=
  { s with entries := s.entries.map fun e =>
      if e.table = n ∧ e.part = part ∧ e.key = m.1 ∧ e.until_ = none then
        { e with bucket := m.2.1, slot := m.2.2 } else e }

/-- Order of writers at one boundary (R74): in-band by tick and ring, lists by commit tick, threads by
tick and slot. -/
def writerKey (c : Change) : Nat × Nat × Nat :=
  match c.by_ with
  | .inBand ring _ => (0, c.tick, ring)
  | .dma _ _ => (1, c.tick, 0)
  | .thread slot => (2, c.tick, slot)
  | .engine => (3, c.tick, 0)

/-- Order of three numbers. -/
def le3 (a b : Nat × Nat × Nat) : Bool :=
  decide (a.1 < b.1 ∨ (a.1 = b.1 ∧ (a.2.1 < b.2.1 ∨ (a.2.1 = b.2.1 ∧ a.2.2 ≤ b.2.2))))

/-- Entries in force of a table, and of one partition of it. -/
def entryCount (s : State) (n : Nat) : Nat :=
  (s.entries.filter fun e => e.table == n && inForce e).length
def partCount (s : State) (n part : Nat) : Nat :=
  (s.entries.filter fun e => e.table == n && e.part == part && inForce e).length

/-- Slots per round that a memory's calendar holds, reserves and has booked (R37). -/
def tableSlots (s : State) (hbm : Bool) : Nat × Nat :=
  if hbm then (32768, 2304 + rf s 0x1A08008 15 0) else (262144, 4096 + rf s 0x1A0800C 17 0)

/-- Free slots of a tick (R216). -/
def freeSlots (s : State) (hbm : Bool) : Nat :=
  let c := tableSlots s hbm
  c.1 / 256 - (c.2 / 256 + if now s % 256 < c.2 % 256 then 1 else 0)

/-- Slots that one entry write of a table takes (R209). -/
def writeSlots (s : State) (n : Nat) : Nat :=
  if tblPlace s (round s) n = 2 then ceilDiv (32 * 2 ^ rf s (tblAddr n 0) 3 2) 64 else 1

/-- Writes that a change's update engine has still to make: its moves, then the entry's own. -/
def writesLeft (c : Change) : Nat := c.moves.length + if c.unwritten then 1 else 0

/-- Tick in which a change was resolved: one after the issue of a thread's instruction (R143). -/
def resolvedIn (c : Change) : Nat :=
  match c.by_ with
  | .thread _ => c.tick + 1
  | _ => c.tick

/-- The change that a table's update engine writes for: the first accepted one with a write left (R214). -/
def engineChange (s : State) (n : Nat) : Option Change :=
  s.changes.find? fun c => c.table == n && !c.done && decide (0 < writesLeft c)

/-- The engine has made its write of this tick. -/
def engineWrote (s : State) (n : Nat) : Bool :=
  s.changes.any fun c => c.table == n && c.written == now s && decide (resolvedIn c < now s)

/-- The engine has a write ready: resolved before this tick, and none made in it (R214, R216). -/
def writeReady (s : State) (n : Nat) : Bool :=
  !engineWrote s n && (match engineChange s n with
    | some c => decide (resolvedIn c < now s)
    | none => false)

/-- Slots that the engines of lower number take in this tick in the memory of table `n`: an engine whose write needs
more than are left takes none (R216). -/
def lowerSlots (s : State) (n : Nat) : Nat :=
  let hbm := tblPlace s (round s) n == 2
  ((List.range n).filter fun m => (tblPlace s (round s) m == 2) == hbm).foldl (fun used m =>
    let k := used + writeSlots s m
    if engineWrote s m || (writeReady s m && decide (k ≤ freeSlots s hbm)) then k else used) 0

/-- The engine may write in this tick: it has a write ready, and a slot is left for it after the engines of
lower number (R216). -/
def mayWrite (s : State) (n : Nat) : Bool :=
  writeReady s n &&
    decide (lowerSlots s n + writeSlots s n ≤ freeSlots s (tblPlace s (round s) n == 2))

/-- CHAIN_MOVE_WRITE: the engine writes its next move (R214, R216). -/
def chainMoveStep (n : Nat) (s : State) : State :=
  match engineChange s n with
  | none => s
  | some c =>
    match c.moves with
    | [] => s
    | m :: rest =>
      if !mayWrite s n then s
      else
        let s := moveEntry s n c.part m
        { s with changes := s.changes.map fun x =>
            if x = c then { c with moves := rest, written := now s } else x }

/-- The engine's write of an entry itself, in the tick's slots that are left (R216). With it a write of learning or
aging is finished. -/
def ownWrite (s : State) (n : Nat) : State :=
  match engineChange s n with
  | none => s
  | some c =>
    if !c.moves.isEmpty || !mayWrite s n then s
    else { s with changes := s.changes.map fun x =>
      if x = c then { c with unwritten := false, written := now s, done := c.by_ == .engine } else x }

/-- Learning or aging has changed a key, in force from this boundary on: the moves of a chain and the entry's own write
are the engine's work of the ticks that follow (R214, R215, R216, R227). -/
def engineWrites (s : State) (n part : Nat) (key : List Byte) (moves : List (List Byte × Nat × Nat)) : State :=
  accept s ⟨n, part, key, .read, .engine, now s, round s, moves, true, now s, false, 0, false⟩

/-- The entries' own writes of a tick, in ascending table number (R216). -/
def ownWrites (s : State) : State :=
  if s.changes.isEmpty then s else (List.range 72).foldl ownWrite s

/-- CHAIN_MOVE_WRITE (R214). -/
def execChainMoveWrite (table : Fin 72) (s : State) : Out := act s (chainMoveStep table.val)

end Sys2Proof.Machine
end

