-- ==== Sys2Proof/Machine/Meters.lean ====
section
/-! DEFINITION. Token buckets: path-class rate meters, exception buckets and two-rate meters (R198, R332,
R333, R519). -/

namespace Sys2Proof.Machine

open Sys2Proof

/-- A bucket brought up to date: `n` steps of `num / den` units of 2^-16 each, held at `cap` units, the
remainder kept (R519). -/
def gain (c : Credit) (n num den cap : Nat) (at_ : Nat) : Credit :=
  let total := c.rem + n * num
  let amount := c.amount + (total / den : Nat)
  if (cap : Int) ≤ amount then ⟨cap, 0, at_⟩ else ⟨amount, total % den, at_⟩

/-- A whole token, or byte, in units of 2^-16. -/
def unit16 : Nat := 65536

/-- Bucket keys: path class, exception path of a tenancy, and the two buckets of a meter. -/
def classKey (c : Nat) : Nat := c
def excKey (t : Nat) : Nat := 0x1000 + t
def meterKey (m k : Nat) : Nat := 0x100000 + 2 * m + k

/-- A bucket that gains `rate` tokens per second at each round boundary, up to date in this round;
unlisted: full (R332, R198). -/
def roundBucket (s : State) (key rate cap : Nat) : Credit :=
  match look s.buckets key with
  | none => ⟨cap * unit16, 0, round s⟩
  | some c => gain c (round s - c.last) (rate * 1024 * unit16) 1000000000 (cap * unit16) (round s)

def setBucket (s : State) (key : Nat) (c : Credit) : State :=
  { s with buckets := place s.buckets key c }

/-- Rate and depth of a path class's meter in force (R332). -/
def classRate (s : State) (c : Nat) : Nat × Nat :=
  let p := pathNow s c
  ((match p.program with | some g => g.rate | none => 0), max p.k 1)

/-- The path-class bucket of a class. -/
def classBucket (s : State) (c : Nat) : Credit :=
  let r := classRate s c
  roundBucket s (classKey c) r.1 r.2

/-- Whole tokens in a class's bucket (MTR_PC_TOKENS). -/
def classTokens (s : State) (c : Nat) : Nat := (classBucket s c).amount.toNat / unit16

/-- A token taken from a class's meter; false: refused, and counted in MTR_PC_REFUSED (R332). -/
def takeClassToken (s : State) (c : Nat) : State × Bool :=
  let b := classBucket s c
  if (unit16 : Int) ≤ b.amount then
    (setBucket s (classKey c) { b with amount := b.amount - unit16 }, true)
  else (count64 (setBucket s (classKey c) b) (0x1B40000 + c * 0x10), false)

/-- A token returned to a class's meter, up to its depth (R185). -/
def returnClassToken (s : State) (c : Nat) : State :=
  let b := classBucket s c
  let cap := ((classRate s c).2 * unit16 : Nat)
  if (cap : Int) ≤ b.amount + unit16 then setBucket s (classKey c) ⟨cap, 0, b.last⟩
  else setBucket s (classKey c) { b with amount := b.amount + unit16 }

/-- Words of a tenancy's exception block (R203). -/
def excAddr (t off : Nat) : Nat := 0x1610000 + t * 0x20 + off

/-- A token taken from a tenancy's exception bucket; false: the frame is dropped (R198). -/
def takeException (s : State) (t : Nat) : State × Bool :=
  let rate := rf s (excAddr t 4) 23 0
  let burst := max 1 (rf s (excAddr t 8) 15 0)
  let b := roundBucket s (excKey t) rate burst
  if rate != 0 && decide ((unit16 : Int) ≤ b.amount) then
    (count (setBucket s (excKey t) { b with amount := b.amount - unit16 }) (excAddr t 0xC), true)
  else (count (setBucket s (excKey t) b) (excAddr t 0x10), false)

/-- CIR, PIR, CBS and PBS of a meter in a round. -/
def meterParams (s : State) (r m : Nat) : Nat × Nat × Nat × Nat :=
  ((wordAt s r (meterAddr m 0)).toNat, (wordAt s r (meterAddr m 1)).toNat, (wordAt s r (meterAddr m 2)).toNat,
    (wordAt s r (meterAddr m 3)).toNat)

/-- A meter's bucket of depth `burst` filling at `rate` kbit/s, up to date in this tick (R333). -/
def byteBucket (s : State) (c : Option Credit) (rate burst : Nat) : Credit :=
  match c with
  | none => ⟨burst * unit16, 0, now s⟩
  | some c => gain c (now s - c.last) (rate * unit16) 2000000 (burst * unit16) (now s)

/-- The colour of `b` bytes under the parameters, and the two buckets after it (R333): 0 green, 1 yellow,
2 red. -/
def colour (tc tp : Credit) (cir pir b : Nat) : Nat × Credit × Credit :=
  let need : Int := (b * unit16 : Nat)
  if cir = 0 ∧ pir = 0 then (2, tc, tp)
  else if tp.amount < need then (2, tc, tp)
  else if tc.amount < need then (1, tc, { tp with amount := tp.amount - need })
  else (0, { tc with amount := tc.amount - need }, { tp with amount := tp.amount - need })

/-- The in-band meter changes that a frame of a ring sees: those ahead of it that its round does not yet hold, in their
order (R71). -/
def meterOverlays (s : State) (f : Frame) (m : Nat) : List Overlay :=
  match f.sendPos with
  | none => []
  | some p =>
    s.overlays.filter fun o => o.ring == p.1 && before32 o.pos p.2 && decide (f.round < o.effect) &&
      (match o.what with
        | .meter n _ _ _ _ => n == m
        | .meterFill n => n == m
        | _ => false)

/-- The parameters of a meter for a frame: those of its round, under the in-band changes ahead of it (R26, R71). -/
def meterFor (s : State) (f : Frame) (m : Nat) : Nat × Nat × Nat × Nat :=
  (meterOverlays s f m).foldl (fun p o => match o.what with
    | .meter _ cir pir cbs pbs => (cir, pir, cbs, pbs)
    | _ => p) (meterParams s f.round m)

/-- Bucket key of a meter as ring `r` sees it through its overlay. -/
def overlayKey (r m k : Nat) : Nat := (r * 1048576 + m) * 2 + k

/-- A meter applied to `b` bytes of a frame: the state and the colour (R333, R334). The buckets are the ring's own while
a change ahead of the frame is not yet in effect. -/
def applyMeter (s : State) (f : Frame) (m b : Nat) : State × Nat :=
  let p := meterFor s f m
  match (meterOverlays s f m).find? fun o => !o.done with
  | some o =>
    let kc := overlayKey o.ring m 0
    let kp := overlayKey o.ring m 1
    let r := colour (byteBucket s (look s.buckets2 kc) p.1 p.2.2.1)
      (byteBucket s (look s.buckets2 kp) p.2.1 p.2.2.2) p.1 p.2.1 b
    ({ s with buckets2 := place (place s.buckets2 kc r.2.1) kp r.2.2 }, r.1)
  | none =>
    let r := colour (byteBucket s (look s.buckets (meterKey m 0)) p.1 p.2.2.1)
      (byteBucket s (look s.buckets (meterKey m 1)) p.2.1 p.2.2.2) p.1 p.2.1 b
    (setBucket (setBucket s (meterKey m 0) r.2.1) (meterKey m 1) r.2.2, r.1)

/-- Both buckets of a meter filled (R333). -/
def fillMeter (s : State) (m : Nat) : State :=
  { s with buckets := remove (remove s.buckets (meterKey m 0)) (meterKey m 1) }

/-- The overlay buckets of a meter on a ring filled. -/
def fillOverlay (s : State) (r m : Nat) : State :=
  { s with buckets2 := remove (remove s.buckets2 (overlayKey r m 0)) (overlayKey r m 1) }

end Sys2Proof.Machine
end

