-- ==== Sys2Proof/Machine/Classify.lean ====
section
/-! DEFINITION. The parse engine, the decision-tree lookup and the hash (R178–R189, R199). -/

namespace Sys2Proof.Machine

open Sys2Proof

/-! ### Bindings (R178, R203) -/

/-- Binding number of a frame's source; frames that threads and engines create have none. -/
def bindingOf (f : Frame) : Nat :=
  match f.src with
  | .port p => p
  | .peer ep w => 2064 + 64 * Endpoint.num ep + w
  | _ => (if tagSrcKind f.tag = 2 then 1040 else 16) + tagFld f.tag 0 9 0

def bindAddr (b off : Nat) : Nat := 0x1600000 + b * 0x10 + off

/-- The program that parses a frame's source in its governing round (R178, R179). -/
def parseProgram (s : State) (f : Frame) : Option Program :=
  match (pathAt s f.round (rfAt s f.round (bindAddr (bindingOf f) 0) 5 0)).program with
  | some p => if p.parse.isEmpty then none else some p
  | none => none

/-- p of R48 for a frame: PARSE_WC of the bound program, or 2 (R179, R183). -/
def parseTicks (s : State) (f : Frame) : Nat :=
  match parseProgram s f with
  | some p => p.parseWc
  | none => 2

def bindDefault (s : State) (f : Frame) : Nat :=
  rfAt s f.round (bindAddr (bindingOf f) 0) 13 8
def bindTenancy (s : State) (f : Frame) : Nat :=
  rfAt s f.round (bindAddr (bindingOf f) 4) 25 16

/-! ### The key (R180) -/

/-- The key at parse start. -/
def startKey (f : Frame) (bindTen : Nat) : List Byte :=
  be 2 (tagSource f.tag) ++ be 2 bindTen ++ [0, 0] ++ be 2 (tagLength f.tag) ++
    List.replicate 72 0

/-- LAYERS, FAIL and LAST_STATE put into a key at parse end. -/
def endKey (key : List Byte) (layers : Nat) (fail : Bool) (last : Nat) : List Byte :=
  patch key 4 [BitVec.ofNat 8 (layers + if fail then 4 else 0), BitVec.ofNat 8 last]

/-! ### The parse program (R181, R182) -/

/-- What a parse holds while it runs. -/
structure Parse where
  h : Nat
  layer : Nat
  visits : List Nat
  hdrs : List Hdr
  key : List Byte
  input : List Byte
  last : Nat
  deriving DecidableEq, Repr

/-- How a parse ended. -/
inductive ParseEnd where
  | fail
  | accept (hint : Option Nat)
  deriving DecidableEq, Repr

/-- Word `k` of a state record. -/
def stateWord (sect : List Byte) (st k : Nat) : Nat := leAt sect (16 + 96 * st + 4 * k) 4

/-- A bit field of a frame from bit `off`, `width` bits, most significant first; `none` when a byte of
it lies at or beyond `lim` (R182). -/
def frameField (bs : List Byte) (lim off width : Nat) : Option Nat :=
  let first := off / 8
  let last := (off + width - 1) / 8
  if lim ≤ last then none
  else some (beAt bs first (last - first + 1) / 2 ^ (8 * (last + 1) - off - width) % 2 ^ width)

/-- The extracts of a state applied in order up to the first that reads a byte at or beyond `lim`: the key, the hash
input, and whether all of them were applied. What was extracted before stays (R182). -/
def extracts (bs sect : List Byte) (lim st h : Nat) : List Nat → List Byte × List Byte → (List Byte × List Byte) × Bool
  | [], kv => (kv, true)
  | k :: ks, kv =>
    let w := stateWord sect st (12 + k)
    if bits w 20 20 = 0 then extracts bs sect lim st h ks kv
    else
      let src := h + bits w 8 0
      let len := bits w 12 9 + 1
      if lim < src + len then (kv, false)
      else
        let got := slice bs src len
        extracts bs sect lim st h ks
          ((patch kv.1 (bits w 19 13) got).take 80, if bits w 21 21 = 1 then kv.2 ++ got else kv.2)

/-- The transition of a state for a select value: the first used entry with that value, or DEFAULT. -/
def transition (sect : List Byte) (st v : Nat) : Nat :=
  match (List.range 8).find? fun k =>
      bits (stateWord sect st (4 + k)) 25 24 != 0 && bits (stateWord sect st (4 + k)) 15 0 == v with
  | some k => stateWord sect st (4 + k)
  | none => stateWord sect st 3

/-- The states of a parse, at most 32 visits: the 33rd fails in the state that it enters (R180, R182). -/
def parseRun (bs sect : List Byte) (lim : Nat) : Nat → Nat → Parse → Parse × ParseEnd
  | 0, st, p => ({ p with last := st }, .fail)
  | fuel + 1, st, p =>
    let w0 := stateWord sect st 0
    let w1 := stateWord sect st 1
    let w2 := stateWord sect st 2
    let p := { p with visits := st :: p.visits, last := st }
    if bits w0 7 5 + 1 < (p.visits.filter (· == st)).length then (p, .fail)
    else
      let p := { p with layer := p.layer + bits w0 4 4 }
      if 2 < p.layer then ({ p with layer := 2 }, .fail)
      else
        let p := if bits w0 8 8 = 1 then
            { p with hdrs := p.hdrs ++ [⟨bits w0 3 0, p.layer, p.h, 0⟩] } else p
        if 16 < p.hdrs.length then (p, .fail)
        else
          let len := if bits w1 0 0 = 0 then some (bits w1 9 1)
            else (frameField bs lim (8 * p.h + bits w1 12 1) (bits w1 16 13 + 1)).map fun v =>
              (v + bits w1 27 20) * 2 ^ bits w1 19 17
          match len with
          | none => (p, .fail)
          | some len =>
            if lim < p.h + len then (p, .fail)
            else
              let p := if bits w0 8 8 = 1 then
                  { p with hdrs := p.hdrs.dropLast ++ [⟨bits w0 3 0, p.layer, p.h, len⟩] } else p
              let x := extracts bs sect lim st p.h (List.range 8) (p.key, p.input)
              let p := { p with key := x.1.1, input := x.1.2 }
              if !x.2 then (p, .fail)
              else
                match frameField bs lim (8 * p.h + bits w2 11 0) (bits w2 15 12 + 1) with
                | none => (p, .fail)
                | some v =>
                  let t := transition sect st (v &&& bits w2 31 16)
                  match bits t 25 24 with
                  | 1 => parseRun bs sect lim fuel (bits t 23 16) { p with h := p.h + len }
                  | 2 => (p, .accept (if bits t 26 26 = 1 then some (bits t 21 16) else none))
                  | _ => (p, .fail)

/-- A frame parsed by a section: the end state of the parse and how it ended. -/
def runParse (sect bs key : List Byte) : Parse × ParseEnd :=
  parseRun bs sect (min bs.length 448) 32 (leAt sect 2 1) ⟨0, 0, [], [], key, [], 0⟩

/-- The Toeplitz key of a class: CLS_TKEY_0–12 (R203). -/
def toeplitzKey (s : State) (r c : Nat) : List Byte :=
  wordBytes ((List.range 13).map fun k => wordAt s r (0x1620000 + c * 0x40 + 4 * k))

/-- HASH of a hash input under a binding's HASH_KIND (R199). -/
def hashOf (s : State) (r kind cls : Nat) (input : List Byte) : Nat :=
  if input.isEmpty then 0
  else if kind = 0 then toeplitz (toeplitzKey s r cls) (input.take 48)
  else if kind = 1 then crc .crc32c input
  else 0

/-- A drop's place for a frame before its classifier stage: its port or its ring (R25). -/
def atSource (f : Frame) : DropAt :=
  match f.src with
  | .port p => .port p
  | .ring r => .ring r
  | _ => .tenancy (tagTenancy f.tag)

/-- Two frames of one tick in order of end time, then of source kind and index (R198, R332). -/
def endBefore (a b : Frame) : Bool :=
  decide (tag64 a.tag 3 < tag64 b.tag 3 ∨ (tag64 a.tag 3 = tag64 b.tag 3 ∧ tagSource a.tag ≤ tagSource b.tag))

/-- The frames that satisfy `p` and come up to frame `f` in the order of a tick, itself the last (R332). -/
def upTo (s : State) (p : Frame → Bool) (f : Frame) : List Frame :=
  (sortBy endBefore (((s.frames.map fun q => q.2).filter fun g => p g && g.id != f.id && endBefore g f))) ++ [f]

/-- The frame's parse stage ends in this tick (R48). -/
def parseDue (s : State) (f : Frame) : Bool :=
  f.stage == .whole && now s == f.wholeTick + parseTicks s f

/-- A frame parsed: its key, hash and hint class are known, and its hint class's meter colours it or refuses it
(R182, R185, R332). -/
def parseFrame (s : State) (f : Frame) : State :=
  let b := bindingOf f
  let key := startKey f (bindTenancy s f)
  let f := { f with stage := .parsed, parseTicks := parseTicks s f }
  let failed := fun (p : Parse) => { f with
    key := endKey p.key p.layer true p.last, hdrs := p.hdrs, hint := none,
    tag := (setFlag f.tag 18 true).set 11 0 }
  match parseProgram s f with
  | none => putFrame s (failed ⟨0, 0, [], [], key, [], 0⟩)
  | some prog =>
    let r := runParse prog.parse f.bytes key
    match r.2 with
    | .fail => putFrame s (failed r.1)
    | .accept h =>
      let cls := h.getD (bindDefault s f)
      let hash := hashOf s f.round (rfAt s f.round (bindAddr b 0) 17 16) cls r.1.input
      let f := { f with
        key := endKey r.1.key r.1.layer false r.1.last, hdrs := r.1.hdrs, hint := some cls,
        tag := f.tag.set 11 (BitVec.ofNat 32 hash) }
      let m := takeClassToken s cls
      if m.2 then putFrame m.1 { f with tag := setTag f.tag 12 9 8 0 }
      else dropFrame m.1 f (atSource f) rsPathRate

/-- PARSE: the last tick of a frame's parse stage. The frames whose stage ends in the same tick take their tokens in
order of end time and source, so those before it are parsed first (R182, R332). -/
def parseStep (id : Nat) (s : State) : State :=
  match frame? s id with
  | none => s
  | some f =>
    if rf s 0x100000 2 0 ≠ 2 ∨ !parseDue s f then s
    else (upTo s (parseDue s) f).foldl parseFrame s

/-- PARSE (R182). -/
def execParse (f : Nat) (s : State) : Out := act s (parseStep f)

/-! ### Rule sets (R187–R189) -/

/-- The rule set of a tenancy that governs frames of round `r`. -/
def ruleSetAt (s : State) (r tenancy num : Nat) : Option RuleSet :=
  (s.ruleSets.filter fun x => x.tenancy == tenancy && x.num == num && decide (x.round ≤ r)).getLast?

/-- Key word `x`. -/
def keyWord (key : List Byte) (x : Nat) : BitVec 64 := BitVec.ofNat 64 (beAt key (8 * x) 8)

/-- `n` key bits from bit `k`, most significant first. -/
def keyBitsAt (key : List Byte) (k n : Nat) : Nat :=
  (List.range n).foldl (fun v i => 2 * v + (wireBit key (k + i)).toNat) 0

/-- A rule matches a key under its mask (R187). -/
def ruleMatches (set : RuleSet) (key : List Byte) (r : Rule) : Bool :=
  match set.masks[r.mask]? with
  | none => false
  | some m => (List.range 3).all fun k =>
      let x := m.words.getD k 15
      decide (9 < x) || ((keyWord key x ^^^ r.values.getD k 0) &&& m.masks.getD k 0) == 0

/-- A lookup of at most 12 nodes from `n` (R189). -/
def lookupTree (set : RuleSet) (key : List Byte) : Nat → Nat → Option Rule
  | 0, _ => none
  | fuel + 1, n =>
    match set.nodes[n]? with
    | none => none
    | some v =>
      let v := v.toNat
      match bits v 1 0 with
      | 0 => lookupTree set key fuel (bits v 47 16 + keyBitsAt key (bits v 11 2) (bits v 14 12 + 1))
      | 1 =>
        let idx := [bits v 27 8, bits v 47 28, bits v 67 48, bits v 87 68].take (bits v 4 2)
        let hits := (idx.filterMap fun i => set.rules[i]?).filter (ruleMatches set key)
        hits.foldl (fun best r =>
          match best with
          | none => some r
          | some b => if r.rule < b.rule then some r else some b) none
      | _ => none

/-- The winning rule of a key in a rule set. -/
def classifyKey (set : RuleSet) (key : List Byte) : Option Rule := lookupTree set key 12 0

/-- The action record of a rule as a frame sees it, with the in-band changes ahead of it on its ring
(R71). -/
def actionFor (s : State) (f : Frame) (set : RuleSet) (r : Rule) : List Byte :=
  let base := set.acts.getD r.act []
  match f.sendPos with
  | none => base
  | some p =>
    (s.overlays.filter fun o => o.ring == p.1 && o.tenancy == set.tenancy &&
      before32 o.pos p.2 && decide (f.round < o.effect)).foldl (fun a o =>
        match o.what with
        | .action n rule rec_ =>
          if n = set.num ∧ (set.rules.any fun x => x.rule == rule && x.act == r.act) then rec_ else a
        | _ => a) base

end Sys2Proof.Machine
end

