-- ==== Sys2Proof/Machine/Edits.lean ====
section
/-! DEFINITION. The header edits of an action record: rewrite, pop and push with their lengths and
checksums, on the frame and its header records (R193–R196). -/

namespace Sys2Proof.Machine

open Sys2Proof

/-- Header kinds of R186. -/
def hkEthernet : Nat := 1
def hkTag : Nat := 2
def hkMpls : Nat := 3
def hkIpv4 : Nat := 4
def hkIpv6 : Nat := 5
def hkIpv6Ext : Nat := 6
def hkUdp : Nat := 7
def hkTcp : Nat := 8

/-- A frame under edit: its bytes and its header records. -/
structure Edit where
  bytes : List Byte
  hdrs : List Hdr
  deriving DecidableEq, Repr

/-- Bytes inserted at an offset; later headers move. -/
def Edit.insert (e : Edit) (off : Nat) (new : List Byte) : Edit :=
  { bytes := e.bytes.take off ++ new ++ e.bytes.drop off
    hdrs := e.hdrs.map fun h => if off ≤ h.off then { h with off := h.off + new.length } else h }

/-- Bytes removed; headers that begin in them go, later ones move. -/
def Edit.remove (e : Edit) (off n : Nat) : Edit :=
  { bytes := e.bytes.take off ++ e.bytes.drop (off + n)
    hdrs := (e.hdrs.filter fun h => decide (h.off < off ∨ off + n ≤ h.off)).map fun h =>
      if off + n ≤ h.off then { h with off := h.off - n } else h }

/-- Bytes of the frame written in place. -/
def Edit.put (e : Edit) (off : Nat) (new : List Byte) : Edit := { e with bytes := patch e.bytes off new }

/-- The first header of a kind in a layer. -/
def Edit.find (e : Edit) (kind layer : Nat) : Option Hdr :=
  e.hdrs.find? fun h => h.kind == kind && h.layer == layer

/-- Headers of a kind in layer 0. -/
def Edit.count (e : Edit) (kind : Nat) : Nat :=
  (e.hdrs.filter fun h => h.kind == kind && h.layer == 0).length

/-- The checksum of an IPv4 header of `len` bytes at `off`, recomputed. -/
def fixIpv4 (bs : List Byte) (off len : Nat) : List Byte :=
  let zero := patch bs (off + 10) [0, 0]
  patch zero (off + 10) (be 2 (inetChecksum (slice zero off len)))

/-- A checksum after the sum of the words under it went from `old` to `new`. -/
def adjustChecksum (ck old new : Nat) : Nat :=
  65535 - fold16 ((65535 - ck) + (65535 - fold16 old) + fold16 new)

/-- The bytes of an IP header that its layer's transport checksum covers: its addresses. -/
def addressPart (h : Hdr) : Nat × Nat := if h.kind = hkIpv4 then (12, 8) else (8, 32)

/-- Offset of the checksum in a UDP or TCP header. -/
def l4Check (kind : Nat) : Nat := if kind = hkUdp then 6 else 16

/-- The transport header of a layer. -/
def Edit.l4 (e : Edit) (layer : Nat) : Option Hdr :=
  e.hdrs.find? fun h => (h.kind == hkUdp || h.kind == hkTcp) && h.layer == layer

/-- The transport header's checksum brought in line with a rewrite; a UDP checksum of 0 over IPv4 stays
0 (R194). -/
def adjustL4 (before after : Edit) (touched : Hdr) (off len : Nat) : Edit :=
  match after.l4 touched.layer with
  | none => after
  | some t =>
    let at_ := t.off + l4Check t.kind
    let ck := beAt after.bytes at_ 2
    let isIp := touched.kind = hkIpv4 ∨ touched.kind = hkIpv6
    let a := addressPart touched
    let hit := if isIp then decide (off < a.1 + a.2 ∧ a.1 < off + len)
      else decide (touched.off = t.off) && decide (off < 4)
    let sum := fun (e : Edit) =>
      if isIp then onesSum (slice e.bytes (touched.off + a.1) a.2)
      else onesSum (patch (slice e.bytes t.off t.len) (l4Check t.kind) [0, 0])
    let overV4 := after.hdrs.any fun h => h.kind == hkIpv4 && h.layer == touched.layer
    if !hit || (t.kind == hkUdp && ck == 0 && overV4) then after
    else
      let v := adjustChecksum ck (sum before) (sum after)
      after.put at_ (be 2 (if t.kind = hkUdp ∧ v = 0 then 0xFFFF else v))

/-- Rewrite: `value` into the first header of a kind in a layer, at an offset of it (R193, R194). -/
def editRewrite (e : Edit) (kind layer off : Nat) (value : List Byte) : Option Edit :=
  match e.find kind layer with
  | none => none
  | some h =>
    if h.len < off + value.length then none
    else
      let n := e.put (h.off + off) value
      let n := if kind = hkIpv4 then { n with bytes := fixIpv4 n.bytes h.off h.len } else n
      some (adjustL4 e n h off value.length)

/-- The outer tag of layer 0 removed with the TPID that announces it. -/
def popTag (e : Edit) : Option Edit :=
  (e.find hkTag 0).map fun h => e.remove (h.off - 2) 4

/-- The EtherType of a kind of IP header. -/
def etherOf (kind : Nat) : Nat := if kind = hkIpv4 then 0x0800 else 0x86DD

/-- End of the Ethernet header and tags of layer 0. -/
def linkEnd (e : Edit) : Nat :=
  (e.hdrs.filter fun h => h.layer == 0 && (h.kind == hkEthernet || h.kind == hkTag)).foldl
    (fun m h => max m (h.off + h.len)) 0

/-- Pop 4: the outer layer removed (R194). -/
def popLayer (e : Edit) : Option Edit :=
  match e.hdrs.find? fun h => h.layer == 1 with
  | none => none
  | some h =>
    let lower := fun (n : Edit) => { n with hdrs := n.hdrs.map fun x =>
      { x with layer := x.layer - 1 } }
    if h.kind = hkEthernet then some (lower (e.remove 0 h.off))
    else if h.kind = hkIpv4 ∨ h.kind = hkIpv6 then
      let k := linkEnd e
      if k < 2 ∨ h.off < k then none
      else some (lower ((e.remove k (h.off - k)).put (k - 2) (be 2 (etherOf h.kind))))
    else none

/-- A pop of R192 (R194). -/
def editPop (e : Edit) (pop value : Nat) : Option Edit :=
  match pop with
  | 1 => popTag e
  | 2 => if e.count hkTag < 2 then none else (popTag e).bind popTag
  | 3 => (e.find hkMpls 0).map fun h =>
    let bottom := (e.bytes.getD (h.off + 2) 0).getLsbD 0
    let n := e.remove h.off 4
    if bottom then n.put (h.off - 2) (be 2 (value % 65536)) else n
  | 4 => popLayer e
  | _ => none

/-- Bytes of a template record (R195). -/
def templateRecord (s : State) (r k : Nat) : List Byte :=
  wordBytes ((List.range 64).map fun i => wordAt s r (0x1700000 + k * 0x100 + 4 * i))

/-- A template is valid, of a tenancy and of a kind (R195, R196). -/
def templateOk (rec_ : List Byte) (tenancy kind : Nat) : Bool :=
  let w := leAt rec_ 0 2
  bits w 15 15 == 1 && bits w 9 0 == tenancy && leAt rec_ 2 1 == kind &&
    decide (14 ≤ leAt rec_ 3 1 ∧ leAt rec_ 3 1 ≤ 176)

/-- The header bytes of a template. -/
def templateBytes (rec_ : List Byte) : List Byte := slice rec_ 16 (leAt rec_ 3 1)

/-- The UDP checksum of a datagram at `l4` up to the end, over an IP header at `ip`. -/
def udpChecksum (bs : List Byte) (ip l4 : Nat) (v6 : Bool) : Nat :=
  let len := bs.length - l4
  let pseudo := if v6 then slice bs (ip + 8) 32 ++ be 4 len ++ [0, 0, 0, 17]
    else slice bs (ip + 12) 8 ++ [0, 17] ++ be 2 len
  let v := inetChecksum (pseudo ++ slice bs l4 len)
  if v = 0 then 0xFFFF else v

/-- Lengths, checksums and the spread source port of a template's headers that begin at `base`, for
what follows them up to the frame's end (R195). -/
def fillTemplate (bs rec_ : List Byte) (base hash : Nat) : List Byte :=
  let ip := base + leAt rec_ 4 1
  let l4 := base + leAt rec_ 5 1
  let v6 := beAt bs ip 1 / 16 == 6
  let v4 := beAt bs ip 1 / 16 == 4
  let flags := leAt rec_ 6 1
  let proto := if v6 then beAt bs (ip + 6) 1 else beAt bs (ip + 9) 1
  let bs := if v4 then patch bs (ip + 2) (be 2 (bs.length - ip)) else bs
  let bs := if v6 then patch bs (ip + 4) (be 2 (bs.length - ip - 40)) else bs
  let bs := if v4 then fixIpv4 bs ip (beAt bs ip 1 % 16 * 4) else bs
  if (v4 || v6) && proto == 17 then
    let bs := if bits flags 1 1 = 1 then patch bs l4 (be 2 (49152 + hash % 16384)) else bs
    let bs := patch bs (l4 + 4) (be 2 (bs.length - l4) ++ [0, 0])
    if v6 || bits flags 0 0 == 1 then patch bs (l4 + 6) (be 2 (udpChecksum bs ip l4 v6)) else bs
  else bs

/-- A push of R192 (R194, R195). -/
def editPush (s : State) (f : Frame) (tenancy : Nat) (e : Edit) (push template value : Nat) :
    Option Edit :=
  match push with
  | 0 => none
  | 1 | 2 =>
    if 2 ≤ e.count hkTag then none
    else
      let tpid := if push = 1 then 0x8100 else 0x88A8
      let n := e.insert 12 (be 2 tpid ++ be 2 (value % 65536))
      let eth := n.hdrs.takeWhile fun h => h.kind == hkEthernet
      some { n with hdrs := eth ++ ⟨hkTag, 0, 14, 4⟩ :: n.hdrs.drop eth.length }
  | 3 =>
    let place := fun (off : Nat) (label : List Byte) =>
      let n := e.insert off label
      let ahead := n.hdrs.filter fun h => decide (h.off < off)
      { n with hdrs := ahead ++ ⟨hkMpls, 0, off, 4⟩ :: n.hdrs.drop ahead.length }
    if 4 ≤ e.count hkMpls then none
    else match e.find hkMpls 0 with
      | some h => some (place h.off (be 4 value))
      | none =>
        match e.hdrs.find? fun h => h.layer == 0 && (h.kind == hkIpv4 || h.kind == hkIpv6) with
        | none => none
        | some h =>
          let n := place h.off (be 4 (value ||| 0x100))
          some (n.put (h.off - 2) (be 2 0x8847))
  | _ =>
    let rec_ := templateRecord s f.round template
    if !templateOk rec_ tenancy push then none
    else
      let n := e.insert 0 (templateBytes rec_)
      some { bytes := fillTemplate n.bytes rec_ 0 (tagHash f.tag)
             hdrs := n.hdrs.map fun h => { h with layer := h.layer + 1 } }

/-- An edit kept when it applies and its length stays a frame's; a popped frame is padded to 60 bytes
(R194, R196). -/
def tryEdit (e : Edit) (r : Option Edit) : Edit × Nat :=
  match r with
  | some n => if maxLength < n.bytes.length then (e, 1) else ({ n with bytes := padTo 60 n.bytes }, 0)
  | none => (e, 1)

/-- Action bit `n` of an action record. -/
def actBit (a : List Byte) (n : Nat) : Bool := bits (leAt a 0 2) n n == 1

/-- Rewrite, pop and push of an action record, in the order of R193; and the edits skipped. -/
def applyEdits (s : State) (f : Frame) (tenancy : Nat) (a : List Byte) : Edit × Nat :=
  let e : Edit := ⟨f.bytes, f.hdrs⟩
  let value := leAt a 44 4
  let r := if actBit a 0 then
      tryEdit e (editRewrite e (bits (leAt a 48 1) 3 0) (bits (leAt a 48 1) 5 4) (leAt a 49 1)
        (slice a 52 (leAt a 50 1)))
    else (e, 0)
  let p := if actBit a 2 then tryEdit r.1 (editPop r.1 (leAt a 40 1) value) else (r.1, 0)
  let q := if actBit a 1 then
      tryEdit p.1 (editPush s f tenancy p.1 (leAt a 41 1) (leAt a 42 2 % 4096) value)
    else (p.1, 0)
  (q.1, r.2 + p.2 + q.2)

end Sys2Proof.Machine
end

