-- ==== Sys2Proof/Machine/Crypto.lean ====
section
/-! DEFINITION. Security associations and the three places that use them: MACsec in the ports, ESP beside
the classifier and in the transmit path, TLS records of the TCP engine, and the encryption window
(R339–R355). -/

namespace Sys2Proof.Machine

open Sys2Proof

/-! ### Records, keys and numbers -/

/-- Word `w` of a security association's record, in the model's object space. -/
def saAddr (sa w : Nat) : Nat := 0x130000000 + sa * 64 + w * 4

/-- Word `w` of its key. -/
def saKeyAddr (sa w : Nat) : Nat := 0x140000000 + sa * 32 + w * 4

/-- Tenancy of an association: the owner of its block (R339). -/
def saTenancy (s : State) (r sa : Nat) : Nat := rfAt s r (0x1C20000 + sa / 256 * 4) 9 0

def saKind (s : State) (r sa : Nat) : Nat := rfAt s r (saAddr sa 0) 2 0
def saValid (s : State) (r sa : Nat) : Bool := bit (wordAt s r (saAddr sa 0)) 3
def saSuite (s : State) (r sa : Nat) : Nat := rfAt s r (saAddr sa 0) 5 4
def saTunnel (s : State) (r sa : Nat) : Bool := bit (wordAt s r (saAddr sa 0)) 6
def saEsn (s : State) (r sa : Nat) : Bool := bit (wordAt s r (saAddr sa 0)) 7
def saUdp (s : State) (r sa : Nat) : Bool := bit (wordAt s r (saAddr sa 0)) 8

/-- Kinds of R355. -/
def saMacRx : Nat := 1
def saMacTx : Nat := 2
def saEspIn : Nat := 3
def saEspOut : Nat := 4
def saTlsRx : Nat := 5
def saTlsTx : Nat := 6

/-- NEXT of an association: state, not configuration (R342). -/
def saNext (s : State) (sa : Nat) : Nat := word64 s (saAddr sa 4)
def setNext (s : State) (sa n : Nat) : State := setWord64 s (saAddr sa 4) n
def saState (s : State) (sa : Nat) : SaState := (look s.sas sa).getD {}
def putSa (s : State) (sa : Nat) (v : SaState) : State := { s with sas := place s.sas sa v }

/-- The 12 salt bytes, and `n` key bytes. -/
def saSalt (s : State) (r sa : Nat) : List Byte :=
  wordBytes ((List.range 3).map fun k => wordAt s r (saAddr sa (8 + k)))
def saKey (s : State) (r sa n : Nat) : List Byte :=
  (wordBytes ((List.range 8).map fun k => wordAt s r (saKeyAddr sa k))).take n

/-- A key holds an uncorrectable error (R341). -/
def saKeyBad (s : State) (sa : Nat) : Bool := s.errors.keys.contains sa

/-- The association whose key could not be read: VALID cleared and an event that names it (R341). -/
def killKey (s : State) (sa : Nat) : State :=
  event (setRf s (saAddr sa 0) 3 3 0) srcCrypto evMemory (detail sa 0) (saTenancy s (round s) sa)
    rsMemory

/-- A frame or record protected or verified. -/
def countSa (s : State) (sa : Nat) : State :=
  let v := saState s sa
  putSa s sa { v with frames := v.frames + 1 }

/-- The next number of an association taken; none: its number space is used up (R346, R351, R352). -/
def takeNumber (s : State) (sa limit : Nat) : Option (Nat × State) :=
  let v := saState s sa
  let n := saNext s sa
  if v.spent || decide (limit < n) then none
  else
    let s := setNext s sa ((n + 1) % 2 ^ 64)
    some (n, if n + 1 = 2 ^ 64 then putSa s sa { saState s sa with spent := true } else s)

/-- One event when the next number reaches PN_THRESH (R346, R351). -/
def warnThreshold (s : State) (sa : Nat) : State :=
  let t := word64 s (saAddr sa 6)
  let v := saState s sa
  if t != 0 && decide (t ≤ saNext s sa) && !v.warned then
    event (putSa s sa { v with warned := true }) srcCrypto evLimit (detail sa 0)
      (saTenancy s (round s) sa)
  else s

/-- A sequence number is outside or repeated in a window whose highest accepted number is `top`
(R350, RFC 4303). -/
def replayed (v : SaState) (top w seq : Nat) : Bool :=
  decide (w ≠ 0) && (seq == 0 || (decide (seq ≤ top) && (decide (w ≤ top - seq) ||
    v.window.contains seq)))

/-- The window after an accepted number. -/
def acceptNumber (s : State) (sa w seq : Nat) : State :=
  let v := saState s sa
  let top := max (saNext s sa) seq
  putSa (setNext s sa top) sa { v with
    frames := v.frames + 1,
    window := (seq :: v.window).filter fun x => decide (top < x + w) }

/-! ### ESP, inbound (R347–R350) -/

/-- Where a frame's ESP header lies. -/
structure EspAt where
  ip : Nat
  v6 : Bool
  /-- Offset of the protocol or next-header byte that names what follows. -/
  proto : Nat
  /-- End of the IP header with its extension headers. -/
  ipEnd : Nat
  esp : Nat
  udp : Bool
  /-- End of the IP packet. -/
  stop : Nat
  deriving DecidableEq, Repr

/-- The recorded extension headers that follow an IPv6 header: the offset of the last next-header byte
and the end. -/
def extEnd (hdrs : List Hdr) (at_ : Nat × Nat) : Nat × Nat :=
  hdrs.foldl (fun a h => if h.kind = hkIpv6Ext ∧ h.off = a.2 then (h.off, h.off + h.len) else a) at_

/-- The ESP header that the inbound engine takes (R348). -/
def findEsp (bs : List Byte) (hdrs : List Hdr) : Option EspAt :=
  match hdrs.find? fun h => h.kind == hkIpv4 || h.kind == hkIpv6 with
  | none => none
  | some h =>
    let v6 := h.kind == hkIpv6
    let e := if v6 then extEnd hdrs (h.off + 6, h.off + h.len) else (h.off + 9, h.off + h.len)
    let proto := beAt bs e.1 1
    let stop := min bs.length (h.off + if v6 then 40 + beAt bs (h.off + 4) 2 else beAt bs (h.off + 2) 2)
    if proto = 50 then some ⟨h.off, v6, e.1, e.2, e.2, false, stop⟩
    else if proto = 17 ∧ beAt bs (e.2 + 2) 2 = 4500 ∧ beAt bs (e.2 + 8) 4 ≠ 0 then
      some ⟨h.off, v6, e.1, e.2, e.2 + 8, true, stop⟩
    else none

/-- The SPI of an ESP header; its low 18 bits are the association (R348). -/
def espSpi (bs : List Byte) (e : EspAt) : Nat := beAt bs e.esp 4

/-- The 64-bit sequence number of a received packet (R350, RFC 4303 Appendix A). -/
def espSeq (s : State) (r sa low : Nat) : Nat :=
  if !saEsn s r sa then low
  else
    let top := saNext s sa
    let w := max 1 (rfAt s r (saAddr sa 2) 12 0)
    let tl := top % 2 ^ 32
    let th := top / 2 ^ 32
    if w ≤ tl + 1 then (if tl + 1 - w ≤ low then th else th + 1) * 2 ^ 32 + low
    else (if tl + 2 ^ 32 + 1 - w ≤ low then th - 1 else th) * 2 ^ 32 + low

/-- Key bytes and AEAD suite of an ESP association: 0 AES-GCM-128, 1 AES-GCM-256. -/
def espKeyLen (s : State) (r sa : Nat) : Nat := if saSuite s r sa = 0 then 16 else 32

/-- Additional data of an ESP packet (RFC 4106). -/
def espAad (spi seq : Nat) (esn : Bool) : List Byte :=
  be 4 spi ++ (if esn then be 8 seq else be 4 seq)

/-- The plaintext of a received packet, its next header, when the ICV passes. -/
def espOpen (s : State) (r sa : Nat) (bs : List Byte) (e : EspAt) (seq : Nat) :
    Option (List Byte × Nat) :=
  let iv := slice bs (e.esp + 8) 8
  let ct := (bs.take e.stop).drop (e.esp + 16)
  match aeadOpen (saSuite s r sa) (saKey s r sa (espKeyLen s r sa))
      ((saSalt s r sa).take 4 ++ iv) (espAad (espSpi bs e) seq (saEsn s r sa)) ct with
  | none => none
  | some p =>
    let nh := beAt p (p.length - 1) 1
    let pad := beAt p (p.length - 2) 1
    if p.length < pad + 2 then none else some (p.take (p.length - 2 - pad), nh)

/-- The frame with its plaintext in place (R349). -/
def espReplace (bs : List Byte) (e : EspAt) (tunnel : Bool) (plain : List Byte) (nh : Nat) :
    List Byte :=
  if tunnel then
    let out := patch (bs.take e.ip) (e.ip - 2) (be 2 (if nh = 41 then 0x86DD else 0x0800))
    padTo 60 (out ++ plain)
  else
    let out := bs.take e.ipEnd ++ plain
    let out := patch out e.proto (le 1 nh)
    let out := if e.v6 then patch out (e.ip + 4) (be 2 (out.length - e.ip - 40))
      else fixIpv4 (patch out (e.ip + 2) (be 2 (out.length - e.ip))) e.ip (e.ipEnd - e.ip)
    padTo 60 out

/-- What the inbound engine and the rule's association come to (R349): a drop reason, or the plaintext
frame. -/
def espInbound (s : State) (f : Frame) (tenancy sa : Nat) (bs : List Byte) (hdrs : List Hdr) :
    State × Except Nat (List Byte) :=
  let r := f.round
  match findEsp bs hdrs with
  | none => (s, .error rsNoSa)
  | some e =>
    let spi := espSpi bs e
    if spi % 262144 ≠ sa ∨ (wordAt s r (saAddr sa 1)).toNat ≠ spi ∨ saKind s r sa ≠ saEspIn ∨
        !saValid s r sa ∨ saUdp s r sa ≠ e.udp ∨ saTenancy s r sa ≠ tenancy then (s, .error rsNoSa)
    else if saKeyBad s sa then (killKey s sa, .error rsMemory)
    else
      let seq := espSeq s r sa (beAt bs (e.esp + 4) 4)
      let w := rfAt s r (saAddr sa 2) 12 0
      let v := saState s sa
      if replayed v (saNext s sa) w seq then
        (putSa s sa { v with replay := v.replay + 1 }, .error rsReplay)
      else match espOpen s r sa bs e seq with
        | none => (putSa s sa { v with authFail := v.authFail + 1 }, .error rsAuthFail)
        | some p => (acceptNumber s sa w seq, .ok (espReplace bs e (saTunnel s r sa) p.1 p.2))

/-- CRYPTO_STATUS of a drop reason; none: no value stands for it (R63). -/
def cryptoStatus (reason : Nat) : Option Nat :=
  if reason = rsAuthFail then some 4 else if reason = rsReplay then some 5 else if reason = rsNoSa then some 6
  else if reason = rsPnExhausted then some 7 else none

/-- CRYPTO_KIND and CRYPTO_STATUS of a tag set. -/
def setCrypto (t : Tag) (kind status : Nat) : Tag :=
  setTag (setTag t 15 15 12 kind) 15 19 16 status

/-- The tag of a frame that an engine of the kind drops for a reason (R63). -/
def failCrypto (t : Tag) (kind reason : Nat) : Tag :=
  match cryptoStatus reason with
  | some v => setCrypto t kind v
  | none => t

/-- A frame carries outbound association `sa` from now on (R353). -/
def carrySa (s : State) (f : Frame) (sa : Nat) : Frame :=
  { f with
    sa := some sa
    tag := setCrypto f.tag (if saKind s f.round sa = saTlsTx then 3 else 2) 1 }

/-! ### ESP, outbound (R351) -/

/-- The IP header of a frame behind its Ethernet header and tags: offset, IPv6, end. -/
def ipOf (bs : List Byte) : Option (Nat × Bool × Nat) :=
  let off := 14 + 4 * (vlanTags bs).length
  let et := etherAt bs (off - 2)
  if et = 0x0800 then some (off, false, off + beAt bs off 1 % 16 * 4)
  else if et = 0x86DD then some (off, true, off + 40) else none

/-- Payload padded to a 4-byte boundary with its ESP trailer (RFC 4303). -/
def espTrailer (payload : List Byte) (nh : Nat) : List Byte :=
  let pad := (4 - (payload.length + 2) % 4) % 4
  payload ++ (List.range pad).map (fun i => BitVec.ofNat 8 (i + 1)) ++ le 1 pad ++ le 1 nh

/-- The ESP packet of a payload: header, IV, ciphertext and ICV. -/
def espSeal (s : State) (r sa seq : Nat) (payload : List Byte) (nh : Nat) : List Byte :=
  let spi := (wordAt s r (saAddr sa 1)).toNat
  let plain := espTrailer payload nh
  let iv := be 8 seq
  be 4 spi ++ be 4 seq ++ iv ++
    slice (aeadSeal (saSuite s r sa) (saKey s r sa (espKeyLen s r sa))
      ((saSalt s r sa).take 4 ++ iv) (espAad spi seq (saEsn s r sa)) plain) 0 (plain.length + 16)

/-- The template of a tunnel association may be used (R351). -/
def espTemplate (s : State) (r sa tenancy : Nat) : Option (List Byte) :=
  let rec_ := templateRecord s r (rfAt s r (saAddr sa 2) 27 16)
  if templateOk rec_ tenancy 7 || templateOk rec_ tenancy 8 then some rec_ else none

/-- A frame protected under an outbound association with a sequence number; none: it cannot be. -/
def espProtect (s : State) (r sa tenancy hash seq : Nat) (bs : List Byte) : Option (List Byte) :=
  match ipOf bs with
  | none => none
  | some (ip, v6, ipEnd) =>
    let stop := min bs.length (ip + if v6 then 40 + beAt bs (ip + 4) 2 else beAt bs (ip + 2) 2)
    if saTunnel s r sa then
      match espTemplate s r sa tenancy with
      | none => none
      | some rec_ =>
        let inner := (bs.take stop).drop ip
        let et := if leAt rec_ 2 1 = 8 then 0x86DD else 0x0800
        let out := patch (bs.take ip) (ip - 2) (be 2 et) ++ templateBytes rec_ ++
          espSeal s r sa seq inner (if v6 then 41 else 4)
        some (fillTemplate out rec_ ip hash)
    else
      let at_ := if v6 then ip + 6 else ip + 9
      let esp := espSeal s r sa seq ((bs.take stop).drop ipEnd) (beAt bs at_ 1)
      let udp := if saUdp s r sa then be 2 4500 ++ be 2 4500 ++ be 2 (8 + esp.length) ++ [0, 0] else []
      let out := patch (bs.take ipEnd) at_ (le 1 (if saUdp s r sa then 17 else 50)) ++ udp ++ esp
      some (if v6 then patch out (ip + 4) (be 2 (out.length - ip - 40))
        else fixIpv4 (patch out (ip + 2) (be 2 (out.length - ip))) ip (ipEnd - ip))

/-- An outbound ESP association is usable for a frame of a tenancy (R351). -/
def espUsable (s : State) (r sa tenancy : Nat) : Bool :=
  saKind s r sa == saEspOut && saValid s r sa && saTenancy s r sa == tenancy &&
    (!saTunnel s r sa || (espTemplate s r sa tenancy).isSome)

/-- Length of a frame as protection leaves it, for its queue (R351); the frame's own when it cannot be
protected. -/
def espLength (s : State) (f : Frame) (sa : Nat) : Nat :=
  match espProtect s f.round sa (tagTenancy f.tag) (tagHash f.tag) 0 f.bytes with
  | some b => b.length
  | none => f.bytes.length

/-- ESP_OUTBOUND: the frame's bytes under its association, or the reason of its drop (R351). -/
def espOutbound (s : State) (f : Frame) (sa : Nat) : State × Except Nat (List Byte) :=
  let r := f.round
  let t := tagTenancy f.tag
  if !espUsable s r sa t then (s, .error rsNoSa)
  else if saKeyBad s sa then (killKey s sa, .error rsMemory)
  else
    match takeNumber s sa (if saEsn s r sa then 2 ^ 64 - 1 else 2 ^ 32 - 1) with
    | none =>
      let v := saState s sa
      let s := if v.dropped then s else
        event (putSa s sa { v with dropped := true }) srcCrypto evLimit (detail sa 1) t rsPnExhausted
      (s, .error rsPnExhausted)
    | some (seq, s') =>
      match espProtect s r sa t (tagHash f.tag) seq f.bytes with
      | none => (s, .error rsNoSa)
      | some b =>
        if 16384 < b.length + 4 then (s', .error rsOversize)
        else (warnThreshold (countSa s' sa) sa, .ok b)

/-! ### MACsec (R343–R346) -/

/-- Address of a word of a port's MACsec block, and its counters. -/
def msAddr (p off : Nat) : Nat := 0x1C10000 + p * 0x800 + off

/-- The SCI of a slot in a round, as its 8 bytes on the wire. -/
def slotSci (s : State) (r p k : Nat) : List Byte :=
  le 4 (wordAt s r (msAddr p (0x100 + k * 16))).toNat ++ le 4 (wordAt s r (msAddr p (0x104 + k * 16))).toNat

/-- The association of an association number of a slot in a round. -/
def slotSa (s : State) (r p k an : Nat) : Nat :=
  let w := if an < 2 then wordAt s r (msAddr p (0x10C + k * 16)) else wordAt s r (msAddr p (0x700 + k * 4))
  if an % 2 = 0 then fld w 15 0 else fld w 31 16

/-- A MACsec association: of its kind, valid, in a block of tenancy 0 and below 65,536 (R339, R340). -/
def macUsable (s : State) (r sa kind : Nat) : Bool :=
  saKind s r sa == kind && saValid s r sa && saTenancy s r sa == 0 && decide (sa < 65536)

/-- The nonce of a packet number (IEEE 802.1AE). -/
def macNonce (s : State) (r sa pn : Nat) (sci : List Byte) : List Byte :=
  if saSuite s r sa = 1 then
    xorBytes (saSalt s r sa) (be 4 (wordAt s r (saAddr sa 1)).toNat ++ be 8 pn)
  else sci ++ be 4 pn

/-- The whole packet number of a received one: the high half that XPN infers from the lowest
acceptable number. -/
def macPn (s : State) (r sa low : Nat) : Nat :=
  if saSuite s r sa ≠ 1 then low
  else
    let least := saNext s sa - rfAt s r (saAddr sa 2) 29 0
    let hi := least / 2 ^ 32
    (if 2 ^ 31 ≤ least % 2 ^ 32 ∧ low < 2 ^ 31 then hi + 1 else hi) * 2 ^ 32 + low

/-- A frame of MAC control or EAPOL, which passes unprotected (R343, R346). -/
def macExempt (bs : List Byte) : Bool := etherAt bs 12 == 0x888E || etherAt bs 12 == 0x8808

/-- MACSEC_VERIFY: a received frame under STRICT: its plaintext and whether it was protected, or the
reason of its drop (R344, R345). -/
def macVerify (s : State) (p r : Nat) (bs : List Byte) : State × Except Nat (List Byte × Bool) :=
  let fail := fun (s : State) (off reason : Nat) =>
    (count s (msAddr p off), (.error reason : Except Nat (List Byte × Bool)))
  if rfAt s r (msAddr p 0) 1 0 ≠ 1 then (s, .ok (bs, false))
  else if etherAt bs 12 ≠ 0x88E5 then
    if macExempt bs then (s, .ok (bs, false)) else fail s 0x10 rsNoSa
  else
    let tci := beAt bs 14 1
    let sc := bits tci 5 5 = 1
    let tag := if sc then 16 else 8
    let slots := (List.range 64).drop 1
    let slot := slots.find? fun k => bit (wordAt s r (msAddr p (0x108 + k * 16))) 0 &&
      (if sc then slotSci s r p k == slice bs 20 8 else bit (wordAt s r (msAddr p (0x108 + k * 16))) 1)
    match slot with
    | none => fail s 4 rsNoSa
    | some k =>
      let sa := slotSa s r p k (bits tci 1 0)
      let sci := if sc then slice bs 20 8 else slotSci s r p k
      if !macUsable s r sa saMacRx then fail s 4 rsNoSa
      else if saKeyBad s sa then (killKey s sa, .error rsMemory)
      else
        let pn := macPn s r sa (beAt bs 16 4)
        let v := saState s sa
        let sl := bits (beAt bs 15 1) 5 0
        let data := bs.drop (12 + tag)
        let data := if sl = 0 then data else data.take (sl + 16)
        let head := bs.take (12 + tag)
        let enc := bits tci 3 2
        if pn + rfAt s r (saAddr sa 2) 29 0 < saNext s sa then
          fail (putSa s sa { v with replay := v.replay + 1 }) 8 rsReplay
        else
          let body := data.take (data.length - 16)
          let nonce := macNonce s r sa pn sci
          let opened := if enc = 3 then aeadOpen 1 (saKey s r sa 32) nonce head data
            else if enc = 0 then
              (aeadOpen 1 (saKey s r sa 32) nonce (head ++ body) (data.drop body.length)).map
                fun _ => body
            else none
          match opened with
          | none => fail (putSa s sa { v with authFail := v.authFail + 1 }) 0xC rsAuthFail
          | some plain =>
            (setNext (countSa s sa) sa (max (saNext s sa) (pn + 1)), .ok (bs.take 12 ++ plain, true))

/-- A port protects this frame under the configuration of its round (R26, R346). -/
def macProtects (s : State) (r p : Nat) (bs : List Byte) : Bool :=
  bit (wordAt s r (msAddr p 0)) 2 && !macExempt bs

/-- Bytes that MACsec adds to a frame on a port (R346). -/
def macAdds (s : State) (r p : Nat) : Nat :=
  if bit (wordAt s r (msAddr p 0)) 2 then (if bit (wordAt s r (msAddr p 0)) 3 then 32 else 24) else 0

/-- A frame protected as it leaves a port, or the reason of its drop (R346). -/
def macProtect (s : State) (p r : Nat) (bs : List Byte) : State × Except Nat (List Byte) :=
  if !macProtects s r p bs then (s, .ok bs)
  else
    let sci := bit (wordAt s r (msAddr p 0)) 3
    let an := rfAt s r (msAddr p 0) 5 4
    let sa := slotSa s r p 0 an
    let xpn := saSuite s r sa = 1
    if !bit (wordAt s r (msAddr p 0x108)) 0 || !macUsable s r sa saMacTx then
      (count s (msAddr p 4), .error rsNoSa)
    else if saKeyBad s sa then (killKey s sa, .error rsMemory)
    else if 16384 < bs.length + macAdds s r p + 4 then (count s (msAddr p 0x14), .error rsOversize)
    else match takeNumber s sa (if xpn then 2 ^ 64 - 1 else 2 ^ 32 - 1) with
      | none => (count s (msAddr p 0x18), .error rsPnExhausted)
      | some (pn, s) =>
        let data := bs.drop 12
        let sl := if data.length < 48 then data.length else 0
        let head := bs.take 12 ++ be 2 0x88E5 ++ le 1 ((if sci then 0x20 else 0) + 0x0C + an) ++
          le 1 sl ++ be 4 pn ++ (if sci then slotSci s r p 0 else [])
        let ct := slice (aeadSeal 1 (saKey s r sa 32) (macNonce s r sa pn (slotSci s r p 0)) head
          data) 0 (data.length + 16)
        (warnThreshold (countSa (count s (msAddr p 0x1C)) sa) sa, .ok (head ++ ct))

/-! ### TLS records (R352) -/

/-- Key bytes of a TLS suite. -/
def tlsKeyLen (s : State) (r sa : Nat) : Nat := if saSuite s r sa = 0 then 16 else 32

/-- The nonce of record `n`. -/
def tlsNonce (s : State) (r sa n : Nat) : List Byte :=
  xorBytes (saSalt s r sa) (be 12 n)

/-- A received record opened: its content and inner type. -/
def tlsOpen (s : State) (r sa : Nat) (head ct : List Byte) : State × Except Nat (List Byte × Nat) :=
  let v := saState s sa
  if v.failed ∨ 16384 + 256 < ct.length then
    (putSa s sa { v with failed := true, authFail := v.authFail + 1 }, .error rsAuthFail)
  else if saKeyBad s sa then (killKey s sa, .error rsMemory)
  else match takeNumber s sa (2 ^ 64 - 1) with
    | none => (s, .error rsPnExhausted)
    | some (n, s') =>
      match aeadOpen (saSuite s r sa) (saKey s r sa (tlsKeyLen s r sa)) (tlsNonce s r sa n) head
          ct with
      | none => (putSa s sa { v with failed := true, authFail := v.authFail + 1 }, .error rsAuthFail)
      | some p =>
        let bare := (p.reverse.dropWhile (· == 0)).reverse
        (countSa s' sa, .ok (bare.dropLast, (bare.getLast?.getD 0).toNat))

/-- A record sealed for sending: content type `type` and content. -/
def tlsSeal (s : State) (r sa type : Nat) (data : List Byte) : State × Except Nat (List Byte) :=
  if saKeyBad s sa then (killKey s sa, .error rsMemory)
  else match takeNumber s sa (2 ^ 64 - 1) with
    | none => (s, .error rsPnExhausted)
    | some (n, s) =>
      let plain := data ++ le 1 type
      let head := [0x17, 0x03, 0x03] ++ be 2 (plain.length + 16)
      (countSa s sa, .ok (head ++ slice (aeadSeal (saSuite s r sa)
        (saKey s r sa (tlsKeyLen s r sa)) (tlsNonce s r sa n) head plain) 0 (plain.length + 16)))

/-! ### The encryption window (R355) -/

/-- Address of a word of a function's own copy of the window. -/
def cryAddr (fn : FnId) (off : Nat) : Nat := fnWordAddr fn (0x1C00000 + off)

/-- The association that a function's window selects. -/
def crySel (s : State) (fn : FnId) : Nat := rf s (cryAddr fn 8) 17 0

/-- A command on an association open to the function; otherwise ignored, with IND_DENIED (R355). -/
def cryOpen (s : State) (fn : FnId) (f : State → State) : State :=
  if fn = pf0 ∨ saTenancy s (round s) (crySel s fn) = fnTenancy s fn then f s
  else ignored (setRf s (cryAddr fn 4) 1 1 1) fn 0x1C0000C 5

/-- CRY_READ: the record to DATA; salt and key words read 0 (R355). -/
def cryReadStep (fn : FnId) (s : State) : State :=
  cryOpen s fn fun s => (List.range 16).foldl (fun s k =>
    setWord s (cryAddr fn (0x10 + 4 * k)) (if k < 8 then word s (saAddr (crySel s fn) k) else 0)) s

/-- Bits of DATA word `k` that a record holds (R355). -/
def saWordMask (kind k : Nat) : Word :=
  match k with
  | 0 => maskOf 8 0
  | 1 => 0xFFFFFFFF
  | 2 => if kind = saMacRx ∨ kind = saMacTx then maskOf 29 0 else maskOf 12 0 ||| maskOf 27 16
  | 3 => 0
  | _ => 0xFFFFFFFF

/-- Bits of a word that hold a reserved value under R12: they stay as they are. -/
def saReserved (kind k : Nat) (w : Word) : Word :=
  match k with
  | 0 => (if fld w 2 0 = 7 then maskOf 2 0 else 0) |||
      (if (if 4 < kind then decide (2 < fld w 5 4) else decide (1 < fld w 5 4)) then maskOf 5 4 else 0)
  | 2 =>
    if kind = saMacRx ∨ kind = saMacTx then
      (if 2 ^ 30 < fld w 29 0 then maskOf 29 0 else 0)
    else if fld w 12 0 % 64 ≠ 0 ∨ 4096 < fld w 12 0 then maskOf 12 0 else 0
  | _ => 0

/-- CRY_WRITE: DATA_0–10 to the function's shadow record and salt (R342, R355). -/
def cryWriteStep (fn : FnId) (s : State) : State :=
  cryOpen s fn fun s =>
    let sa := crySel s fn
    let data := fun (k : Nat) => word s (cryAddr fn (0x10 + 4 * k))
    let kind := fld (data 0) 2 0
    let bad := (List.range 11).any fun k => saReserved kind k (data k) != 0
    let s := (List.range 11).foldl (fun s k =>
      writeShadow s (.cry fn) fn (saAddr sa k)
        (saWordMask kind k &&& ~~~(saReserved kind k (data k))) (data k)) s
    if bad then ignored s fn 0x1C0000C 1 else s

/-- WRITE_KEY: DATA_0–7 to the shadow key (R355). -/
def writeKeyStep (fn : FnId) (s : State) : State :=
  cryOpen s fn fun s => (List.range 8).foldl (fun s k =>
    writeShadow s (.cry fn) fn (saKeyAddr (crySel s fn) k) 0xFFFFFFFF (word s (cryAddr fn (0x10 + 4 * k))))
    s

/-- COUNTERS: frames, AUTH_FAIL and REPLAY of the association to DATA_0–3 (R355). -/
def countersStep (fn : FnId) (s : State) : State :=
  cryOpen s fn fun s =>
    let v := saState s (crySel s fn)
    let s := setWord64 s (cryAddr fn 0x10) v.frames
    let s := setWord s (cryAddr fn 0x18) (BitVec.ofNat 32 v.authFail)
    setWord s (cryAddr fn 0x1C) (BitVec.ofNat 32 v.replay)

/-- READ of CRY_IND_CMD (R355). -/
def execCryRead (fn : FnId) (s : State) : Out := act s fun s => writeAs s fn 0x1C0000C (cryReadStep fn)
/-- WRITE of CRY_IND_CMD (R355). -/
def execCryWrite (fn : FnId) (s : State) : Out := act s fun s => writeAs s fn 0x1C0000C (cryWriteStep fn)
/-- WRITE_KEY of CRY_IND_CMD (R355). -/
def execWriteKey (fn : FnId) (s : State) : Out := act s fun s => writeAs s fn 0x1C0000C (writeKeyStep fn)
/-- COUNTERS of CRY_IND_CMD (R355). -/
def execCounters (fn : FnId) (s : State) : Out := act s fun s => writeAs s fn 0x1C0000C (countersStep fn)

end Sys2Proof.Machine
end

