-- ==== Sys2Proof/Machine/Flow.lean ====
section
/-! DEFINITION. Control flow: BR, LOOP, ENDL, CALL, RET and DONE (R123–R127), and the issue of a word
that raises ILLEGAL_INSTRUCTION (R105, R107, R108). -/

namespace Sys2Proof.Machine

open Sys2Proof

/-- BR: forward by DISP words when the condition holds (R123). -/
def brStep (t : Tid) (cd : Cond) (disp : BitVec 22) (s : State) : State :=
  issue s t (.br t cd disp) [.p cd.pred] true fun s =>
    onThread s t fun th =>
      lastIn s (if condOf th cd then advance th (1 + disp.toNat) else advance th 1)

/-- LOOP: the count set and the body entered, or the body skipped (R124). GC of 0 or 31 and BODY of 0
are reserved. -/
def loopStep (t : Tid) (gc : BitVec 5) (reg : Bool) (max body : BitVec 10) (s : State) : State :=
  let i := Instr.loop t gc reg max body
  issue s t i [.g gc] true fun s =>
    if gc = 0 ∨ gc = 31 ∨ body = 0 then raise s t faultIllegal (lastWord i) 0
    else
      onThread s t fun th =>
        let n := if reg then min (gReg th gc).toNat max.toNat else max.toNat
        lastIn s (if n = 0 then advance th (1 + body.toNat)
          else pendTo (advance th 1) (.g gc) (some (BitVec.ofNat 64 n)) (some (now s + 1)))

/-- The program counter moved back to the start of a loop body (R125). -/
def loopBack (th : Thread) (back : BitVec 10) : Thread :=
  { th with pc := th.pc + 4 - BitVec.ofNat 32 (4 * back.toNat) }

/-- ENDL: the count lowered and the body repeated, or the loop left with the count at 0 (R125). BACK of
0 is reserved. -/
def endlStep (t : Tid) (gc : BitVec 5) (back : BitVec 10) (s : State) : State :=
  let i := Instr.endl t gc back
  issue s t i [.g gc] true fun s =>
    if back = 0 then raise s t faultIllegal (lastWord i) 0
    else
      onThread s t fun th =>
        let n := (gReg th gc).toNat
        lastIn s (if n ≤ 1 then pendTo (advance th 1) (.g gc) (some 0) (some (now s + 1))
          else pendTo (loopBack th back) (.g gc) (some (BitVec.ofNat 64 (n - 1))) (some (now s + 1)))

/-- CALL: the link saved in g31 and the depth raised; depth above 4 is illegal (R126). -/
def callStep (t : Tid) (cd : Cond) (target : BitVec 22) (s : State) : State :=
  let i := Instr.call t cd target
  issue s t i [.p cd.pred, .g 31] true fun s =>
    let th := thread s t
    if condOf th cd then
      if 4 ≤ th.depth then raise s t faultIllegal (lastWord i) 0
      else onThread s t fun th =>
        pendTo { lastIn s th with depth := th.depth + 1, pc := BitVec.ofNat 32 (4 * target.toNat) }
          (.g 31) (some ((th.pc + 4).zeroExtend 64)) (some (now s + 1))
    else onThread s t fun th => lastIn s (advance th 1)

/-- RET: back to g31 and the depth lowered; a return at depth 0 is illegal (R126). -/
def retStep (t : Tid) (cd : Cond) (s : State) : State :=
  let i := Instr.ret t cd
  issue s t i [.p cd.pred, .g 31] true fun s =>
    let th := thread s t
    if condOf th cd then
      if th.depth = 0 then raise s t faultIllegal (lastWord i) 0
      else if 2 ^ 32 ≤ (gReg th 31).toNat then
        -- a g31 beyond 32 bits lies beyond any code size, and faults at the fetch (R126)
        onThread s t fun th => { lastIn s th with depth := th.depth - 1, pc := 0xFFFFFFFC }
      else onThread s t fun th =>
        { lastIn s th with depth := th.depth - 1, pc := (gReg th 31).truncate 32 }
    else onThread s t fun th => lastIn s (advance th 1)

/-- DONE: the thread's work on its frame ends (R127). With DROP 0 and its condition met it does not issue
while a scan of CHKA or CHKV is within its latency (R360). -/
def doneStep (t : Tid) (cd : Cond) (drop : Bool) (s : State) : State :=
  let i := Instr.done t cd drop
  let th := thread s t
  if condOf th cd && !drop && decide (now s < th.scanUntil) then s
  else
    issue s t i [.p cd.pred] false fun s =>
      if condOf (thread s t) cd then
        match settleDone s t drop with
        | .ok s' => s'
        | .error code =>
          if code = faultMemory then raise s t code (lastWord i) 0 1
          else raise s t code (lastWord i) (BitVec.ofNat 64 (tagDest (liveTag (thread s t))))
      else onThread s t fun th => advance th 1

/-- ILLEGAL_INSTRUCTION: the thread's next word is outside its code, has a reserved encoding, or is an X
word without a word that it may widen (R105, R107, R108); a word with an uncorrectable error raises
MEMORY_ERROR instead (R122). Such a word is of no lendable kind, so it issues in the thread's own cycle (R82). -/
def illegalStep (t : Tid) (s : State) : State :=
  let th := thread s t
  let code := threadCode s th
  let k := th.pc.toNat / 4
  let outside := th.pc.toNat % 4 != 0 || decide (code.length ≤ k)
  if threadReady s t && slotFree s t false then
    if outside then raise (markIssued s t) t faultIllegal 0 0
    else if !illegalAt (code.getD k 0) (code[k + 1]?) then s
    else if codeError s t 1 then raise (markIssued s t) t faultMemory (faultWord code k) 0 4
    else raise (markIssued s t) t faultIllegal (faultWord code k) 0
  else s

/-- BR (R123). -/
def execBr (t : Tid) (cd : Cond) (disp : BitVec 22) (s : State) : Out := act s (brStep t cd disp)
/-- LOOP (R124). -/
def execLoop (t : Tid) (gc : BitVec 5) (reg : Bool) (max body : BitVec 10) (s : State) : Out :=
  act s (loopStep t gc reg max body)
/-- ENDL (R125). -/
def execEndl (t : Tid) (gc : BitVec 5) (back : BitVec 10) (s : State) : Out :=
  act s (endlStep t gc back)
/-- CALL (R126). -/
def execCall (t : Tid) (cd : Cond) (target : BitVec 22) (s : State) : Out :=
  act s (callStep t cd target)
/-- RET (R126). -/
def execRet (t : Tid) (cd : Cond) (s : State) : Out := act s (retStep t cd)
/-- DONE (R127). -/
def execDone (t : Tid) (cd : Cond) (drop : Bool) (s : State) : Out := act s (doneStep t cd drop)
/-- ILLEGAL_INSTRUCTION (R107). -/
def execIllegalInstruction (t : Tid) (s : State) : Out := act s (illegalStep t)

end Sys2Proof.Machine
end

