-- ==== Sys2Proof/Machine/Locks.lean ====
section
/-! DEFINITION. The lock unit: locks, channels, bounded waits and the check for cycles (R93–R100, R102,
R158, R159). -/

namespace Sys2Proof.Machine

open Sys2Proof

/-- Statuses of R94. -/
def lkOk : Nat := 0
def lkBusy : Nat := 1
def lkWaitLimit : Nat := 2
def lkCycle : Nat := 3
def lkAbandoned : Nat := 4
def lkHolderHalted : Nat := 5
def lkNotHeld : Nat := 6
def lkAlreadyHeld : Nat := 7
def lkTooMany : Nat := 8
def lkEmpty : Nat := 9
def lkFull : Nat := 10
def lkNotSender : Nat := 11

/-- Lock `n` and channel `n` of a cluster belong to the tenancy of the thread's core (R93). -/
def lockOwned (s : State) (t : Tid) (n : Nat) : Bool :=
  rf s (cluAddr t.cluster.val (0x100 + n / 64 * 4)) 9 0 == tidTenancy s t
def chanOwned (s : State) (t : Tid) (n : Nat) : Bool :=
  rf s (cluAddr t.cluster.val (0x200 + n / 16 * 4)) 9 0 == tidTenancy s t

/-- A WAIT event of a thread: status, core and thread, lock or channel; its reason is that of the status
(R31, R485). -/
def waitEvent (s : State) (t : Tid) (status object : Nat) : State :=
  event s (srcCluster t.cluster.val) evWait
    (status + (t.core.val + t.thread.val * 16) * 256 + object % 65536 * 65536) (tidTenancy s t)
    (if status = lkCycle then 0x35 else 0x37)

/-- What the lock unit counts and records for a status CYCLE or HOLDER_HALTED (R99, R102). -/
def recordWaits (s : State) (cl status : Nat) (members : List (Nat × Nat)) : State :=
  let s := count s (cluAddr cl (if status = lkCycle then 0x14 else 0x1C))
  members.foldl (fun s m => waitEvent s (tidOf m.1) status m.2) s

/-- Threads of a cluster with a wait in force: thread number and wait. -/
def waiters (s : State) (cl : Nat) : List (Nat × LockWait) :=
  s.threads.filterMap fun p =>
    if p.1 / 128 = cl then p.2.wait.map fun w => (p.1, w) else none

/-- The waits on one lock or channel of a cluster, first the one that is granted first (R96). -/
def waitersOn (s : State) (cl : Nat) (on : WaitOn) : List (Nat × LockWait) :=
  let ws := (waiters s cl).filter fun w => w.2.on == on
  sortBy (fun a b => decide (a.2.issue < b.2.issue ∨ (a.2.issue = b.2.issue ∧ a.1 ≤ b.1))) ws

/-- The thread is the first waiter on the object. -/
def firstWaiter (s : State) (t : Tid) (on : WaitOn) : Bool :=
  ((waitersOn s t.cluster.val on).head?.map (·.1)) == some (tidNum t)

/-- A lock is free in tick `k`. -/
def lockFree (l : Lock) (k : Nat) : Bool := l.holder.isNone && decide (l.freeAt ≤ k)

/-- A channel is ready (R98). -/
def chanReady (c : Chan) : Bool := decide (0 < c.events) || !c.messages.isEmpty

/-- The lock taken by a thread: the state, and OK or ABANDONED (R100). -/
def takeLock (s : State) (t : Tid) (n : Nat) : State × Nat :=
  let k := lockNum t.cluster.val n
  let l := lock s k
  let s := putLock s k { l with holder := some t, abandoned := false }
  let s := onThread s t fun th => { th with locks := th.locks ++ [k] }
  if l.abandoned then (count s (cluAddr t.cluster.val 0x18), lkAbandoned) else (s, lkOk)

/-- A WAIT granted: an event count taken, or a committed message left for a get; the status with bit 8
(R98, R158). -/
def takeChan (s : State) (t : Tid) (n : Nat) : State × Nat :=
  let k := chanNum t.cluster.val n
  let c := chan s k
  if 0 < c.events then (putChan s k { c with events := c.events - 1 }, lkOk + 256) else (s, lkOk)

/-- Firmware bindings name path class `cls` as a sender of channel `n` of a cluster, in round `r` (R97). -/
def firmwareSender (s : State) (r cl cls n : Nat) : Bool :=
  bit (wordAt s r (cluAddr cl (0x8000 + n * 16 + 4 * (cls / 32)))) (cls % 32)

/-- A path class is in the sender set of channel `n` of a cluster in governing round `r`: by its program's certificate
or by a firmware binding (R97, R167). -/
def isSender (s : State) (r cl cls n : Nat) : Bool :=
  firmwareSender s r cl cls n || match (pathAt s r cls).program with
    | some p => p.res.any fun x => x.kind == 4 && x.num == n
    | none => false

/-- EXTERNAL of a channel, which a firmware binding sets (R97). -/
def external (s : State) (cl n : Nat) : Bool := bit (word s (cluAddr cl (0x8008 + n * 16))) 0

/-- Threads that could send on a channel: those of the cluster assigned to a class that any version
still held makes a sender (R97, R99). -/
def senderThreads (s : State) (cl n : Nat) : List Nat :=
  let rounds := (round s :: governingRounds s).eraseDups
  (List.range 64).flatMap fun c =>
    if rounds.any fun r => isSender s r cl c n then
      rounds.flatMap fun r => ((pathAt s r c).cores.filter fun k => k.1 == cl).flatMap fun k =>
        (List.range 8).map fun i => (k.1 * 16 + k.2) * 8 + i
    else []

/-- Threads that could end a wait of the cluster; `none`: one outside every set of waiters could. -/
def enders (s : State) (cl : Nat) (on : WaitOn) : Option (List Nat) :=
  match on with
  | .lock n =>
    match (lock s (lockNum cl n)).holder with
    | some h => some [tidNum h]
    | none => none
  | .chan n => if external s cl n then none else some (senderThreads s cl n)

/-- Members of a set of waits whose every ender is a member; repeated until nothing leaves (R99). -/
def closedSet (s : State) (cl : Nat) : Nat → List (Nat × WaitOn) → List (Nat × WaitOn)
  | 0, ws => ws
  | k + 1, ws =>
    closedSet s cl k (ws.filter fun w =>
      match enders s cl w.2 with
      | some es => es.all fun e => ws.any fun v => v.1 == e
      | none => false)

/-- The members that a wait reaches through its enders, the new one first. -/
def reached (s : State) (cl : Nat) (ws : List (Nat × WaitOn)) : Nat → List Nat → List Nat
  | 0, m => m
  | k + 1, m =>
    reached s cl ws k (m ++ (m.flatMap fun e =>
      match ws.find? fun w => w.1 == e with
      | some w => (enders s cl w.2).getD []
      | none => []).filter (fun e => !m.contains e) |>.eraseDups)

/-- The set of threads whose waits the new wait would close into a cycle; empty: none (R99). A halted
thread counts as not waiting (R102). -/
def cycleSet (s : State) (t : Tid) (on : WaitOn) : List Nat :=
  let cl := t.cluster.val
  let inForce := (waiters s cl).filter fun w => !(thread s (tidOf w.1)).halted
  let all := inForce.map (fun w => (w.1, w.2.on)) ++ [(tidNum t, on)]
  let ws := closedSet s cl 129 all
  if ws.any fun w => w.1 == tidNum t then reached s cl ws 129 [tidNum t] else []

/-- The status of an operation that the lock unit has acted on in this tick, usable in the next (R95). -/
def answer (s : State) (t : Tid) (rd : BitVec 5) (v : Nat) : State :=
  onThread s t fun th => fillPend th (.g rd) (BitVec.ofNat 64 v) (now s + 1)

/-- HOLDER_HALTED counted and recorded (R102). -/
def holderHalted (s : State) (t : Tid) (n : Nat) : State :=
  recordWaits s t.cluster.val lkHolderHalted [(tidNum t, n)]

/-- A wait that is not granted at once: refused as a cycle, or entered with its limit (R95, R99). -/
def beginWait (s : State) (t : Tid) (rd : BitVec 5) (on : WaitOn) (limit : Nat) (object : Nat) :
    State :=
  match cycleSet s t on with
  | [] => onThread s t fun th => { th with wait := some ⟨on, now s - 1, limit, rd⟩ }
  | set =>
    let members := set.map fun k => (k,
      match (thread s (tidOf k)).wait with
      | some w => (match w.on with | .lock n => n | .chan n => n)
      | none => object)
    answer (recordWaits s t.cluster.val lkCycle members) t rd lkCycle

/-! ### What the lock unit does in the tick after the issue -/

/-- The holder of a lock is debug-halted. -/
def heldByHalted (s : State) (k : Nat) : Bool :=
  match (lock s k).holder with
  | some h => (thread s h).halted
  | none => false

/-- LOCK and LOCKW with limit `limit` (R95, R102, R158). -/
def lockAct (s : State) (t : Tid) (rd : BitVec 5) (n limit : Nat) : State :=
  let k := lockNum t.cluster.val n
  let th := thread s t
  if th.locks.contains k then answer s t rd lkAlreadyHeld
  else if 8 ≤ th.locks.length then answer s t rd lkTooMany
  else if lockFree (lock s k) (now s) && (waitersOn s t.cluster.val (.lock n)).isEmpty then
    let r := takeLock s t n
    answer r.1 t rd r.2
  else if heldByHalted s k then answer (holderHalted s t n) t rd lkHolderHalted
  else if limit = 0 then answer s t rd lkBusy
  else beginWait s t rd (.lock n) limit n

/-- UNLOCK: a lock held is free from this tick on (R95). -/
def unlockAct (s : State) (t : Tid) (rd : BitVec 5) (n : Nat) : State :=
  let k := lockNum t.cluster.val n
  if (thread s t).locks.contains k then
    let s := freeLock s k (now s) false
    answer (onThread s t fun th => { th with locks := th.locks.filter (· != k) }) t rd lkOk
  else answer s t rd lkNotHeld

/-- A WAIT that comes behind `ahead` others on its channel would be granted: a message is committed, or an event
count is left for it (R98). -/
def chanGrants (c : Chan) (ahead : Nat) : Bool := !c.messages.isEmpty || decide (ahead < c.events)

/-- WAIT: granted when its channel is ready, else within the limit. The waiters ahead of it take their event counts
first (R95, R96, R98). -/
def waitAct (s : State) (t : Tid) (rd : BitVec 5) (n limit : Nat) : State :=
  let c := chan s (chanNum t.cluster.val n)
  let ahead := (waitersOn s t.cluster.val (.chan n)).length
  if chanGrants c ahead then
    if ahead < c.events then
      let r := takeChan s t n
      answer r.1 t rd r.2
    else answer s t rd lkOk
  else if limit = 0 then answer s t rd lkEmpty
  else beginWait s t rd (.chan n) limit n

/-- NOTIFY: the event count raised, up to 65,535 (R98). -/
def notifyAct (s : State) (t : Tid) (rd : BitVec 5) (n : Nat) (sender : Bool) : State :=
  let k := chanNum t.cluster.val n
  let c := chan s k
  if sender then answer (putChan s k { c with events := min 65535 (c.events + 1) }) t rd lkOk
  else answer s t rd lkNotSender

/-- Words on their way from a CCOMMIT of a cluster to the lock unit. -/
def inTransit (s : State) (cl n : Nat) : Nat :=
  (s.due.map fun d => match d.what with
    | .lockUnit t (.ccommit _ m ws) => if t.cluster.val = cl ∧ m = n then ws.length else 0
    | _ => 0).foldl (· + ·) 0

/-- Words of a channel's queue in use: committed and staged (R97). -/
def chanUsed (s : State) (cl n : Nat) : Nat :=
  ((chan s (chanNum cl n)).messages.map List.length).foldl (· + ·) 0 + inTransit s cl n +
    ((s.threads.filter fun p => p.1 / 128 == cl).map fun p =>
      (p.2.staged.filter fun w => w.1 == n).length).foldl (· + ·) 0

/-- CPUT: one word staged (R97, R159). -/
def cputAct (s : State) (t : Tid) (rd : BitVec 5) (n : Nat) (w : DWord) (sender : Bool) : State :=
  if !sender then answer s t rd lkNotSender
  else if 64 ≤ chanUsed s t.cluster.val n ∨ 16 ≤ (thread s t).staged.length then answer s t rd lkFull
  else answer (onThread s t fun th => { th with staged := th.staged ++ [(n, w)] }) t rd lkOk

/-- CCOMMIT: the words become one message (R97, R159). -/
def ccommitAct (s : State) (t : Tid) (rd : BitVec 5) (n : Nat) (ws : List DWord) : State :=
  let k := chanNum t.cluster.val n
  let c := chan s k
  answer (if ws.isEmpty then s else putChan s k { c with messages := c.messages ++ [ws] }) t rd lkOk

/-- The oldest committed word of a channel, whether it ends its message, and the rest. -/
def firstWord : List (List DWord) → Option (DWord × Bool × List (List DWord))
  | [] => none
  | [] :: ms => firstWord ms
  | [w] :: ms => some (w, true, ms)
  | (w :: v :: ws) :: ms => some (w, false, (v :: ws) :: ms)

/-- CGET: the next word of the oldest message in RD and its status in RB (R97, R158). -/
def cgetAct (s : State) (t : Tid) (rd rb : BitVec 5) (n : Nat) : State :=
  let k := chanNum t.cluster.val n
  let c := chan s k
  match firstWord c.messages with
  | none => answer (answer s t rd 0) t rb lkEmpty
  | some (w, last, rest) =>
    answer (answer (putChan s k { c with messages := rest }) t rd w.toNat) t rb (lkOk + if last then 256 else 0)

/-- The lock unit acts on one operation (R95). -/
def lockUnit (s : State) (t : Tid) : LockOp → State
  | .lock rd n limit => lockAct s t rd n limit
  | .unlock rd n => unlockAct s t rd n
  | .wait rd n limit => waitAct s t rd n limit
  | .notify rd n sender => notifyAct s t rd n sender
  | .cput rd n w sender => cputAct s t rd n w sender
  | .ccommit rd n ws => ccommitAct s t rd n ws
  | .cget rd rb n => cgetAct s t rd rb n

/-! ### The instructions -/

/-- The operation goes to the lock unit, which acts on it in the next tick: the UNLOCKs first, then the others in slot
order; `stays`: it takes place although the thread's core stops (R89, R95, R96). RD pends until the lock unit's
answer, and the program counter advances. -/
def toLockUnit (s : State) (t : Tid) (rd : BitVec 5) (phase : Nat) (stays : Bool) (op : LockOp) : State :=
  addDue (onThread s t fun th => pendTo (advance th 1) (.g rd) none none)
    ⟨now s + 1, phase, tidNum t, .lockUnit t op, if stays then none else some t⟩

/-- An operand above its range is reserved; an object of another tenancy is a violation (R93, R132). -/
def lockChecked (s : State) (t : Tid) (i : Instr) (v : DWord) (top : Nat) (owned : Bool)
    (body : State → State) : State :=
  if top ≤ v.toNat then raise s t faultIllegal (lastWord i) v
  else if !owned then raise s t faultTenancy (lastWord i) v
  else body s

/-- LOCK (R95). -/
def lockStep (t : Tid) (rd ra : BitVec 5) (s : State) : State :=
  let i := Instr.lock t rd ra
  issue s t i [.g rd, .g ra] false fun s =>
    let v := gReg (thread s t) ra
    lockChecked s t i v 4096 (lockOwned s t v.toNat) fun s => toLockUnit s t rd 1 false (.lock rd v.toNat 0)

/-- LOCKW: LOCK with a bounded wait (R95). -/
def lockwStep (t : Tid) (rd ra rb : BitVec 5) (s : State) : State :=
  let i := Instr.lockw t rd ra rb
  issue s t i [.g rd, .g ra, .g rb] false fun s =>
    let v := gReg (thread s t) ra
    let limit := gReg (thread s t) rb
    if 65536 ≤ limit.toNat then raise s t faultIllegal (lastWord i) limit
    else lockChecked s t i v 4096 (lockOwned s t v.toNat) fun s =>
      toLockUnit s t rd 1 false (.lock rd v.toNat limit.toNat)

/-- UNLOCK (R95). -/
def unlockStep (t : Tid) (rd ra : BitVec 5) (s : State) : State :=
  let i := Instr.unlock t rd ra
  issue s t i [.g rd, .g ra] false fun s =>
    let v := gReg (thread s t) ra
    lockChecked s t i v 4096 (lockOwned s t v.toNat) fun s => toLockUnit s t rd 0 false (.unlock rd v.toNat)

/-- WAIT (R95, R98). -/
def waitStep (t : Tid) (rd ra rb : BitVec 5) (s : State) : State :=
  let i := Instr.wait t rd ra rb
  issue s t i [.g rd, .g ra, .g rb] false fun s =>
    let v := gReg (thread s t) ra
    let limit := gReg (thread s t) rb
    if 65536 ≤ limit.toNat then raise s t faultIllegal (lastWord i) limit
    else lockChecked s t i v 1024 (chanOwned s t v.toNat) fun s =>
      toLockUnit s t rd 1 false (.wait rd v.toNat limit.toNat)

/-- The thread's class is in the sender set of the channel in its frame's governing round (R97). -/
def maySend (s : State) (t : Tid) (n : Nat) : Bool :=
  isSender s (threadRound s (thread s t)) t.cluster.val (thread s t).cls n

/-- NOTIFY (R98). -/
def notifyStep (t : Tid) (rd ra : BitVec 5) (s : State) : State :=
  let i := Instr.notify t rd ra
  issue s t i [.g rd, .g ra] false fun s =>
    let v := gReg (thread s t) ra
    lockChecked s t i v 1024 (chanOwned s t v.toNat) fun s =>
      toLockUnit s t rd 1 true (.notify rd v.toNat (maySend s t v.toNat))

/-- CPUT (R97, R159). -/
def cputStep (t : Tid) (rd ra rb : BitVec 5) (s : State) : State :=
  let i := Instr.cput t rd ra rb
  issue s t i [.g rd, .g ra, .g rb] false fun s =>
    let v := gReg (thread s t) ra
    lockChecked s t i v 1024 (chanOwned s t v.toNat) fun s =>
      toLockUnit s t rd 1 false (.cput rd v.toNat (gReg (thread s t) rb) (maySend s t v.toNat))

/-- CCOMMIT: the words staged for the channel leave the staging with it (R97, R159). -/
def ccommitStep (t : Tid) (rd ra : BitVec 5) (s : State) : State :=
  let i := Instr.ccommit t rd ra
  issue s t i [.g rd, .g ra] false fun s =>
    let v := gReg (thread s t) ra
    lockChecked s t i v 1024 (chanOwned s t v.toNat) fun s =>
      let ws := ((thread s t).staged.filter fun w => w.1 == v.toNat).map (·.2)
      let s := onThread s t fun th =>
        { th with staged := th.staged.filter fun w => w.1 != v.toNat }
      toLockUnit s t rd 1 true (.ccommit rd v.toNat ws)

/-- CGET: RB, a second destination, pends with RD; RB equal to RD is reserved unless both are g0 (R97, R134). -/
def cgetStep (t : Tid) (rd ra rb : BitVec 5) (s : State) : State :=
  let i := Instr.cget t rd ra rb
  issue s t i [.g rd, .g ra, .g rb] false fun s =>
    let v := gReg (thread s t) ra
    if rd = rb ∧ rd ≠ 0 then raise s t faultIllegal (lastWord i) v
    else lockChecked s t i v 1024 (chanOwned s t v.toNat) fun s =>
      onThread (toLockUnit s t rd 1 false (.cget rd rb v.toNat)) t fun th => pendTo th (.g rb) none none

/-! ### Waits in force -/

/-- The status of a wait delivered in this tick: the thread no longer waits, and RD is usable in the next tick; a
halted thread gets the status at its resume (R95, R101). -/
def endWait (s : State) (t : Tid) (w : LockWait) (v : Nat) : State :=
  onThread s t fun th =>
    if th.halted then
      { th with
        wait := none
        pend := th.pend.map fun p => if p.dest = .g w.rd then { p with val := some (BitVec.ofNat 64 v) } else p }
    else fillPend { th with wait := none } (.g w.rd) (BitVec.ofNat 64 v) (now s + 1)

/-- The waiters on the object of `w` that are granted before thread `t`. -/
def aheadOf (s : State) (t : Tid) (on : WaitOn) : Nat :=
  ((waitersOn s t.cluster.val on).takeWhile fun w => w.1 != tidNum t).length

/-- The condition of a wait is met in the current tick, for the thread's place among the waiters. -/
def grantable (s : State) (t : Tid) (w : LockWait) : Bool :=
  match w.on with
  | .lock n => lockFree (lock s (lockNum t.cluster.val n)) (now s) && firstWaiter s t w.on
  | .chan n => chanGrants (chan s (chanNum t.cluster.val n)) (aheadOf s t w.on)

/-- LOCK_GRANT: a wait whose condition is met ends in the current tick, within its limit; the waiters on one object
are granted in their order (R95, R96). -/
def lockGrantStep (t : Tid) (s : State) : State :=
  match (thread s t).wait with
  | none => s
  | some w =>
    if now s ≤ w.issue ∨ w.issue + 1 + w.limit < now s ∨ !grantable s t w ∨ !firstWaiter s t w.on then s
    else
      let r := match w.on with
        | .lock n => takeLock s t n
        | .chan n => takeChan s t n
      endWait r.1 t w r.2

/-- WAIT_LIMIT: a wait not granted by its last tick ends without its object (R95). -/
def waitLimitStep (t : Tid) (s : State) : State :=
  match (thread s t).wait with
  | none => s
  | some w =>
    if now s < w.issue + 1 + w.limit ∨ (now s = w.issue + 1 + w.limit ∧ grantable s t w) then s
    else endWait (count s (cluAddr t.cluster.val 0x20)) t w lkWaitLimit

/-- Waiters on locks whose holder halted in the last tick receive HOLDER_HALTED (R102). -/
def settleHalted (s : State) : State :=
  (s.threads.filter fun p => p.2.wait.isSome).foldl (fun s p =>
    let t := tidOf p.1
    match (thread s t).wait with
    | some w =>
      match w.on with
      | .lock n =>
        if heldByHalted s (lockNum t.cluster.val n) then endWait (holderHalted s t n) t w lkHolderHalted else s
      | .chan _ => s
    | none => s) s

/-- LOCK (R95). -/
def execLock (t : Tid) (rd ra : BitVec 5) (s : State) : Out := act s (lockStep t rd ra)
/-- LOCKW (R95). -/
def execLockw (t : Tid) (rd ra rb : BitVec 5) (s : State) : Out := act s (lockwStep t rd ra rb)
/-- UNLOCK (R95). -/
def execUnlock (t : Tid) (rd ra : BitVec 5) (s : State) : Out := act s (unlockStep t rd ra)
/-- WAIT (R98). -/
def execWait (t : Tid) (rd ra rb : BitVec 5) (s : State) : Out := act s (waitStep t rd ra rb)
/-- NOTIFY (R98). -/
def execNotify (t : Tid) (rd ra : BitVec 5) (s : State) : Out := act s (notifyStep t rd ra)
/-- CPUT (R97). -/
def execCput (t : Tid) (rd ra rb : BitVec 5) (s : State) : Out := act s (cputStep t rd ra rb)
/-- CCOMMIT (R97). -/
def execCcommit (t : Tid) (rd ra : BitVec 5) (s : State) : Out := act s (ccommitStep t rd ra)
/-- CGET (R97). -/
def execCget (t : Tid) (rd ra rb : BitVec 5) (s : State) : Out := act s (cgetStep t rd ra rb)
/-- LOCK_GRANT (R95). -/
def execLockGrant (t : Tid) (s : State) : Out := act s (lockGrantStep t)
/-- WAIT_LIMIT (R95). -/
def execWaitLimit (t : Tid) (s : State) : Out := act s (waitLimitStep t)

end Sys2Proof.Machine
end

