-- ==== Sys2Proof/Machine/DevOps.lean ====
section
/-! DEFINITION. The device operations but for locks and channels: tables, learning, classification, hash,
flow contexts, counters, FETCH, EMIT, CAPTURE, TIME, mailboxes and check values (R131–R160). -/

namespace Sys2Proof.Machine

open Sys2Proof

/-! ### Operands -/

/-- A slice block: a multiple of 8 and wholly within the slice (R135). -/
def blockOk (a : DWord) (n : Nat) : Bool := a.toNat % 8 == 0 && decide (a.toNat + n ≤ 0x4000)

/-- Bytes of the slice or, with `header`, of the header buffer; `none`: outside (R135). -/
def spaceBytes (s : State) (t : Tid) (header : Bool) (a n : Nat) : Option (List Byte) :=
  if header then (if a + n ≤ 512 then some (hdrBytes (thread s t) a n) else none)
  else (if a + n ≤ 0x4000 then some (readBytes s (sliceAddr t a) n) else none)

/-- A read of the slice, or of the header buffer, that meets an uncorrectable error (R122, R162). -/
def spaceError (s : State) (t : Tid) (header : Bool) (a n : Nat) : Bool :=
  n != 0 && (if header then hdrError s t a n else memError s (sliceAddr t a) n)

/-- A device operation: it issues only in the thread's own cycle (R131). -/
def deviceOp (i : Instr) (t : Tid) (named : List Dest) (body : State → State) (s : State) : State :=
  issue s t i named false body

/-- Slice bytes written as a result at the end of tick `i + l - 1` (R135). -/
def sliceResult (s : State) (t : Tid) (off l : Nat) (bs : List Byte) : State :=
  addDue s ⟨now s + l - 1, 5, tidNum t, .sliceWrite t off bs, some t⟩

/-- A status word in RD with latency `l`. -/
def statusG (s : State) (t : Tid) (rd : BitVec 5) (v l : Nat) : State :=
  resultG s t rd (some (BitVec.ofNat 64 v)) l 1

/-- The governing round of a thread's frame and the tenancy of its core. -/
def roundTen (s : State) (t : Tid) : Nat × Nat := (threadRound s (thread s t), tidTenancy s t)

/-! ### Tables (R140–R143) -/

/-- The checks of R132 of a table operation, then `body` with the key, the table, and the latency. -/
def tableOp (i : Instr) (t : Tid) (rd ra : BitVec 5) (table : BitVec 8)
    (body : State → List Byte → Nat → State) (s : State) : State :=
  deviceOp i t [.g rd, .g ra] (fun s =>
    let a := gReg (thread s t) ra
    let n := table.toNat
    let rt := roundTen s t
    if 72 ≤ n then raise s t faultIllegal (lastWord i) a
    else if !blockOk a 128 then raise s t faultBound (lastWord i) a
    else if !tableOpen s rt.1 n rt.2 then raise s t faultTenancy (lastWord i) (BitVec.ofNat 64 n)
    else if memError s (sliceAddr t a.toNat) 128 then raise s t faultMemory (lastWord i) a 2
    else body s (readBytes s (sliceAddr t a.toNat) (tblKeyBytes s rt.1 n)) (tableLatency s rt.1 n)) s

/-- An uncorrectable error met by a table read is recorded (R141). -/
def tableError (s : State) (n : Nat) : State :=
  event s srcTables evMemory (5 + n * 256)

/-- LOOKUP (R142). -/
def lookupStep (t : Tid) (rd ra : BitVec 5) (table : BitVec 8) (s : State) : State :=
  tableOp (.lookup t rd ra table) t rd ra table (fun s key l =>
    let n := table.toNat
    let rt := roundTen s t
    let part := partOf n rt.2
    if keyBad s n part key then statusG (tableError s n) t rd tsError l
    else
      match (thread s t).base.bind fun f => lookupFor s f n part key with
      | none => statusG s t rd tsMiss l
      | some v =>
        let s' := statusG s t rd (tsOk + (if v.2.1 then 256 else 0) + if v.2.2 then 512 else 0) l
        sliceResult s' t ((gReg (thread s t) ra).toNat + 64) l
          (slice v.1 0 (tblValueBytes s rt.1 n))) s

/-- A result in RD whose value a later tick gives, with latency `l`. -/
def pendLater (s : State) (t : Tid) (rd : BitVec 5) (l : Nat) : State := resultG s t rd (some 0) l 1

/-- An operation passed to an update or learning engine, which takes it in the next tick: the operations of one tick in
slot order (R143, R144). It takes place although the thread's core stops (R89). -/
def toTableUnit (s : State) (t : Tid) (op : TableOp) : State :=
  addDue s ⟨now s + 1, 0, tidNum t, .tableUnit t op, none⟩

/-- INSERT (R143). -/
def insertStep (t : Tid) (rd ra : BitVec 5) (table : BitVec 8) (s : State) : State :=
  tableOp (.insert t rd ra table) t rd ra table (fun s key l =>
    let n := table.toNat
    let rt := roundTen s t
    let value := readBytes s (sliceAddr t ((gReg (thread s t) ra).toNat + 64)) (tblValueBytes s rt.1 n)
    toTableUnit (pendLater s t rd l) t (.insert rd n (partOf n rt.2) key value l)) s

/-- DELETE (R143). -/
def deleteStep (t : Tid) (rd ra : BitVec 5) (table : BitVec 8) (s : State) : State :=
  tableOp (.delete t rd ra table) t rd ra table (fun s key l =>
    let n := table.toNat
    let rt := roundTen s t
    toTableUnit (pendLater s t rd l) t (.delete rd n (partOf n rt.2) key l)) s

/-- The update engine's answer to an operation issued in the last tick (R141, R143). -/
def tableAnswer (r : State × Nat) (t : Tid) (rd : BitVec 5) (n l : Nat) : State :=
  let s := if r.2 = tsError then tableError r.1 n else r.1
  onThread s t fun th => fillPend th (.g rd) (BitVec.ofNat 64 r.2) (now s - 1 + l)

/-- INSERT resolved against the table in force and every accepted change, with its issue tick as its commit tick
(R143). -/
def insertAct (s : State) (t : Tid) (rd : BitVec 5) (n part : Nat) (key value : List Byte) (l : Nat) : State :=
  let i := now s - 1
  tableAnswer (resolveInsert s n part key value false (.thread (tidNum t)) i (effectRound i)) t rd n l

/-- DELETE resolved likewise (R143). -/
def deleteAct (s : State) (t : Tid) (rd : BitVec 5) (n part : Nat) (key : List Byte) (l : Nat) : State :=
  let i := now s - 1
  tableAnswer (resolveChange s n part key .delete true (.thread (tidNum t)) i (effectRound i)) t rd n l

/-! ### Learning (R144, R226, R231) -/

/-- Source number of a 12-bit source: ports, functions of H0, functions of H1 (R227). -/
def sourceNumber (src : Nat) : Nat :=
  match bits src 11 10 with
  | 0 => bits src 3 0
  | 1 => 16 + bits src 9 0
  | _ => 1040 + bits src 9 0

def srcAddr (n off : Nat) : Nat := 0x1820000 + n * 0x10 + off

/-- Learning table of a bridge domain, when learning is on and the owner has a partition of a learning
table (R225, R226). -/
def learnTable (s : State) (r bd : Nat) : Option Nat :=
  let w := wordAt s r (0x1810000 + bd * 0x10)
  let n := fld w 21 16
  if bit w 31 && tblLearning s r n && tblPlace s r n != 0 && partSize s r n (fld w 9 0) != 0 then
    some n else none

/-- Key of an address in a bridge domain (R211). -/
def learnKey (bd : Nat) (mac : BitVec 48) : List Byte := be 2 bd ++ be 6 mac.toNat

/-- SOURCE of a learning entry. -/
def entrySource (e : Entry) : Nat := leAt e.value 0 2 % 4096

/-- The learning engine discards a learn at collection, and records nothing: LEARN_EN is 0, the table is no learning
table with a partition of the owner, or the source's LIMIT is 0 (R226). -/
def learnDiscarded (s : State) (bd src : Nat) : Bool :=
  (learnTable s (round s) bd).isNone || word s (srcAddr (sourceNumber src) 0) == 0

/-- A LEARN taken into the batch of the current round (R226). -/
def collectLearn (s : State) (bd : Nat) (mac : BitVec 48) (src ingress : Nat) : State :=
  let r := round s
  let here := (s.learns.filter fun l => l.round == r).length
  if 4096 ≤ here then
    let s := count s 0x1982000
    -- one event for the round: raised by the first learn that finds the batch full
    if here = 4096 then
      event { s with learns := s.learns ++ [⟨r, bd, mac, BitVec.ofNat 12 src, ingress, here⟩] }
        srcTables evLimit (detail bd 4096)
    else s
  else { s with learns := s.learns ++ [⟨r, bd, mac, BitVec.ofNat 12 src, ingress, here⟩] }

/-- Frame `f`, governed by round `r`, of a LEARN from a source at its limit marked (R231). -/
def markLearn (s : State) (f r : Nat) (bd : Nat) (mac : BitVec 48) (src : Nat) : State :=
  let sn := sourceNumber src
  let ctrl := wordAt s r (srcAddr sn 4)
  let w := wordAt s r (0x1810000 + bd * 0x10)
  let old := findAt s r (fld w 21 16) (fld w 9 0) (learnKey bd mac)
  let other := match old with
    | some e => entrySource e != src
    | none => true
  if bit ctrl 1 && other && !(s.learnMarks.any fun m => m.1 == f) then
    count { s with learnMarks := s.learnMarks ++ [(f, bd, bit ctrl 0)] } (srcAddr sn 0xC)
  else s

/-- The learning engine takes a LEARN of the last tick. A learn that it discards, for which it records nothing, marks
no frame either (R226, R231; DEDUCED). -/
def learnAct (s : State) (bd : Nat) (mac : BitVec 48) (src ingress f r : Nat) : State :=
  if learnDiscarded s bd src then s else markLearn (collectLearn s bd mac src ingress) f r bd mac src

/-- An update or learning engine takes an operation in the tick after its issue (R143, R144). -/
def tableUnit (s : State) (t : Tid) : TableOp → State
  | .insert rd n part key value l => insertAct s t rd n part key value l
  | .delete rd n part key l => deleteAct s t rd n part key l
  | .learn bd mac src ingress f r => learnAct s bd mac src ingress f r

/-- LEARN (R144). -/
def learnStep (t : Tid) (rd ra rb : BitVec 5) (s : State) : State :=
  let i := Instr.learn t rd ra rb
  deviceOp i t [.g rd, .g ra, .g rb] (fun s =>
    let bd := gReg (thread s t) ra
    let mac := gReg (thread s t) rb
    let rt := roundTen s t
    if 4096 ≤ bd.toNat then raise s t faultIllegal (lastWord i) bd
    else if 2 ^ 48 ≤ mac.toNat then raise s t faultIllegal (lastWord i) mac
    else if bdTenancy s rt.1 bd.toNat ≠ rt.2 then raise s t faultTenancy (lastWord i) bd
    else
      match (thread s t).base with
      | none => s
      | some f =>
        if tagSrcKind f.tag = 3 then statusG s t rd tsNoSource 2
        else toTableUnit (statusG s t rd tsOk 2) t
          (.learn bd.toNat (BitVec.ofNat 48 mac.toNat) (tagSource f.tag) (tag64 f.tag 1) f.id f.round)) s

/-! ### CLASSIFY and HASH (R145, R146) -/

/-- The result word of CLASSIFY (R145). -/
def classifyResult (s : State) (t : Tid) (num : Nat) (key : List Byte) : Nat :=
  let rt := roundTen s t
  match ruleSetAt s rt.1 rt.2 num, (thread s t).base with
  | some set, some f =>
    match classifyKey set key with
    | some r => r.rule + num * 2 ^ 20 + 2 ^ 31 + leAt (actionFor s f set r) 4 4 * 2 ^ 32
    | none => num * 2 ^ 20
  | _, _ => num * 2 ^ 20

/-- CLASSIFY (R145). -/
def classifyOpStep (t : Tid) (rd ra : BitVec 5) (ruleSet : BitVec 8) (s : State) : State :=
  let i := Instr.classify t rd ra ruleSet
  deviceOp i t [.g rd, .g ra] (fun s =>
    let a := gReg (thread s t) ra
    if 64 ≤ ruleSet.toNat then raise s t faultIllegal (lastWord i) a
    else if !blockOk a 80 then raise s t faultBound (lastWord i) a
    else if memError s (sliceAddr t a.toNat) 80 then raise s t faultMemory (lastWord i) a 2
    else statusG s t rd (classifyResult s t ruleSet.toNat (readBytes s (sliceAddr t a.toNat) 80)) 24) s

/-- HASH (R146). -/
def hashStep (t : Tid) (rd ra rb : BitVec 5) (func : BitVec 2) (header : Bool) (s : State) : State :=
  let i := Instr.hash t rd ra rb func header
  deviceOp i t [.g rd, .g ra, .g rb] (fun s =>
    let th := thread s t
    let a := gReg th ra
    let n := gReg th rb
    if 2 ≤ func.toNat then raise s t faultIllegal (lastWord i) a
    else if 48 < n.toNat then raise s t faultIllegal (lastWord i) n
    else
      match spaceBytes s t header a.toNat n.toNat with
      | none => raise s t faultBound (lastWord i) a
      | some bs =>
        if spaceError s t header a.toNat n.toNat then
          raise s t faultMemory (lastWord i) a (if header then 1 else 2)
        else statusG s t rd (hashOf s (threadRound s th) func.toNat th.cls bs) 3) s

/-! ### Flow contexts and counters (R147–R149) -/

/-- The checks of a flow-context operation with a slice block of `n` bytes, then `body` with the block
and the context index. -/
def flowOp (i : Instr) (t : Tid) (rd ra rb : BitVec 5) (fromTag : Bool) (n : Nat)
    (body : State → Nat → Nat → State) (s : State) : State :=
  deviceOp i t [.g rd, .g ra, .g rb] (fun s =>
    let th := thread s t
    let a := gReg th ra
    let v := if fromTag then BitVec.ofNat 64 (tagFlow (liveTag th)) else gReg th rb
    let rt := roundTen s t
    if fromTag && rb != 0 then raise s t faultIllegal (lastWord i) v
    else if fromTag && hdrError s t 32 4 then raise s t faultMemory (lastWord i) 32 1
    else if 2 ^ 24 ≤ v.toNat then raise s t faultIllegal (lastWord i) v
    else if !blockOk a n then raise s t faultBound (lastWord i) a
    else if !fcOwned s rt.1 rt.2 v.toNat then raise s t faultTenancy (lastWord i) v
    else body s a.toNat v.toNat) s

/-- FCLD: the context is read in tick i+24 and the block written at the end of tick i+47 (R148). -/
def fcldStep (t : Tid) (rd ra rb : BitVec 5) (fromTag : Bool) (s : State) : State :=
  flowOp (.fcld t rd ra rb fromTag) t rd ra rb fromTag 128 (fun s a c =>
    addDue (pendLater s t rd 48) ⟨now s + 24, 4, tidNum t, .fcRead t rd c a (now s + 48), some t⟩) s

/-- FCST: the block is written into the context in tick i+24 (R148). -/
def fcstStep (t : Tid) (rd ra rb : BitVec 5) (fromTag : Bool) (s : State) : State :=
  let i := Instr.fcst t rd ra rb fromTag
  flowOp i t rd ra rb fromTag 128 (fun s a c =>
    if memError s (sliceAddr t a) 128 then raise s t faultMemory (lastWord i) (BitVec.ofNat 64 a) 2
    else addDue (statusG s t rd 0 48)
      ⟨now s + 24, 3, tidNum t, .fcWrite c (readBytes s (sliceAddr t a) 128), none⟩) s

/-- FCSTV: context bytes 0–7 are compared with block bytes 128–135 before the write (R148). -/
def fcstvStep (t : Tid) (rd ra rb : BitVec 5) (fromTag : Bool) (s : State) : State :=
  let i := Instr.fcstv t rd ra rb fromTag
  flowOp i t rd ra rb fromTag 136 (fun s a c =>
    if memError s (sliceAddr t a) 136 then raise s t faultMemory (lastWord i) (BitVec.ofNat 64 a) 2
    else
      let blk := readBytes s (sliceAddr t a) 136
      addDue (pendLater s t rd 48)
        ⟨now s + 24, 3, tidNum t,
          .fcCompare t rd c a (blk.drop 128) (blk.take 128) (now s + 48) true, none⟩) s

/-- The checks of a program-counter operation (R149, R133). -/
def counterOp (i : Instr) (t : Tid) (named : List Dest) (ra : BitVec 5) (body : State → Nat → State)
    (s : State) : State :=
  deviceOp i t named (fun s =>
    let v := gReg (thread s t) ra
    let rt := roundTen s t
    if 16777216 ≤ v.toNat then raise s t faultIllegal (lastWord i) v
    else if !ctrOwned s rt.1 rt.2 v.toNat then raise s t faultTenancy (lastWord i) v
    else body s v.toNat) s

/-- CADD (R149). -/
def caddStep (t : Tid) (ra rb : BitVec 5) (s : State) : State :=
  counterOp (.cadd t ra rb) t [.g ra, .g rb] ra (fun s c =>
    addDue (onThread s t fun th => lastIn s (advance th 1))
      ⟨now s + 24, 3, tidNum t, .counterAdd c (gReg (thread s t) rb), none⟩) s

/-- CRD (R149). -/
def crdStep (t : Tid) (rd ra : BitVec 5) (bytes : Bool) (s : State) : State :=
  counterOp (.crd t rd ra bytes) t [.g rd, .g ra] ra (fun s c =>
    addDue (pendLater s t rd 48)
      ⟨now s + 24, 4, tidNum t, .counterRead t rd c bytes (now s + 48), some t⟩) s

/-! ### The frame's bytes (R150–R154) -/

/-- FETCH: bytes of the frame as it stood at the thread's start (R150). -/
def fetchStep (t : Tid) (rd ra rb : BitVec 5) (blocksM1 : BitVec 3) (s : State) : State :=
  let i := Instr.fetch t rd ra rb blocksM1
  deviceOp i t [.g rd, .g ra, .g rb] (fun s =>
    let th := thread s t
    let a := gReg th ra
    let off := gReg th rb
    let n := 64 * (blocksM1.toNat + 1)
    let l := 8 * (blocksM1.toNat + 1)
    if !blockOk a n then raise s t faultBound (lastWord i) a
    else if th.source.length ≤ off.toNat then raise s t faultBound (lastWord i) off
    else
      let s := statusG s t rd (min n (th.source.length - off.toNat)) l
      sliceResult s t a.toNat l (slice th.source off.toNat n)) s

/-- EMIT does not issue while a CHKA or CHKV of its thread is within its latency (R360). -/
def emitStep (t : Tid) (rd ra rb : BitVec 5) (copy override headLen : Bool) (s : State) : State :=
  let i := Instr.emit t rd ra rb copy override headLen
  if now s < (thread s t).scanUntil then s
  else
    deviceOp i t [.g rd, .g ra, .g rb] (fun s =>
      let th := thread s t
      let g := liveTag th
      let h := if headLen then (gReg th rb).toNat else headPart th
      let bytes := assemble th h
      let r := threadRound s th
      if (!headLen && rb != 0) || (!override && ra != 0) then raise s t faultIllegal (lastWord i) 0
      else if 448 < h then raise s t faultIllegal (lastWord i) (gReg th rb)
      else if hdrError s t 0 (64 + h) then raise s t faultMemory (lastWord i) 0 1
      else if bytes.length < 60 ∨ maxLength < bytes.length then
        raise s t faultIllegal (lastWord i) (BitVec.ofNat 64 bytes.length)
      else if kindReserved g then
        raise s t faultIllegal (lastWord i) (BitVec.ofNat 64 (tagDestKind g))
      else if !(destOk s r g && flowCtxOk s r g) then
        raise s t faultTenancy (lastWord i) (BitVec.ofNat 64 (tagDest g))
      else if !copy && th.handedOn then statusG s t rd 3 2
      else if copy && decide (8 ≤ th.copies) then statusG s t rd 4 2
      else
        let lanes := tagDestKind g == dkSequence || tagDestKind g == dkFanout
        let top := match threadProgram s th with | some p => p.overrideMax | none => 0
        let asked := (gReg th ra).toNat
        let d := if override && !lanes then min asked top else 0
        let st := if !override then 0 else if lanes then 2 else if top < asked then 1 else 0
        let s := if copy then handOnCopy s t bytes g d else handOnFrame s t bytes g d
        statusG s t rd st 2) s

/-- CAPTURE: the frame marked for a record at release, or a record written at once (R154). The record at once holds
the tag as the program left it: COPY is set only in the record made at release, and R67 does not say whether a record
at once, or a drop's record, is such a copy (DESIGN CHOICE). -/
def captureStep (t : Tid) (rd rb : BitVec 5) (atOnce : Bool) (s : State) : State :=
  let i := Instr.capture t rd rb atOnce
  deviceOp i t [.g rd, .g rb] (fun s =>
    let th := thread s t
    let snap := gReg th rb
    if 16384 < snap.toNat then raise s t faultIllegal (lastWord i) snap
    else if !atOnce then
      if th.handedOn then statusG s t rd 1 2
      else
        let s := match th.frame.bind (frame? s) with
          | some f => putFrame s { f with snap := some snap.toNat }
          | none => s
        addDue (statusG s t rd 0 2) ⟨now s + 1, 6, tidNum t, .tagField t 7 20 20 1, none⟩
    else if 4 ≤ th.records then statusG s t rd 2 2
    else if hdrError s t 0 (64 + headPart th) then raise s t faultMemory (lastWord i) 0 1
    else
      match th.base with
      | none => s
      | some f =>
        let bytes := assemble th (headPart th)
        let g := setTag (liveTag th) 7 15 0 bytes.length
        let s := onThread s t fun th => { th with records := th.records + 1 }
        let rec_ := { f with bytes := bytes, tag := g, snap := some snap.toNat }
        addDue (statusG s t rd 0 2) ⟨now s + 2, 7, tidNum t, .captureRecord rec_, none⟩) s

/-! ### Time (R157) -/

/-- TIME: compact time, tick count, or both halves of the full time (R157). -/
def timeStep (t : Tid) (rd rb : BitVec 5) (mode : BitVec 3) (s : State) : State :=
  let i := Instr.time t rd rb mode
  deviceOp i t [.g rd, .g rb] (fun s =>
    if 2 < mode.toNat ∨ (mode.toNat ≠ 2 ∧ rb ≠ 0) ∨ (mode.toNat = 2 ∧ rb = rd ∧ rd ≠ 0) then
      raise s t faultIllegal (lastWord i) 0
    else if mode.toNat = 0 then resultG s t rd (some (compactNow s)) 1 1
    else if mode.toNat = 1 then resultG s t rd (some s.tick) 1 1
    else
      let p := fullParts (fullUnits s)
      let s := resultG s t rd (some (BitVec.ofNat 64 (p.2.1 * 256 + p.2.2))) 1 1
      onThread s t fun th =>
        pendTo th (.g rb) (some (BitVec.ofNat 64 (p.1 % 2 ^ 48))) (some (now s + 1))) s

/-! ### Mailbox operations (R160) -/

/-- MBSEND: the message in the 520-byte area posted to the firmware (R160, R473). -/
def mbsendStep (t : Tid) (rd ra : BitVec 5) (s : State) : State :=
  let i := Instr.mbsend t rd ra
  deviceOp i t [.g rd, .g ra] (fun s =>
    let a := gReg (thread s t) ra
    let area := readBytes s (sliceAddr t a.toNat) 520
    let n := leAt area 0 2 % 1024
    if !blockOk a 520 then raise s t faultBound (lastWord i) a
    else if memError s (sliceAddr t a.toNat) 520 then raise s t faultMemory (lastWord i) a 2
    else if 512 < n then raise s t faultIllegal (lastWord i) (BitVec.ofNat 64 n)
    else
      let k := pairNum (.ofThread t)
      let m := mailbox s k
      if m.up.full then
        statusG (putMailbox s k { m with up := { m.up with reason := busyReason m.up } }) t rd
          (1 + busyReason m.up * 256) 13
      else
        statusG (putMailbox s k { m with
          up := postMsg s m.up ⟨BitVec.ofNat 32 (leAt area 4 4), slice area 8 n⟩ }) t rd 0 13) s

/-- MBRECV: a posted firmware message copied into the area, which clears FULL (R160, R474). -/
def mbrecvStep (t : Tid) (rd ra : BitVec 5) (s : State) : State :=
  let i := Instr.mbrecv t rd ra
  deviceOp i t [.g rd, .g ra] (fun s =>
    let a := gReg (thread s t) ra
    if !blockOk a 520 then raise s t faultBound (lastWord i) a
    else
      let k := pairNum (.ofThread t)
      let m := mailbox s k
      match m.down.full, m.down.msg with
      | true, some msg =>
        let s := putMailbox s k { m with down := takeMsg m.down }
        let s := statusG s t rd (msg.payload.length * 65536) 13
        sliceResult s t a.toNat 13 ((msgBytes msg).take (8 + msg.payload.length))
      | _, _ => statusG s t rd 2 13) s

/-- MBWDRAW: a posted message that has not been taken is withdrawn (R160, R476). -/
def mbwdrawStep (t : Tid) (rd : BitVec 5) (s : State) : State :=
  deviceOp (.mbwdraw t rd) t [.g rd] (fun s =>
    let k := pairNum (.ofThread t)
    let m := mailbox s k
    if m.up.full && !m.up.opened then
      statusG (putMailbox s k { m with up := withdrawMsg m.up }) t rd 0 2
    else statusG s t rd 2 2) s

/-! ### Check values (R155, R156, R358) -/

/-- 64-byte steps of a scan counted for the cluster (R364). -/
def countScan (s : State) (t : Tid) (n : Nat) : State :=
  count64 s (0x1D00008 + t.cluster.val * 0x20) (ceilDiv n 64)

/-- Latency of a scan of `n` bytes (R137). -/
def scanTicks (n : Nat) : Nat := 4 + ceilDiv n 64

/-- A check operation issues when its thread's lane is free (R358). -/
def checkOp (i : Instr) (t : Tid) (named : List Dest) (body : State → State) (s : State) : State :=
  if now s < (thread s t).laneUntil then s else deviceOp i t named body s

/-- The lane held for a scan's latency, and its value in RD. -/
def scanned (s : State) (t : Tid) (rd : BitVec 5) (v n : Nat) : State :=
  let s := onThread (countScan s t n) t fun th => { th with laneUntil := now s + scanTicks n }
  statusG s t rd v (scanTicks n)

/-- CHKS and CHKC: a value started, or continued from RD (R155). -/
def scanStep (i : Instr) (t : Tid) (p : CheckPoly) (rd ra rb : BitVec 5) (header cont : Bool)
    (s : State) : State :=
  checkOp i t [.g rd, .g ra, .g rb] (fun s =>
    let th := thread s t
    let a := gReg th ra
    let n := (gReg th rb).toNat
    if 0x4000 < n then raise s t faultBound (lastWord i) a
    else
    match spaceBytes s t header a.toNat n with
    | none => raise s t faultBound (lastWord i) a
    | some bs =>
      if spaceError s t header a.toNat n then
        raise s t faultMemory (lastWord i) a (if header then 1 else 2)
      else
        let f := if cont then (gReg th rd).toNat % 2 ^ (8 * crcWidth p) else 0
        scanned s t rd (crcFrom p f bs) n) s

/-- The frame's bytes as CHKA and CHKV scan them: the header buffer's, then the packet buffer's
(R156). -/
def liveBytes (th : Thread) : List Byte :=
  hdrBytes th 64 (headPart th) ++ th.source.drop (headPart th)

/-- The header-buffer bytes that a scan of `n` frame bytes from `off` reads hold an uncorrectable error (R87, R162). -/
def headScanError (s : State) (t : Tid) (off n : Nat) : Bool :=
  let k := min (headPart (thread s t)) (off + n) - off
  k != 0 && hdrError s t (64 + off) k

/-- A pending effect of CHKA or CHKV: it comes about, with CHECK_STATUS and CHECK_FAILED, at the end of
tick i + L − 1, and EMIT waits for it (R360, R516). -/
def checkEffect (s : State) (t : Tid) (n status : Nat) (append : List Byte) (strip : Nat)
    (mismatch : Option Bool) : State :=
  let last := now s + scanTicks n - 1
  let s := onThread s t fun th => { th with scanUntil := now s + scanTicks n }
  let s := addDue s ⟨last, 6, tidNum t, .checkDone t append strip mismatch, some t⟩
  let s := addDue s ⟨last, 6, tidNum t, .tagField t 15 23 20 status, some t⟩
  if mismatch = some true then addDue s ⟨last, 6, tidNum t, .tagField t 7 23 23 1, some t⟩ else s

/-- CHKA: the value of the frame from an offset to its end is set for appending (R156). -/
def chkaStep (t : Tid) (p : CheckPoly) (rd ra : BitVec 5) (s : State) : State :=
  let i := Instr.chka t p rd ra
  checkOp i t [.g rd, .g ra] (fun s =>
    let th := thread s t
    let off := gReg th ra
    let whole := liveBytes th
    if whole.length ≤ off.toNat then raise s t faultBound (lastWord i) off
    else if headScanError s t off.toNat (whole.length - off.toNat) then raise s t faultMemory (lastWord i) off 1
    else
      let n := whole.length - off.toNat
      let v := crc p (whole.drop off.toNat)
      scanned (checkEffect s t n 1 (crcBytes p v) 0 none) t rd v n) s

/-- CHKV: the frame's last W bytes are checked, and set for stripping (R156). -/
def chkvStep (t : Tid) (p : CheckPoly) (rd ra : BitVec 5) (s : State) : State :=
  let i := Instr.chkv t p rd ra
  checkOp i t [.g rd, .g ra] (fun s =>
    let th := thread s t
    let off := gReg th ra
    let whole := liveBytes th
    let w := crcWidth p
    if whole.length ≤ off.toNat ∨ whole.length < w + off.toNat then
      raise s t faultBound (lastWord i) off
    else if headScanError s t off.toNat (whole.length - off.toNat) then raise s t faultMemory (lastWord i) off 1
    else
      let n := whole.length - w - off.toNat
      let v := crc p (slice whole off.toNat n)
      let bad := v != crcOf p (whole.drop (whole.length - w))
      scanned (checkEffect s t n (if bad then 3 else 2) [] w (some bad)) t rd
        (if bad then 1 else 0) n) s

/-! ### The meanings -/

def execLookup (t : Tid) (rd ra : BitVec 5) (table : BitVec 8) (s : State) : Out :=
  act s (lookupStep t rd ra table)
def execInsert (t : Tid) (rd ra : BitVec 5) (table : BitVec 8) (s : State) : Out :=
  act s (insertStep t rd ra table)
def execDelete (t : Tid) (rd ra : BitVec 5) (table : BitVec 8) (s : State) : Out :=
  act s (deleteStep t rd ra table)
def execLearn (t : Tid) (rd ra rb : BitVec 5) (s : State) : Out := act s (learnStep t rd ra rb)
def execClassify (t : Tid) (rd ra : BitVec 5) (ruleSet : BitVec 8) (s : State) : Out :=
  act s (classifyOpStep t rd ra ruleSet)
def execHash (t : Tid) (rd ra rb : BitVec 5) (func : BitVec 2) (header : Bool) (s : State) : Out :=
  act s (hashStep t rd ra rb func header)
def execFcld (t : Tid) (rd ra rb : BitVec 5) (fromTag : Bool) (s : State) : Out :=
  act s (fcldStep t rd ra rb fromTag)
def execFcst (t : Tid) (rd ra rb : BitVec 5) (fromTag : Bool) (s : State) : Out :=
  act s (fcstStep t rd ra rb fromTag)
def execFcstv (t : Tid) (rd ra rb : BitVec 5) (fromTag : Bool) (s : State) : Out :=
  act s (fcstvStep t rd ra rb fromTag)
def execFetch (t : Tid) (rd ra rb : BitVec 5) (blocksM1 : BitVec 3) (s : State) : Out :=
  act s (fetchStep t rd ra rb blocksM1)
def execEmit (t : Tid) (rd ra rb : BitVec 5) (copy override headLen : Bool) (s : State) : Out :=
  act s (emitStep t rd ra rb copy override headLen)
def execTime (t : Tid) (rd rb : BitVec 5) (mode : BitVec 3) (s : State) : Out :=
  act s (timeStep t rd rb mode)
def execCadd (t : Tid) (ra rb : BitVec 5) (s : State) : Out := act s (caddStep t ra rb)
def execCrd (t : Tid) (rd ra : BitVec 5) (bytes : Bool) (s : State) : Out :=
  act s (crdStep t rd ra bytes)
def execMbsend (t : Tid) (rd ra : BitVec 5) (s : State) : Out := act s (mbsendStep t rd ra)
def execMbrecv (t : Tid) (rd ra : BitVec 5) (s : State) : Out := act s (mbrecvStep t rd ra)
def execMbwdraw (t : Tid) (rd : BitVec 5) (s : State) : Out := act s (mbwdrawStep t rd)
def execCapture (t : Tid) (rd rb : BitVec 5) (now : Bool) (s : State) : Out :=
  act s (captureStep t rd rb now)
def execChks (t : Tid) (p : CheckPoly) (rd ra rb : BitVec 5) (header : Bool) (s : State) : Out :=
  act s (scanStep (.chks t p rd ra rb header) t p rd ra rb header false)
def execChkc (t : Tid) (p : CheckPoly) (rd ra rb : BitVec 5) (header : Bool) (s : State) : Out :=
  act s (scanStep (.chkc t p rd ra rb header) t p rd ra rb header true)
def execChka (t : Tid) (p : CheckPoly) (rd ra : BitVec 5) (s : State) : Out :=
  act s (chkaStep t p rd ra)
def execChkv (t : Tid) (p : CheckPoly) (rd ra : BitVec 5) (s : State) : Out :=
  act s (chkvStep t p rd ra)

end Sys2Proof.Machine
end

