-- ==== Sys2Proof/Machine/Stage.lean ====
section
/-! DEFINITION. The classifier stage and admission, the exception path, and the dispatchers (R48,
R77–R84, R185, R191–R198, R354). -/

namespace Sys2Proof.Machine

open Sys2Proof

/-! ### The classifier stage (R191–R197) -/

/-- First tick of a frame's classifier lookup, less one: the last tick of its parse stage. For a
host-ring frame the stage is taken in ring order (R423). -/
def stageStart (s : State) (f : Frame) : Nat :=
  match f.sendPos.bind fun p => (item? s p.1 p.2).bind fun i => i.stageAt with
  | some k => k - 1
  | none => f.wholeTick + f.parseTicks

/-- Tick in which a frame's rule is known and its actions are applied (R48, R193). -/
def lookupTick (s : State) (f : Frame) : Nat := stageStart s f + 25

/-- Admission tick of a frame (R48). -/
def admitTick (s : State) (f : Frame) : Nat :=
  stageStart s f + match f.src with | .port _ => 26 | _ => 25

/-- First tick in which an admitted frame may be dispatched (R48). -/
def dispatchFrom (s : State) (f : Frame) : Nat :=
  admitTick s f + match f.src with | .port _ => 2 | _ => 1

/-- Due tick and due compact time set at admission (R48, R424). -/
def setDue (f : Frame) (c : Nat) : Frame :=
  let fixed := tagDestKind f.tag = dkSequence ∨ tagDestKind f.tag = dkFanout
  let d := c + if fixed then 0 else f.dueDelay
  { f with
    due := f.endTick + d
    plainDue := f.endTick + c
    tag := setTag64 f.tag 5 (tag64 f.tag 3 + d * 1024) }

/-- The constant of an exception frame (R197). -/
def exceptionConst (s : State) (f : Frame) : Nat :=
  let p := f.parseTicks
  let least := match f.src with
    | .port q => frx s q + 1 + p + 24 + 3 + 11
    | .ring _ => 1 + 96 + 1 + p + 24 + 1 + 11
    | _ => 1 + p + 24 + 1 + 11
  max least (rfAt s f.round (bindAddr (bindingOf f) 8) 17 0)

/-- A frame of the exception path admitted, or dropped (R197, R198). -/
def admitException (s : State) (f : Frame) (reason : Nat) : State :=
  let t := tagTenancy f.tag
  let w := wordAt s f.round (excAddr t 0)
  let g := setTag (setTag (setTag f.tag 8 31 24 dkException) 9 31 0 (fld w 15 0)) 15 31 24 reason
  let f := { f with tag := g }
  if !bit w 31 then dropFrame s f (atTenancy f) rsRingDisabled
  else
    let r := takeException s t
    if !r.2 then dropFrame r.1 f (atTenancy f) rsExceptionRate
    else
      let f := setDue f (exceptionConst s f)
      let src := match f.sendPos with | some p => 4096 + p.1 | none => tagSource f.tag
      putFrame { r.1 with admissions := r.1.admissions + 1 } { f with
        stage := .held,
        order := r.1.admissions,
        heldFrom := now s,
        flow := (src, 0x10000000 + fld w 15 0, tagHash f.tag) }

/-- Admission of a frame bound for a thread (R48); a class without a program drops it (R31). -/
def admitFrame (s : State) (f : Frame) : State :=
  let pc := pathAt s f.round (tagClass f.tag)
  if pc.program.isNone then dropFrame s f (atTenancy f) rsNoProgram
  else
    let f := setDue f pc.c
    putFrame { s with admissions := s.admissions + 1 } { f with
      stage := .queued, order := s.admissions, ready := dispatchFrom s f }

/-- A frame past its classifier stage. A host or peer frame is admitted at once, a port frame in the next tick (R48); an
exception frame, which a reason other than 0 names, at the end of its admission tick, when the tick's exception frames
take their tokens in order (R198). -/
def toAdmission (s : State) (f : Frame) (reason : Nat) : State :=
  match f.src with
  | .port _ => putFrame s { f with stage := .settled reason }
  | _ => if reason = 0 then admitFrame s f else putFrame s { f with stage := .settled reason }

/-- The frame is past its classifier stage and to be admitted in this tick: under a reason, or under none. -/
def settledNow (s : State) (exc : Bool) (f : Frame) : Bool :=
  match f.stage with
  | .settled r => (r != 0) == exc && decide (admitTick s f ≤ now s)
  | _ => false

/-- Frames of the current tick past their classifier stage, in order of end time and source. -/
def settled (s : State) (exc : Bool) : List Frame :=
  sortBy endBefore ((s.frames.map fun p => p.2).filter (settledNow s exc))

/-- Port frames whose classifier stage ended in the last tick are admitted (R48). -/
def admitSettled (s : State) : State := (settled s false).foldl admitFrame s

/-- The exception frames of the tick are admitted, or dropped (R197, R198, R201). -/
def admitExceptions (s : State) : State :=
  (settled s true).foldl (fun s f => match f.stage with
    | .settled r => admitException s f r
    | _ => s) s

/-- The token of a frame's hint class given back, and the frame no longer metered. -/
def returnHint (s : State) (f : Frame) : State × Frame :=
  match f.hint with
  | none => (s, f)
  | some c => (returnClassToken s c, { f with tag := setTag f.tag 12 9 8 3 })

/-- The tenancy of a frame whose rule set is the platform's or a tenancy's (R191). -/
def matchTenancy (s : State) (f : Frame) (set : RuleSet) (cls : Option Nat) : Nat :=
  if set.tenancy ≠ 0 then set.tenancy
  else match f.src with
    | .port _ => (match cls with | some c => (pathAt s f.round c).owner | none => 0)
    | _ => tagTenancy f.tag

/-- The destination of action 4 in the tag (order 5 of R193). -/
def setDestFour (t : Tag) (a : List Byte) : Tag :=
  setTag (setTag (setTag t 8 31 24 (leAt a 8 1)) 9 31 0 (leAt a 12 4)) 12 31 13 (leAt a 36 4 % 2 ^ 19)

/-- An action record's destination in the tag (orders 5 and 6 of R193). -/
def setDestination (t : Tag) (a : List Byte) : Tag :=
  let t := if actBit a 4 then setDestFour t a else t
  if actBit a 9 then
    setTag (setTag (setTag t 12 7 0 (leAt a 9 1)) 8 31 24 dkSequence) 9 31 0 (leAt a 9 1)
  else t

/-- Every object that an action record names in a field whose action bit is set is open to the tenancy: also one that a
later action overrides (R133, R192, R193). -/
def actionOpen (s : State) (r tenancy : Nat) (t : Tag) (a : List Byte) : Bool :=
  let cls := leAt a 2 1 % 64
  let mk := leAt a 24 1
  let mi := leAt a 28 4
  (!actBit a 3 || classOpen s r tenancy cls (pathAt s r cls).owner) &&
    (!actBit a 4 || destOk s r (setDestFour t a)) &&
    (!actBit a 9 || groupOpen s r tenancy (leAt a 9 1)) &&
    (!actBit a 10 || saTenancy s r (leAt a 32 4 % 2 ^ 18) == tenancy) &&
    (!actBit a 5 || meterOwned s r tenancy (leAt a 16 4 % 2 ^ 20)) &&
    (!actBit a 6 || ctrOwned s r tenancy (leAt a 20 4 % 2 ^ 24)) &&
    (!actBit a 7 ||
      (if mk = dkRing then decide (mi < 65536) && ringOpen s r tenancy mi
        else if mk = dkFanout then decide (mi < 4096) && fanoutOpen s r tenancy mi
        else if mk = dkPort then
          decide (mi < 16) && (!actBit a 4 || queueTenancy s r (leAt a 36 4 % 2 ^ 19) == tenancy)
        else true))

/-- The priority of order 7 of R193. -/
def actionPriority (a : List Byte) (e : Edit) : Nat :=
  if bits (leAt a 10 1) 3 3 = 1 then bits (leAt a 10 1) 2 0
  else match e.find hkTag 0 with
    | some h => beAt e.bytes h.off 1 / 32
    | none => 0

/-- Counter pair `c` raised by one frame and `n` bytes (R149). -/
def addCounter (s : State) (c n : Nat) : State :=
  let a := ctrAddr c
  let s := writeBytes s a (le 8 (leNat (readBytes s a 8) + 1))
  writeBytes s (a + 8) (le 8 (leNat (readBytes s (a + 8) 8) + n))

/-- The class meters of order 4 of R193: the hint's token returned and the new class charged; false:
refused (R185). -/
def remeter (s : State) (f : Frame) (cls : Nat) : State × Bool :=
  if f.hint = some cls then (s, true)
  else takeClassToken (match f.hint with | some h => returnClassToken s h | none => s) cls

/-- Counter `k` of a tenancy's meter and scheduler counters (R338): green, yellow, red, red dropped, tail
drops, late. -/
def tnCounter (t k : Nat) : Nat := 0x1B30000 + t * 0x20 + k * 4

/-- Order 12 of R193: the program entry of action 11, and the frame goes on to its admission. An entry not below the
program's ENTRIES starts entry 0 and counts a skip. -/
def invoke (s : State) (f : Frame) (tenancy : Nat) (a : List Byte) : State :=
  let entry := if actBit a 11 then leAt a 3 1 % 16 else 0
  let entries := match (pathAt s f.round (tagClass f.tag)).program with
    | some p => p.entries.length
    | none => 16
  let s := if entries ≤ entry then count s (excAddr tenancy 0x1C) else s
  toAdmission s { f with entry := if entries ≤ entry then 0 else entry } 0

/-- Orders 8 to 12 of R193: counter, meter, mirror and capture, security association,
program entry. -/
def finishActions (s : State) (f : Frame) (tenancy : Nat) (a : List Byte) (e : Edit) : State :=
  let len := e.bytes.length
  let s := if actBit a 6 then addCounter s (leAt a 20 4 % 2 ^ 24) len else s
  let m := if actBit a 5 then
      let r := applyMeter s f (leAt a 16 4 % 2 ^ 20) (len + 4)
      (count r.1 (tnCounter tenancy r.2), { f with tag := setTag f.tag 12 9 8 r.2 },
        decide (r.2 = 2) && bits (leAt a 11 1) 0 0 == 1)
    else (s, f, false)
  let s := m.1
  let f := m.2.1
  if m.2.2 then dropFrame (count s (tnCounter tenancy 3)) f (atTenancy f) rsMeterRed
  else
    let f := if actBit a 7 then { f with
        mirror := some (leAt a 24 1, leAt a 28 4), tag := setFlag f.tag 21 true } else f
    let f := if actBit a 8 then { f with
        snap := some (leAt a 26 2), tag := setFlag f.tag 20 true } else f
    if !actBit a 10 then invoke s f tenancy a
    else
      let sa := leAt a 32 4 % 2 ^ 18
      if saKind s f.round sa ≠ saEspIn then invoke s (carrySa s f sa) tenancy a
      else
        let r := espInbound s f tenancy sa e.bytes e.hdrs
        match r.2 with
        | .ok bs =>
          let f := { f with
            bytes := bs
            tag := setTag (setFlag (setCrypto f.tag 2 2) 22 true) 7 15 0 bs.length }
          invoke r.1 f tenancy a
        | .error reason =>
          dropFrame r.1 { f with tag := failCrypto f.tag 2 reason } (atTenancy f) reason

/-- FLOW_CTX from the frame tenancy's TBL_FC_DEFAULT (R234). -/
def defaultCtx (s : State) (r tenancy : Nat) (t : Tag) : Tag :=
  let w := wordAt s r (0x1980000 + 4 * tenancy)
  let n := fld w 16 12
  setTag t 8 23 0 (if n = 0 then 0xFFFFFF else fld w 11 0 * 4096 + tagHash t % 2 ^ n)

/-- A frame that a rule matched: its tenancy, its edits and its actions in the order of R193. -/
def matched (s : State) (f : Frame) (set : RuleSet) (rule : Rule) : State :=
  let a := actionFor s f set rule
  let named := if actBit a 3 then some (leAt a 2 1 % 64) else none
  let tenancy := matchTenancy s f set named
  let cls := named.getD (bindDefault s f)
  let t := setTag (setTag f.tag 0 21 12 tenancy) 0 27 22 cls
  let t := setTag (setTag (setTag t 10 19 0 rule.rule) 10 25 20 set.num) 10 31 31 1
  let t := defaultCtx s f.round tenancy (setTag t 15 11 0 (leAt a 0 2 % 4096))
  let f := { f with tag := t }
  let dest := setDestination t a
  let platform := set.tenancy == 0 && (match f.src with | .port _ => false | _ => true)
  if !actionOpen s f.round tenancy dest a ||
      (platform && !classOpen s f.round tenancy cls (pathAt s f.round cls).owner) then
    dropFrame s f (atTenancy f) rsTenancy
  else
    let r := applyEdits s f tenancy a
    let e := r.1
    let s := (List.range r.2).foldl (fun s _ => count s (excAddr tenancy 0x1C)) s
    let f := { f with
      bytes := e.bytes, hdrs := e.hdrs, tag := setTag dest 7 15 0 e.bytes.length }
    let m := remeter s f cls
    if !m.2 then dropFrame m.1 f (atTenancy f) rsPathRate
    else
      let f := { f with tag := setTag (setTag f.tag 12 9 8 0) 12 12 10 (actionPriority a e) }
      if tagDestKind f.tag = dkDiscard ∧ !actBit a 11 then
        dropFrame m.1 f (atTenancy f) rsRuleDrop
      else finishActions m.1 f tenancy a e

/-- The frame's rule is known in this tick (R48). -/
def lookupDue (s : State) (f : Frame) : Bool := f.stage == .parsed && now s == lookupTick s f

/-- Lookup and settlement of one frame in the tick in which its rule is known (R191). -/
def classifyFrame (s : State) (f : Frame) : State :=
  let b := bindingOf f
  let f := match f.src with
    | .port _ => { f with tag := setTag f.tag 0 21 12 (bindTenancy s f) }
    | _ => f
  let f := { f with tag := setTag f.tag 0 27 22 (bindDefault s f) }
  let t := tagTenancy f.tag
  let f := { f with tag := defaultCtx s f.round t f.tag }
  if tagFlag f.tag 18 then toAdmission (count s (excAddr t 0x14)) f rsParseFail
  else
    let w := wordAt s f.round (bindAddr b 4)
    let set := if bit w 31 then ruleSetAt s f.round (fld w 25 16) (fld w 5 0) else none
    match set.bind fun x => (classifyKey x f.key).map fun r => (x, r) with
    | some (x, r) => matched s f x r
    | none =>
      let h := returnHint (count s (excAddr t 0x18)) f
      toAdmission h.1 { h.2 with tag := setFlag h.2.tag 19 true } rsMiss

/-- CLASSIFIER_STAGE: one frame settled in the tick in which its rule is known. The frames of one tick are charged in
order of end time and source, so those before it are settled first (R48, R191, R332). -/
def classifierStageStep (id : Nat) (s : State) : State :=
  match frame? s id with
  | none => s
  | some f => if lookupDue s f then (upTo s (lookupDue s) f).foldl classifyFrame s else s

/-- CLASSIFIER_STAGE (R191). -/
def execClassifierStage (f : Nat) (s : State) : Out := act s (classifierStageStep f)

/-! ### Dispatch (R77, R78, R84, R354) -/

/-- The threads of a class version, in the order in which frames take them. -/
def classThreads (c : PathClass) : List Tid :=
  (sortBy (fun (a b : Nat × Nat) => decide (a.1 < b.1 ∨ (a.1 = b.1 ∧ a.2 ≤ b.2))) c.cores).flatMap
    fun k => (List.range 8).map fun t => threadOf k.1 k.2 t

/-- A thread can be given a frame in this tick (R84): its core runs, and its cluster is in service and its work is not
waiting to be placed (R19). -/
def threadFree (s : State) (t : Tid) : Bool :=
  let th := thread s t
  let c := core s (coreNum t)
  th.frame.isNone && decide (th.freeFrom ≤ now s) && !c.stopped && !c.fenced &&
    decide (clusterRole s t.cluster.val < 3) && !(cluster s t.cluster.val).moving

/-- Frames that the class started on a cluster in this tick, those that have ended in it among them (R84). -/
def startsNow (s : State) (cls cl : Nat) : Nat :=
  (s.threads.filter fun p => p.1 / 128 == cl && p.2.lastStart == some (now s, cls)).length

/-- The frame at the head of a class's dispatch queue. -/
def queueHead (s : State) (cls : Nat) : Option Frame :=
  ((s.frames.map fun p => p.2).filter fun f => f.stage == .queued && tagClass f.tag == cls).foldl
    (fun best f => match best with
      | none => some f
      | some b => if f.order < b.order then some f else some b) none

/-- Bytes of memory from `a`, `n` of them, set to `bs` and zeros. -/
def fillMem (s : State) (a n : Nat) (bs : List Byte) : State :=
  writeBytes { s with mem := s.mem.filter fun c => !(decide (a ≤ c.1 ∧ c.1 < a + n)) } a bs

/-- The thread's slice holds the initial data of its program, loaded again after a commit has assigned the thread to
another class or program (R78). -/
def loadSlice (s : State) (t : Tid) (cls : Nat) (c : PathClass) (p : Program) : State :=
  let key := max c.loadedAt (assignedAt c t.cluster.val t.core.val) * 64 + cls
  if look s.sliceOf (tidNum t) = some key then s
  else fillMem { s with sliceOf := place s.sliceOf (tidNum t) key } (sliceAddr t 0) 16384 p.data

/-- The header buffer of a frame at its dispatch (R76, R77). -/
def startHeader (f : Frame) : Sparse Byte :=
  ((tagBytes f.tag ++ f.bytes.take 448).zipIdx.filter fun b => b.1 != 0).map fun b => (b.2, b.1)

/-- The thread's state when the dispatcher starts it on a frame (R77); a debug halt stays (R101). -/
def startThread (s : State) (t : Tid) (f : Frame) (p : Program) : Thread :=
  let len := f.bytes.length
  let head := min len 448
  let old := thread s t
  { frame := some f.id
    base := some { f with stage := .thread t }
    cls := tagClass f.tag
    start := now s
    g := [(1, BitVec.ofNat 64 len), (2, BitVec.ofNat 64 head)].filter fun r => r.2 != 0
    pc := BitVec.ofNat 32 (p.entries.getD f.entry (0, 0)).1
    hdr := startHeader f
    source := f.bytes
    append := f.append
    budget := p.budget
    halted := old.halted
    haltFrom := old.haltFrom
    stepping := old.stepping
    lastStart := some (now s, tagClass f.tag) }

/-- FC_SELECT: the association that the flow context names, in force 24 ticks after the dispatch
(R354). -/
def selectSa (s : State) (t : Tid) (f : Frame) : State :=
  if !bit (wordAt s f.round (0x1C30000 + tagClass f.tag * 4)) 0 || tagFlow f.tag == 0xFFFFFF then s
  else
    let w := leNat (readBytes s (fcAddr (tagFlow f.tag) 120) 4)
    if bits w 31 31 = 0 then s
    else addDue s ⟨now s + 23, 6, tidNum t, .fcSelect t f.id (bits w 17 0), none⟩

/-- DISPATCH: the frame at the head of a class's queue goes to its lowest free thread, of a core that serves the class's
tenancy, on a cluster with a dispatch slot left (R84, R174). -/
def dispatchStep (cls : Nat) (s : State) : State :=
  match queueHead s cls with
  | none => s
  | some f =>
    let c := pathAt s f.round cls
    match c.program with
    | none => s
    | some p =>
      if now s < f.ready then s
      else
        match (classThreads c).find? fun t => threadFree s t && tidTenancy s t == c.owner &&
            decide (startsNow s cls t.cluster.val < max 1 c.s) with
        | none => s
        | some t =>
          let s := loadSlice s t cls c p
          let s := putFrame s { f with stage := .thread t }
          selectSa (putThread s t (startThread s t f p)) t f

/-- DISPATCH (R84). -/
def execDispatch (cls : Fin 64) (s : State) : Out := act s (dispatchStep cls.val)

end Sys2Proof.Machine
end

