-- ==== Sys2Proof/Machine/Rings.lean ====
section
/-! DEFINITION. Send rings and ring upkeep: doorbells, enabling and disabling, descriptor reads, and the
frames that send descriptors build (R415–R426, R435). -/

namespace Sys2Proof.Machine

open Sys2Proof

/-! ### Doorbells (R418–R420) -/

/-- An event that names a function and an offset of its doorbell BAR (R420). -/
def doorbellEvent (s : State) (fn : FnId) (off cause reason : Nat) : State :=
  event s (srcHost fn.ep) evWriteIgnored
    (off % 2 ^ 28 + fn.fn.val * 2 ^ 28 + Endpoint.num fn.ep * 2 ^ 38 + cause * 2 ^ 40)
    (fnTenancy s fn) reason

/-- A refused doorbell of a ring: RNG_DB_REFUSED and an event. -/
def doorbellRefused (s : State) (fn : FnId) (r off reason : Nat) : State :=
  doorbellEvent (count s (rngAddr r 0x34)) fn off 5 reason

/-- The doorbell page of a ring. -/
def ringPage (s : State) (r : Nat) : Nat := rf s (rngAddr r 4) 23 10

/-- Completion slots reserved in ring order for the items that have none (R423). -/
def reserveItems (s : State) (r : Nat) : State :=
  (ring s r).items.foldl (fun s i =>
    let blocked := (ring s r).items.any fun j => j.slot.isNone && before32 j.pos i.pos
    if i.slot.isSome || blocked || cqFree s (ringCq s r) == 0 then s
    else
      let k := reserveSlot s (ringCq s r)
      setItem k.2 r i.pos fun j => { j with slot := some k.1 }) s

/-- Send descriptors published by a doorbell of this tick (R420, R423). -/
def publish (s : State) (r p delta : Nat) : State :=
  let v := ring s r
  let new := (List.range delta).map fun i =>
    { pos := (p + i) % 2 ^ 32, doorbell := now s, ingress := compactNow s,
      epoch := s.tbs.midnights.getLsbD 0, round := round s : SendItem }
  reserveItems (putRing s r { v with items := v.items ++ new }) r

/-- A doorbell of a ring whose function, page and state are right (R419). -/
def acceptDoorbell (fn : FnId) (r off cnt : Nat) (s : State) : State :=
  let p := ringProd s r
  let delta := sub32 cnt p
  let room := if ringKind s r = 3 then sub32 (ringDone s r) p
    else ringSize s r - sub32 p (ringDone s r)
  if delta = 0 then s
  else if room < delta then doorbellRefused s fn r off rsBadDescriptor
  else
    let s := setWord s (rngAddr r 0x24) (BitVec.ofNat 32 cnt)
    if ringKind s r = 1 then publish s r p delta else s

/-- DOORBELL: a write into a page of a function's doorbell BAR (R418, R420). -/
def doorbellStep (fn : FnId) (page off len : Nat) (val : BitVec 64) (s : State) : State :=
  let at_ := page * 4096 + off
  let r := bits val.toNat 15 0
  if len ≠ 8 ∨ off % 8 ≠ 0 then doorbellEvent s fn at_ (if len ≠ 0 ∧ off % len = 0 then 5 else 6) 0
  else if bits val.toNat 31 16 ≠ 0 then
    doorbellEvent (countDrop s (.tenancy (fnTenancy s fn)) rsBadDescriptor) fn at_ 1 rsBadDescriptor
  else if ringOwner s r ≠ some fn then
    doorbellEvent (countDrop s (.tenancy (fnTenancy s fn)) rsTenancy) fn at_ 5 rsTenancy
  else if !ringEnabled s r ∨ ringSize s r = 0 then doorbellRefused s fn r at_ rsRingDisabled
  else if ringPage s r ≠ page then doorbellRefused s fn r at_ rsBadDescriptor
  else acceptDoorbell fn r at_ (bits val.toNat 63 32) s

/-! ### Enabling and disabling (R416, R435) -/

/-- Pages of a function's doorbell BAR (R418). -/
def doorbellPages (fn : FnId) : Nat := if fn.fn.val < 4 then 16384 else 16

/-- The bits of RNG_CTRL that a write may change while the ring is disabled, reserved values kept as
they were (R12, R436). -/
def ringCtrlMask (val : Word) : Word :=
  (if 4 < fld val 2 0 then 0 else maskOf 2 0) ||| maskOf 23 10 |||
    (if fld val 8 4 = 0 ∨ (6 ≤ fld val 8 4 ∧ fld val 8 4 ≤ 16) then maskOf 8 4 else 0)

/-- The ring may be enabled with this control word (R416). -/
def canEnable (s : State) (r : Nat) (w : Word) : Bool :=
  match ringOwner s r with
  | none => false
  | some o =>
    let cq := ringCq s r
    decide (fld w 23 10 < doorbellPages o) &&
      (fld w 2 0 == 3 || (ringOn s cq 3 && ringOwner s cq == some o))

/-- RING_ENABLE: a write of RNG_CTRL with ENABLE set; it takes effect in the next tick (R416). -/
def ringEnableStep (fn : FnId) (r : Nat) (val : BitVec 32) (s : State) : State :=
  let a := rngAddr r 4
  let old := word s a
  if !platform s fn ∧ ringOwner s r ≠ some fn then denied s fn a
  else if bit old 3 then
    if (old ^^^ val) &&& maskOf 23 0 = 0 then s else ignored s fn a 5
  else
    let mask := ringCtrlMask val
    let w := blend old mask val
    let s := if mask = maskOf 2 0 ||| maskOf 23 10 ||| maskOf 8 4 then s else ignored s fn a 1
    if canEnable s r w then
      putRing (setWord s a w) r { ring s r with enabling := some (now s + 1) }
    else ignored s fn a 5

/-- A ring whose enabling is due starts with its counts at 0 (R416, R419). -/
def enableNow (s : State) (r : Nat) : State :=
  match (ring s r).enabling with
  | some t =>
    if now s < t then s
    else
      let s := setRf s (rngAddr r 4) 3 3 1
      let s := setRf s (rngAddr r 0x2C) 1 0 1
      let s := setWord (setWord s (rngAddr r 0x24) 0) (rngAddr r 0x28) 0
      putRing s r {}
  | none => s

/-- Frames of a ring that wait for it dropped. -/
def dropWaiting (s : State) (r reason : Nat) : State :=
  let w := (ring s r).waiting
  w.foldl (fun s f => dropById s f (fun _ => .ring r) reason)
    (putRing s r { ring s r with waiting := [] })

/-- The places that groups hold on a ring are lost when it is disabled (R248, R252). -/
def losePlaces (s : State) (r : Nat) : State :=
  { s with groups := s.groups.map fun g => (g.1, { g.2 with
      positions := g.2.positions.map fun p => if p.ring = some r then { p with lost := true, bufs := 0 } else p }) }

/-- The state of a ring after its ENABLE went to 0 (R435). -/
def stopRing (s : State) (r : Nat) : State :=
  let s := setRf (setRf s (rngAddr r 4) 3 3 0) (rngAddr r 0x2C) 0 0 0
  let s := losePlaces (dropWaiting s r rsRingDisabled) r
  let v := ring s r
  putRing s r { v with
    items := v.items.filter (fun i => i.desc.isSome),
    onChip := [], bad := [], asked := ringProd s r, taken := ringProd s r,
    enabling := none, retry := [] }

/-- An enabled ring names `cq` as its completion ring. -/
def cqNamed (s : State) (cq : Nat) : Bool :=
  s.words.any fun p => inArray p.1 0x1000000 65536 0x40 4 &&
    (let r := (p.1 - 0x1000004) / 0x40
     ringEnabled s r && ringKind s r != 3 && ringCq s r == cq)

/-- RING_DISABLE: a write of RNG_CTRL with ENABLE clear (R435). -/
def ringDisableStep (fn : FnId) (r : Nat) (s : State) : State :=
  let a := rngAddr r 4
  if !platform s fn ∧ ringOwner s r ≠ some fn then denied s fn a
  else if !ringEnabled s r then putRing s r { ring s r with enabling := none }
  else if ringKind s r = 3 ∧ cqNamed s r then ignored s fn a 5
  else stopRing s r

/-! ### Descriptor reads -/

/-- Consecutive positions of a ring cut so that each run lies in one piece of memory. -/
def runs (size : Nat) : Nat → Nat → Nat → List (Nat × Nat)
  | 0, _, _ => []
  | fuel + 1, pos, n =>
    if n = 0 then []
    else
      let k := min n (min 128 (size - pos % max 1 size))
      (pos, k) :: runs size fuel (pos + k) (n - k)

/-- Reads of `n` descriptors of a ring from position `pos`, one operation for each request, named by the
first position that it covers (R423, R426). -/
def askDescriptors (s : State) (fn : FnId) (r pos n : Nat) (op : Nat → ReadOp) : State :=
  (runs (ringSize s r) (n + 1) pos n).foldl (fun s k =>
    (readParts s fn (ringEntry s r k.1) (32 * k.2)).foldl (fun s p =>
      askRead s fn (op ((k.1 + (p.1 - ringEntry s r k.1) / 32) % 2 ^ 32)) p.1 p.2) s) s

/-- TBL_IB blocks of a tenancy (R75). -/
def ibAddr (t off : Nat) : Nat := 0x180C000 + t * 0x10 + off

/-- Accepted in-band changes of a ring, and of a tenancy, that are not yet in effect (R72). -/
def ringChanges (s : State) (r : Nat) : Nat :=
  (s.overlays.filter fun o => o.ring == r && !o.done).length
def tenancyChanges (s : State) (t : Nat) : Nat :=
  (s.overlays.filter fun o => o.tenancy == t && !o.done).length

/-- R72 holds the ring's fetching back. -/
def inBandFull (s : State) (r : Nat) : Bool :=
  decide (8 ≤ ringChanges s r) || decide (1024 ≤ tenancyChanges s (ringTenancy s r))

/-- A ring begins to be held back by R72: the stall is counted once. -/
def beginStall (s : State) (r : Nat) : State :=
  if (ring s r).stalled then s
  else count (putRing s r { ring s r with stalled := true }) (ibAddr (ringTenancy s r) 0xC)

/-- Length of the leading run of consecutive positions. -/
def leadRun : List SendItem → Nat
  | [] => 0
  | [_] => 1
  | a :: b :: m => if b.pos = (a.pos + 1) % 2 ^ 32 then 1 + leadRun (b :: m) else 1

/-- A send ring's work at the start of a tick: slots, stalls and descriptor reads (R423, R72). -/
def sendRingTick (s : State) (r : Nat) (fn : FnId) : State :=
  let s := reserveItems s r
  let waits := (ring s r).items.any fun i => i.slot.isNone && decide (i.doorbell < now s)
  let s := if waits then count s (rngAddr r 0x38) else s
  let s := if (ring s r).stalled && !inBandFull s r then putRing s r { ring s r with stalled := false } else s
  let due := (ring s r).items.filter fun i => i.slot.isSome && !i.asked && decide (i.doorbell < now s)
  match due with
  | [] => s
  | i :: _ =>
    if inBandFull s r then beginStall s r
    else
      let n := leadRun due
      let v := ring s r
      let asked := v.items.map fun j =>
        if sub32 j.pos i.pos < n then { j with asked := true } else j
      let s := putRing s r { v with items := asked }
      askDescriptors s fn r i.pos n fun p => .sendDesc r p

/-- The first posted buffer of a ring whose descriptor is still needed: the earliest that an admitted sequenced frame
has reserved, or the first that no frame has taken (R246). -/
def ringFloor (s : State) (r : Nat) : Nat :=
  let v := ring s r
  (s.groups.flatMap fun g => (g.2.positions.filter fun p => p.ring == some r && p.bufs != 0).map (·.buf)).foldl
    (fun m p => if sub32 v.taken m < sub32 v.taken p then p else m) v.taken

/-- A receive or exception ring's reads: up to 64 descriptors on chip (R426). -/
def rxRingTick (s : State) (r : Nat) (fn : FnId) : State :=
  let v := ring s r
  let from_ := ringFloor s r
  let asked := if before32 v.asked from_ then from_ else v.asked
  let n := min (sub32 (ringProd s r) asked) (64 - sub32 asked from_)
  if !v.retry.isEmpty ∨ n = 0 then s
  else askDescriptors (putRing s r { v with asked := (asked + n) % 2 ^ 32 }) fn r asked n fun p =>
    .rxDesc r p false

/-- One ring's work at the start of a tick. -/
def ringTick (s : State) (r : Nat) : State :=
  let s := enableNow s r
  match ringOwner s r with
  | none => s
  | some fn =>
    if !ringEnabled s r || ringSize s r == 0 then s
    else if ringKind s r = 1 then sendRingTick s r fn
    else if ringKind s r = 2 ∨ ringKind s r = 4 then
      let s := if (ring s r).waiting.isEmpty then s else count s (rngAddr r 0x38)
      rxRingTick s r fn
    else s

/-- Every ring's work at the start of a tick. -/
def ringsTick (s : State) : State := s.rings.foldl (fun s p => ringTick s p.1) s

/-! ### Send descriptors (R421–R424) -/

/-- A send or control completion without a frame: kind, status and reason (R425, R73). -/
def plainCompletion (i : SendItem) (r kind status reason release : Nat) : Completion :=
  { ingress := i.ingress.toNat, release := release, reason := reason, ring := r, status := status,
    kind := kind, flags := flagBit i.epoch 3 }

/-- A send descriptor that builds no frame (R422). -/
def endItem (s : State) (r : Nat) (i : SendItem) (status reason : Nat) : State :=
  let s := if status = 2 then count s (rngAddr r 0x30) else s
  finishItem s r i.pos (now s + 1)
    (plainCompletion i r 0 status reason (compactNow s).toNat)

/-- A descriptor field, by bit numbers of the word at a byte offset. -/
def descFld (d : List Byte) (off hi lo : Nat) : Nat := bits (leAt d off 4) hi lo

/-- A send descriptor is in its format (R421, R422), but for the limits of its length. -/
def sendFormatOk (d : List Byte) : Bool :=
  let g := descFld d 0 16 16 == 1
  descFld d 0 30 24 == 0 && descFld d 4 31 31 == 0 && descFld d 16 31 18 == 0 &&
    descFld d 20 31 16 == 0 && leAt d 24 8 == 0 &&
    (!g || (descFld d 0 15 7 == 0 && decide (descFld d 0 6 0 ≤ 64) && leAt d 8 8 % 16 == 0))

/-- Length checks of R422, once L is known. -/
def lengthOk (d : List Byte) (l : Nat) : Bool :=
  decide (l ≤ maxLength) &&
    !(descFld d 0 19 19 == 1 && decide (max 60 l ≤ descFld d 4 30 17))

/-- The items of a ring that have no stage tick get theirs in ring order, as far as they are ready
(R70, R423). -/
def orderStages (s : State) (r : Nat) : State :=
  let v := ring s r
  let go := fun (a : List SendItem × Nat × Bool) (i : SendItem) =>
    if a.2.2 || i.stageAt.isSome then (a.1 ++ [i], a.2.1, a.2.2)
    else match i.ready with
      | none => (a.1 ++ [i], a.2.1, true)
      | some k =>
        let t := max (max (k + 1) (a.2.1 + 1)) (now s + 1)
        (a.1 ++ [{ i with stageAt := some t }], t, false)
  let q := v.items.foldl go ([], v.lastStage, false)
  putRing s r { v with items := q.1, lastStage := q.2.1 }

/-- p of R48 for the frames of a send ring of a function in a round. -/
def ringParse (s : State) (fn : FnId) (rnd : Nat) : Nat :=
  let b := 16 + fnNum fn
  match (pathAt s rnd (rfAt s rnd (bindAddr b 0) 5 0)).program with
  | some p => if p.parse.isEmpty then 2 else p.parseWc
  | none => 2

/-- The tag of a host-ring frame at stage 1 (R58, R21). -/
def hostTag (s : State) (fn : FnId) (i : SendItem) (len : Nat) : Tag :=
  let t := setTag (setTag newTag 0 11 10 (1 + Endpoint.num fn.ep)) 0 9 0 fn.fn.val
  let t := setTag t 0 21 12 (fnTenancy s fn)
  let t := setTag64 (setTag64 t 1 i.ingress.toNat) 3 i.ingress.toNat
  setFlag (setTag t 7 15 0 len) 26 i.epoch

/-- TAG_INS: the tag inserted, or skipped (R424). -/
def insertSendTag (d bs : List Byte) : List Byte × Bool :=
  if descFld d 0 18 18 = 0 then (bs, false)
  else if 2 ≤ (vlanTags bs).length ∨ maxLength < bs.length + 4 then (bs, true)
  else (insertTag bs (if descFld d 4 16 16 = 1 then 0x88A8 else 0x8100) (descFld d 4 15 0), false)

/-- The check polynomial of a number. -/
def polyOf (n : Nat) : CheckPoly :=
  match n with
  | 0 => .crc32
  | 1 => .crc32c
  | 2 => .crc16
  | _ => .crc64

/-- The bytes that CHK_EN appends at the hand-on (R424). -/
def sendCheck (d bs : List Byte) : List Byte :=
  if descFld d 0 19 19 = 0 then []
  else
    let c := polyOf (descFld d 0 21 20)
    crcBytes c (crc c (bs.drop (descFld d 4 30 17)))

/-- The frame of a send descriptor, whole in this tick (R422–R424). -/
def buildFrame (s : State) (r : Nat) (fn : FnId) (i : SendItem) (d data : List Byte) : State :=
  let tagged := insertSendTag d (padTo 60 data)
  let bs := tagged.1
  let s := if tagged.2 then count s (rngAddr r 0x30) else s
  let chk := sendCheck d bs
  let t := hostTag s fn i bs.length
  let t := if chk.isEmpty then t else setTag t 15 23 20 1
  let f : Frame :=
    { id := s.nextFrame, stage := .whole, src := .ring r, tag := t, bytes := bs,
      sendPos := some (r, i.pos), endTick := i.doorbell, ingressTick := i.doorbell,
      wholeTick := now s, round := i.round,
      dueDelay := if descFld d 0 23 23 = 1 then min (descFld d 20 15 0) (rf s (rngAddr r 0x18) 15 0)
        else 0,
      relaxed := descFld d 0 17 17 == 1, append := chk }
  let f := if descFld d 0 22 22 = 1 then carrySa s f (descFld d 16 17 0) else f
  let k := now s + ringParse s fn i.round
  let id := s.nextFrame
  orderStages (setItem (newFrame s f) r i.pos fun j => { j with
    frame := some id, ready := some k }) r

/-- Data reads of a descriptor's buffers, or its frame at once when it has no byte to read. -/
def askData (s : State) (r : Nat) (fn : FnId) (i : SendItem) (bufs : List (Nat × Nat)) : State :=
  let r1 := bufs.foldl (fun (a : State × Nat) b =>
    if b.2 = 0 then a
    else (askRead a.1 fn (.sendData r i.pos) b.1 b.2 a.2, a.2 + (readParts a.1 fn b.1 b.2).length))
    (s, 0)
  setItem r1.1 r i.pos fun j => { j with parts := r1.2 }

/-- The ring is the ledger read ring: LDG_READ_RING names it (R297). -/
def ledgerRing (s : State) (r : Nat) : Bool :=
  bit (word s 0x4000038) 31 && rf s 0x4000038 15 0 == r

/-- A descriptor that has arrived (R421–R423, R68). One of the ledger read ring waits for LEDGER_READ. -/
def takeDescriptor (s : State) (r : Nat) (fn : FnId) (pos : Nat) (d : List Byte) : State :=
  match item? s r pos with
  | none => s
  | some i =>
    let s := setItem s r pos fun j => { j with desc := some d }
    if ledgerRing s r then s
    else if descFld d 0 31 31 = 1 then
      let n := descFld d 0 15 0
      let k := now s + ringParse s fn i.round
      if n = 0 ∨ 256 < n then
        orderStages (setItem s r pos fun j => { j with operand := some [], ready := some k }) r
      else
        setItem (askRead s fn (.operand r pos) (leAt d 8 8) n) r pos fun j =>
          { j with parts := (readParts s fn (leAt d 8 8) n).length }
    else if !sendFormatOk d then endItem s r i 2 rsBadDescriptor
    else if descFld d 0 16 16 = 1 then
      let n := descFld d 0 6 0
      if n = 0 then endItem s r i 1 rsEmpty
      else setItem (askRead s fn (.sendGather r pos) (leAt d 8 8) (16 * n)) r pos fun j =>
        { j with parts := (readParts s fn (leAt d 8 8) (16 * n)).length }
    else
      let l := descFld d 0 15 0
      if l = 0 then endItem s r i 1 rsEmpty
      else if !lengthOk d l then endItem s r i 2 rsBadDescriptor
      else askData s r fn i [(leAt d 8 8, l)]

/-- A gather list that has arrived (R421, R422). -/
def takeGather (s : State) (r : Nat) (fn : FnId) (i : SendItem) (bs : List Byte) : State :=
  match i.desc with
  | none => s
  | some d =>
    let es := (List.range (bs.length / 16)).map fun k =>
      (leAt bs (16 * k) 8, leAt bs (16 * k + 8) 4, leAt bs (16 * k + 12) 4)
    let l := (es.map fun e => e.2.1).foldl (· + ·) 0
    if es.any (fun e => e.2.2 != 0) then endItem s r i 2 rsBadDescriptor
    else if l = 0 then endItem s r i 1 rsEmpty
    else if !lengthOk d l then endItem s r i 2 rsBadDescriptor
    else askData s r fn i (es.map fun e => (e.1, e.2.1))

/-- SEND_DESCRIPTOR: the descriptors and gather lists of a ring whose bytes have arrived are taken, in
ring order (R423). -/
def sendDescriptorStep (r : Nat) (s : State) : State :=
  match ringOwner s r with
  | none => s
  | some fn =>
    let descs := s.delivered.filterMap fun d =>
      match d.1 with | .sendDesc r' p => if r' = r then some (p, d.2.2) else none | _ => none
    let s := descs.foldl (fun s d =>
      let s := dropDelivered s (.sendDesc r d.1)
      (List.range (d.2.length / 32)).foldl (fun s k =>
        takeDescriptor s r fn ((d.1 + k) % 2 ^ 32) (slice d.2 (32 * k) 32)) s) s
    let s := (ring s r).items.foldl (fun s i =>
      match deliveredFor s (.sendGather r i.pos) i.parts with
      | some bs => if i.parts = 0 ∨ bs.isEmpty then s
        else takeGather (dropDelivered s (.sendGather r i.pos)) r fn i bs
      | none => s) s
    orderStages s r

/-- SEND_DATA_ARRIVE: the last byte of a descriptor's data, or of a control descriptor's operand block,
has arrived (R423, R70). -/
def sendDataArriveStep (r pos : Nat) (s : State) : State :=
  match ringOwner s r, item? s r pos with
  | some fn, some i =>
    if i.parts = 0 then s
    else
      match i.desc, deliveredFor s (.sendData r pos) i.parts,
          deliveredFor s (.operand r pos) i.parts with
      | some d, some bs, _ => buildFrame (dropDelivered s (.sendData r pos)) r fn i d bs
      | some _, none, some bs =>
        let k := now s + ringParse s fn i.round
        orderStages (setItem (dropDelivered s (.operand r pos)) r pos fun j =>
          { j with operand := some bs, ready := some k }) r
      | _, _, _ => s
  | _, _ => s

/-- DOORBELL (R420). -/
def execDoorbell (fn : FnId) (page off len : Nat) (val : BitVec 64) (s : State) : Out :=
  act s fun s => postAs s fn (doorbellStep fn page off len val)
/-- RING_ENABLE (R416). -/
def execRingEnable (fn : FnId) (ring : Fin 65536) (val : BitVec 32) (s : State) : Out :=
  act s fun s => writeAs s fn (rngAddr ring.val 4) (ringEnableStep fn ring.val val)
/-- RING_DISABLE (R435). -/
def execRingDisable (fn : FnId) (ring : Fin 65536) (s : State) : Out :=
  act s fun s => writeAs s fn (rngAddr ring.val 4) (ringDisableStep fn ring.val)
/-- SEND_DESCRIPTOR (R422). -/
def execSendDescriptor (ring : Fin 65536) (s : State) : Out := act s (sendDescriptorStep ring.val)
/-- SEND_DATA_ARRIVE (R423). -/
def execSendDataArrive (ring : Fin 65536) (pos : Nat) (s : State) : Out :=
  act s (sendDataArriveStep ring.val pos)

end Sys2Proof.Machine
end

