-- ==== Sys2Proof/Machine/Release.lean ====
section
/-! DEFINITION. The release engine: lateness, flows and lanes, hand-on to rings, queues, the ledger and the
engines, fair fan-out, and the fair sequencer (R49–R54, R237–R257, R318, R330, R427–R432, R520). -/

namespace Sys2Proof.Machine

open Sys2Proof

/-! ### The end of a release -/

/-- A timebase step lies between a frame's end time and now (R266). -/
def stepBetween (s : State) (f : Frame) : Bool :=
  s.tbs.stepRounds.any fun r => decide (f.endTick < 256 * r ∧ 256 * r ≤ now s)

/-- Lateness of a frame released now (R52). -/
def lateness (s : State) (f : Frame) : Nat := now s - f.due

/-- STEP and LATE set in the tag of a frame that is released now, and its lateness counted (R52, R54). -/
def stampRelease (s : State) (f : Frame) : State × Frame :=
  let g := setFlag (setFlag f.tag 25 (stepBetween s f)) 16 (decide (f.due < now s))
  let f := { f with tag := g }
  if f.due < now s then (countLate s (tagClass g) (tagTenancy g) (lateness s f), f) else (s, f)

/-- Flow key of R53: source, destination and hash; RING and EXCEPTION name the same destination. -/
def flowKey (f : Frame) (g : Tag) : Nat × Nat × Nat :=
  let src := match f.sendPos with | some p => 4096 + p.1 | none => tagSource g
  let k := tagDestKind g
  let dst := if k = dkRing ∨ k = dkException then 0x10000000 + tagDest g
    else if k = dkPort then 0x20000000 + tagNode g
    else k * 0x10000000 + tagDest g
  (src, dst, tagHash g)

/-- A copy with its own tag, COPY set (R67). -/
def copyTag (g : Tag) : Tag := setFlag g 27 true

/-- The mirror copy of a frame that is released now, held with the same due tick (R60, R67). -/
def makeMirror (s : State) (f : Frame) : State :=
  match f.mirror with
  | none => s
  | some m =>
    if !tagFlag f.tag 21 then s
    else
      let g := setTag (setTag (copyTag f.tag) 8 31 24 m.1) 9 31 0 m.2
      let c : Frame := { f with
        stage := .held, tag := g, heldFrom := now s, mirror := none, copyOf := some 0,
        buffered := none, served := [], sa := f.sa }
      newFrame s { c with flow := flowKey c g }

/-- A frame handed to its destination: its ledger record, its send descriptor's completion, its mirror
copy; its record ends (R25, R281, R425). -/
def finishRelease (s : State) (f : Frame) (record : Bool) : State :=
  let late := lateness s f
  let s := if record || captured f then
      recordRelease s f (compactNow s) late else s
  let s := completeSent s f 0 (tagReason f.tag) (compactNow s).toNat late
  endFrame (makeMirror s f) f

/-! ### Receive rings (R426–R429, R520) -/

/-- Bad descriptors at the head of a ring's buffers consumed on their own (R426). -/
def passBad (r kind : Nat) : Nat → State → State
  | 0, s => s
  | fuel + 1, s =>
    let v := ring s r
    let cq := ringCq s r
    if v.bad.contains v.taken && cqFree s cq != 0 then
      let k := reserveSlot s cq
      let s := scheduleCompletion k.2 (now s + 1) cq k.1
        { reason := rsBadDescriptor, status := 1, kind := kind, ring := r, bufs := 1,
          release := (compactNow s).toNat } r 1
      let v := ring s r
      passBad r kind fuel (putRing s r { v with
        bad := v.bad.filter (· != v.taken), onChip := v.onChip.filter (fun d => d.1 != v.taken),
        taken := (v.taken + 1) % 2 ^ 32 })
    else s

/-- Buffers that a length needs on a ring (R427). -/
def buffersFor (s : State) (r n : Nat) : Nat := ceilDiv n (2 ^ rf s (rngAddr r 0x14) 4 0)

/-- Posted buffers of a ring that no frame has taken. -/
def freeBuffers (s : State) (r : Nat) : Nat := sub32 (ringProd s r) (ring s r).taken

/-- Descriptors of `n` positions from `p`, when all are on chip. -/
def chipDescs (s : State) (r p n : Nat) : Option (List (List Byte)) :=
  let v := ring s r
  let got := (List.range n).filterMap fun i =>
    (v.onChip.find? fun d => d.1 == (p + i) % 2 ^ 32).map fun d => d.2
  if got.length = n then some got else none

/-- Data TLPs of one buffer: writes of at most Max_Payload_Size that cross no 4 KB boundary. -/
def writeBuffer (s : State) (fn : FnId) (addr : Nat) (data : List Byte) (ro : Bool) : State :=
  (splitReads (max 128 (fnState s fn).maxPayload) (data.length + 1) addr data.length).foldl
    (fun s p => hostWrite s fn p.1 (slice data (p.1 - addr) p.2) ro) s

/-- A frame's bytes written into its buffers in order (R427). -/
def writeFrame (s : State) (fn : FnId) (r : Nat) (descs : List (List Byte)) (bs : List Byte)
    (hint : Bool) : State :=
  let size := 2 ^ rf s (rngAddr r 0x14) 4 0
  (descs.zipIdx).foldl (fun s d =>
    let part := (bs.drop (d.2 * size)).take size
    writeBuffer s fn (leAt d.1 0 8) part
      ((hint || bits (leAt d.1 8 1) 0 0 == 1) && (fnState s fn).relaxed)) s

/-- Outer tags removed under RX_STRIP: the bytes left and the TCIs (R429). -/
def stripTags (n : Nat) (bs : List Byte) : List Byte × List Nat :=
  let tags := (vlanTags bs).take n
  (tags.foldl (fun b _ => removeTag b) bs, tags)

/-- Tags that the ring strips from a frame: none on an exception ring or from a sequenced frame. -/
def stripCount (s : State) (r : Nat) (f : Frame) : Nat :=
  if ringKind s r = 2 ∧ tag64 f.tag 13 = 0 then rf s (rngAddr r 0x14) 17 16 else 0

/-- An endpoint whose link does not run at the width and rate that constants assume (R387, R398). -/
def reducedLink (s : State) (e : Endpoint) : Bool :=
  let w := word s (hlkAddr e 0)
  bit w 10 || fld w 8 4 != 16 || fld w 3 1 != 7

/-- A frame written to its ring from taken buffers, with its completion in slot `slot` (R427, R432). -/
def writeToRing (s : State) (fn : FnId) (r : Nat) (f : Frame) (descs : List (List Byte)) (p slot : Nat) :
    State :=
  let st := stampRelease s f
  let f := st.2
  let s := st.1
  let late := decide (f.due < now s)
  let s := if late then count s (rngAddr r 0x3C) else s
  let s := if late && reducedLink s fn.ep then count s (hlkAddr fn.ep 0x30) else s
  let b := stripTags (stripCount s r f) f.bytes
  let s := writeFrame s fn r descs b.1 f.relaxed
  let v := ring s r
  let last := p + descs.length
  let s := putRing s r { v with
    onChip := v.onChip.filter fun d => !decide (sub32 d.1 p < last - p) }
  let c := frameCompletion f.tag (if ringKind s r = 4 then 2 else 1) 0 (tagReason f.tag)
    (compactNow s).toNat (lateness s f) r b.1.length descs.length b.2
  let fan := match f.copyOf with | some k => decide (0 < k) | none => false
  let s := scheduleCompletion s (if fan then now s else now s + 1) (ringCq s r) slot c r descs.length
  let s := if fan then flushCompletions s else s
  finishRelease s f false

/-- The frame at the head of a ring's waiting frames started when R427 is met; repeated while it is. -/
def startRing (r : Nat) : Nat → State → State
  | 0, s => s
  | fuel + 1, s =>
    let s := passBad r (if ringKind s r = 4 then 2 else 1) 64 s
    let v := ring s r
    match v.waiting, ringOwner s r with
    | id :: rest, some fn =>
      (match frame? s id with
        | none => startRing r fuel (putRing s r { v with waiting := rest })
        | some f =>
          let n := buffersFor s r (stripTags (stripCount s r f) f.bytes).1.length
          let cq := ringCq s r
          if freeBuffers s r < n ∨ cqFree s cq = 0 ∨ !canWrite s r ∨ now s < f.notBefore then s
          else match chipDescs s r v.taken n with
            | none => s
            | some descs =>
              let k := reserveSlot
                (putRing s r { v with waiting := rest, taken := (v.taken + n) % 2 ^ 32 }) cq
              startRing r fuel (writeToRing k.2 fn r f descs v.taken k.1))
    | _, _ => s

/-- The ring's frames started as far as they can be. -/
def startRings (s : State) (r : Nat) : State := startRing r ((ring s r).waiting.length + 1) s

/-- The ring takes this frame: an enabled ring of the kind of its destination (R417). -/
def ringTakes (s : State) (r : Nat) (f : Frame) : Bool :=
  if tagDestKind f.tag = dkException then
    ringOn s r 4 && ringTenancy s r == tagTenancy f.tag
  else ringOn s r 2

/-- The endpoint's link is down and the tenancy has no function on the other one, or the function passes
through Dusk: the reason of the drop (R27, R412, R435). -/
def ringGone (s : State) (r : Nat) : Option Nat :=
  match ringOwner s r with
  | none => none
  | some fn =>
    let other := if fn.ep = .h0 then Endpoint.h1 else .h0
    if (endpoint s fn.ep).down && !tenancyOn s (fnTenancy s fn) other then some rsHostDown
    else if (fnState s fn).dusk.isSome then some rsTargetReset else none

/-- The waiting frames of a ring with one more: last, but before those of its own flow that were admitted after it
(R53, R428). -/
def joinWaiting (s : State) (f : Frame) (ids : List Nat) : List Nat :=
  let goesBehind := fun (id : Nat) => match frame? s id with
    | some g => !(g.flow == f.flow && decide (f.order < g.order))
    | none => true
  ids.takeWhile goesBehind ++ f.id :: ids.dropWhile goesBehind

/-- A frame handed to a receive or exception ring, and started at once when it can be (R427, R428). -/
def handToRing (s : State) (f : Frame) (r : Nat) : State :=
  match ringGone s r with
  | some reason => dropFrame s f (.ring r) reason
  | none =>
    if !ringTakes s r f then dropFrame s f (.ring r) rsRingDisabled
    else
      let v := ring s r
      startRings (putFrame (putRing s r { v with waiting := joinWaiting s f v.waiting })
        { f with stage := .ring r }) r

/-- RX_FRAME_START: frames of a ring started in the first tick in which they can be (R427, R428). -/
def rxFrameStartStep (r : Nat) (s : State) : State := startRings s r

/-- RX_HOLD_EXPIRE: the frame at the head of a ring has waited HOLD rounds (R428). -/
def rxHoldExpireStep (r : Nat) (s : State) : State :=
  let s := startRings s r
  match (ring s r).waiting with
  | [] => s
  | id :: rest =>
    match frame? s id with
    | none => s
    | some f =>
      if now s < f.due + 256 * rf s (rngAddr r 0x14) 15 8 then s
      else
        let s := putRing s r { ring s r with waiting := rest }
        startRings (dropFrame s f (.ring r) rsNoBuffer) r

/-- RX_DESCRIPTOR: descriptors of a ring that have arrived are on chip; bad ones are marked (R426). -/
def rxDescriptorStep (r : Nat) (s : State) : State :=
  let got := s.delivered.filterMap fun d =>
    match d.1 with
    | .rxDesc r' p retry => if r' = r then some (p, retry, d.2.2) else none
    | _ => none
  let s := got.foldl (fun s g =>
    let s := dropDelivered s (.rxDesc r g.1 g.2.1)
    let ds := (List.range (g.2.2.length / 32)).map fun k =>
      ((g.1 + k) % 2 ^ 32, slice g.2.2 (32 * k) 32)
    let v := ring s r
    let from_ := ringFloor s r
    let ds := ds.filter fun d => decide (sub32 d.1 from_ < sub32 v.asked from_)
    let isBad := fun (d : List Byte) =>
      leAt d 0 8 % 64 != 0 || bits (leAt d 8 1) 7 1 != 0 || leAt d 9 23 != 0
    putRing s r { v with
      onChip := v.onChip ++ ds,
      bad := v.bad ++ (ds.filter fun d => isBad d.2).map (fun d => d.1),
      retry := if g.2.1 then v.retry.filter fun x => x.1 != g.1 else v.retry }) s
  startRings s r

/-! ### Egress queues (R318, R330) -/

/-- Counters of a queue node (KIND 3 of R338): 0 tail drops, 1 and 2 frames sent. -/
def queueCount (n w : Nat) : Nat := 0x150000000 + n * 16 + w * 4

/-- Address of a port node's registers (R338). -/
def schAddr (p off : Nat) : Nat := 0x1B01000 + p * 0x40 + off

/-- LENGTH of a frame as its queue sees it: protected, when it carries an association (R351). -/
def queueLength (s : State) (f : Frame) : Nat :=
  match f.sa with
  | some sa => espLength s f sa
  | none => f.bytes.length

/-- QUEUE_HANDOVER: the frame joins its queue node, or is tail-dropped (R318, R330). -/
def joinQueue (s : State) (f : Frame) (n : Nat) : State :=
  let p := n / 32768
  let len := queueLength s f
  let v := node s n
  let c := cellsOf len
  let w := wordAt s f.round (queueAddr n 3)
  let color := tagFld f.tag 12 9 8
  let full := decide (fld w 15 0 < v.cells + c) ||
    ((color == 1 || color == 2) && decide (fld w 31 16 ≤ v.cells))
  if full then
    let s := count (count (count s (schAddr p 0x1C)) (tnCounter (tagTenancy f.tag) 4)) (queueCount n 0)
    dropFrame s f (.node n) rsTailDrop
  else
    putFrame (putNode (leaveFlow s f) n { v with queue := v.queue ++ [f.id], cells := v.cells + c })
      { f with stage := .queue n, tag := setTag f.tag 7 15 0 len, ready := now s + (ftx s p + 4) }

/-- Tick in which a frame is handed to a queue of a port, so that its first bit passes in the due tick
(R49). -/
def handoverTick (s : State) (p due : Nat) : Nat := due - (ftx s p + 4)

/-! ### Other destinations -/

/-- STORAGE_NOTICE: the storage engine takes a frame into a controller's notice log (R370). -/
def storageNotice (s : State) (f : Frame) (c : Nat) : State :=
  let a := 0x1E00000 + c * 0x40
  let w := word s a
  let log := (look s.notices c).getD []
  let vf := fnOf (fld w 10 0)
  if !bit w 31 ∨ (fnState s vf).dusk.isSome then dropFrame s f (atTenancy f) rsTargetReset
  else if 16 ≤ log.length then
    dropFrame (count s (a + 0x24)) f (atTenancy f) rsQueueFull
  else
    let kept := min f.bytes.length 4064
    let entry := le 8 (tag64 f.tag 1) ++ le 8 (compactNow s).toNat ++ le 8 (tag64 f.tag 13) ++
      le 2 kept ++ le 2 (tagLength f.tag) ++ le 4 0 ++ slice f.bytes 0 4064
    let st := stampRelease s f
    finishRelease { count st.1 (a + 0x20) with
      notices := place s.notices c (log ++ [entry]) } st.2 false

/-- A frame with an outbound association may go only to a port, or to the TCP engine with a TLS
association (R351). -/
def saMisplaced (s : State) (f : Frame) : Bool :=
  match f.sa with
  | none => false
  | some sa => tagDestKind f.tag != dkPort && tagDestKind f.tag != dkFanout &&
      tagDestKind f.tag != dkFlood && tagDestKind f.tag != dkSequence &&
      !(tagDestKind f.tag == dkTcp && saKind s f.round sa == saTlsTx)

/-- A frame dropped because its association does not serve it. -/
def dropNoSa (s : State) (f : Frame) : State :=
  dropFrame s { f with tag := setCrypto f.tag (tagFld f.tag 15 15 12) 6 } (atTenancy f) rsNoSa

/-! ### The TCP engine takes a frame (R379, R383) -/

def rsTcpReset : Nat := 0xA0
def rsRetryLimit : Nat := 0xA1

/-- Units of 64 KB of the send and receive buffers of a connection. -/
def connSndBuf (c : Conn) : Nat := leAt c.rec_ 56 1 * 65536
def connRcvBuf (c : Conn) : Nat := leAt c.rec_ 57 1 * 65536

/-- FLAGS bit of an offload record. -/
def connFlag (c : Conn) (n : Nat) : Bool := bits (leAt c.rec_ 5 1) n n == 1

/-- Counter `k` of a connection raised. -/
def connCount (c : Conn) (k : Nat) : Conn := { c with counts := c.counts.set k (c.counts.getD k 0 + 1) }

/-- TLS transmit association of a sent frame: the frame's own, or the connection's. -/
def tlsTx (c : Conn) (f : Frame) : Option Nat :=
  match f.sa with
  | some sa => some sa
  | none => if bits (leAt c.rec_ 52 4) 31 31 = 1 then some (leAt c.rec_ 52 4 % 2 ^ 18) else none

/-- SEND_APPEND: a frame's bytes, as one record when the stream is protected, join the connection's send
stream, or the frame is dropped (R383). -/
def sendAppend (s : State) (f : Frame) (n : Nat) : State :=
  match look s.conns n with
  | none => dropFrame s f (atTenancy f) rsTargetReset
  | some c =>
    if c.state = 3 then dropFrame s f (atTenancy f) rsTcpReset
    else if c.state = 4 then dropFrame s f (atTenancy f) rsRetryLimit
    else if c.state ≠ 1 then dropFrame s f (atTenancy f) rsTargetReset
    else
      let sealed := match tlsTx c f with
        | some sa => tlsSeal s f.round sa 23 f.bytes
        | none => (s, .ok f.bytes)
      match sealed.2 with
      | .error r => dropFrame sealed.1 { f with tag := failCrypto f.tag 3 r } (atTenancy f) r
      | .ok bs =>
        if connSndBuf c < c.sndBuf.length + bs.length then
          dropFrame { s with conns := place s.conns n (connCount c 5) } f (atTenancy f) rsTailDrop
        else
          let c := { c with
            sndBuf := c.sndBuf ++ bs, sendFrom := max c.sendFrom (now s + 2)
            sendTimes := (BitVec.ofNat 64 (tag64 f.tag 1), BitVec.ofNat 64 (tag64 f.tag 3)) }
          let st := stampRelease sealed.1 (if f.sa.isSome then { f with tag := setCrypto f.tag 3 3 } else f)
          finishRelease { st.1 with conns := place st.1.conns n c } st.2 false

/-- The connection that takes a segment: offloaded, not closed by the peer or by retries, and taken by the
engine no later than the segment's due tick (R379, R385). -/
def connOpenFor (s : State) (f : Frame) (n : Nat) : Option Conn :=
  match look s.conns n with
  | none => none
  | some c => if 3 ≤ c.state ∨ f.due < c.opened then none else some c

/-- The engine takes a frame: a port's frame is a received segment, which SEGMENT_RECEIVE processes, or
which is dropped when its connection is not open; any other frame is data to send. -/
def handToTcp (s : State) (f : Frame) (n : Nat) : State :=
  match f.src with
  | .port _ =>
    match connOpenFor s f n with
    | none => dropFrame s f (atTenancy f) rsTcpReset
    | some c =>
      let st := stampRelease s f
      let f := st.2
      let s := completeSent st.1 f 0 (tagReason f.tag) (compactNow s).toNat (lateness s f)
      let s := if captured f || connFlag c 4 then
        recordRelease s f (compactNow s) (lateness s f) else s
      putFrame (makeMirror s f) { f with
        stage := .engine, conn := some n, sendPos := none, heldFrom := now s }
  | _ => sendAppend s f n

/-! ### Fair fan-out (R253–R256) -/

/-- Address of a fan-out list's registers. -/
def foAddr (l off : Nat) : Nat := 0x1A40000 + l * 0x10 + off

/-- Members of a list in a round: place, kind and target (R253). -/
def foMembers (s : State) (r l : Nat) : List (Nat × Nat × Nat) :=
  let base := rfAt s r (foAddr l 4) 14 0
  (List.range (rfAt s r (foAddr l 0) 22 16)).map fun i =>
    let a := 0x1A50000 + (base + i) * 8
    (i, rfAt s r a 7 0, rfAt s r (a + 4) 22 0)

/-- The members of a frame's list: of FANOUT, or of FLOOD without the frame's own source (R225, R254). -/
def membersOf (s : State) (f : Frame) : Nat × List (Nat × Nat × Nat) :=
  if tagDestKind f.tag = dkFlood then
    let l := rfAt s f.round (0x1810004 + tagDest f.tag * 0x10) 11 0
    (l, (foMembers s f.round l).filter fun m => match f.src with
      | .port p => !(m.2.1 == dkPort && m.2.2 % 16 == p)
      | .ring r => !(m.2.1 == dkRing && m.2.2 % 65536 == r)
      | _ => true)
  else (tagDest f.tag, foMembers s f.round (tagDest f.tag))

/-! ### Order of release (R53, R238) -/

/-- A frame that the release engine holds now. -/
def heldNow (s : State) (f : Frame) : Bool :=
  decide (f.heldFrom ≤ now s) && (match f.stage with
    | .held => true
    | .group _ => true
    | .member _ => true
    | _ => false)

/-- The frame goes to every member of a list. -/
def isFan (f : Frame) : Bool := tagDestKind f.tag == dkFanout || tagDestKind f.tag == dkFlood

/-- Members of a fan-out frame's list whose copies it has still to make. -/
def unserved (s : State) (f : Frame) : List (Nat × Nat × Nat) :=
  (membersOf s f).2.filter fun m => !f.served.contains m.1

/-- The tag of the copy for a member (R254). -/
def memberTag (f : Frame) (m : Nat × Nat × Nat) : Tag :=
  let g := copyTag f.tag
  if m.2.1 = dkPort then
    setTag (setTag (setTag g 8 31 24 dkPort) 9 31 0 (m.2.2 % 16)) 12 31 13 (bits m.2.2 22 4)
  else if m.2.1 = dkRing then setTag (setTag g 8 31 24 dkRing) 9 31 0 (m.2.2 % 65536)
  else setTag (setTag g 8 31 24 m.2.1) 9 31 0 0

/-- The flows that a held frame belongs to: of a fan-out frame, those of its copies (R53, R254). -/
def flowsOf (s : State) (f : Frame) : List (Nat × Nat × Nat) :=
  if isFan f then (unserved s f).map fun m => flowKey f (memberTag f m) else [f.flow]

/-- An earlier-admitted frame of the same flow is still held (R53). -/
def behindFlow (s : State) (f : Frame) : Bool :=
  decide (now s < f.notBefore) ||
    (s.frames.any fun p => p.2.id != f.id && decide (p.2.order < f.order) && heldNow s p.2 &&
      (flowsOf s p.2).contains f.flow)

/-- Lane of a tag (R238): kind and number. -/
def laneOfTag (s : State) (g : Tag) : Nat × Nat :=
  let k := tagDestKind g
  if k = dkRing ∨ k = dkException then
    (1, match ringOwner s (tagDest g) with | some fn => Endpoint.num fn.ep | none => 2)
  else if k = dkPort then (2, tagNode g)
  else (k, 0)

/-- Lanes of a frame that no group holds (R238). -/
def lanesOf (s : State) (f : Frame) : List (Nat × Nat) :=
  if isFan f then (unserved s f).map fun m => laneOfTag s (memberTag f m) else [laneOfTag s f.tag]

/-- Order of two frames on one lane (R238). -/
def laneBefore (a b : Frame) : Bool :=
  let ka := (tag64 a.tag 5, tagSource a.tag, a.order)
  let kb := (tag64 b.tag 5, tagSource b.tag, b.order)
  le3 ka kb && ka != kb

/-- Another frame of a lane of a queue, an endpoint or the ledger, due in the same tick, goes first (R238). -/
def laneWaits (s : State) (f : Frame) : Bool :=
  let mine := lanesOf s f
  s.frames.any fun p => p.2.id != f.id && p.2.stage == .held && heldNow s p.2 && p.2.due == f.due &&
    laneBefore p.2 f && !behindFlow s p.2 && (lanesOf s p.2).any fun l => mine.contains l

/-! ### Fan-out copies (R254–R256) -/

/-- Model address of a list's rotation counter for an endpoint (R254). -/
def rotAddr (l : Nat) (e : Endpoint) : Nat := 0x160000000 + l * 8 + Endpoint.num e * 4

/-- A copy of a fan-out frame for a member, with the flow of its own destination. -/
def foCopy (s : State) (f : Frame) (m : Nat × Nat × Nat) : State × Frame :=
  let g := memberTag f m
  let c : Frame := { f with
    id := s.nextFrame, tag := g, mirror := none, copyOf := some (m.1 + 1), buffered := none, served := [] }
  let c := { c with flow := flowKey c g }
  (newFrame s c, c)

/-- A copy waits, held, behind an earlier frame of its own flow (R53). -/
def copyWaits (s : State) (f c : Frame) : Bool := behindFlow s { c with notBefore := f.notBefore }

/-- A copy for a queue waits, held, behind an earlier frame of its flow or of its lane (R53, R238). -/
def portCopyWaits (s : State) (f c : Frame) : Bool := copyWaits s f c || laneWaits s c

/-- Port members whose hand-over tick has come get their copies (R254). -/
def fanPorts (s : State) (f : Frame) (ms : List (Nat × Nat × Nat)) : State × Frame :=
  ms.foldl (fun a m =>
    let p := m.2.2 % 16
    if m.2.1 == dkPort && !a.2.served.contains m.1 && decide (handoverTick a.1 p f.due ≤ now a.1) then
      let c := foCopy a.1 f m
      let s := putFrame c.1 { a.2 with served := m.1 :: a.2.served }
      (if portCopyWaits s f c.2 then s else joinQueue s c.2 (bits m.2.2 22 4),
        { a.2 with served := m.1 :: a.2.served })
    else a) (s, f)

/-- Ring members on an endpoint served in rotation order (R254). -/
def fanRings (s : State) (f : Frame) (l : Nat) (ms : List (Nat × Nat × Nat)) (e : Endpoint) : State :=
  let on := ms.filter fun m => m.2.1 == dkRing &&
    (match ringOwner s (m.2.2 % 65536) with
      | some fn => fn.ep == e
      | none => e == .h0)
  if on.isEmpty then s
  else
    let k := (word s (rotAddr l e)).toNat % on.length
    let s := (on.drop k ++ on.take k).foldl (fun s m =>
      let c := foCopy s f m
      if f.sa.isSome then dropNoSa c.1 c.2
      else if copyWaits c.1 f c.2 then c.1 else handToRing c.1 c.2 (m.2.2 % 65536)) s
    count s (rotAddr l e)

/-- FANOUT_RELEASE: one copy to each member (R254). A late frame is counted late once and each of its late copies to a
ring again: R54 does not say whether both are (DESIGN CHOICE). -/
def fanOut (s : State) (f : Frame) : State :=
  let m := membersOf s f
  let st := stampRelease s f
  let f := st.2
  let s := st.1
  if m.2.isEmpty then
    let s := if tagDestKind f.tag = dkFlood then count s (0x181000C + tagDest f.tag * 0x10) else s
    let s := if (foMembers s f.round m.1).isEmpty then count s 0x1A90008 else s
    finishRelease s f false
  else
    let s := count s (foAddr m.1 8)
    let s := fanRings (fanRings s f m.1 m.2 .h0) f m.1 m.2 .h1
    let p := fanPorts s f m.2
    let s := m.2.foldl (fun s x =>
      if x.2.1 = dkLedger then
        recordFrame s { f with tag := memberTag f x } (tagReason f.tag) (compactNow s) (lateness s f) true
      else s) p.1
    finishRelease s p.2 false

/-! ### Hand-on of a frame that no group holds (R49) -/

/-- The release event of a held frame by its destination (R49). -/
def deliver (s : State) (f : Frame) : State :=
  let k := tagDestKind f.tag
  if saMisplaced s f then dropNoSa s f
  else if k = dkRing ∨ k = dkException then handToRing s f (tagDest f.tag)
  else if k = dkPort then joinQueue s f (tagNode f.tag)
  else if k = dkFanout ∨ k = dkFlood then fanOut s f
  else if k = dkLedger then
    let st := stampRelease s f
    finishRelease st.1 st.2 true
  else if k = dkTcp then handToTcp s f (tagDest f.tag)
  else if k = dkStorage then storageNotice s f (tagDest f.tag)
  else dropFrame s f (atTenancy f) (settleReason f.tag)

/-- The tick from which a held frame may be handed on. -/
def releaseFrom (s : State) (f : Frame) : Nat :=
  if tagDestKind f.tag = dkPort then handoverTick s (tagNode f.tag / 32768) f.due else f.due

/-- A held frame handed on, when nothing holds it back. -/
def releaseHeld (s : State) (f : Frame) : State :=
  if !heldNow s f || behindFlow s f || laneWaits s f then s else deliver s f

/-! ### Sequence groups (R239–R252) -/

/-- Address of a group's registers. -/
def seqAddr (g off : Nat) : Nat := 0x1A20000 + g * 0x200 + off

/-- N of a group in a round: its leading used entries (R240). -/
def seqSources (s : State) (r g : Nat) : Nat :=
  ((List.range 64).takeWhile fun j => rfAt s r (seqAddr g (0x100 + 4 * j)) 2 0 != 0).length

/-- A source entry matches a frame (R240). -/
def seqMatches (f : Frame) (w : Word) : Bool :=
  let k := tagSrcKind f.tag
  let i := tagFld f.tag 0 9 0
  let x := fld w 31 16
  match fld w 2 0 with
  | 1 => k == 0 && i == x
  | 2 => (match f.sendPos with | some p => p.1 == x | none => false)
  | 3 => k == 3 && i == x && decide (x < 64)
  | 4 => k == 3 && i == 256 + x && decide (x < 64)
  | 5 => k == 3 && i == 512 + x && decide (x < 64)
  | 6 => k == 3 && i == 768 + x
  | _ => false

/-- Source index of a frame in its group; N when no entry matches (R240). -/
def seqIndex (s : State) (g : Nat) (f : Frame) : Nat :=
  let n := seqSources s f.round g
  ((List.range n).find? fun j => seqMatches f (wordAt s f.round (seqAddr g (0x100 + 4 * j)))).getD n

/-- Rank of a frame (R243). -/
def seqRank (s : State) (g : Nat) (f : Frame) : Nat :=
  (seqIndex s g f + roundOf f.ingressTick) % (seqSources s f.round g + 1)

/-- A frame's key comes before another's in their group: ingress compact time, rank, admission (R243). -/
def seqBefore (s : State) (g : Nat) (a b : Frame) : Bool :=
  le3 (tag64 a.tag 1, seqRank s g a, a.order) (tag64 b.tag 1, seqRank s g b, b.order)

/-- Admission tick of a frame in its group (R244). -/
def seqTick (s : State) (g : Nat) (f : Frame) : Nat :=
  f.ingressTick + rfAt s f.round (seqAddr g 0x1C) 31 16

/-- Cells in use of a group raised or lowered (R249). -/
def seqCells (s : State) (g : Nat) (add sub : Nat) : State :=
  setRf s (seqAddr g 0x28) 31 16 (rf s (seqAddr g 0x28) 31 16 + add - sub)

/-- Cells that an arrived frame occupies in its group. -/
def seqHeld (s : State) (g : Nat) (f : Frame) : Nat :=
  if (group s g).unstored.contains f.id then 0 else cellsOf f.bytes.length

/-- SEQ_ARRIVE: a frame reaches its group, or is dropped by a disabled one (R249, R251). -/
def seqArrive (s : State) (f : Frame) (g : Nat) : State :=
  if !bit (wordAt s f.round (seqAddr g 0)) 0 then
    dropFrame (count s (seqAddr g 0x4C)) f (atTenancy f) rsRingDisabled
  else
    let c := cellsOf f.bytes.length
    let w := word s (seqAddr g 0x28)
    let f := { f with stage := .group g }
    if fld w 31 16 + c ≤ fld w 15 0 then putFrame (seqCells s g c 0) f
    else
      let v := group s g
      putFrame (putGroup s g { v with unstored := v.unstored ++ [f.id] }) f

/-- Output ring of a group in a round; none: a port output. -/
def seqRing (s : State) (r g : Nat) : Option Nat :=
  if bit (wordAt s r (seqAddr g 0)) 1 then none else some (rfAt s r (seqAddr g 4) 15 0)

/-- A refusal waits for a completion slot. -/
def noticeWaits (p : Position) : Bool := p.frame.isNone && p.notice && p.slot.isNone

/-- Waiting refusals of a group get completion slots in position order (R248). -/
def fillRefusals (s : State) (g : Nat) : State :=
  let go := fun (a : State × List Position × Bool) (p : Position) =>
    match p.ring with
    | none => (a.1, a.2.1 ++ [p], a.2.2)
    | some r =>
      if a.2.2 || !noticeWaits p || p.lost then (a.1, a.2.1 ++ [p], a.2.2)
      else if cqFree a.1 (ringCq a.1 r) = 0 then (a.1, a.2.1 ++ [p], true)
      else
        let k := reserveSlot a.1 (ringCq a.1 r)
        (k.2, a.2.1 ++ [{ p with slot := some k.1 }], false)
  let q := (group s g).positions.foldl go (s, [], false)
  putGroup q.1 g { group q.1 g with positions := q.2.1 }

/-- Why a group refuses a frame at its admission (R248). -/
def seqRefusal (s : State) (g : Nat) (f : Frame) : Option Nat :=
  if (group s g).unstored.contains f.id then some rsSeqStorage
  else match seqRing s f.round g with
    | some r =>
      if freeBuffers s r < buffersFor s r f.bytes.length ∨ cqFree s (ringCq s r) < 2 ∨
          !ringEnabled s r then some rsQueueFull else none
    | none =>
      let n := rfAt s f.round (seqAddr g 8) 18 0
      let v := node s n
      if rfAt s f.round (queueAddr n 3) 15 0 < v.cells + cellsOf f.bytes.length then some rsQueueFull
      else none

/-- The pinned table that serves a group's session lookups in a round (R207). -/
def sessionTable (s : State) (r g : Nat) : Option Nat :=
  ((List.range 8).map (· + 64)).find? fun n =>
    tblPlace s r n != 0 && bit (wordAt s r (tblAddr n 0)) 5 && rfAt s r (tblAddr n 0) 27 20 == g

/-- The destination that a session's value gives a reject frame: kind, index and node (R250). -/
def sessionDest (e : Option Entry) : Nat × Nat × Nat :=
  match e with
  | none => (dkUnset, 0, 0)
  | some e =>
    let k := leAt e.value 0 1
    if k = dkRing ∨ k = dkPort then (k, leAt e.value 4 4, leAt e.value 8 4 % 2 ^ 19) else (dkUnset, 0, 0)

/-- REJECT_FRAME: the reject frame of a QUEUE_FULL refusal; with a session table its destination is that of the session,
and without one it keeps the refused frame's. It joins its class when the lookup is done (R250). -/
def rejectFrame (s : State) (g : Nat) (f : Frame) : State :=
  let w := wordAt s f.round (seqAddr g 0)
  if !bit w 15 then s
  else
    let cls := fld w 13 8
    let key := be 2 (tagSource f.tag) ++
      be 2 (match f.sendPos with | some p => p.1 | none => 0) ++ be 4 (tagHash f.tag)
    let t := setTag (setTag f.tag 0 27 22 cls) 15 31 24 rsQueueFull
    let t := match sessionTable s f.round g with
      | none => t
      | some n =>
        let d := sessionDest (findAt s f.round n 0 key)
        setTag (setTag (setTag t 8 31 24 d.1) 9 31 0 d.2.1) 12 31 13 d.2.2
    newFrame s { f with
      tag := t, stage := .reject, sendPos := none, buffered := none, dueDelay := 0, entry := 0,
      mirror := none, ready := now s + 5, heldFrom := 0, served := [] }

/-- A reject frame enters its class: it is dropped by a class without a program, or past the class's rate (R185,
R250). -/
def joinReject (s : State) (f : Frame) : State :=
  let pc := pathAt s f.round (tagClass f.tag)
  let m := takeClassToken s (tagClass f.tag)
  if pc.program.isNone then dropFrame s f (atTenancy f) rsNoProgram
  else if !m.2 then dropFrame m.1 f (atTenancy f) rsPathRate
  else putFrame { m.1 with admissions := m.1.admissions + 1 }
    (setDue { f with stage := .queued, order := s.admissions } pc.c)

/-- Reject frames whose lookup is done, in the order of their creation (R250). -/
def joinRejects (s : State) : State :=
  (s.frames.filter fun p => p.2.stage == .reject && decide (p.2.ready ≤ now s)).foldl (fun s p => joinReject s p.2) s

/-- SEQ_REFUSE: a frame refused at its admission keeps its number; its record, and the completion of a ring output, come
in its due tick (R248, R281). -/
def seqRefuse (s : State) (g : Nat) (f : Frame) (seq reason : Nat) : State :=
  let out := seqRing s f.round g
  let s := count s (seqAddr g (if reason = rsQueueFull then 0x38 else 0x3C))
  let waiting := ((group s g).positions.filter noticeWaits).length
  let slot := match out with
    | some r => if 0 < cqFree s (ringCq s r) ∧ waiting = 0 then some (reserveSlot s (ringCq s r)) else none
    | none => none
  let s := match slot with | some k => k.2 | none => s
  let gone := slot.isNone && out.isSome && decide (64 ≤ waiting)
  let s := if gone then count s (seqAddr g 0x50) else s
  let f := { f with tag := setTag f.tag 15 31 24 reason }
  let p : Position :=
    { seq := seq, id := f.id, ring := out, notice := out.isSome && !gone, frame := none, reason := reason, due := f.due,
      ingress := BitVec.ofNat 64 (tag64 f.tag 1), slot := slot.map (·.1), tag := f.tag,
      length := f.bytes.length, round := f.round,
      sendRing := match f.sendPos with | some q => q.1 | none => 0,
      body := if reason = rsSeqStorage then [] else snapBytes s f }
  let v := group s g
  let s := putGroup s g { v with
    positions := v.positions ++ [p],
    unstored := v.unstored.filter (· != f.id) }
  let s := countDrop s (match out with
    | some r => .ring r
    | none => .node (rfAt s f.round (seqAddr g 8) 18 0)) reason
  let s := completeSent s f 2 reason (compactNow s).toNat 0
  let s := if reason = rsQueueFull then rejectFrame s g f else s
  endFrame s f

/-- One frame admitted to its group: its number, its place in the output or its refusal (R244–R248). -/
def seqAdmitOne (s : State) (g : Nat) (f : Frame) (late : Bool) : State :=
  let seq := word64 s (seqAddr g 0x20)
  let s := setWord64 s (seqAddr g 0x20) (seq + 1)
  let s := count64 s (seqAddr g 0x30)
  let s := if seqIndex s g f = seqSources s f.round g then count s (seqAddr g 0x48) else s
  let s := if late then count s (seqAddr g 0x40) else s
  let f := { f with tag := setFlag (setTag64 f.tag 13 seq) 24 late }
  let s := fillRefusals s g
  let cells := seqHeld s g f
  match seqRefusal s g f with
  | some reason => seqRefuse (seqCells s g 0 cells) g f seq reason
  | none =>
    let out := seqRing s f.round g
    let p : Position := { seq := seq, id := f.id, ring := out, frame := some f.id, due := f.due, round := f.round }
    let q := match out with
      | none => (s, p)
      | some r =>
        let n := buffersFor s r f.bytes.length
        let k := reserveSlot s (ringCq s r)
        let v := ring k.2 r
        (putRing k.2 r { v with taken := (v.taken + n) % 2 ^ 32 },
          { p with slot := some k.1, buf := v.taken, bufs := n })
    let v := group q.1 g
    putFrame (putGroup q.1 g { v with positions := v.positions ++ [q.2] })
      { f with stage := .member g }

/-- Arrived frames of a group in key order. -/
def seqArrived (s : State) (g : Nat) : List Frame :=
  sortBy (seqBefore s g)
    ((s.frames.map fun p => p.2).filter fun f => f.stage == .group g && decide (f.heldFrom ≤ now s))

/-- Admissions of a list of frames, counting those that a rank decided (R257). -/
def seqAdmitAll (g : Nat) (late : Bool) : List Frame → State → State
  | [], s => s
  | f :: rest, s =>
    let tie := match rest with
      | h :: _ => tag64 h.tag 1 == tag64 f.tag 1 && seqRank s g h != seqRank s g f
      | [] => false
    let s := if tie && !late then count s (seqAddr g 0x44) else s
    seqAdmitAll g late rest (seqAdmitOne s g f late)

/-- SEQ_ADMIT: the admissions of a group at the end of a tick (R244, R245, R252). -/
def seqAdmitStep (g : Nat) (s : State) : State :=
  let arrived := seqArrived s g
  let onTime := arrived.filter fun f => decide (f.heldFrom ≤ seqTick s g f)
  let first := onTime.takeWhile fun f => decide (seqTick s g f ≤ now s)
  let late := arrived.filter fun f => decide (seqTick s g f < f.heldFrom)
  seqAdmitAll g true late (seqAdmitAll g false first s)

/-- A frame's place in its group. -/
def positionOf (s : State) (g id : Nat) : Option Position :=
  (group s g).positions.find? fun p => p.frame == some id

/-- A place given up. -/
def dropPosition (s : State) (g id : Nat) : State :=
  let v := group s g
  putGroup s g { v with positions := v.positions.filter fun p => p.id != id }

/-- An admitted frame gives up its place and its cells. -/
def leavePlace (s : State) (g : Nat) (p : Position) (f : Frame) : State :=
  seqCells (dropPosition s g p.id) g 0 (cellsOf f.bytes.length)

/-- Positions of a group before one, in the order of their admission. -/
def placesBefore (s : State) (g : Nat) (p : Position) : List Position :=
  (group s g).positions.takeWhile fun q => q.id != p.id

/-- An earlier refusal of the group still waits for a completion slot (R248). -/
def behindRefusal (s : State) (g : Nat) (p : Position) : Bool := (placesBefore s g p).any noticeWaits

/-- An earlier position of a port output is not handed over yet (R247). -/
def behindPosition (s : State) (g : Nat) (p : Position) : Bool :=
  (placesBefore s g p).any fun q => q.frame.isSome && q.ring.isNone

/-- An admitted frame whose output is gone at its release: dropped with a record, whether or not it
carries CAPTURE (R252). -/
def dropMember (s : State) (f : Frame) (r reason : Nat) : State :=
  let g := { f with tag := setTag f.tag 15 31 24 reason }
  let s := recordFrame s g reason (compactNow s) 0 false
  dropFrame s { f with tag := setFlag f.tag 20 false } (.ring r) reason

/-- An admitted frame can be written to its ring now: its place is not lost, its descriptors are on chip and credit
allows it (R246, R427). -/
def memberReady (s : State) (g r : Nat) (p : Position) (f : Frame) : Bool :=
  !behindFlow s f && decide (f.due ≤ now s) && !behindRefusal s g p && !p.lost &&
    (chipDescs s r p.buf p.bufs).isSome && canWrite s r

/-- Another admitted frame of the group, due in the same tick, goes first on the group's lane (R238). -/
def groupLaneWaits (s : State) (g r : Nat) (f : Frame) : Bool :=
  (group s g).positions.any fun p => match p.frame.bind (frame? s) with
    | some h => h.id != f.id && h.due == f.due && laneBefore h f && p.ring == some r && memberReady s g r p h
    | none => false

/-- The release event of an admitted frame (R246, R247, R252). -/
def releaseMember (s : State) (f : Frame) (g : Nat) : State :=
  match positionOf s g f.id with
  | none => s
  | some p =>
    if behindFlow s f then s
    else match p.ring with
      | none =>
        let n := rfAt s p.round (seqAddr g 8) 18 0
        if behindPosition s g p ∨ now s < handoverTick s (n / 32768) f.due then s
        else joinQueue (leavePlace s g p f) { f with tag := setTag f.tag 12 31 13 n } n
      | some r =>
        if now s < f.due ∨ behindRefusal s g p then s
        else match ringGone s r with
          | some reason => dropMember (leavePlace s g p f) f r reason
          | none =>
            if p.lost ∨ !ringOn s r 2 then dropMember (leavePlace s g p f) f r rsRingDisabled
            else if f.sa.isSome then dropNoSa (leavePlace s g p f) f
            else match ringOwner s r, chipDescs s r p.buf p.bufs with
              | some fn, some descs =>
                if !canWrite s r || groupLaneWaits s g r f then s
                else writeToRing (leavePlace s g p f) fn r f descs p.buf (p.slot.getD 0)
              | _, _ => s

/-- A position of the group changed. -/
def changePlace (s : State) (g id : Nat) (h : Position → Position) : State :=
  let v := group s g
  putGroup s g { v with positions := v.positions.map fun p => if p.id = id then h p else p }

/-- The ledger record of a refusal in its due tick (R248, R281). -/
def logRefusal (g : Nat) (s : State) (p : Position) : State :=
  if p.logged ∨ now s < p.due then s
  else
    let s := changePlace s g p.id fun p => { p with logged := true }
    ledgerRecord s recRefusal p.reason (tagTenancy p.tag) false
    (frameRecord recRefusal p.reason p.tag (compactNow s) p.length 0 p.sendRing p.body)

/-- The completion of a refusal: written in its slot in the due tick, or dropped when its ring is disabled while it
waits for one or when it falls due (R248). -/
def noticeRefusal (g : Nat) (s : State) (p : Position) : State :=
  let done := fun (s : State) => changePlace s g p.id fun p => { p with notice := false }
  let drop := fun (s : State) (r : Nat) =>
    countDrop (count (done s) (seqAddr g 0x4C)) (.ring r) rsRingDisabled
  match p.notice, p.ring, p.slot with
  | true, some r, none => if p.lost ∨ !ringOn s r 2 then drop s r else s
  | true, some r, some k =>
    if now s < p.due then s
    else if !ringOn s r 2 then drop s r
    else scheduleCompletion (done s) (now s) (ringCq s r) k
      { frameCompletion p.tag 4 0 p.reason (compactNow s).toNat (now s - p.due) r 0 0 with
        ring := r } r 0
  | _, _, _ => s

/-- One refusal's work; its place is given up when its record and its completion are written. -/
def settleRefusal (g : Nat) (s : State) (p : Position) : State :=
  if p.frame.isSome then s
  else
    let s := noticeRefusal g (logRefusal g s p) p
    match (group s g).positions.find? fun q => q.id == p.id with
    | some q => if q.logged && !q.notice then dropPosition s g q.id else s
    | none => s

/-- Refusals of every group at the start of a tick. -/
def groupsTick (s : State) : State :=
  s.groups.foldl (fun s g =>
    let s := fillRefusals s g.1
    (group s g.1).positions.foldl (settleRefusal g.1) s) s

/-! ### From EMIT to the release engine (R152, R200) -/

/-- DEST_INDEX after load spreading in a round (R200). -/
def spread (s : State) (r : Nat) (g : Tag) : Nat :=
  let on := fun (k : Nat) =>
    let w := wordAt s r (0x1630000 + k * 0x10)
    decide (4 ≤ fld w 19 16 ∧ fld w 19 16 ≤ 12) && fld w 15 0 == tagDest g
  let known := (s.words.filterMap fun p =>
    if inArray p.1 0x1630000 4096 0x10 0 then some ((p.1 - 0x1630000) / 0x10) else none) ++
    (s.undo.filterMap fun u =>
      if inArray u.addr 0x1630000 4096 0x10 0 then some ((u.addr - 0x1630000) / 0x10) else none)
  match (known.filter on).foldl (fun m k => some (match m with | some j => min j k | none => k)) none with
  | none => tagDest g
  | some k =>
    let e := rfAt s r (0x1630004 + k * 0x10) 17 0 +
      tagHash g % 2 ^ rfAt s r (0x1630000 + k * 0x10) 19 16
    let w := wordAt s r (0x1640000 + e / 2 * 4)
    if e % 2 = 0 then fld w 15 0 else fld w 31 16

/-- EMIT_TAKEN: the release engine takes a frame or copy from EMIT or DONE; it holds it from the next
tick (R152, R237); one with CHECK_FAILED and no reason takes the reason CHECK_FAILED (R361). -/
def takeEmitted (s : State) (id : Nat) : State :=
  match frame? s id with
  | none => s
  | some f =>
    if f.stage ≠ .emitted then s
    else
      let g := f.tag
      let k := tagDestKind g
      if k = dkUnset ∨ k = dkDiscard then dropFrame s f (atTenancy f) (settleReason g)
      else
        let g := if k = dkRing then setTag g 9 31 0 (spread s f.round g) else g
        let g := if tagFlag g 23 && tagReason g == 0 then setTag g 15 31 24 rsCheckFailed else g
        let f := { f with tag := g, heldFrom := now s + 1, flow := flowKey f g }
        let f := if k = dkSequence ∨ k = dkFanout then
            { f with due := f.plainDue, tag := setTag64 g 5 (tag64 g 3 + (f.plainDue - f.endTick) * 1024) }
          else f
        putFrame s { f with stage := .held }

/-- Frames bound for groups arrive in the tick in which the release engine holds them, in the order of their
admission (R244). -/
def groupArrivals (s : State) : State :=
  let new := (s.frames.map fun p => p.2).filter fun f =>
    f.stage == .held && tagDestKind f.tag == dkSequence && decide (f.heldFrom ≤ now s)
  (sortBy (fun a b => decide (a.order ≤ b.order)) new).foldl (fun s f => seqArrive s f (tagGroup f.tag)) s

/-! ### Marks of LEARNs at their source's limit (R231) -/

/-- What a LEARN at its source's limit makes of the frame: the bridge domain, and whether the frame is dropped. -/
def markOf (s : State) (f : Frame) : Option (Nat × Bool) :=
  (s.learnMarks.find? fun m => m.1 == f.id || (m.1 + 1 == f.origin && m.2.2)).map fun m => m.2

/-- A marked frame that the release engine holds is dropped, or takes FLOOD of the bridge domain as its destination. -/
def applyMark (s : State) (f : Frame) : State :=
  match markOf s f with
  | none => s
  | some (_, true) =>
    let drop := fun (s : State) => dropFrame s f (atTenancy f) rsLearnLimit
    match f.stage with
    | .held => drop s
    | .group g => drop (seqCells s g 0 (seqHeld s g f))
    | .member g => (match positionOf s g f.id with
      | some p => drop (leavePlace s g p f)
      | none => s)
    | .ring r => drop (putRing s r { ring s r with waiting := (ring s r).waiting.filter (· != f.id) })
    | _ => s
  | some (bd, false) =>
    if f.stage ≠ .held ∨ f.copyOf.isSome then s
    else
      let g := setTag (setTag (setTag f.tag 8 31 24 dkFlood) 9 31 0 bd) 15 31 24 rsLearnLimit
      putFrame s { f with tag := g, flow := flowKey f g }

/-- The marks of the last tick act on the frames that the release engine holds. -/
def applyMarks (s : State) : State :=
  if s.learnMarks.isEmpty then s else (s.frames.map fun p => p.2).foldl applyMark s

/-! ### Commands -/

/-- DUE_TICK_RELEASE: a held or admitted frame in its due tick (R49). -/
def dueTickReleaseStep (id : Nat) (s : State) : State :=
  match frame? s id with
  | none => s
  | some f =>
    if now s ≠ f.due then s
    else match f.stage with
      | .held => releaseHeld s f
      | .member g => releaseMember s f g
      | .ring r => startRings s r
      | _ => s

/-- LATE_RELEASE: a frame past its due tick, in the first tick in which it can be handed on (R52). -/
def lateReleaseStep (id : Nat) (s : State) : State :=
  match frame? s id with
  | none => s
  | some f =>
    match f.stage with
    | .held => if releaseFrom s f < now s then releaseHeld s f else s
    | .member g => releaseMember s f g
    | .ring r => if f.due < now s then startRings s r else s
    | _ => s

/-- QUEUE_HANDOVER: a frame bound for a port, f_tx + 4 ticks before its due tick; a fan-out frame's port
copies likewise (R49, R247, R254, R318). -/
def queueHandoverStep (id : Nat) (s : State) : State :=
  match frame? s id with
  | none => s
  | some f =>
    match f.stage with
    | .member g => if (positionOf s g id).any (·.ring.isNone) then releaseMember s f g else s
    | .held =>
      if !heldNow s f || behindFlow s f then s
      else if tagDestKind f.tag = dkPort then
        if now s < releaseFrom s f then s else releaseHeld s f
      else if tagDestKind f.tag = dkFanout ∨ tagDestKind f.tag = dkFlood then
        let p := fanPorts s f (membersOf s f).2
        putFrame p.1 p.2
      else s
    | _ => s

/-- DUE_TICK_RELEASE (R49). -/
def execDueTickRelease (f : Nat) (s : State) : Out := act s (dueTickReleaseStep f)
/-- LATE_RELEASE (R52). -/
def execLateRelease (f : Nat) (s : State) : Out := act s (lateReleaseStep f)
/-- SEQ_ADMIT (R244). -/
def execSeqAdmit (g : Fin 256) (s : State) : Out := act s (seqAdmitStep g.val)
/-- QUEUE_HANDOVER (R318). -/
def execQueueHandover (f : Nat) (s : State) : Out := act s (queueHandoverStep f)
/-- RX_DESCRIPTOR (R426). -/
def execRxDescriptor (ring : Fin 65536) (s : State) : Out := act s (rxDescriptorStep ring.val)
/-- RX_FRAME_START (R427). -/
def execRxFrameStart (ring : Fin 65536) (s : State) : Out := act s (rxFrameStartStep ring.val)
/-- RX_HOLD_EXPIRE (R428). -/
def execRxHoldExpire (ring : Fin 65536) (s : State) : Out := act s (rxHoldExpireStep ring.val)

end Sys2Proof.Machine
end

