-- ==== Sys2Proof/Machine/Timebase.lean ====
section
/-! DEFINITION. The counter of the Kalram timebase: its advance with each tick, the commits that adjust it at a round
boundary, timebase records, and the readings of past ticks (R34, R258–R268, R279). -/

namespace Sys2Proof.Machine

open Sys2Proof

/-- Units of 2^-8 ns in a second. -/
def unitsPerSecond : Nat := 256000000000

/-- A signed number as `n` bits. -/
def signedBits (n : Nat) (v : Int) : Nat := (v % (2 ^ n : Nat)).toNat

/-- A field of `n` bits read as a signed number. -/
def toSigned (n v : Nat) : Int := if v < 2 ^ (n - 1) then v else (v : Int) - (2 ^ n : Nat)

/-- A full time in units moved by a signed number of units. -/
def moveUnits (s : State) (d : Int) : State :=
  { s with tbs := { s.tbs with
    acc := BitVec.ofNat 128 (signedBits 128 ((s.tbs.acc.toNat : Int) + d * (2 ^ 32 : Nat))) } }

/-- Servo state (R273), kept in TBS_STATUS. -/
def servoState (s : State) : Nat := rf s 0x300004 2 0

/-! ### Timebase records (R279) -/

def tkHealth : Nat := 1
def tkStepBefore : Nat := 2
def tkStepAfter : Nat := 3
def tkMidnight : Nat := 4
def tkReference : Nat := 5
def tkEpoch : Nat := 6

/-- The 64-byte body of a timebase record: its kind, tick, full time in units and OFFSET. -/
def timebaseBody (s : State) (kind tick units : Nat) (offset : Int) : List Byte :=
  let t := s.tbs
  let f := fullParts units
  le 1 kind ++ le 1 (servoState s) ++ le 1 (rf s 0x300000 3 1) ++
    le 1 (rf s 0x300004 3 3 + rf s 0x300004 4 4 * 2 + flagBit (t.stepsSinceHealth != 0) 2 +
      flagBit t.lostSinceHealth 3 + flagBit (t.midnights.getLsbD 0) 4) ++ le 4 0 ++
    le 8 tick ++ le 6 f.1 ++ le 4 f.2.1 ++ le 1 f.2.2 ++ le 1 0 ++
    le 8 ((units + 2 ^ 96 - t.base.toNat) % 2 ^ 64) ++ le 8 (signedBits 64 offset) ++
    le 6 t.incr.toNat ++ le 2 0 ++ le 4 (signedBits 32 t.ppsError) ++
    le 2 (min t.stepsSinceHealth 65535) ++ le 2 t.midnights.toNat ++ le 4 0

/-- A timebase record of the current tick into the ledger. -/
def timebaseRecord (s : State) (kind : Nat) (offset : Int) : State :=
  let body := timebaseBody s kind (now s) (fullUnits s) offset
  ledgerRecord s recTimebase 0 0 false (plainRecord recTimebase 0 (compactNow s) body)

/-- What a STEP_BEFORE record tells of the last tick before the boundary, whose full time is `units`: its body without
the net change, and its compact time (R266). -/
def stepBefore (s : State) (tick units : Nat) : List Byte × BitVec 64 :=
  (timebaseBody s tkStepBefore tick units 0, BitVec.ofNat 64 (units + 2 ^ 96 - s.tbs.base.toNat))

/-- A TIMEBASE event. -/
def timebaseEvent (s : State) (object kind : Nat) : State :=
  event s srcTimebase evTimebase (detail object kind)

/-- The records of a changed boundary, at the end of its first tick: STEP_BEFORE and STEP_AFTER with the net change, and
EPOCH (R266, R268, R279, R283). -/
def settleSteps (s : State) : State :=
  match s.tbs.stepDue with
  | none => s
  | some d =>
    let body := d.body.take 36 ++ le 8 (signedBits 64 d.net) ++ d.body.drop 44
    let s := ledgerRecord { s with tbs := { s.tbs with stepDue := none } } recTimebase 0 0 false
      (plainRecord recTimebase 0 d.time body)
    let s := timebaseRecord s tkStepAfter d.net
    if d.epoch then timebaseRecord s tkEpoch d.net else s

/-! ### Adjustment (R264–R268) -/

/-- TBS_ADJ_STATUS.LAST set. -/
def setLast (s : State) (v : Nat) : State := setRf s 0x300034 11 8 v

/-- Registers of the epoch base. -/
def showBase (s : State) (lo ns : Nat) (base : Nat) : State :=
  let f := fullParts base
  setWord (setWord64 s lo f.1) ns (BitVec.ofNat 32 f.2.1)

/-- A slew ends: the units of it that were not yet added. -/
def slewRest (s : State) : Int :=
  if s.tbs.slewLeft = 0 then 0 else s.tbs.slewPer * s.tbs.slewLeft + s.tbs.slewRem

/-- A slew in progress is over. -/
def endSlew (s : State) : State :=
  setRf { s with tbs := { s.tbs with slewLeft := 0, slewPer := 0, slewRem := 0 } } 0x300004 5 5 0

/-- INCR lies within 500 ppm of nominal (R259). -/
def incrOk (incr : BitVec 48) : Bool := decide (0x3FF7CED9169 ≤ incr.toNat ∧ incr.toNat ≤ 0x40083126E97)

/-- INCR after the commits of a boundary: the last one in range of those that give it (R259, R264, R268). -/
def incrAfter (incr : BitVec 48) (cs : List TbsCommit) : BitVec 48 :=
  cs.foldl (fun i c => if c.mode < 3 ∧ incrOk c.incr then c.incr else i) incr

/-- A commit's INCR out of range is refused (R259). -/
def answerIncr (s : State) (c : TbsCommit) : State :=
  if incrOk c.incr then s else timebaseEvent (setLast s 6) 6 0

/-- A pulse of TB_PPS_OUT that fell due between two readings is moved or omitted (R278). -/
def pulseMoved (s : State) (a b : Nat) : State :=
  let off := toSigned 32 (word s 0x30007C).toNat * 256
  let k := fun (u : Nat) => ((u : Int) - off) / (unitsPerSecond : Int)
  if bit (word s 0x300078) 16 && k a != k b then timebaseEvent s 1 tkStepAfter else s

/-- One change of the reading by a step, SET or EPOCH: its records to come, counts and event; `b` tells of the last tick
before the boundary (R266, R268). -/
def changeReading (s : State) (b : List Byte × BitVec 64) (net : Int) (epoch : Bool) (f : State → State) : State :=
  let u := fullUnits s
  let s := f s
  let s := pulseMoved s u (fullUnits s)
  let t := s.tbs
  let d := t.stepDue.getD ⟨0, false, b.1, b.2⟩
  let s := { s with tbs := { t with
    stepDue := some { d with net := d.net + net, epoch := d.epoch || epoch },
    stepsSinceHealth := t.stepsSinceHealth + 1,
    stepRounds := t.stepRounds ++ [round s] } }
  timebaseEvent (count s 0x300088) 0 (if epoch then tkEpoch else tkStepAfter)

/-- An OFFSET slewed or stepped (R265, R267). -/
def applyOffset (s : State) (b : List Byte × BitVec 64) (offset : Int) : State :=
  let thresh := (word s 0x300018).toNat
  let log := rf s 0x30001C 11 8
  let m := offset.natAbs
  if m = 0 then setLast s 1
  else if m ≤ thresh ∧ m ≤ 2 ^ (log + 7) then
    let t : Nat := 256 * 2 ^ log
    let per := offset / (t : Int)
    let s := moveUnits s per
    setLast (setRf { s with tbs := { s.tbs with
      slewLeft := t - 1, slewPer := per, slewRem := offset - per * t } } 0x300004 5 5 1) 2
  else
    let c := ((compactNow s).toNat : Int) + offset
    if c < 0 ∨ (2 ^ 64 : Nat) ≤ c then timebaseEvent (setLast s 7) 7 0
    else setLast (changeReading s b offset false fun s => moveUnits s offset) 3

/-- Whole seconds, in units. -/
def secondsUnits (sec : Nat) : Nat := sec * unitsPerSecond

/-- SET: full time becomes the shadow full time, the epoch base its seconds, the Midnight count 0 (R264). -/
def setTime (s : State) (b : List Byte × BitVec 64) (c : TbsCommit) : State :=
  let new := secondsUnits c.sec + c.ns * 256 + c.frac
  let s := changeReading (endSlew s) b ((new : Int) - fullUnits s) false fun s =>
    { s with tbs := { s.tbs with
      acc := BitVec.ofNat 128 (new * 2 ^ 32),
      base := BitVec.ofNat 96 (secondsUnits c.sec),
      midnights := 0, wrapAt := none } }
  setLast (setRf (showBase s 0x300060 0x30008C (secondsUnits c.sec)) 0x300004 31 16 0) 4

/-- EPOCH: the epoch base becomes the shadow full time's seconds (R264). -/
def setEpoch (s : State) (b : List Byte × BitVec 64) (c : TbsCommit) : State :=
  let base := secondsUnits c.sec
  let s := changeReading s b ((s.tbs.base.toNat : Int) - base) true fun s =>
    { s with tbs := { s.tbs with base := BitVec.ofNat 96 base, wrapAt := none } }
  setLast (showBase s 0x300060 0x30008C base) 5

/-- An OFFSET follows before the next SET: the offsets add (R268). -/
def offsetFollows : List TbsCommit → Bool
  | [] => false
  | c :: cs => c.mode == 1 || (c.mode != 2 && offsetFollows cs)

/-- The commits of a boundary, in commit-tick order, on the reading of its first tick; `sum` is the offset that is still
to be applied: the rest of a slew that they ended, and the OFFSETs before (R264, R265, R268). -/
def adjust (b : List Byte × BitVec 64) : List TbsCommit → Int → State → State
  | [], _, s => s
  | c :: cs, sum, s =>
    match c.mode with
    | 0 => adjust b cs sum (answerIncr (setLast s 1) c)
    | 1 =>
      let sum := sum + c.offset
      adjust b cs sum (answerIncr (if offsetFollows cs then s else applyOffset s b sum) c)
    | 2 => adjust b cs 0 (answerIncr (setTime s b c) c)
    | 3 => adjust b cs sum (setEpoch s b c)
    | _ => adjust b cs sum s

/-- The parameters of a timebase commit. -/
def timebaseOf (c : Commit) : Option TbsCommit :=
  match c.what with
  | .timebase t => some t
  | _ => none

/-- Commits begin to act: a slew in progress ends, INCR is the new one; what is left is to move the reading and adjust
it (R259, R265). -/
def takeCommits (s : State) (cs : List TbsCommit) : State :=
  let s := setWord64 (endSlew s) 0x300038 (round s)
  { s with tbs := { s.tbs with incr := incrAfter s.tbs.incr cs } }

/-- A timebase commit in effect outside a tick's advance. -/
def timebaseEffect (s : State) (c : TbsCommit) : State :=
  adjust (stepBefore s (now s - 1) (s.tbs.last.toNat / 2 ^ 32)) [c] (slewRest s) (takeCommits s [c])

/-! ### The servo's changes of state (R261, R273) -/

/-- A commit of the servo's own. -/
def servoCommit (s : State) (mode : Nat) (incr : BitVec 48) (offset : Int) : State :=
  let c : TbsCommit := { mode := mode, incr := incr, offset := offset, sec := 0, ns := 0, frac := 0 }
  { s with commits := s.commits ++
    [{ blk := .tbs, fn := pf0, tick := now s, effect := effectRound (now s), writes := [],
       what := .timebase c }] }

/-- A change of the servo's state: its record and event. -/
def servoTo (s : State) (v : Nat) : State :=
  let s := setRf { s with tbs := { s.tbs with good := 0, bad := 0 } } 0x300004 2 0 v
  timebaseEvent (timebaseRecord (settleSteps s) tkReference s.tbs.offset) v tkReference

/-- Mean of the INCR values of the logged rounds of LOCKED (R273). -/
def meanIncr (s : State) : BitVec 48 :=
  let n := s.tbs.incrLog.foldl (fun a x => a + x.2) 0
  let sum := s.tbs.incrLog.foldl (fun a x => a + x.1.toNat * x.2) 0
  if n = 0 then s.tbs.incr else BitVec.ofNat 48 (sum / n)

/-- After a reset that keeps the timebase the servo starts again in HOLDOVER, committing the mean INCR, when it was
LOCKED, and in FREE_RUN otherwise (R261, R273). -/
def servoRestart (s : State) : State :=
  if servoState s = 2 then servoTo (servoCommit s 0 (meanIncr s) 0) 3
  else if servoState s = 0 then s else servoTo s 0

/-! ### The advance of a tick -/

/-- The timebase commits that take effect at this boundary. -/
def timebaseDue (s : State) : List Commit :=
  if now s % 256 ≠ 0 then []
  else s.commits.filter fun c => (timebaseOf c).isSome && decide (c.effect ≤ round s)

/-- The accumulator takes INCR, and the share of a slew (R258, R265). -/
def addIncrement (s : State) : State :=
  let t := s.tbs
  let s := { s with tbs := { t with last := t.acc, acc := t.acc + t.incr.zeroExtend 128 } }
  if t.slewLeft = 0 then s
  else
    let s := moveUnits s (t.slewPer + if t.slewLeft = 1 then t.slewRem else 0)
    { s with tbs := { s.tbs with slewLeft := t.slewLeft - 1 } }

/-- The advance into the first tick of a round from which timebase commits are in effect: they act on that tick, with
the new INCR and no share of an earlier slew (R264–R268). -/
def advanceWith (s : State) (due : List Commit) : State :=
  let cs := due.filterMap timebaseOf
  let b := stepBefore s (now s - 1) (fullUnits s)
  let rest := slewRest s
  let s := due.foldl applyWrites { s with commits := s.commits.filter fun c => !due.contains c }
  adjust b cs rest (addIncrement (takeCommits s cs))

/-! ### Readings of past ticks (R34, R262) -/

/-- Compact time at the start of the tick, in units of 2^-32 of a unit. -/
def compactFine (s : State) : BitVec 96 :=
  BitVec.ofNat 96 (s.tbs.acc.toNat + 2 ^ 128 - s.tbs.base.toNat * 2 ^ 32 % 2 ^ 96)

/-- What each further tick adds while INCR and the slew stay, in units of 2^-32 of a unit. -/
def tickRate (s : State) : Nat :=
  ((s.tbs.incr.toNat : Int) + if 1 < s.tbs.slewLeft then s.tbs.slewPer * (2 ^ 32 : Nat) else 0).toNat

/-- A run of readings foretells the reading of this tick. -/
def foretells (s : State) (r : Reading) : Bool :=
  r.acc + BitVec.ofNat 96 ((now s - r.tick) * r.rate) == compactFine s && r.parity == s.tbs.midnights.getLsbD 0

/-- The reading of this tick is kept: a new run begins when the last one does not give it. -/
def keepReading (s : State) : State :=
  if (s.tbs.past.head?.map (foretells s)).getD false then s
  else { s with tbs := { s.tbs with
    past := ⟨now s, compactFine s, tickRate s, s.tbs.midnights.getLsbD 0⟩ :: s.tbs.past } }

/-- The run of readings that a compact time lies in, newest first, and the tick that holds the time: the latest run that
began at or before it, up to the run's end. -/
def readingOf (t : BitVec 64) : List Reading → Nat → Option (Nat × Bool)
  | [], _ => none
  | r :: rs, last =>
    let x := (BitVec.ofNat 96 ((t.toNat + 1) * 2 ^ 32 - 1) - r.acc).toNat
    if x < 2 ^ 95 then some (min (r.tick + x / max 1 r.rate) last, r.parity)
    else match rs with
      | [] => some (r.tick, r.parity)
      | _ => readingOf t rs (r.tick - 1)

/-- The tick that holds a compact time of the past or of this tick (R34). -/
def tickOfTime (s : State) (t : BitVec 64) : Nat :=
  match readingOf t s.tbs.past (now s) with
  | some r => r.1
  | none => now s

/-- Parity of the Midnight count in force at such a time (R262). -/
def parityAt (s : State) (t : BitVec 64) : Bool :=
  match readingOf t s.tbs.past (now s) with
  | some r => r.2
  | none => s.tbs.midnights.getLsbD 0

/-- Runs of readings that ended 2^20 ticks ago and before are not needed. -/
def pruneReadings (s : State) : State :=
  let late := fun (r : Reading) => decide (now s ≤ r.tick + 2 ^ 20)
  { s with tbs := { s.tbs with past := s.tbs.past.takeWhile late ++ (s.tbs.past.dropWhile late).take 1 } }

/-- One tick's advance of the timebase (R258, R264). -/
def advanceTime (s : State) : State :=
  let due := timebaseDue s
  keepReading (if due.isEmpty then addIncrement s else advanceWith s due)

/-- Compact time at the start of the next tick. -/
def compactNext (s : State) : Nat := (compactNow (advanceTime { s with tick := s.tick + 1 })).toNat

end Sys2Proof.Machine
end

