-- ==== Sys2Proof/Machine/InBand.lean ====
section
/-! DEFINITION. In-band control: the control descriptors of a send ring, the tenancy overlay and the
completions (R68–R73). -/

namespace Sys2Proof.Machine

open Sys2Proof

/-- Operations of R69. -/
def opTableInsert : Nat := 0x01
def opTableUpdate : Nat := 0x02
def opTableDelete : Nat := 0x03
def opMeterSet : Nat := 0x10
def opMeterFill : Nat := 0x11
def opActionSet : Nat := 0x20
def opMark : Nat := 0x30

/-- Every operation of R69. -/
def controlOps : List Nat :=
  [opTableInsert, opTableUpdate, opTableDelete, opMeterSet, opMeterFill, opActionSet, opMark]

/-- OP of a control descriptor (R68). -/
def controlOp (d : List Byte) : Nat := descFld d 0 23 16

/-- Status and reason of a control descriptor's outcome (R70). -/
def ctlAccepted : Nat × Nat := (0, 0)
def ctlOwner : Nat × Nat := (1, rsTenancy)
def ctlFormat : Nat × Nat := (2, rsBadDescriptor)
def ctlLocked : Nat × Nat := (3, 0)
def ctlAbsent : Nat × Nat := (4, 0)
def ctlFull : Nat × Nat := (5, rsTableFull)
def ctlPlace : Nat × Nat := (6, rsInsertFailed)
def ctlDiscarded : Nat × Nat := (7, rsTargetReset)

/-- The control descriptor that a ring processes in this tick: the item that reaches the classifier
stage's place now (R70). -/
def controlItem (s : State) (r : Nat) (ops : List Nat) : Option (SendItem × List Byte) :=
  match (ring s r).items.find? fun i => i.stageAt == some (now s) && !i.processed with
  | none => none
  | some i =>
    match i.desc with
    | none => none
    | some d =>
      let op := controlOp d
      let mine := ops.contains op || (ops.contains opTableInsert && !controlOps.contains op)
      if descFld d 0 31 31 = 1 ∧ mine then some (i, d) else none

/-- A control descriptor's completion (R73). -/
def finishControl (s : State) (r : Nat) (i : SendItem) (o : Nat × Nat) (tick release : Nat) : State :=
  finishItem s r i.pos tick (plainCompletion i r 3 o.1 o.2 release)

/-- A refused control descriptor: its completion is written in the next tick (R70, R73). -/
def refuseControl (s : State) (r : Nat) (i : SendItem) (o : Nat × Nat) : State :=
  finishControl (count s (ibAddr (ringTenancy s r) 8)) r i o (now s + 1) (compactNext s)

/-- An accepted control descriptor: its change in the overlay, to take effect under R40 (R71). -/
def acceptControl (s : State) (r : Nat) (i : SendItem) (w : OverlayWhat) : State :=
  let t := ringTenancy s r
  let s := count s (ibAddr t 4)
  let s := setItem s r i.pos fun j => { j with processed := true }
  { s with overlays := s.overlays ++
    [⟨r, t, i.pos, now s, effectRound (now s), i.doorbell, ringCq s r, w, false⟩] }

/-- Reserved fields of a control descriptor are 0, and OPLEN is in range (R68, R70). -/
def controlFormat (d : List Byte) : Bool :=
  decide (descFld d 0 15 0 ≤ 256) && descFld d 0 30 24 == 0 && descFld d 4 31 24 == 0 &&
    controlOps.contains (controlOp d)

/-- A ring whose accepted changes are as many as R72 allows: its control descriptors, and what is queued behind them,
wait for another tick, and the stall is counted when it begins. -/
def holdBack (s : State) (r : Nat) : State :=
  let s := beginStall s r
  let v := ring s r
  putRing s r { v with
    lastStage := v.lastStage + 1
    items := v.items.map fun i => match i.stageAt with
      | some t => if now s ≤ t ∧ !i.processed then { i with stageAt := some (t + 1) } else i
      | none => i }

/-- One control descriptor processed: its format, then what `body` makes of it; only a MARK, which changes nothing, is
processed while the ring is held back (R70, R72). -/
def controlStep (r : Nat) (ops : List Nat)
    (body : State → SendItem → List Byte → List Byte → State) (s : State) : State :=
  match controlItem s r ops with
  | none => s
  | some (i, d) =>
    if !controlFormat d then refuseControl s r i ctlFormat
    else if inBandFull s r ∧ ops ≠ [opMark] then holdBack s r
    else body s i d (i.operand.getD [])

/-- The key, the value and the STATIC bit of an entry in a table's format: 8 bytes of metadata, of which an operand
gives STATIC alone, then the key and the value, in a block of up to ESIZE bytes; none: no such block (R69, R205,
R210). -/
def operandEntry (s : State) (rnd n : Nat) (bs : List Byte) : Option (List Byte × List Byte × Bool) :=
  let k := tblKeyBytes s rnd n
  let v := tblValueBytes s rnd n
  if bs.length < 8 + k + v ∨ 32 * 2 ^ rfAt s rnd (tblAddr n 0) 3 2 < bs.length then none
  else some (slice bs 8 k, slice bs (8 + k) v, bits (leAt bs 0 1) 1 1 == 1)

/-- The key of a TABLE_DELETE in a table's format: a block of up to 64 bytes; none: no such block (R69, R205). -/
def operandKey (s : State) (rnd n : Nat) (bs : List Byte) : Option (List Byte × List Byte × Bool) :=
  let k := tblKeyBytes s rnd n
  if bs.length < k ∨ 64 < bs.length then none else some (slice bs 0 k, [], false)

/-- The outcome of an update-engine resolution as R70 numbers it; an uncorrectable error of a bucket, for which R70 has
no status, counts as a placement that failed (DESIGN CHOICE). -/
def controlStatus (st : Nat) : Nat × Nat :=
  if st = tsAbsent then ctlAbsent
  else if st = tsFull then ctlFull
  else if st = tsPlaceFailed ∨ st = tsError then ctlPlace
  else ctlAccepted

/-- A table operation on a ring (R69, R70): `op` is 1 insert, 2 update, 3 delete. An insertion makes a static entry when
its metadata says so (R143), and one of a key that is present replaces its value. The format of the descriptor is
tested first, then the owner, the operand and the lock (DESIGN CHOICE: R70 gives no order). -/
def controlTable (r op : Nat) (s : State) : State :=
  controlStep r [op] (fun s i d bs =>
    let n := descFld d 4 23 0
    let t := ringTenancy s r
    if !tableOpen s i.round n t then refuseControl s r i ctlOwner
    else
      match (if op = opTableDelete then operandKey s i.round n bs else operandEntry s i.round n bs) with
      | none => refuseControl s r i ctlFormat
      | some (key, value, static) =>
        let part := partOf n t
        let locked := match findNow s n part key with | some e => e.lock | none => false
        if locked then refuseControl s r i ctlLocked
        else
          let by_ := Writer.inBand r i.pos
          let present := (pendingView s n part key).isSome
          let out := if op = opTableDelete then
              resolveChange s n part key .delete false by_ (now s) (effectRound (now s))
            else if op = opTableUpdate ∨ present then
              resolveChange s n part key (.update value none) false by_ (now s) (effectRound (now s))
            else resolveInsert s n part key value static by_ (now s) (effectRound (now s))
          if out.2 = tsOk then acceptControl out.1 r i .table
          else refuseControl out.1 r i (controlStatus out.2)) s

/-- METER_SET and METER_FILL (R69, R334). -/
def controlMeter (r : Nat) (fill : Bool) (s : State) : State :=
  controlStep r [if fill then opMeterFill else opMeterSet] (fun s i d _ =>
    let m := descFld d 4 23 0
    if 2 ^ 20 ≤ m ∨ !meterOwned s i.round (ringTenancy s r) m then refuseControl s r i ctlOwner
    else if fill then fillOverlay (acceptControl s r i (.meterFill m)) r m
    else
      let cir := leAt d 16 4
      let pir := leAt d 20 4
      if pir < cir then refuseControl s r i ctlFormat
      else fillOverlay (acceptControl s r i (.meter m cir pir (leAt d 24 4) (leAt d 28 4))) r m) s

/-- Values of an action record that R192 lists, for the fields whose action bits are set. -/
def actionListed (a : List Byte) : Bool :=
  let mk := leAt a 24 1
  bits (leAt a 0 2) 15 12 == 0 &&
    (!actBit a 3 || decide (leAt a 2 1 < 64)) &&
    (!actBit a 11 || decide (leAt a 3 1 < 16)) &&
    (!actBit a 4 || (decide (leAt a 8 1 ≤ 10) && decide (leAt a 36 4 < 2 ^ 19))) &&
    decide (leAt a 10 1 < 16) &&
    (!actBit a 5 || (decide (leAt a 11 1 < 2) && decide (leAt a 16 4 < 2 ^ 20))) &&
    (!actBit a 6 || decide (leAt a 20 4 < 2 ^ 24)) &&
    (!actBit a 7 || mk == dkRing || mk == dkPort || mk == dkFanout || mk == dkLedger) &&
    (!actBit a 8 || decide (leAt a 26 2 ≤ 16384)) &&
    (!actBit a 10 || decide (leAt a 32 4 < 2 ^ 18)) &&
    (!actBit a 2 || decide (1 ≤ leAt a 40 1 ∧ leAt a 40 1 ≤ 4)) &&
    (!actBit a 1 || (decide (1 ≤ leAt a 41 1 ∧ leAt a 41 1 ≤ 8) &&
      decide (leAt a 42 2 < 4096))) &&
    (!actBit a 0 || (decide (leAt a 48 1 < 64) && decide (1 ≤ leAt a 50 1 ∧ leAt a 50 1 ≤ 8)))

/-- ACTION_SET (R69, R192): the rule's action record, in the rule set of the ring's tenancy. A rule set or a rule that
does not exist is refused as one that the tenancy does not own (DESIGN CHOICE: R70 has no status for it). -/
def controlAction (r : Nat) (s : State) : State :=
  controlStep r [opActionSet] (fun s i d bs =>
    let num := descFld d 4 23 18
    let rule := descFld d 4 17 0
    let t := ringTenancy s r
    match ruleSetAt s i.round t num with
    | none => refuseControl s r i ctlOwner
    | some set =>
      if !(set.rules.any fun x => x.rule == rule) then refuseControl s r i ctlOwner
      else if bs.length ≠ 64 ∨ !actionListed bs then refuseControl s r i ctlFormat
      else if !actionOpen s i.round t
          (setDestination (setTag newTag 0 21 12 t) bs) bs then refuseControl s r i ctlOwner
      else acceptControl s r i (.action num rule bs)) s

/-- MARK: no change; it completes when every frame ahead of it has left (R69, R73). -/
def markStep (r : Nat) (s : State) : State :=
  controlStep r [opMark] (fun s i _ _ =>
    setItem (count s (ibAddr (ringTenancy s r) 4)) r i.pos fun j => { j with processed := true }) s

/-- Send descriptors ahead of a position that are not settled. -/
def framesAhead (s : State) (r pos : Nat) : Bool :=
  (ring s r).items.any fun i => before32 i.pos pos &&
    (match i.desc with | some d => descFld d 0 31 31 == 0 | none => true)

/-- MARK_COMPLETE: processed marks with no frame ahead of them complete (R73). -/
def markCompleteStep (r : Nat) (s : State) : State :=
  (ring s r).items.foldl (fun s i =>
    match i.desc with
    | some d =>
      if i.processed && controlOp d == opMark && !framesAhead s r i.pos then
        flushCompletions (finishControl s r i ctlAccepted (now s) (compactNow s).toNat)
      else s
    | none => s) s

/-- Meter parameters and action records of accepted in-band changes put in force at their boundary
(R71). -/
def applyOverlay (s : State) (o : Overlay) : State :=
  match o.what with
  | .meter m cir pir cbs pbs =>
    let s := setConfig (setConfig s (meterAddr m 0) (BitVec.ofNat 32 cir)) (meterAddr m 1)
      (BitVec.ofNat 32 pir)
    fillMeter (setConfig (setConfig s (meterAddr m 2) (BitVec.ofNat 32 cbs)) (meterAddr m 3)
      (BitVec.ofNat 32 pbs)) m
  | .meterFill m => fillMeter s m
  | .action num rule rec_ =>
    match ruleSetAt s (round s) o.tenancy num with
    | none => s
    | some set =>
      match set.rules.find? fun x => x.rule == rule with
      | none => s
      | some x => { s with ruleSets := s.ruleSets ++
          [{ set with round := round s, acts := set.acts.set x.act rec_ }] }
  | .table => s

/-- An in-band change that has taken effect completes in the first tick of its effect round (R73). -/
def completeOverlay (s : State) (o : Overlay) (out : Nat × Nat) : State :=
  match item? s o.ring o.pos with
  | some i => finishControl s o.ring i out (now s) (compactNow s).toNat
  | none => s

/-- The accepted meter and action changes that fall due at this boundary, and the completions of every
accepted change of the rings (R71, R73). -/
def overlaysDue (s : State) : State :=
  let due := s.overlays.filter fun o => !o.done && decide (o.effect ≤ round s)
  let s := due.foldl (fun s o => completeOverlay (applyOverlay s o) o ctlAccepted) s
  { s with overlays := s.overlays.map fun o =>
      if o.effect ≤ round s then { o with done := true } else o }

/-- As `overlaysDue`, the completions written in this tick (R73). -/
def settleOverlays (s : State) : State :=
  if s.overlays.any fun o => !o.done && decide (o.effect ≤ round s) then flushCompletions (overlaysDue s)
  else overlaysDue s

/-- TABLE_INSERT (R69, R70). -/
def execTableInsert (ring : Fin 65536) (s : State) : Out := act s (controlTable ring.val opTableInsert)
/-- TABLE_UPDATE (R69, R70). -/
def execTableUpdate (ring : Fin 65536) (s : State) : Out := act s (controlTable ring.val opTableUpdate)
/-- TABLE_DELETE (R69, R70). -/
def execTableDelete (ring : Fin 65536) (s : State) : Out := act s (controlTable ring.val opTableDelete)
/-- METER_SET (R69). -/
def execMeterSet (ring : Fin 65536) (s : State) : Out := act s (controlMeter ring.val false)
/-- METER_FILL (R69). -/
def execMeterFill (ring : Fin 65536) (s : State) : Out := act s (controlMeter ring.val true)
/-- ACTION_SET (R69). -/
def execActionSet (ring : Fin 65536) (s : State) : Out := act s (controlAction ring.val)
/-- MARK (R69). -/
def execMark (ring : Fin 65536) (s : State) : Out := act s (markStep ring.val)
/-- MARK_COMPLETE (R73). -/
def execMarkComplete (ring : Fin 65536) (s : State) : Out := act s (markCompleteStep ring.val)

end Sys2Proof.Machine
end

