-- ==== Sys2Proof/Machine/HostLink.lean ====
section
/-! DEFINITION. The host link: reads that end without their data, completions and tags, poisoned and
corrupt TLPs, link power and training, configuration writes, and peer windows (R386–R414). -/

namespace Sys2Proof.Machine

open Sys2Proof

/-! ### Failed reads (R401) -/

/-- A receive descriptor read that failed: tried once more after a round, and the second time the ring is
disabled (R401). -/
def failRxDesc (s : State) (r pos n : Nat) (retry : Bool) (reason : Nat) : State :=
  if retry then
    let tenancy := ringTenancy s r
    let s := event (stopRing s r) (match ringOwner s r with | some f => srcHost f.ep | none => 8) evState
      (detail r reason) tenancy reason
    putRing s r { ring s r with retry := [] }
  else
    let v := ring s r
    putRing s r { v with retry := v.retry ++ [(pos, n, some (now s + 256))] }

/-- A control descriptor whose operands did not arrive (R401). -/
def failOperand (s : State) (r pos reason : Nat) : State :=
  match item? s r pos with
  | none => s
  | some i => orderStages (refuseControl s r i (2, reason)) r

/-- A send descriptor whose bytes or data did not arrive: it completes without a frame (R401). -/
def failSend (s : State) (r pos reason : Nat) : State :=
  match item? s r pos with
  | none => s
  | some i => orderStages (endItem s r i 2 reason) r

/-- The read of a LOAD's image has failed (R401). -/
def failImage (s : State) (cls : Nat) : State :=
  { s with jobs := s.jobs.map fun j => if j.cls = cls ∧ j.len ≠ 0 ∧ !j.sent then { j with failed := true } else j }

/-- The operation that needed a read of `len` bytes fails under a reason (R401). -/
def failRead (s : State) (op : ReadOp) (len reason : Nat) : State :=
  match op with
  | .sendDesc r pos =>
    (List.range (len / 32)).foldl (fun s k => failSend s r ((pos + k) % 2 ^ 32) reason) s
  | .sendGather r pos => failSend (dropDelivered s op) r pos reason
  | .sendData r pos => failSend (dropDelivered s op) r pos reason
  | .operand r pos => failOperand (dropDelivered s op) r pos reason
  | .rxDesc r pos retry => failRxDesc s r pos (len / 32) retry reason
  | .image cls => failImage s cls

/-- A request of the endpoint under a tag. -/
def request? (s : State) (e : Endpoint) (tag : Nat) : Option Request := look (endpoint s e).requests tag

/-- A tag released; requests that wait are sent as far as they can be. -/
def releaseTag (s : State) (e : Endpoint) (tag : Nat) : State :=
  let v := endpoint s e
  issueReads (putEndpoint s e { v with requests := remove v.requests tag }) e

/-- A request kept under its tag. -/
def putRequest (s : State) (e : Endpoint) (tag : Nat) (q : Request) : State :=
  let v := endpoint s e
  putEndpoint s e { v with requests := place v.requests tag q }

/-- The function has not been reset since the request was sent (R27, R463). -/
def requestLive (s : State) (q : Request) : Bool := (fnState s q.fn).generation == q.generation

/-- The operation of a request fails, unless its function has been reset since. -/
def failRequest (s : State) (q : Request) (reason : Nat) : State :=
  if requestLive s q then failRead s q.op q.len reason else s

/-- An error of a function's request logged: AER, HLK_ERR_LOG and an event (R409, R413). -/
def logRequest (s : State) (e : Endpoint) (fn : FnId) (aer kind tag reason : Nat) : State :=
  let s := logHostError (aerLog s fn aer) e (routingId fn) kind tag
  hostErrorEvent s e (routingId fn) kind tag (fnTenancy s fn) reason

/-- COMPLETION_TIMEOUT: at a round boundary a request has been out for its timeout (R400, R401). -/
def completionTimeoutStep (e : Endpoint) (tag : Nat) (s : State) : State :=
  match request? s e tag with
  | none => s
  | some q =>
    if q.quarantined ∨ now s % 256 ≠ 0 ∨ round s < roundAfter q.sent q.timeout then s
    else
      let s := count s (hlkAddr e 0x10)
      let s := logRequest s e q.fn aerTimeout 6 tag rsTimeout
      failRequest (putRequest s e tag { q with quarantined := true }) q rsTimeout

/-- A completion that no live request expects: discarded and reported; its tag is released with the last
byte (R402). One for a function that has been reset since is only counted (R463, R464). -/
def unexpectedStep (e : Endpoint) (tag : Nat) (last : Bool) (s : State) : State :=
  match request? s e tag with
  | some q =>
    if !q.quarantined then s
    else if !requestLive s q then
      let s := count s 0x100030
      if last then releaseTag s e tag else s
    else
      let s := logRequest (count s (hlkAddr e 0x14)) e q.fn aerUnexpected 5 tag rsUnexpected
      if last then releaseTag s e tag else s
  | none => logRequest (count s (hlkAddr e 0x14)) e (pf0Of e) aerUnexpected 5 tag rsUnexpected

/-- A poisoned completion: the operation fails and the tag is released (R410). -/
def poisonedCompletion (s : State) (e : Endpoint) (tag : Nat) : State :=
  match request? s e tag with
  | none => s
  | some q =>
    if !requestLive s q then releaseTag (count s 0x100030) e tag
    else
    let s := logRequest (count s (hlkAddr e 0x1C)) e q.fn aerPoisoned 3 tag rsPoisoned
    let s := releaseTag s e tag
    if q.quarantined then s else failRequest s q rsPoisoned

/-- READ_COMPLETION: bytes of a request arrive, or its completion says that it failed (R400–R402,
R410). -/
def readCompletionStep (e : Endpoint) (tag : Nat) (data : List Byte) (last poisoned successful : Bool)
    (s : State) : State :=
  if (endpoint s e).down then s
  else match request? s e tag with
  | none => unexpectedStep e tag last s
  | some q =>
    if q.quarantined then unexpectedStep e tag last s
    else if poisoned then poisonedCompletion s e tag
    else if !successful then failRequest (releaseTag s e tag) q rsUnsupported
    else
      let q := { q with got := q.got ++ data }
      if !last then putRequest s e tag q
      else
        let s := if requestLive s q then
            { s with delivered := s.delivered ++ [(q.op, q.part, slice q.got 0 q.len)] } else s
        releaseTag s e tag

/-- TAG_QUARANTINE_END: twice the timeout has passed since transmission (R402). -/
def quarantineEndStep (e : Endpoint) (tag : Nat) (s : State) : State :=
  match request? s e tag with
  | none => s
  | some q =>
    if q.quarantined && decide (q.sent + 1 + 2 * q.timeout ≤ now s) then releaseTag s e tag else s

/-- RX_DESC_RETRY: failed descriptor reads of a ring are sent once more (R401). -/
def rxDescRetryStep (r : Nat) (s : State) : State :=
  match ringOwner s r with
  | none => s
  | some fn =>
    let v := ring s r
    let ready := fun (x : Nat × Nat × Option Nat) =>
      match x.2.2 with | some t => decide (t ≤ now s) | none => false
    let s := putRing s r { v with
      retry := v.retry.map fun x => if ready x then (x.1, x.2.1, none) else x }
    (v.retry.filter ready).foldl (fun s x =>
      askRead s fn (.rxDesc r x.1 true) (ringEntry s r x.1) (32 * x.2.1)) s

/-! ### Poisoned and corrupt TLPs (R409–R411) -/

/-- POISONED_TLP (R410). -/
def poisonedTlpStep (e : Endpoint) (k : PoisonKind) (s : State) : State :=
  match k with
  | .registerWrite fn off =>
    let s := logHostError (aerLog (count s (hlkAddr e 0x1C)) fn aerPoisoned) e (routingId fn) 3 off
    hostErrorEvent s e (routingId fn) 3 0 (fnTenancy s fn) rsPoisoned
  | .doorbell fn _ =>
    let s := countDrop (count s (hlkAddr e 0x1C)) (.tenancy (fnTenancy s fn)) rsPoisoned
    logRequest s e fn aerPoisoned 3 0 rsPoisoned
  | .peerWrite rid off =>
    let s := logHostError (aerLog (count s (hlkAddr e 0x1C)) (pf0Of e) aerPoisoned) e rid.toNat 3 off
    hostErrorEvent s e rid.toNat 3 0 0 rsPoisoned
  | .completion tag => poisonedCompletion s e tag

/-- ECRC_ERROR: the TLP is discarded; a non-posted request is completed with UR (R411). -/
def ecrcErrorStep (e : Endpoint) (k : EcrcKind) (s : State) : State :=
  if !(endpoint s e).ecrcCheck then s
  else
    let s := aerLog (count s (hlkAddr e 0x20)) (pf0Of e) aerEcrc
    match k with
    | .posted addr rid => hostErrorEvent (logHostError s e rid.toNat 4 addr.toNat) e rid.toNat 4 0 0 0
    | .nonPosted addr rid =>
      putTlp (hostErrorEvent (logHostError s e rid.toNat 4 addr.toNat) e rid.toNat 4 0 0 0) e
        (.unsupported rid)
    | .completion tag =>
      let rid := match request? s e tag with | some q => routingId q.fn | none => 0
      hostErrorEvent (logHostError s e rid 4 0) e rid 4 tag 0 0

/-- MALFORMED_TLP: discarded and reported in PF0 of the endpoint (R409). -/
def malformedStep (e : Endpoint) (s : State) : State :=
  hostErrorEvent (aerLog s (pf0Of e) aerMalformed) e 0 0 0 0 0

/-! ### Link state (R387, R398, R399) -/

/-- Trained width and width in force. -/
def linkWidth (s : State) (e : Endpoint) : Nat := rf s (hlkAddr e 0) 8 4
def widthNow (s : State) (e : Endpoint) : Nat := rf s (hlkAddr e 0) 15 11

/-- HOST_LINK_TRAINED (R387). -/
def hostLinkTrainedStep (e : Endpoint) (speed : BitVec 3) (width : BitVec 5) (flit : Bool)
    (s : State) : State :=
  if !(width == 1 || width == 2 || width == 4 || width == 8 || width == 16) || speed == 0 ||
      (e == .h1 && !s.power.h1Clock) then s
  else
    let a := hlkAddr e 0
    let s := setRf (setRf (setRf (setRf s a 0 0 1) a 3 1 speed.toNat) a 8 4 width.toNat) a 9 9 flit.toNat
    let s := setRf (setRf (setRf s a 10 10 0) a 15 11 width.toNat) a 16 16 0
    let s := putEndpoint s e { endpoint s e with down := false, askedWidth := 0 }
    event s (srcHost e) evLink (detail (Endpoint.num e) (word s a).toNat)

/-- L0P_ENTER: half the width in force is asked for after 64 µs of low utilisation, down to x4
(R398). -/
def l0pEnterStep (e : Endpoint) (utilisation : Nat) (s : State) : State :=
  let v := endpoint s e
  if v.down || !bit (word s (hlkAddr e 4)) 1 || v.strict || v.strictShown ||
      decide (25 < utilisation) || decide (widthNow s e ≤ 4) then s
  else count (putEndpoint s e { v with askedWidth := widthNow s e / 2 }) (hlkAddr e 0x2C)

/-- A frame bound for a ring of the endpoint is within 256 ticks of its due tick (R398). -/
def frameNears (s : State) (e : Endpoint) : Bool :=
  s.frames.any fun p =>
    p.2.stage == .held && decide (p.2.due ≤ now s + 256) &&
      (tagDestKind p.2.tag == dkRing || tagDestKind p.2.tag == dkException) &&
      (match ringOwner s (tagDest p.2.tag) with | some fn => fn.ep == e | none => false)

/-- FULL_WIDTH_REQUEST (R398). -/
def fullWidthStep (e : Endpoint) (writeWaits : Bool) (s : State) : State :=
  let v := endpoint s e
  if (writeWaits || frameNears s e) &&
      (decide (widthNow s e < linkWidth s e) || v.askedWidth != 0) then
    putEndpoint s e { v with askedWidth := linkWidth s e } else s

/-- LINK_WIDTH_CHANGE: the width in force changes (R398). -/
def widthChangeStep (e : Endpoint) (width : BitVec 5) (s : State) : State :=
  let v := endpoint s e
  if v.down || v.askedWidth != width.toNat || width == 0 then s
  else
    let a := hlkAddr e 0
    let s := setRf (setRf s a 10 10 (if width.toNat < linkWidth s e then 1 else 0)) a 15 11 width.toNat
    event (putEndpoint s e { v with askedWidth := 0 }) (srcHost e) evLink
      (detail (Endpoint.num e) (word s a).toNat)

/-- ASPM_L1_TRANSITION: L1 is entered only when the host has enabled it and it is advertised (R399). -/
def aspmStep (e : Endpoint) (enter : Bool) (s : State) : State :=
  let v := endpoint s e
  if v.down then s
  else if enter && ((fnState s (pf0Of e)).aspm == 0 || v.strictShown) then s
  else setRf s (hlkAddr e 0) 16 16 enter.toNat

/-! ### Configuration writes (R386, R412, R433) -/

/-- The nearest supported size at or below `n`: a power of two from `lo` to `hi`. -/
def sizeIn (lo hi n : Nat) : Nat :=
  if n < 2 * lo ∨ hi ≤ lo then lo else if hi ≤ n then hi else 2 ^ n.log2

/-- CONFIGURATION_WRITE: what a host's write to configuration space changes (R412). -/
def configurationStep (fn : FnId) (c : CfgChange) (s : State) : State :=
  let v := endpoint s fn.ep
  let f := fnState s fn
  if v.down || !fnExists s fn || f.dusk.isSome then s
  else match c with
  | .busMaster on => flushVectors (issueReads (putFn s fn { f with busMaster := on }) fn.ep) fn
  | .d3hot on => flushVectors (issueReads (putFn s fn { f with d3 := on }) fn.ep) fn
  | .relaxedOrdering on => putFn s fn { f with relaxed := on }
  | .idoRequest on => putFn s fn { f with ido := on }
  | .completionTimeout t =>
    let s := putFn s fn { f with timeout := t }
    if fn.fn = 0 then
      setWord s (hlkAddr fn.ep 0xC) (BitVec.ofNat 32 (if t = 0 then 10000 else t / 250)) else s
  | .maxPayload n => putFn s fn { f with maxPayload := sizeIn 128 1024 n }
  | .maxReadRequest n => putFn s fn { f with maxRead := sizeIn 128 4096 n }
  | .msixEnable on => flushVectors (putFn s fn { f with msix := on }) fn
  | .vectorMask k on =>
    let rest := f.masked.filter (· != k)
    flushVectors (putFn s fn { f with masked := if on then rest ++ [k] else rest }) fn
  | .romEnable on =>
    if 4 ≤ fn.fn.val then s
    else
      let rest := v.romEnabled.filter (· != fn.fn.val)
      putEndpoint s fn.ep { v with romEnabled := if on then rest ++ [fn.fn.val] else rest }
  | .ecrc g k =>
    if fn.fn = 0 then putEndpoint s fn.ep { v with ecrcGen := g, ecrcCheck := k } else s
  | .aspm l1 l11 l12 => putFn s fn { f with aspm := l1.toNat + 2 * l11.toNat + 4 * l12.toNat }
  | .memorySpace on => putFn s fn { f with memorySpace := on }

/-! ### Peer windows (R403–R408) -/

/-- Address of a peer-window register. -/
def pwnAddr (e : Endpoint) (w off : Nat) : Nat := 0x800000 + Endpoint.num e * 0x1000 + w * 0x20 + off

/-- First byte and byte count of a window in the aperture. -/
def pwnBase (s : State) (e : Endpoint) (w : Nat) : Nat := rf s (pwnAddr e w 4) 13 0 * 65536
def pwnSize (s : State) (e : Endpoint) (w : Nat) : Nat := rf s (pwnAddr e w 8) 14 0 * 65536

/-- A write of `len` bytes by a requester matches window `w` (R403). -/
def pwnMatches (s : State) (e : Endpoint) (w : Nat) (rid : BitVec 16) (off len : Nat) : Bool :=
  let r := word s (pwnAddr e w 0x10)
  let mask := BitVec.ofNat 16 (fld r 31 16)
  bit (word s (pwnAddr e w 0)) 0 && pwnSize s e w != 0 &&
    decide (pwnBase s e w ≤ off ∧ off + len ≤ pwnBase s e w + pwnSize s e w) &&
    (rid &&& mask) == (BitVec.ofNat 16 (fld r 15 0) &&& mask)

/-- The window that a write matches; H1's BAR4 matches nothing while MIRROR is 0 (R389, R403). -/
def peerWindow (s : State) (e : Endpoint) (rid : BitVec 16) (off len : Nat) : Option Nat :=
  if e = .h1 ∧ mirror s = 0 then none
  else (List.range 64).find? fun w => pwnMatches s e w rid off len

/-- Slot number of a window in the model's store, and its slot. -/
def slotKey (e : Endpoint) (w n : Nat) : Nat := (Endpoint.num e * 64 + w) * 65536 + n
def peerSlot (s : State) (k : Nat) : PeerSlot := (look s.peerSlots k).getD {}
def putSlot (s : State) (k : Nat) (v : PeerSlot) : State := { s with peerSlots := place s.peerSlots k v }

/-- A publish or write refused (R405). -/
def peerRefused (s : State) (e : Endpoint) (w : Nat) : State := count s (pwnAddr e w 0x18)

/-- The tag of a frame from a peer window at stage 1 (R58, R404). -/
def peerTag (s : State) (e : Endpoint) (w len : Nat) : Tag :=
  let t := setTag (setTag newTag 0 11 10 3) 0 9 0 (Endpoint.num e * 256 + w)
  let t := setTag t 0 21 12 (rf s (pwnAddr e w 0) 25 16)
  let c := (compactNow s).toNat
  let t := setTag64 (setTag64 t 1 c) 3 c
  let t := setFlag (setTag t 7 15 0 len) 26 (s.tbs.midnights.getLsbD 0)
  if rf s (pwnAddr e w 0) 2 1 = 2 then
    let g := rf s (pwnAddr e w 0xC) 7 0
    setTag (setTag (setTag t 8 31 24 dkSequence) 9 31 0 g) 12 7 0 g
  else t

/-- A publish: the frame of a slot, when every granule of it has been written (R405). -/
def peerPublishSlot (s : State) (e : Endpoint) (w k : Nat) (val : Nat) : State :=
  let v := peerSlot s k
  let n := val % 65536
  let whole := (List.range (ceilDiv n 64)).all v.marks.contains
  let s := putSlot s k { v with marks := [] }
  if val < 65536 ∧ 60 ≤ n ∧ n ≤ maxLength ∧ whole then
    let bs := (List.range n).map fun i => sparseGet (fun _ => 0) v.data i
    newFrame (count s (pwnAddr e w 0x14))
      { id := 0, stage := .whole, src := .peer e w, tag := peerTag s e w n, bytes := bs,
        endTick := now s, ingressTick := now s, wholeTick := now s, round := round s }
  else countDrop (peerRefused s e w) (.tenancy (rf s (pwnAddr e w 0) 25 16)) rsBadDescriptor

/-- Bytes of a slot written and their granules marked (R405). -/
def peerStore (v : PeerSlot) (o : Nat) (data : List Byte) : PeerSlot :=
  let d := data.zipIdx.foldl (fun d b => sparseSet (fun _ => (0 : Byte)) d (o + b.2) b.1) v.data
  let new := (List.range (ceilDiv (o % 64 + data.length) 64)).map (o / 64 + ·)
  { data := d, marks := (v.marks ++ new).eraseDups }

/-- A write into a LANDING or SEQUENCE window at window offset `x` (R405). -/
def landingWrite (s : State) (e : Endpoint) (w x : Nat) (data : List Byte) : State :=
  let o := x % 32768
  let k := slotKey e w (x / 32768)
  if o = 0x7FF8 ∧ data.length = 8 then peerPublishSlot s e w k (leNat data)
  else if 16380 < o + data.length then peerRefused s e w
  else putSlot s k (peerStore (peerSlot s k) o data)

/-- A posted write that matches no window (R407). -/
def peerUnmatched (s : State) (e : Endpoint) (rid : BitVec 16) (off : Nat) : State :=
  let s := count (count s (0x802008 + 4 * Endpoint.num e)) (hlkAddr e 0x18)
  let s := logHostError (aerLog s (pf0Of e) aerUnsupported) e rid.toNat 1 off
  hostErrorEvent (putTlp s e (.errorMessage aerUnsupported)) e rid.toNat 1 0 0 rsUnsupported

/-- A posted write to BAR4 (R403, R404). -/
def peerWrite (s : State) (e : Endpoint) (rid : BitVec 16) (off : Nat) (data : List Byte) : State :=
  if (endpoint s e).down ∨ data.isEmpty then s
  else match peerWindow s e rid off data.length with
  | none => peerUnmatched s e rid off
  | some w =>
    let x := off - pwnBase s e w
    if rf s (pwnAddr e w 0) 2 1 = 0 then
      let fn := fnOf (Endpoint.num e * 1024 + rf s (pwnAddr e w 0xC) 9 0)
      doorbellStep fn (x / 4096) (x % 4096) data.length (BitVec.ofNat 64 (leNat data)) s
    else landingWrite s e w x data

/-- PEER_UNMATCHED_WRITE (R407). -/
def peerUnmatchedStep (e : Endpoint) (rid : BitVec 16) (off len : Nat) (s : State) : State :=
  if (endpoint s e).down ∨ (peerWindow s e rid off len).isSome then s else peerUnmatched s e rid off

/-- BAR4_NON_POSTED: a completion with Unsupported Request, logged (R407). -/
def bar4Step (e : Endpoint) (rid : BitVec 16) (off : Nat) (s : State) : State :=
  if (endpoint s e).down then s
  else
    let s := count s (hlkAddr e 0x18)
    let s := logHostError (aerLog s (pf0Of e) aerUnsupported) e rid.toNat 2 off
    hostErrorEvent (putTlp s e (.unsupported rid)) e rid.toNat 2 0 0 rsUnsupported

/-! ### The peer-window commit (R406, R408) -/

/-- Every window, endpoint by endpoint. -/
def allWindows : List (Endpoint × Nat) :=
  (List.range 64).map (fun w => (Endpoint.h0, w)) ++ (List.range 64).map (fun w => (Endpoint.h1, w))

/-- A field of a window as the commit would leave it. -/
def pwnNew (s : State) (x : Endpoint × Nat) (off hi lo : Nat) : Nat :=
  shadowFld s .pwn pf0 (pwnAddr x.1 x.2 off) hi lo

/-- The window would be enabled, and its first and last unit. -/
def pwnOn (s : State) (x : Endpoint × Nat) : Bool := pwnNew s x 0 0 0 == 1 && pwnNew s x 8 14 0 != 0

/-- A window overlaps one of lower number, or reaches beyond the aperture (refusal 1 of R408). -/
def pwnOverlaps (s : State) (x : Endpoint × Nat) : Bool :=
  let b := pwnNew s x 4 13 0
  let e := b + pwnNew s x 8 14 0
  pwnOn s x && (decide (16384 < e) || (List.range x.2).any fun w =>
    let y := (x.1, w)
    let b2 := pwnNew s y 4 13 0
    pwnOn s y && decide (b < b2 + pwnNew s y 8 14 0 ∧ b2 < e))

/-- TARGET is not open to the window's tenancy (refusal 3 of R408). -/
def pwnTargetBad (s : State) (x : Endpoint × Nat) : Bool :=
  let t := pwnNew s x 0 25 16
  let g := pwnNew s x 0xC 9 0
  pwnOn s x &&
    (match pwnNew s x 0 2 1 with
      | 0 => fnTenancy s (fnOf (Endpoint.num x.1 * 1024 + g)) != t
      | 2 => decide (255 < g) || !groupOpen s (round s) t g
      | _ => false)

/-- Units of 64 KB that a LANDING or SEQUENCE window reserves. -/
def pwnSlots (s : State) (x : Endpoint × Nat) : Nat :=
  if pwnOn s x && (pwnNew s x 0 2 1 == 1 || pwnNew s x 0 2 1 == 2) then pwnNew s x 8 14 0 else 0

/-- The refusal of a commit with its window, lowest code first (R408). -/
def pwnRefusal (s : State) : Option (Nat × Endpoint × Nat) :=
  match allWindows.find? (pwnOverlaps s) with
  | some x => some (1, x)
  | none =>
    let past := allWindows.foldl (fun (a : Nat × Option (Endpoint × Nat)) x =>
      let n := a.1 + pwnSlots s x
      (n, if a.2.isNone && decide (64 < n) then some x else a.2)) (0, none)
    match past.2 with
    | some x => some (2, x)
    | none =>
      match allWindows.find? (pwnTargetBad s) with
      | some x => some (3, x)
      | none =>
        (allWindows.find? fun x => pwnNew s x 0 0 0 == 1 && pwnNew s x 0 2 1 == 3).map fun x => (4, x)

/-- PWN_COMMIT (R406, R408). -/
def pwnCommitStep (fn : FnId) (s : State) : State :=
  if fn ≠ pf0 then denied s fn 0x802000
  else match pwnRefusal s with
  | some (code, e, w) =>
    let s := setRf (setRf (setRefusal s 0x802004 code) 0x802004 21 16 w) 0x802004 22 22 (Endpoint.num e)
    event s (srcHost e) evCommit (detail w code)
  | none =>
    let s := setRf (setRf (setRefusal s 0x802004 0) 0x802004 21 16 0) 0x802004 22 22 0
    requestCommit s .pwn fn .regs

/-- A committed change of a window clears its slots when it changes BASE, SIZE, KIND or TENANCY of a
LANDING or SEQUENCE window, or its ENABLE goes to 0 (R406). `old` is the state before the commit. -/
def clearWindows (old s : State) : State :=
  allWindows.foldl (fun s x =>
    let a := fun (off : Nat) => pwnAddr x.1 x.2 off
    let k := rf old (a 0) 2 1
    let changed := fun (off hi lo : Nat) => rf old (a off) hi lo != rf s (a off) hi lo
    if (k == 1 || k == 2) && rf old (a 0) 0 0 == 1 &&
        (changed 0 2 0 || changed 0 25 16 || changed 4 13 0 || changed 8 14 0) then
      { s with peerSlots := s.peerSlots.filter fun p =>
          p.1 / 65536 != Endpoint.num x.1 * 64 + x.2 }
    else s) s

/-! ### Rows -/

/-- COMPLETION_TIMEOUT (R401). -/
def execCompletionTimeout (ep : Endpoint) (tag : Nat) (s : State) : Out :=
  act s (completionTimeoutStep ep tag)
/-- RX_DESC_RETRY (R401). -/
def execRxDescRetry (ring : Fin 65536) (s : State) : Out := act s (rxDescRetryStep ring.val)
/-- UNEXPECTED_COMPLETION (R402). -/
def execUnexpectedCompletion (ep : Endpoint) (tag : Nat) (last : Bool) (s : State) : Out :=
  act s (unexpectedStep ep tag last)
/-- READ_COMPLETION (R402). -/
def execReadCompletion (ep : Endpoint) (tag : Nat) (data : List Byte) (last poisoned successful : Bool)
    (s : State) : Out := act s (readCompletionStep ep tag data last poisoned successful)
/-- TAG_QUARANTINE_END (R402). -/
def execTagQuarantineEnd (ep : Endpoint) (tag : Nat) (s : State) : Out := act s (quarantineEndStep ep tag)
/-- POISONED_TLP (R410). -/
def execPoisonedTlp (ep : Endpoint) (kind : PoisonKind) (s : State) : Out :=
  act s (poisonedTlpStep ep kind)
/-- ECRC_ERROR (R411). -/
def execEcrcError (ep : Endpoint) (kind : EcrcKind) (s : State) : Out := act s (ecrcErrorStep ep kind)
/-- L0P_ENTER (R398). -/
def execL0pEnter (ep : Endpoint) (utilisationPercent : Nat) (s : State) : Out :=
  act s (l0pEnterStep ep utilisationPercent)
/-- FULL_WIDTH_REQUEST (R398). -/
def execFullWidthRequest (ep : Endpoint) (writeWaits : Bool) (s : State) : Out :=
  act s (fullWidthStep ep writeWaits)
/-- HOST_LINK_TRAINED (R387). -/
def execHostLinkTrained (ep : Endpoint) (speed : BitVec 3) (width : BitVec 5) (flit : Bool)
    (s : State) : Out := act s (hostLinkTrainedStep ep speed width flit)
/-- LINK_WIDTH_CHANGE (R398). -/
def execLinkWidthChange (ep : Endpoint) (width : BitVec 5) (s : State) : Out :=
  act s (widthChangeStep ep width)
/-- ASPM_L1_TRANSITION (R399). -/
def execAspmL1Transition (ep : Endpoint) (enter : Bool) (s : State) : Out := act s (aspmStep ep enter)
/-- CONFIGURATION_WRITE (R412). -/
def execConfigurationWrite (fn : FnId) (change : CfgChange) (s : State) : Out :=
  act s (configurationStep fn change)
/-- MALFORMED_TLP (R409). -/
def execMalformedTlp (ep : Endpoint) (s : State) : Out := act s (malformedStep ep)
/-- PEER_SLOT_WRITE (R405). -/
def execPeerSlotWrite (ep : Endpoint) (rid : BitVec 16) (off : Nat) (data : List Byte) (s : State) : Out :=
  act s fun s => peerWrite s ep rid off data
/-- PEER_PUBLISH (R405). -/
def execPeerPublish (ep : Endpoint) (rid : BitVec 16) (off : Nat) (val : BitVec 64) (s : State) : Out :=
  act s fun s => peerWrite s ep rid off (le 8 val.toNat)
/-- PEER_DOORBELL (R404). -/
def execPeerDoorbell (ep : Endpoint) (rid : BitVec 16) (off len : Nat) (val : BitVec 64) (s : State) :
    Out := act s fun s => peerWrite s ep rid off (le len val.toNat)
/-- PEER_UNMATCHED_WRITE (R407). -/
def execPeerUnmatchedWrite (ep : Endpoint) (rid : BitVec 16) (off len : Nat) (s : State) : Out :=
  act s (peerUnmatchedStep ep rid off len)
/-- BAR4_NON_POSTED (R407). -/
def execBar4NonPosted (ep : Endpoint) (rid : BitVec 16) (off : Nat) (s : State) : Out :=
  act s (bar4Step ep rid off)
/-- PWN_COMMIT (R406). -/
def execPwnCommit (fn : FnId) (s : State) : Out :=
  act s fun s => writeAs s fn 0x802000 (pwnCommitStep fn)

end Sys2Proof.Machine
end

