-- ==== Sys2Proof/Machine/RegMap.lean ====
section
/-! DEFINITION. The register map: which bits of which registers a write sets, for which functions, in
which shadow set, and under which lock (the register tables of R10–R12, R39, R447, R514). A register
whose write starts an action has a command of its own and no entry here. -/

namespace Sys2Proof.Machine

open Sys2Proof

/-- A writable field: its bits, the lock of R447 that guards it, the listed values and the rule that a
written word must meet (R12), and whether a 1 clears it. -/
structure RegFld where
  hi : Nat
  lo : Nat
  lock : Option Nat := none
  listed : Nat → Bool := fun _ => true
  rule : Nat → Bool := fun _ => true
  w1c : Bool := false

/-- A writable register: whether the function may write it, its shadow block, whether every function has
its own copy, and its fields. -/
structure RegSpec where
  may : Bool
  blk : Option Blk := none
  own : Bool := false
  flds : List RegFld

/-- Fields of the three plain kinds. -/
def rw (hi lo : Nat) : RegFld := { hi := hi, lo := lo }
def rwl (hi lo n : Nat) : RegFld := { hi := hi, lo := lo, lock := some n }
def rwIn (hi lo : Nat) (ok : Nat → Bool) : RegFld := { hi := hi, lo := lo, listed := fun w => ok (bits w hi lo) }

/-- Element and offset in it, of an array of registers. -/
def elem (a base count stride : Nat) : Option (Nat × Nat) :=
  if base ≤ a ∧ (a - base) / stride < count then some ((a - base) / stride, (a - base) % stride) else none

/-- The range of a TBL_FC_DEFAULT word lies in the tenancy's blocks and leaves out NONE (R234). -/
def fcDefaultOk (s : State) (t w : Nat) : Bool :=
  let b := bits w 11 0
  let n := bits w 16 12
  n == 0 || (decide (4096 * b + 2 ^ n ≤ 0xFFFFFF) &&
    (List.range (max 1 (2 ^ n / 4096))).all fun k => fcOwned s (round s) t (4096 * (b + k)))

/-- The tenancy in whose view a block lies, for a function's write (R391). -/
def inTenancy (s : State) (fn : FnId) (t : Nat) : Bool := platform s fn || fnTenancy s fn == t

/-! ### Host side: 0x0030_0000 to 0x0140_0000 -/

/-- The timebase (R280). -/
def regTimebase (s : State) (fn : FnId) (a : Nat) : Option RegSpec :=
  let may := platform s fn
  let at_ (fs : List RegFld) : Option RegSpec := some { may := may, flds := fs }
  let sh (fs : List RegFld) : Option RegSpec := some { may := may, blk := some .tbs, flds := fs }
  if a = 0x300000 then at_ [rw 0 0, rwIn 3 1 (· ≤ 5), rw 15 8, rw 31 16]
  else if a = 0x300008 ∨ a = 0x300010 ∨ a = 0x300014 ∨ a = 0x300020 ∨ a = 0x300028 then sh [rw 31 0]
  else if a = 0x30000C ∨ a = 0x300024 then sh [rw 15 0]
  else if a = 0x30002C then sh [rw 7 0]
  else if a = 0x30001C then sh [rwIn 2 0 (· ≤ 3), rw 11 8]
  else if a = 0x300018 then at_ [rw 31 0]
  else if a = 0x30007C then at_ [rwIn 31 0 fun v => decide ((BitVec.ofNat 32 v).toInt.natAbs ≤ 500000000)]
  else if a = 0x300078 then at_ [rw 15 0, rw 16 16, rw 17 17, rw 18 18, rw 19 19]
  else if a = 0x300080 then at_ [rwIn 18 0 (· ≤ 500000)]
  else if a = 0x300084 then at_ [rw 15 0]
  else match elem a 0x301000 16 16 with
    | some (_, o) => if o = 8 ∨ o = 12 then at_ [rw 31 0] else none
    | none => match elem a 0x302000 16 16 with
      | some (_, o) =>
        if o = 0 then at_ [rw 0 0, rw 1 1, rw 2 2, rw 3 3] else if o = 4 then at_ [rw 31 0] else none
      | none => none

/-- Sum of TOTAL_VFS with one register changed (R388). -/
def vfSum (s : State) (e : Endpoint) (j v : Nat) : Nat :=
  ((List.range 4).map fun k => if k = j then v else rf s (hlkAddr e (0x40 + 4 * k)) 9 0).foldl (· + ·) 0

/-- An MSI-X vector allocation within its limits that overlaps no other function's (R433). -/
def vecOk (s : State) (e : Endpoint) (f w : Nat) : Bool :=
  let b := bits w 15 0
  let c := bits w 27 16
  let clash := s.words.any fun p =>
    match elem p.1 (hlkAddr e 0x1000) 1024 4 with
    | some (g, _) => g != f && decide (0 < fld p.2 27 16) && decide (b < fld p.2 15 0 + fld p.2 27 16) &&
        decide (fld p.2 15 0 < b + c)
    | none => false
  let first := f != 0 && decide (b < rf s (hlkAddr e 0x1000) 15 0 + rf s (hlkAddr e 0x1000) 27 16) &&
    decide (rf s (hlkAddr e 0x1000) 15 0 < b + c)
  c == 0 || (decide (c ≤ if f < 4 then 2048 else 64) && decide (b + c ≤ 65536) && !clash && !first)

/-- The host link's registers of an endpoint (R413, R437). -/
def regHostLink (s : State) (fn : FnId) (e : Endpoint) (o : Nat) : Option RegSpec :=
  let at_ (fs : List RegFld) : Option RegSpec := some { may := fn == pf0, flds := fs }
  if o = 4 then
    at_ ([rw 0 0, rw 1 1] ++
      if e = .h1 then [{ hi := 3, lo := 2, lock := some 0, listed := fun w => bits w 3 2 != 3 }] else [])
  else if 0x40 ≤ o ∧ o < 0x50 ∧ o % 4 = 0 then
    at_ [{
      hi := 9, lo := 0, lock := some 0
      rule := fun w => decide (vfSum s e ((o - 0x40) / 4) (bits w 9 0) ≤ 1020) }]
  else match elem o 0x1000 1024 4 with
    | some (f, 0) => at_ [{ hi := 15, lo := 0, rule := vecOk s e f }, { hi := 27, lo := 16, rule := vecOk s e f }]
    | _ => none

/-- Peer windows (R414). -/
def regPeer (fn : FnId) (o : Nat) : Option RegSpec :=
  let sh (fs : List RegFld) : Option RegSpec := some { may := fn == pf0, blk := some .pwn, flds := fs }
  match o with
  | 0x00 => sh [rw 0 0, rwIn 2 1 (· ≤ 2), rwl 25 16 2]
  | 0x04 => sh [rw 13 0]
  | 0x08 => sh [rwIn 14 0 (· ≤ 16384)]
  | 0x0C => sh [rw 9 0]
  | 0x10 => sh [rw 15 0, rw 31 16]
  | _ => none

/-- A mailbox block, which only its own function writes (R475, R481). -/
def regMailbox (fn : FnId) (f o : Nat) : Option RegSpec :=
  let at_ (fs : List RegFld) : Option RegSpec := some { may := fnNum fn == f, flds := fs }
  if o = 0 then at_ [rw 9 0]
  else if o = 4 ∨ (8 ≤ o ∧ o ≤ 0x204 ∧ o % 4 = 0) then at_ [rw 31 0]
  else if o = 0x70C then at_ [rwIn 9 0 (· ≤ 1000)]
  else if o = 0x710 then at_ [rw 10 0, rw 15 15]
  else none

/-- A ring's block: its owner's, but for RNG_OWNER (R416, R436). RNG_CTRL has commands of its own. -/
def regRing (s : State) (fn : FnId) (r o : Nat) : Option RegSpec :=
  let off : Nat → Bool := fun _ => !ringEnabled s r
  let at_ (fs : List RegFld) : Option RegSpec :=
    some { may := platform s fn || ringOwner s r == some fn, flds := fs }
  match o with
  | 0x00 => some { may := fn == pf0, blk := some .ten, flds := [rwl 9 0 0, rwl 10 10 0, rwl 31 31 0] }
  | 0x08 => at_ [{ hi := 31, lo := 12, rule := off }]
  | 0x0C => at_ [{ hi := 31, lo := 0, rule := off }]
  | 0x10 => at_ (if ringKind s r = 3 then [] else [{ hi := 15, lo := 0, rule := off }])
  | 0x14 => at_ [{ hi := 4, lo := 0, rule := off, listed := fun w => decide (8 ≤ bits w 4 0 ∧ bits w 4 0 ≤ 16) },
      rw 15 8, rwIn 17 16 (· ≤ 2)]
  | 0x18 => at_ [rw 15 0]
  | 0x1C => at_ [rw 15 0, rw 23 16]
  | 0x20 => at_ [rw 10 0, rw 15 15]
  | _ => none

/-! ### Ports, classifier, tables: 0x0140_0000 to 0x01A0_0000 -/

/-- A port's block (R316). -/
def regPort (fn : FnId) (p o : Nat) : Option RegSpec :=
  let sh (fs : List RegFld) : Option RegSpec :=
    some { may := fn == pf0, blk := some (.macGrp (p / 4)), flds := fs }
  if o = 0 then sh [rw 0 0, rw 1 1, rwIn 3 2 (· ≤ 2), rwIn 5 4 (· ≤ 2), rw 6 6, rw 7 7, rwIn 9 8 (· ≤ 2),
    rwIn 11 10 (· ≤ 2)]
  else if o = 4 then sh [rwIn 14 0 fun v => decide (64 ≤ v ∧ v ≤ 16384)]
  else if o = 0xC then sh [rw 15 0, rw 16 16, rw 17 17]
  else if o = 0x10 then sh [rw 11 0, rw 13 12, rwIn 15 14 (· ≤ 2), rw 27 16, rw 28 28]
  else if o = 0x14 then sh [rw 15 0]
  else if o = 0x18 then sh [rw 7 0]
  else if o = 0x1C then sh [rw 0 0]
  else if 0x20 ≤ o ∧ o < 0xA0 then
    if o % 8 = 0 then sh [rw 31 0] else if o % 8 = 4 then sh [rw 15 0, rw 31 31] else none
  else if 0x100 ≤ o ∧ o < 0x180 then
    if o % 16 = 0 ∨ o % 16 = 4 then sh [rw 15 0] else if o % 16 = 8 then sh [rw 11 0] else none
  else none

/-- Ring `r` is owned by tenancy `t`; a ring that is not assigned is nobody's (R415). -/
def ringOwned (s : State) (t r : Nat) : Bool := (ringOwner s r).isSome && ringTenancy s r == t

/-- A pool entry may name a ring: one of the writer's groups holds the entry, and the ring is owned by that group's
tenancy; groups, ranges and owners as in force (R200). -/
def entryOk (s : State) (fn : FnId) (e ring : Nat) : Bool :=
  (groupsOfEntry s e).any fun g => fgOwner s g == fnTenancy s fn && ringOwned s (fgOwner s g) ring

/-- Tenancy of the source of binding `b`; none for a port (R179, R203). -/
def sourceTenancyOf (s : State) (b : Nat) : Option Nat :=
  if b < 16 then none
  else if b < 2064 then some (fnTenancy s (fnOf (b - 16)))
  else if b < 2128 then some (rf s (pwnAddr .h0 (b - 2064) 0) 25 16)
  else some (rf s (pwnAddr .h1 (b - 2128) 0) 25 16)

/-- A binding's default class is its source's tenancy's own or open to it (R179). -/
def bindClassOk (s : State) (b w : Nat) : Bool :=
  match sourceTenancyOf s b with
  | none => true
  | some t => classOpen s (round s) t (bits w 13 8) (pathNow s (bits w 13 8)).owner

/-- A binding's rule-set tenancy is its source's, or 0 (R179). -/
def bindRulesOk (s : State) (b w : Nat) : Bool :=
  match sourceTenancyOf s b with
  | none => true
  | some t => bits w 25 16 == 0 || bits w 25 16 == t

/-- The parser's and classifier's registers, in the writing function's shadow set (R202, R203). -/
def regClassifier (s : State) (fn : FnId) (a : Nat) : Option RegSpec :=
  let pf := platform s fn
  let sh (may : Bool) (fs : List RegFld) : Option RegSpec :=
    some { may := may, blk := some (.cls fn), flds := fs }
  match elem a 0x1600000 2192 0x10 with
  | some (b, 0) =>
    let ok := bindClassOk s b
    sh pf [{ hi := 5, lo := 0, rule := ok }, { hi := 13, lo := 8, rule := ok },
      { hi := 17, lo := 16, listed := fun w => decide (bits w 17 16 ≤ 2), rule := ok }]
  | some (b, 4) =>
    let ok := bindRulesOk s b
    sh pf [{ hi := 5, lo := 0, rule := ok }, { hi := 25, lo := 16, rule := ok }, { hi := 31, lo := 31, rule := ok }]
  | some (_, 8) => sh pf [rw 17 0]
  | some _ => none
  | none => match elem a 0x1610000 1024 0x20 with
    | some (t, 0) => sh (inTenancy s fn t) [rw 15 0, rw 31 31]
    | some (_, 4) => sh pf [rw 23 0]
    | some (_, 8) => sh pf [rw 15 0]
    | some _ => none
    | none => match elem a 0x1620000 64 0x40 with
      | some (c, o) => if o % 4 = 0 ∧ o ≤ 0x30 then sh (inTenancy s fn (pathNow s c).owner) [rw 31 0] else none
      | none => match elem a 0x1630000 4096 0x10 with
        | some (g, 0) => sh (inTenancy s fn (fgOwner s g)) [
            { hi := 15, lo := 0, rule := fun w => ringOwned s (fgOwner s g) (bits w 15 0) },
            { hi := 19, lo := 16,
              listed := fun w => bits w 19 16 == 0 || decide (4 ≤ bits w 19 16 ∧ bits w 19 16 ≤ 12),
              rule := fun w => bits w 19 16 == 0 ||
                shadowFld s (.cls fn) fn (0x1630004 + g * 0x10) 17 0 % 2 ^ bits w 19 16 == 0 }]
        | some (g, 4) => sh pf [{
            hi := 17, lo := 0,
            rule := fun w => shadowFld s (.cls fn) fn (0x1630000 + g * 0x10) 19 16 == 0 ||
              bits w 17 0 % 2 ^ shadowFld s (.cls fn) fn (0x1630000 + g * 0x10) 19 16 == 0 }]
        | some (_, 8) => sh pf [rwl 9 0 0]
        | some _ => none
        | none => match elem a 0x1640000 131072 4 with
          | some (k, 0) =>
            sh true [
              { hi := 15, lo := 0, rule := fun w => entryOk s fn (2 * k) (bits w 15 0) },
              { hi := 31, lo := 16, rule := fun w => entryOk s fn (2 * k + 1) (bits w 31 16) }]
          | some _ => none
          | none => match elem a 0x1700000 4096 0x100 with
            | some (k, o) =>
              let may := inTenancy s fn (rf s (0x1700000 + k * 0x100) 9 0)
              if o % 4 ≠ 0 then none
              else if o = 0 then sh may ([rw 15 15, rw 23 16, rwIn 31 24 fun v => decide (14 ≤ v ∧ v ≤ 176)] ++
                if pf then [rw 9 0] else [])
              else if o = 4 then sh may [rw 7 0, rw 15 8, rw 16 16, rw 17 17]
              else if o < 16 then none
              else sh may [rw 31 0]
            | none => none

/-- A partition lies within its table's region and overlaps no other partition of the table (R206). -/
def partitionOk (s : State) (fn : FnId) (n t base size : Nat) : Bool :=
  let b := Blk.tbl n
  size == 0 || (decide (base + 2 ^ size ≤ 2 ^ shadowFld s b fn (tblAddr n 4) 24 20) &&
    (List.range 1024).all fun u =>
      let z := shadowFld s b fn (partAddr n u 4) 4 0
      let o := shadowFld s b fn (partAddr n u 0) 27 0
      u == t || z == 0 || decide (base + 2 ^ size ≤ o) || decide (o + 2 ^ z ≤ base))

/-- Bit range of a partition's size (R206). -/
def regTables (s : State) (fn : FnId) (a : Nat) : Option RegSpec :=
  let pf := platform s fn
  let aux (fs : List RegFld) : Option RegSpec := some { may := pf, blk := some .tblAux, flds := fs }
  match elem a 0x1800000 72 0x80 with
  | some (n, o) =>
    let sh (fs : List RegFld) : Option RegSpec := some { may := pf, blk := some (.tbl n), flds := fs }
    match o with
    | 0x00 => sh [rwIn 1 0 (· ≤ 2), rwIn 3 2 (· ≤ 2), rw 4 4, rw 5 5, rw 12 6, rw 19 13, rw 27 20]
    | 0x04 => sh [rw 19 0, rw 24 20]
    | 0x08 => sh [rw 31 0]
    | 0x0C => sh [rw 31 0]
    | 0x10 => sh [rw 15 0, rw 23 16]
    | _ => none
  | none => match elem a 0x1810000 4096 0x10 with
    | some (_, 0) => aux [rwl 9 0 0, rw 21 16, rw 31 31]
    | some (_, 4) => aux [rw 11 0]
    | some _ => none
    | none => match elem a 0x1820000 2064 0x10 with
      | some (_, 0) => aux [rw 31 0]
      | some (_, 4) => aux [rw 0 0]
      | some _ => none
      | none => match elem a 0x1840000 65536 0x10 with
        | some (k, 0) =>
          let size := shadowFld s (.tbl (k / 1024)) fn (partAddr (k / 1024) (k % 1024) 4) 4 0
          let ok := fun (w : Nat) => partitionOk s fn (k / 1024) (k % 1024) (bits w 27 0) size
          some { may := pf, blk := some (.tbl (k / 1024)), flds := [{ hi := 27, lo := 0, lock := some 1, rule := ok }] }
        | some (k, 4) =>
          let base := shadowFld s (.tbl (k / 1024)) fn (partAddr (k / 1024) (k % 1024) 0) 27 0
          let ok := fun (w : Nat) => partitionOk s fn (k / 1024) (k % 1024) base (bits w 4 0)
          some { may := pf, blk := some (.tbl (k / 1024)), flds := [{
            hi := 4, lo := 0, lock := some 1, listed := fun w => decide (bits w 4 0 ≤ 28), rule := ok }] }
        | some _ => none
        | none => match elem a 0x1960000 2048 0x20 with
          | some (f, o) =>
            let own (fs : List RegFld) : Option RegSpec := some { may := pf || fnNum fn == f, flds := fs }
            if o = 0 ∨ o = 4 ∨ o = 8 ∨ o = 12 then own [rw 31 0]
            else if o = 16 then own [rwIn 12 0 (· ≤ 4096)]
            else none
          | none => match elem a 0x1980000 1024 4 with
            | some (t, 0) => aux [
                { hi := 11, lo := 0, rule := fcDefaultOk s t },
                { hi := 16, lo := 12, listed := fun w => decide (bits w 16 12 ≤ 24), rule := fcDefaultOk s t }]
            | some _ => none
            | none =>
              if a = 0x198200C then some { may := fn == pf0, flds := [rwIn 4 0 (· ≤ 16)] } else none

/-! ### Release, scheduler, encryption, services: 0x01A0_0000 to 0x0200_0000 -/

/-- A pool member may name its object for every list that holds it: a list of another tenancy than 0 names
only its own rings and queue nodes, or objects of tenancy 0 opened to it (R253). -/
def memberOk (s : State) (fn : FnId) (m kind target : Nat) : Bool :=
  if kind ≠ 1 ∧ kind ≠ 2 then true
  else (List.range 4096).all fun l =>
    let count := shadowFld s .seqFo fn (0x1A40000 + l * 0x10) 22 16
    let base := shadowFld s .seqFo fn (0x1A40004 + l * 0x10) 14 0
    let t := shadowFld s .seqFo fn (0x1A40000 + l * 0x10) 9 0
    t == 0 || decide (m < base ∨ base + count ≤ m) ||
      (if kind = 1 then ringOpen s (round s) t (target % 65536)
       else target / 16 / 32768 == target % 16 && queueTenancy s (round s) (target / 16) == t)

/-- Sequence groups and fan-out lists (R257). -/
def regRelease (s : State) (fn : FnId) (a : Nat) : Option RegSpec :=
  let pf := platform s fn
  let fo (fs : List RegFld) : Option RegSpec := some { may := pf, blk := some .seqFo, flds := fs }
  match elem a 0x1A20000 256 0x200 with
  | some (g, o) =>
    let sh (fs : List RegFld) : Option RegSpec := some { may := pf, blk := some (.seqGrp g), flds := fs }
    if o = 0 then sh [rw 0 0, rw 1 1, rw 13 8, rw 15 15, rwl 25 16 0]
    else if o = 4 then sh [rw 15 0]
    else if o = 0xC then sh [rwIn 15 0 fun v => decide (v ≤ 25000) || v == 0xFFFF]
    else if o = 8 then sh [rw 18 0]
    else if o = 0x10 then sh [rw 9 0]
    else if 0x100 ≤ o ∧ o % 4 = 0 then sh [rwIn 2 0 (· != 7), rw 31 16]
    else none
  | none => match elem a 0x1A40000 4096 0x10 with
    | some (l, 0) => fo [rwl 9 0 0, {
        hi := 22, lo := 16, listed := fun w => decide (bits w 22 16 ≤ 64),
        rule := fun w =>
          decide (bits w 22 16 + shadowFld s .seqFo fn (0x1A40004 + l * 0x10) 14 0 ≤ 32768) }]
    | some (l, 4) => fo [{
        hi := 14, lo := 0
        rule := fun w =>
          decide (bits w 14 0 + shadowFld s .seqFo fn (0x1A40000 + l * 0x10) 22 16 ≤ 32768) }]
    | some _ => none
    | none => match elem a 0x1A50000 32768 8 with
      | some (m, 0) =>
        let target := shadowFld s .seqFo fn (0x1A50004 + m * 8) 22 0
        fo [{
          hi := 7, lo := 0
          listed := fun w => bits w 7 0 == 0 || bits w 7 0 == 1 || bits w 7 0 == 2 || bits w 7 0 == 5
          rule := fun w => memberOk s fn m (bits w 7 0) target }]
      | some (m, 4) =>
        let kind := shadowFld s .seqFo fn (0x1A50000 + m * 8) 7 0
        fo [{ hi := 22, lo := 0, rule := fun w => memberOk s fn m kind (bits w 22 0) }]
      | _ => none

/-- The scheduler's window, port nodes and calendars (R336, R338). -/
def regScheduler (fn : FnId) (a : Nat) : Option RegSpec :=
  let win (fs : List RegFld) : Option RegSpec := some { may := true, own := true, flds := fs }
  let sh (fs : List RegFld) : Option RegSpec := some { may := fn == pf0, blk := some .sch, flds := fs }
  let slot (v : Nat) : Bool := decide (v < 1024) || v == 0x7FF
  if a = 0x1B00004 then win [{ hi := 1, lo := 1, w1c := true }]
  else if a = 0x1B00008 then win [rw 19 0, rwIn 27 24 fun v => v == 1 || v == 2 || v == 3 || v == 5]
  else if 0x1B00010 ≤ a ∧ a < 0x1B00020 then win [rw 31 0]
  else match elem a 0x1B01000 16 0x40 with
    | some (_, 0) => sh [rwIn 1 0 (· ≤ 2), rw 2 2]
    | some (_, 4) => sh [rw 31 0]
    | some (_, 8) => sh [rw 23 0]
    | some _ => none
    | none =>
      if 0x1B10000 ≤ a ∧ a < 0x1B30000 then sh [rwIn 10 0 slot, rwIn 26 16 slot] else none

/-- FC_SELECT is not set on a class whose program's budget is below 24 (R354). -/
def fcSelectOk (s : State) (c w : Nat) : Bool :=
  !bit (BitVec.ofNat 32 w) 0 || match (pathNow s c).program with
    | none => true
    | some p => decide (24 ≤ p.budget)

/-- The encryption window, MACsec ports, SA owners and path-class selectors (R355). -/
def regCrypto (s : State) (fn : FnId) (a : Nat) : Option RegSpec :=
  let win (fs : List RegFld) : Option RegSpec := some { may := true, own := true, flds := fs }
  let sh (fs : List RegFld) : Option RegSpec := some { may := fn == pf0, blk := some (.cry fn), flds := fs }
  if a = 0x1C00004 then win [{ hi := 1, lo := 1, w1c := true }]
  else if a = 0x1C00008 then win [rw 17 0]
  else if 0x1C00010 ≤ a ∧ a < 0x1C00050 then win [rw 31 0]
  else match elem a 0x1C10000 16 0x800 with
    | some (_, o) =>
      if o = 0 then sh [rwIn 1 0 (· ≤ 1), rw 2 2, rw 3 3, rw 5 4]
      else if 0x100 ≤ o ∧ o < 0x500 then
        if o % 16 = 8 then sh [rw 0 0, rw 1 1]
        else if o % 16 = 12 then sh [rw 15 0, rw 31 16]
        else sh [rw 31 0]
      else if 0x700 ≤ o then sh [rw 15 0, rw 31 16]
      else none
    | none => match elem a 0x1C20000 1024 4 with
      | some (_, 0) => some { may := fn == pf0, blk := some .ten, flds := [rwl 9 0 3] }
      | some _ => none
      | none => match elem a 0x1C30000 64 4 with
        | some (c, 0) => sh [{ hi := 0, lo := 0, rule := fcSelectOk s c }]
        | _ => none

/-- Storage controllers, namespaces and targets, the TCP window and the classes' feeds (R384). -/
def regServices (s : State) (fn : FnId) (a : Nat) : Option RegSpec :=
  let sh (fs : List RegFld) : Option RegSpec := some { may := fn == pf0, blk := some .sto, flds := fs }
  let win (fs : List RegFld) : Option RegSpec := some { may := true, own := true, flds := fs }
  match elem a 0x1E00000 1024 0x40 with
  | some (_, 0) => sh [rw 10 0, rwl 25 16 0, rw 31 31]
  | some (_, 4) => sh [rw 12 0]
  | some (_, 8) => sh [rw 15 0, rw 31 16]
  | some _ => none
  | none => match elem a 0x1E10000 16384 0x20 with
    | some (_, 0) => sh [rw 11 0, rw 12 12, rwIn 14 13 (· ≤ 2), rw 31 31]
    | some (_, o) => if o % 4 = 0 ∧ o ≤ 0x14 then sh [rw 31 0] else none
    | none => match elem a 0x1EA0000 4096 0x40 with
      | some (_, 0) => sh [rwl 9 0 0, rwIn 15 12 fun v => decide (1 ≤ v ∧ v ≤ 8), rw 16 16, rw 17 17,
          rwIn 21 18 (· ≤ 8)]
      | some (_, o) => if o % 4 = 0 ∧ o ≤ 0x24 then sh [rw 17 0] else none
      | none =>
        if a = 0x1EF0000 ∨ a = 0x1EF0004 then win [rw 31 0]
        else if a = 0x1EF0010 then win [rw 15 0, rw 31 16]
        else match elem a 0x1F40000 64 4 with
          | some (_, 0) => some { may := platform s fn, flds := [rw 17 0] }
          | _ => none

/-! ### Clusters, ledger, tenancies: 0x0200_0000 and above -/

/-- A cluster's registers (R83, R104, R440). -/
def regCluster (fn : FnId) (n o : Nat) : Option RegSpec :=
  let ten (fs : List RegFld) : Option RegSpec := some { may := fn == pf0, blk := some .ten, flds := fs }
  if o = 4 then some { may := fn == pf0, blk := some (.clu n), flds := [rw 15 0] }
  else if 0x100 ≤ o ∧ o < 0x300 ∧ o % 4 = 0 then ten [rwl 9 0 1]
  else if 0x300 ≤ o ∧ o < 0x380 then
    if o % 8 = 0 then ten [rwl 9 0 1]
    else if o % 8 = 4 then
      let ok := fun (w : Nat) => decide (bits w 5 0 + bits w 13 8 ≤ 56)
      ten [{ hi := 5, lo := 0, lock := some 1, rule := ok }, { hi := 13, lo := 8, lock := some 1, rule := ok }]
    else none
  else none

/-- The capture ledger (R292, R298). LDG_CTRL has commands of its own. -/
def regLedger (s : State) (fn : FnId) (a : Nat) : Option RegSpec :=
  let at_ (fs : List RegFld) : Option RegSpec := some { may := platform s fn, flds := fs }
  let map (hi lo : Nat) : RegFld :=
    { hi := hi, lo := lo, lock := some 6, rule := fun _ => !bit (word s 0x4000000) 0 }
  if a = 0x4000038 then at_ [rw 15 0, rw 31 31]
  else if a = 0x4000040 then at_ [rwl 0 0 6]
  else if a = 0x4000054 then at_ [rw 15 0]
  else match elem a 0x4000100 8 0x20 with
    | some (_, o) =>
      if o = 0 then at_ [map 0 0, map 31 16] else if o % 4 = 0 ∧ o ≤ 0x10 then at_ [map 31 0] else none
    | none => match elem a 0x4001000 1024 0x10 with
      | some (_, 0) => at_ [rw 31 0]
      | some (_, 4) => at_ [rwIn 14 0 (· ≤ 16384)]
      | _ => none

/-- The tenancy table, the block owners and the program-key registry (R168, R440, R441). -/
def regTenancy (s : State) (fn : FnId) (a : Nat) : Option RegSpec :=
  let sh (fs : List RegFld) : Option RegSpec := some { may := fn == pf0, blk := some .ten, flds := fs }
  let lim (hi lo : Nat) (ok : Nat → Bool) : RegFld := { hi := hi, lo := lo, lock := some 0, listed := ok }
  match elem a 0x6000000 1024 0x40 with
  | some (t, o) =>
    if o % 4 ≠ 0 then none
    else if o ≤ 0x24 then sh [rwl 31 0 0]
    else if o = 0x28 then sh [lim 15 0 fun w =>
      decide (bits w 15 0 + shadowFld s .ten fn (0x600002C + t * 0x40) 16 0 ≤ 65536)]
    else if o = 0x2C then sh [lim 16 0 fun w =>
      decide (shadowFld s .ten fn (0x6000028 + t * 0x40) 15 0 + bits w 16 0 ≤ 65536)]
    else if o = 0x30 then
      let ok (w : Nat) : Bool := decide (bits w 11 0 + bits w 24 12 ≤ 4096)
      sh [lim 11 0 ok, lim 24 12 ok]
    else none
  | none => match elem a 0x6010000 2048 4 with
    | some (f, 0) => if f = 0 ∨ f = 1024 then none else sh [rwl 9 0 0]
    | some _ => none
    | none =>
      if 0x6020000 ≤ a ∧ a < 0x6029400 then sh [rwl 9 0 0]
      else match elem a 0x6080000 2048 0x80 with
        | some (_, o) =>
          let key (fs : List RegFld) : Option RegSpec := some { may := fn == pf0, flds := fs }
          if o = 0 then key [rwl 9 0 4, rwl 31 31 4]
          else if 0x20 ≤ o ∧ o % 4 = 0 then key [rwl 31 0 4]
          else none
        | none => none

/-- The register at an offset of the Device Control Space that a write sets; none: no such register, a
read-only one, or one whose write is a command of its own. -/
def regSpec (s : State) (fn : FnId) (a : Nat) : Option RegSpec :=
  if a % 4 ≠ 0 then none
  else if a < 0x300000 then none
  else if a < 0x400000 then regTimebase s fn a
  else if a < 0x500000 then
    if a = 0x410000 then some { may := true, own := true, flds := [rw 31 0] }
    else if a = 0x410008 then some { may := true, own := true, flds := [{ hi := 8, lo := 8, w1c := true }] }
    else if a = 0x410010 then some {
      may := true, own := true, flds := if fn = pf0 ∨ (fn = pf0h1 ∧ mirror s ≠ 0) then [rw 0 0] else [] }
    else none
  else if a < 0x600000 then
    match elem a 0x502000 17 4 with
    | some (_, 0) => some { may := platform s fn, flds := [rwIn 9 0 (· ≤ 1000)] }
    | _ => none
  else if a < 0x700000 then regHostLink s fn .h0 (a - 0x600000)
  else if a < 0x800000 then regHostLink s fn .h1 (a - 0x700000)
  else if a < 0x802000 then
    (if (a - 0x800000) % 0x1000 < 0x800 then regPeer fn ((a - 0x800000) % 0x20) else none)
  else if a < 0x900000 then none
  else if a < 0xD00000 then regMailbox fn ((a - 0x900000) / 0x800) ((a - 0x900000) % 0x800)
  else if a < 0x1000000 then none
  else if a < 0x1400000 then regRing s fn ((a - 0x1000000) / 0x40) ((a - 0x1000000) % 0x40)
  else if a < 0x1410000 then regPort fn ((a - 0x1400000) / 0x1000) ((a - 0x1400000) % 0x1000)
  else if a < 0x1410100 then
    (if a % 0x40 = 0 then
      some { may := fn == pf0, blk := some (.macGrp ((a - 0x1410000) / 0x40)), flds := [rw 2 0] } else none)
  else if a < 0x1600000 then none
  else if a < 0x1800000 then regClassifier s fn a
  else if a < 0x1A00000 then regTables s fn a
  else if a < 0x1B00000 then regRelease s fn a
  else if a < 0x1C00000 then regScheduler fn a
  else if a < 0x1D00000 then regCrypto s fn a
  else if a < 0x2000000 then regServices s fn a
  else if a < 0x3100000 then regCluster fn ((a - 0x2000000) / 0x100000) ((a - 0x2000000) % 0x100000)
  else if a < 0x4000000 then none
  else if a < 0x5000000 then regLedger s fn a
  else if a < 0x6000000 then none
  else regTenancy s fn a

/-- The bits of a register that lock `n` guards (R447). -/
def guardedMask (s : State) (n a : Nat) : Word :=
  match regSpec s pf0 a with
  | none => 0
  | some r => r.flds.foldl (fun m f => if f.lock = some n then m ||| maskOf f.hi f.lo else m) 0

end Sys2Proof.Machine
end

