-- ==== Sys2Proof/Machine/Dma.lean ====
section
/-! DEFINITION. The DMA table access engine, the learning engine, aging, lost buckets, and the coming into
effect of table changes at a round boundary (R74, R208, R216, R219–R235). -/

namespace Sys2Proof.Machine

open Sys2Proof

/-- The reason code of a read that ended without its data (R400, R401). -/
def failReason : ReadFail → Nat
  | .timeout => rsTimeout
  | .poisoned => rsPoisoned
  | .unsupported => rsUnsupported

/-! ### Lists of commands (R219–R222) -/

/-- Address of a register of a function's DMA block (R236). -/
def dmaAddr (fn : FnId) (off : Nat) : Nat := 0x1960000 + fnNum fn * 0x20 + off

def dmaQueue (s : State) (fn : FnId) : DmaQueue := (look s.dma (fnNum fn)).getD {}
def putDma (s : State) (fn : FnId) (q : DmaQueue) : State := { s with dma := place s.dma (fnNum fn) q }

/-- Result statuses of R223. -/
def dsOk : Nat := 0
def dsAbsent : Nat := 1
def dsExists : Nat := 2
def dsFull : Nat := 3
def dsPlaceFailed : Nat := 4
def dsAlreadyLocked : Nat := 5
def dsNotLocked : Nat := 6
def dsNotOpen : Nat := 7
def dsBadCommand : Nat := 8
def dsError : Nat := 9
def dsEmptySlot : Nat := 10
def dsDiscarded : Nat := 11

/-- The status of an update-engine outcome. -/
def dmaStatus (st : Nat) : Nat :=
  if st = tsOk then dsOk
  else if st = tsAbsent then dsAbsent
  else if st = tsExists then dsExists
  else if st = tsFull then dsFull
  else if st = tsPlaceFailed then dsPlaceFailed
  else dsError

/-- STATE of a block: 0 idle, 1 busy, 2 done, 3 failed; with REASON and DONE. -/
def setDmaStatus (s : State) (fn : FnId) (state reason done : Nat) : State :=
  setRf (setRf (setRf s (dmaAddr fn 0x18) 1 0 state) (dmaAddr fn 0x18) 15 8 reason)
    (dmaAddr fn 0x18) 28 16 done

/-- TBL_DMA_GO (R219). -/
def tblDmaGoStep (fn : FnId) (s : State) : State :=
  if (dmaQueue s fn).busy then ignored s fn (dmaAddr fn 0x14) 5
  else if rf s (dmaAddr fn 0x10) 12 0 = 0 then setDmaStatus s fn 2 0 0
  else putDma (setDmaStatus s fn 1 0 0) fn { busy := true }

/-- DMA_LIST_FETCHED: the whole list and its operand blocks are in the engine, or a read failed
(R219). -/
def dmaListFetchedStep (fn : FnId) (list : List (List Byte × List Byte)) (fail : Option ReadFail)
    (s : State) : State :=
  let q := dmaQueue s fn
  if !q.busy || q.fetched || !mayRequest s fn then s
  else match fail with
    | some f => putDma (setDmaStatus s fn 3 (failReason f) 0) fn {}
    | none =>
      if list.length ≠ rf s (dmaAddr fn 0x10) 12 0 then s
      else putDma s fn { q with list := list, fetched := true, resolved := now s }

/-- OP, TARGET and INDEX of a command. -/
def dmaOp (c : List Byte) : Nat := leAt c 0 1
def dmaTarget (c : List Byte) : Nat := leAt c 2 2
def dmaIndex (c : List Byte) : Nat := leAt c 4 4

/-- The values of OP that R220 lists, and those that name a table. -/
def dmaOps : List Nat := [1, 2, 3, 4, 5, 6, 7, 8, 0x10, 0x11, 0x18, 0x19]

/-- The partition's slots, for the range of SCAN's INDEX. -/
def scanSlots (s : State) (n part : Nat) : Nat := 2 ^ (partRange s n part).2 * bucketSlots n 0

/-- A command holds a reserved value (R220, R223). -/
def dmaBad (c : List Byte) : Bool :=
  let op := dmaOp c
  !dmaOps.contains op || decide (2 ≤ leAt c 1 1) || leNat (slice c 16 16) != 0 ||
    (decide (op ≤ 8) && decide (72 ≤ dmaTarget c)) ||
    (decide (0x10 ≤ op) && (decide (256 ≤ dmaTarget c) || decide (2 ^ 24 ≤ dmaIndex c)))

/-- A SCAN's INDEX lies past the slots of its partition (R220, R223). -/
def scanBeyond (s : State) (part : Nat) (c : List Byte) : Bool :=
  dmaOp c == 8 && decide (scanSlots s (dmaTarget c) part ≤ dmaIndex c)

/-- A command names an object that the function's tenancy may reach (R222). -/
def dmaOpen (s : State) (fn : FnId) (c : List Byte) : Bool :=
  let t := fnTenancy s fn
  let r := round s
  if dmaOp c ≤ 8 then
    tableOpen s r (dmaTarget c) t && (!isPinned (dmaTarget c) || fn == pf0)
  else if dmaOp c < 0x18 then fcOwned s r t (dmaIndex c)
  else ctrOwned s r t (dmaIndex c)

/-- A round that no boundary reaches: the effect round of a change whose list is not resolved yet. -/
def noRound : Nat := 2 ^ 80

/-- One table command resolved: the state and its status (R221). -/
def dmaResolveTable (s : State) (fn : FnId) (k : Nat) (c bs : List Byte) : State × Nat :=
  let n := dmaTarget c
  let t := fnTenancy s fn
  let r := round s
  let part := partOf n t
  let key := slice bs 0 (tblKeyBytes s r n)
  let value := slice bs 64 (tblValueBytes s r n)
  let st := leAt c 1 1 == 1
  let by_ := Writer.dma fn k
  let view := pendingView s n part key
  let change := fun (op : ChangeOp) =>
    let x := resolveChange s n part key op false by_ (now s) noRound
    (x.1, dmaStatus x.2)
  let unlocking := fun (op : ChangeOp) =>
    match view with
    | some v => if v.2.2 then change op else (s, dsNotLocked)
    | none => (s, dsAbsent)
  if 4 ≤ dmaOp c ∧ dmaOp c ≤ 7 ∧ keyBad s n part key then (s, dsError)
  else match dmaOp c with
  | 1 => let x := resolveInsert s n part key value st by_ (now s) noRound; (x.1, dmaStatus x.2)
  | 2 => change (.update value (some st))
  | 3 => change .delete
  | 4 => (s, if view.isSome then dsOk else dsAbsent)
  | 5 =>
    (match view with
      | some v => if v.2.2 then (s, dsAlreadyLocked) else change .setLock
      | none => (s, dsAbsent))
  | 6 => unlocking (.writeUnlock value)
  | 7 => unlocking .unlock
  | _ => (s, dsOk)

/-- One command resolved: its reserved values are tested first, then what the tenancy may reach, and in a partition
that it may reach the range of a SCAN (R221, R222; DESIGN CHOICE: the order of the first two). -/
def dmaResolve (s : State) (fn : FnId) (k : Nat) (c bs : List Byte) : State × Nat :=
  let t := fnTenancy s fn
  if dmaBad c then (countDrop s (.tenancy t) rsBadDescriptor, dsBadCommand)
  else if !dmaOpen s fn c then (countDrop s (.tenancy t) rsTenancy, dsNotOpen)
  else if scanBeyond s (partOf (dmaTarget c) t) c then (countDrop s (.tenancy t) rsBadDescriptor, dsBadCommand)
  else if dmaOp c ≤ 8 then dmaResolveTable s fn k c bs
  else (s, dsOk)

/-- The next command of a function's list resolved when its OP is one of `ops`; the last one fixes the
list's commit tick and effect round (R221). -/
def dmaCommand (fn : FnId) (ops : Nat → Bool) (s : State) : State :=
  let q := dmaQueue s fn
  if !q.fetched || decide (now s ≤ q.resolved) then s
  else match q.list[q.next]? with
    | none => s
    | some (c, bs) =>
      if !ops (dmaOp c) then s
      else
        let x := dmaResolve s fn q.next c bs
        let q := { q with next := q.next + 1, results := q.results ++ [(x.2, 0, [])], resolved := now s }
        if q.next < q.list.length then putDma x.1 fn q
        else
          let e := effectRound (now s)
          let mine := fun (c : Change) => match c.by_ with | .dma f _ => f == fn | _ => false
          let s := putDma x.1 fn { q with effect := e }
          { s with changes := s.changes.map fun c =>
              if mine c && c.effect == noRound then { c with tick := now s, effect := e } else c }

/-! ### Results (R223) -/

/-- Bytes and flags of an entry, as a result shows them. -/
def entryResult (e : Entry) : Nat × List Byte :=
  ((if e.static then 1 else 0) + (if e.lock then 2 else 0), slice e.key 0 64 ++ slice e.value 0 64)

/-- The entry in slot INDEX of a partition (R220). -/
def scanEntry (s : State) (n part index : Nat) : Option Entry :=
  let b := (partRange s n part).1 + index / bucketSlots n 0
  s.entries.find? fun e => e.table == n && e.part == part && inForce e && e.bucket == b &&
    e.slot == index % bucketSlots n 0

/-- One command of a list comes into effect, in list order: its change, and what it returns: the entry as it then
stands, ABSENT where a change that the command was resolved against has still to come (R74, R221). -/
def dmaApply (s : State) (fn : FnId) (k : Nat) (c bs : List Byte) (st : Nat × Nat × List Byte) :
    State × (Nat × Nat × List Byte) :=
  let n := dmaTarget c
  let part := partOf n (fnTenancy s fn)
  let key := slice bs 0 (tblKeyBytes s (round s) n)
  let i := dmaIndex c
  let s := match s.changes.find? fun x => x.by_ == .dma fn k with
    | some x => applyChange s x (round s)
    | none => s
  let returned := if keyBad s n part key then (dsError, (0, []))
    else match findNow s n part key with
      | some e => (st.1, entryResult e)
      | none => (dsAbsent, (0, []))
  if st.1 ≠ dsOk ∧ st.1 ≠ dsAlreadyLocked then (s, st)
  else match dmaOp c with
    | 4 => (s, returned)
    | 5 => (s, returned)
    | 8 =>
      (match scanEntry s n part i with
        | some e => (s, if bucketBad s n e.bucket then (dsError, 0, []) else (dsOk, entryResult e))
        | none => (s, (dsEmptySlot, 0, [])))
    | 0x10 =>
      if memError s (fcAddr i 0) 128 then (s, (dsError, 0, []))
      else (s, (dsOk, 0, readBytes s (fcAddr i 0) 128))
    | 0x11 => (repair (writeBytes s (fcAddr i 0) (slice bs 0 128)) (fcAddr i 0) 128, st)
    | 0x18 => (s, (dsOk, 0, readBytes s (ctrAddr i) 16))
    | 0x19 => (writeBytes s (ctrAddr i) (le 16 0), (dsOk, 0, readBytes s (ctrAddr i) 16))
    | _ => (s, st)

/-- A function's whole list comes into effect; no results are written when the function was reset since
(R463). -/
def dmaApplyList (s : State) (fn : FnId) : State :=
  let q := dmaQueue s fn
  let go := fun (a : State × List (Nat × Nat × List Byte)) (x : (List Byte × List Byte) × Nat) =>
    let st := q.results.getD x.2 (dsOk, 0, [])
    let r := dmaApply a.1 fn x.2 x.1.1 x.1.2 st
    (r.1, a.2 ++ [r.2])
  let r := q.list.zipIdx.foldl go (s, [])
  if q.muted then putDma (setDmaStatus r.1 fn 0 0 0) fn {}
  else putDma r.1 fn { dmaQueue r.1 fn with results := r.2, applied := true }

/-- The 192 bytes of a result (R223). -/
def dmaResultBytes (r : Nat × Nat × List Byte) (effect : Nat) : List Byte :=
  le 1 r.1 ++ le 1 r.2.1 ++ le 6 0 ++ le 8 effect ++ slice r.2.2 0 128 ++ le 48 0

/-- DMA_RESULTS_WRITE: the results of a list that has taken effect are written, and STATE is DONE
(R223). -/
def dmaResultsStep (fn : FnId) (s : State) : State :=
  let q := dmaQueue s fn
  if !q.applied || !mayRequest s fn || (endpoint s fn.ep).noCredit then s
  else
    let base := word64 s (dmaAddr fn 8) / 64 * 64
    let s := q.results.zipIdx.foldl (fun s r =>
      writeBuffer s fn (base + 192 * r.2) (dmaResultBytes r.1 q.effect) false) s
    putDma (setDmaStatus s fn 2 0 q.results.length) fn {}

/-! ### Deferral and effect of table changes (R41, R74, R216) -/

/-- A change falls due at this boundary; what learning and aging did is in force already. -/
def changeDue (s : State) (c : Change) : Bool := !c.done && c.by_ != .engine && decide (c.effect ≤ round s)

/-- Its writes were not complete 16 ticks before the boundary (R216). -/
def changeUnwritten (s : State) (c : Change) : Bool :=
  decide (0 < writesLeft c) || decide (256 * round s < c.written + 17)

/-- Two changes belong to one DMA list. -/
def sameList (a b : Change) : Bool :=
  match a.by_, b.by_ with
  | .dma f _, .dma g _ => f == g
  | _, _ => false

/-- Due changes that wait for a later boundary with those already found to: later changes of the same
table, and every change of the same list. -/
def alsoDeferred (due : List Change) : Nat → List Change → List Change
  | 0, set => set
  | fuel + 1, set =>
    let more := fun (c : Change) (before : List Change) =>
      set.contains c || set.any (sameList c) ||
        before.any fun d => set.contains d && d.table == c.table
    let new := (due.zipIdx.filter fun x => more x.1 (due.take x.2)).map (·.1)
    if new.length = set.length then set else alsoDeferred due fuel new

/-- Changes of a set put off by one boundary, each as `mark` marks it, with their overlays and lists. -/
def putOff (s : State) (set : List Change) (mark : Change → Change) : State :=
  let next := round s + 1
  let hit := fun (o : Overlay) => o.what == .table &&
    set.any fun c => c.by_ == .inBand o.ring o.pos
  let listed := fun (n : Nat) => set.any fun c => match c.by_ with | .dma f _ => fnNum f == n | _ => false
  { s with
    changes := s.changes.map fun c => if set.contains c then { mark c with effect := next } else c,
    overlays := s.overlays.map fun o => if hit o then { o with effect := next } else o,
    dma := s.dma.map fun p => if listed p.1 then (p.1, { p.2 with effect := next }) else p }

/-- Due changes whose writes are late wait for a later boundary; each is counted and reported when its wait begins
(R216). -/
def deferUnwritten (s : State) : State :=
  let due := s.changes.filter (changeDue s)
  let set := alsoDeferred due due.length (due.filter (changeUnwritten s))
  let new := set.filter fun c => !c.late
  let s := new.foldl (fun s c => count s (tblAddr c.table 0x40)) s
  let s := (new.map (·.table)).eraseDups.foldl
    (fun s n => event s srcTables evCommit (detail n 0)) s
  putOff s set fun c => { c with late := true }

/-- Due changes of a table that already holds four versions are deferred, and count as one commit (R41). -/
def deferVersions (s : State) : State :=
  let due := s.changes.filter (changeDue s)
  let full := (due.map (·.table)).eraseDups.filter fun n => versionsFull s (.tbl n)
  let set := alsoDeferred due due.length (due.filter fun c => full.contains c.table)
  let s := full.foldl (fun s n => event (count s 0x1A08014) srcTables evCommit (detail n 0)) s
  putOff s set fun c => { c with defers := c.defers + 1 }

/-- Order of two functions' lists: by commit tick, then function. -/
def listBefore (a b : Nat × DmaQueue) : Bool :=
  decide (a.2.resolved < b.2.resolved ∨ (a.2.resolved = b.2.resolved ∧ a.1 ≤ b.1))

/-- Changes of one kind of writer applied in the order of R74. -/
def applySorted (s : State) (cs : List Change) : State :=
  (sortBy (fun a b => le3 (writerKey a) (writerKey b)) cs).foldl (fun s c => applyChange s c (round s)) s

/-- Every table change, list and in-band change that falls due at this boundary comes into effect
(R71, R74, R221). -/
def tablesDue (s : State) : State :=
  let s := deferVersions (deferUnwritten s)
  let due := s.changes.filter (changeDue s)
  let s := { s with versions := s.versions ++
    ((due.map (·.table)).eraseDups.map fun n => (Blk.tbl n, round s)) }
  let s := applySorted s (due.filter fun c => match c.by_ with | .inBand _ _ => true | _ => false)
  let lists := sortBy listBefore (s.dma.filter fun p =>
    p.2.fetched && decide (p.2.list.length ≤ p.2.next) && !p.2.applied &&
      decide (p.2.effect ≤ round s))
  let s := lists.foldl (fun s p => dmaApplyList s (fnOf p.1)) s
  let s := applySorted s (due.filter fun c => match c.by_ with | .thread _ => true | _ => false)
  let kept := s.changes.filterMap fun c =>
    if !due.contains c then some c
    else match c.by_ with
      | .inBand _ _ => some { c with done := true }
      | _ => none
  settleOverlays { s with changes := kept }

/-- In-band changes in effect that no frame of an earlier round can still consult are dropped (R71). -/
def retireChanges (s : State) : State :=
  let r := oldestRound s
  { s with
    changes := s.changes.filter fun c => !c.done || decide (r < c.effect),
    overlays := s.overlays.filter fun o => !o.done || decide (r < o.effect),
    entries := s.entries.filter fun e => match e.until_ with
      | some u => decide (r < u)
      | none => true }

/-! ### Clearing commits (R208) -/

/-- A change of a cleared table, or of the cleared partition, is discarded; a list's results say so by
`discardCommands`. -/
def discardChange (s : State) (c : Change) : State :=
  let s := { s with changes := s.changes.filter fun x => x != c }
  match c.by_ with
  | .inBand ring pos =>
    let s := match item? s ring pos with
      | some i => finishControl s ring i ctlDiscarded (now s) (compactNow s).toNat
      | none => s
    { s with overlays := s.overlays.filter fun o => !(o.ring == ring && o.pos == pos) }
  | .dma _ _ | .thread _ | .engine => s

/-- The commands of lists that have not taken effect and were resolved against a table, or a partition of it, that is
cleared now: those that have not failed are discarded (R208, R223). -/
def discardCommands (s : State) (n : Nat) (inPart : Nat → Bool) : State :=
  let result := fun (q : DmaQueue) (r : (Nat × Nat × List Byte) × Nat) =>
    let c := (q.list.getD r.2 ([], [])).1
    if dmaOp c ≤ 8 ∧ dmaTarget c = n ∧ (r.1.1 = dsOk ∨ r.1.1 = dsAlreadyLocked) then (dsDiscarded, 0, []) else r.1
  let list := fun (p : Nat × DmaQueue) =>
    if p.2.applied || !inPart (partOf n (fnTenancy s (fnOf p.1))) then p
    else (p.1, { p.2 with results := p.2.results.zipIdx.map (result p.2) })
  { s with dma := s.dma.map list }

/-- The entries of a table, or of one partition of it, removed from this round on, with every change
that was placed in the old shape; an event when one was discarded (R208). What the engine had still to write of
learned or aged entries goes with them, and is no change discarded. -/
def clearTable (s : State) (n : Nat) (part : Option Nat) : State :=
  let inPart := fun (p : Nat) => match part with | some q => p == q | none => true
  let gone := s.changes.filter fun c => !c.done && c.table == n && inPart c.part
  let lost := gone.filter fun c => c.by_ != .engine
  let bds := fun (l : Learn) =>
    let w := wordAt s l.round (0x1810000 + l.bd * 0x10)
    fld w 21 16 == n && inPart (fld w 9 0)
  let learnt := s.learns.any bds
  let s := { s with
    entries := s.entries.map fun e =>
      if e.table == n && inPart e.part && inForce e then { e with until_ := some (round s) } else e,
    learns := s.learns.filter fun l => !bds l }
  let s := gone.foldl discardChange s
  let lists := (discardCommands s n inPart).dma
  let undone := lost.isEmpty && !learnt && lists == s.dma
  let s := { s with dma := lists }
  let s := if lost.isEmpty then s else flushCompletions s
  if undone then s else event s srcTables evCommit (detail n 0)

/-! ### Learning (R227–R230) -/

/-- Entries that count towards a source's limit (R230). -/
def sourceCount (s : State) (sn : Nat) : Nat :=
  (s.entries.filter fun e => inForce e && !e.static && tblLearning s (round s) e.table &&
    sourceNumber (entrySource e) == sn).length

/-- The limit of a source lets one more entry in; AT_LIMIT follows what was found (R230). -/
def limitOpen (s : State) (sn : Nat) : State × Bool :=
  let limit := (word s (srcAddr sn 0)).toNat
  let ctrl := word s (srcAddr sn 4)
  if limit ≠ 0xFFFFFFFF ∧ limit ≤ sourceCount s sn then
    (count (if bit ctrl 1 then s else setConfig s (srcAddr sn 4) (setFld ctrl 1 1 1)) (srcAddr sn 0xC), false)
  else (if bit ctrl 1 then setConfig s (srcAddr sn 4) (setFld ctrl 1 1 0) else s, true)

/-- Learning gives a key another version of its entry from this round on. -/
def learnReplace (s : State) (e : Entry) : State :=
  engineWrites (replaceEntry s e (round s)) e.table e.part e.key []

/-- Learning inserts an entry, in force at once; its chain of moves and its own write follow (R213, R214, R228). -/
def learnInsert (s : State) (n part : Nat) (key : List Byte) (src : Nat) (unit : Nat) : State :=
  let p := if keyBad s n part key then none else placement s n part key
  match p with
  | none => countPlaceFailed s n part
  | some (b, v, moves) =>
    engineWrites (replaceEntry s
      { table := n, part := part, bucket := b, slot := v, key := key,
        value := le 2 src ++ le 6 0, lastSeen := unit, since := round s } (round s)) n part key moves

/-- MOVES, MARK and FLAPPING after a move in round `n` (R229). -/
def damp (e : Entry) (n hold : Nat) : Entry :=
  let e := if e.moves = 0 ∨ 2 ^ 20 ≤ sub32 n e.mark then { e with mark := n % 2 ^ 32, moves := 1 }
    else { e with moves := min 5 (e.moves + 1) }
  if 4 < e.moves ∧ hold ≠ 0 then
    { e with flapping := true, mark := (n + hold * 2 ^ 20) % 2 ^ 32 } else e

/-- A winning learn applied in round `n` (R228). -/
def applyLearn (s : State) (l : Learn) : State :=
  match learnTable s l.round l.bd with
  | none => s
  | some tbl =>
    let n := l.round
    let part := rfAt s n (0x1810000 + l.bd * 0x10) 9 0
    let key := learnKey l.bd l.mac
    let src := l.source.toNat
    let sn := sourceNumber src
    let hold := rf s (tblAddr tbl 0x10) 23 16
    let conflicts := 0x1810008 + l.bd * 0x10
    match findNow s tbl part key with
    | none =>
      let x := limitOpen s sn
      if x.2 then learnInsert x.1 tbl part key src (ageUnit n) else x.1
    | some e =>
      if e.static then
        if entrySource e = src then s else count (count s (tblAddr tbl 0x30)) conflicts
      else if e.lock then count s (tblAddr tbl 0x38)
      else if e.flapping && decide (2 ^ 31 ≤ sub32 n e.mark) then
        count (count s (tblAddr tbl 0x34)) conflicts
      else
        let e := if e.flapping then { e with flapping := false, moves := 0 } else e
        if entrySource e = src then learnReplace s { e with lastSeen := ageUnit n }
        else
          let x := limitOpen s sn
          if !x.2 then x.1
          else
            let m := damp { e with value := le 2 src ++ e.value.drop 2, lastSeen := ageUnit n } n hold
            let s := learnReplace (count x.1 (tblAddr tbl 0x2C)) m
            if m.flapping then event s srcTables evLimit (detail tbl m.moves) part else s

/-- Of two learns of one address the first is the winner: the later ingress, then the lower source, then
the earlier taken (R227). -/
def learnBeats (a b : Learn) : Bool :=
  let x := sourceNumber a.source.toNat
  let y := sourceNumber b.source.toNat
  decide (b.ingress < a.ingress ∨ (a.ingress = b.ingress ∧ (x < y ∨ (x = y ∧ a.order ≤ b.order))))

/-- Order in which winners are applied (R227). -/
def learnBefore (a b : Learn) : Bool :=
  let x := sourceNumber a.source.toNat
  let y := sourceNumber b.source.toNat
  decide (a.ingress < b.ingress ∨ (a.ingress = b.ingress ∧ (x < y ∨ (x = y ∧ a.order ≤ b.order))))

/-- LEARN_BATCH_APPLY: at a boundary, after the table changes due at it, the batch of the round that has
ended is applied (R74, R227). -/
def learnBatchStep (s : State) : State :=
  if now s % 256 ≠ 0 ∨ s.changes.any (changeDue s) then s
  else
    let batch := s.learns.filter fun l => decide (l.round < round s) && decide (l.order < 4096)
    let wins := batch.filter fun l => batch.all fun m =>
      !(m.bd == l.bd && m.mac == l.mac) || m == l || learnBeats l m
    (sortBy learnBefore wins).foldl applyLearn
      { s with learns := s.learns.filter fun l => !decide (l.round < round s) }

/-- Age units that an AGE gives (R232). -/
def ageLimit (age : Nat) : Nat := ceilDiv (age * 1000000000) 1073741824

/-- AGING: at the boundaries of round numbers that are 0 mod 2^20, after the table changes and the learning batch of the
boundary; an entry for whose slot an accepted change waits stays (R70, R74, R227, R232). -/
def agingStep (s : State) : State :=
  if now s % 256 ≠ 0 ∨ round s % 2 ^ 20 ≠ 0 ∨ s.changes.any (changeDue s) ∨
      s.learns.any (fun l => decide (l.round < round s)) then s
  else
    let old := s.entries.filter fun e =>
      let age := rf s (tblAddr e.table 0x10) 15 0
      inForce e && !e.static && !e.lock && age != 0 &&
        !(s.changes.any fun c =>
          !c.done && c.by_ != .engine && c.table == e.table && c.part == e.part && c.key == e.key) &&
        decide (ageLimit age + 1 ≤ (ageUnit (round s) + 65536 - e.lastSeen % 65536) % 65536)
    old.foldl (fun s e => engineWrites
      (closeEntry (count s (tblAddr e.table 0x3C)) e.table e.part e.key (round s)) e.table e.part e.key []) s

/-- The partition that holds a bucket: a pinned table has one, and a bucket that no partition holds names the first
(R206, R207). -/
def bucketPart (s : State) (n b : Nat) : Nat :=
  if isPinned n then 0
  else ((List.range 1024).find? fun t =>
    let r := partRange s n t
    r.2 != 0 && decide (r.1 ≤ b ∧ b < r.1 + 2 ^ r.2)).getD 0

/-- BUCKET_INVALIDATE: at a boundary the entries of a bucket with an uncorrectable error are invalidated,
counted and reported (R235). -/
def bucketInvalidateStep (n b : Nat) (s : State) : State :=
  if now s % 256 ≠ 0 ∨ !bucketBad s n b then s
  else
    let lost := s.entries.filter fun e => e.table == n && inForce e && e.bucket == b
    let s := lost.foldl (fun s e => closeEntry s e.table e.part e.key (round s)) s
    let s := count s (tblAddr n 0x44) lost.length
    let s := { s with errors := { s.errors with buckets := s.errors.buckets.filter (· != (n, b)) } }
    let part := bucketPart s n b
    event s srcTables evMemory
      ((if tblPlace s (round s) n = 2 then 6 else 5) + (n + part * 256 + b * 2 ^ 18) * 256) part rsMemory

/-! ### Rows -/

/-- LEARN_BATCH_APPLY (R227). -/
def execLearnBatchApply (s : State) : Out := act s learnBatchStep
/-- AGING (R232). -/
def execAging (s : State) : Out := act s agingStep
/-- BUCKET_INVALIDATE (R235). -/
def execBucketInvalidate (table : Fin 72) (bucket : Nat) (s : State) : Out :=
  act s (bucketInvalidateStep table.val bucket)
/-- TBL_DMA_GO (R219). -/
def execTblDmaGo (fn : FnId) (s : State) : Out :=
  act s fun s => writeAs s fn (dmaAddr fn 0x14) (tblDmaGoStep fn)
/-- DMA_LIST_FETCHED (R219). -/
def execDmaListFetched (fn : FnId) (list : List (List Byte × List Byte)) (fail : Option ReadFail)
    (s : State) : Out := act s (dmaListFetchedStep fn list fail)
/-- INSERT of R220; a command with a reserved OP is resolved here too. -/
def execDmaInsert (fn : FnId) (s : State) : Out :=
  act s (dmaCommand fn fun op => op == 1 || !dmaOps.contains op)
/-- UPDATE of R220. -/
def execDmaUpdate (fn : FnId) (s : State) : Out := act s (dmaCommand fn (· == 2))
/-- DELETE of R220. -/
def execDmaDelete (fn : FnId) (s : State) : Out := act s (dmaCommand fn (· == 3))
/-- READ of R220. -/
def execDmaRead (fn : FnId) (s : State) : Out := act s (dmaCommand fn (· == 4))
/-- LOCK_READ of R220. -/
def execLockRead (fn : FnId) (s : State) : Out := act s (dmaCommand fn (· == 5))
/-- WRITE_UNLOCK of R220. -/
def execWriteUnlock (fn : FnId) (s : State) : Out := act s (dmaCommand fn (· == 6))
/-- UNLOCK of R220. -/
def execDmaUnlock (fn : FnId) (s : State) : Out := act s (dmaCommand fn (· == 7))
/-- SCAN of R220. -/
def execScan (fn : FnId) (s : State) : Out := act s (dmaCommand fn (· == 8))
/-- FC_READ of R220. -/
def execFcRead (fn : FnId) (s : State) : Out := act s (dmaCommand fn (· == 0x10))
/-- FC_WRITE of R220. -/
def execFcWrite (fn : FnId) (s : State) : Out := act s (dmaCommand fn (· == 0x11))
/-- CTR_READ of R220. -/
def execCtrRead (fn : FnId) (s : State) : Out := act s (dmaCommand fn (· == 0x18))
/-- CTR_CLEAR of R220. -/
def execCtrClear (fn : FnId) (s : State) : Out := act s (dmaCommand fn (· == 0x19))
/-- DMA_RESULTS_WRITE (R223). -/
def execDmaResultsWrite (fn : FnId) (s : State) : Out := act s (dmaResultsStep fn)

end Sys2Proof.Machine
end

