-- ==== Sys2Proof/Machine/Image.lean ====
section
/-! DEFINITION. Program images: the header, the sections, the certificate and the resource records, and
the checks of parse programs and decision trees (R163–R169, R181, R183, R184, R187, R188, R190). -/

namespace Sys2Proof.Machine

open Sys2Proof

/-- The first of several checks that fails: status and detail. -/
def firstFail : List (Bool × Nat × Nat) → Option (Nat × Nat)
  | [] => none
  | (ok, st, d) :: m => if ok then firstFail m else some (st, d)

/-- Every byte is 0. -/
def allZero (bs : List Byte) : Bool := bs.all fun b => b == 0

/-! ### Header, sections and certificate -/

/-- Sections of an image in their order: code, data, parse program, trees, certificate. -/
def imageSections (im : List Byte) : List (Nat × Nat) :=
  (List.range 5).map fun k => (leAt im (16 + 8 * k) 4, leAt im (20 + 8 * k) 4)

def sectionOf (im : List Byte) (k : Nat) : List Byte :=
  slice im (leAt im (16 + 8 * k) 4) (leAt im (20 + 8 * k) 4)

/-- Number of the first section that breaks the layout of R163, 5 for the bytes after the last; sections
of length 0 are not there. -/
def layoutFault (im : List Byte) : Nat → Nat → List (Nat × Nat) → Option Nat
  | k, pos, [] => if pos ≤ im.length - 96 ∧ allZero (slice im pos (im.length - 96 - pos)) then none else some k
  | k, pos, (off, len) :: rest =>
    if len = 0 then layoutFault im (k + 1) pos rest
    else if off % 64 = 0 ∧ pos ≤ off ∧ off + len ≤ im.length - 96 ∧ allZero (slice im pos (off - pos)) then
      layoutFault im (k + 1) (off + len) rest
    else some k

def imTenancy (im : List Byte) : Nat := leAt im 6 2 % 1024
def imClass (im : List Byte) : Nat := leAt im 8 1 % 64
def imEntries (im : List Byte) : Nat := leAt im 9 1
def imKey (im : List Byte) : Nat := leAt im 10 2

/-- The header of R163. -/
def headerFault (im : List Byte) : Option (Nat × Nat) :=
  let sec := imageSections im
  let len := fun (k : Nat) => (sec.getD k (0, 0)).2
  match firstFail [
    (decide (160 ≤ im.length), ldFormat, 0),
    (im.take 4 == [0x53, 0x5A, 0x50, 0x49], ldFormat, 0),
    (leAt im 4 2 == 1, ldFormat, 0),
    (decide (leAt im 6 2 < 1024) && decide (leAt im 8 1 < 64), ldFormat, 0),
    (decide (1 ≤ imEntries im) && decide (imEntries im ≤ 16), ldFormat, 0),
    (decide (imKey im < 2048), ldFormat, 0),
    (leAt im 12 4 == im.length && decide (im.length ≤ 64 * 2 ^ 20), ldFormat, 0),
    (allZero (slice im 56 8), ldFormat, 0),
    (len 0 % 4 == 0 && decide (4 ≤ len 0) && decide (len 0 ≤ 1048576), ldFormat, 0),
    (decide (len 1 ≤ 16384), ldFormat, 1),
    (decide (64 + 8 * imEntries im ≤ len 4), ldFormat, 4)] with
  | some e => some e
  | none => (layoutFault im 0 64 sec).map fun k => (ldFormat, k)

/-- The code's words. -/
def imCode (im : List Byte) : List Word :=
  let c := sectionOf im 0
  (List.range (c.length / 4)).map fun k => BitVec.ofNat 32 (leAt c (4 * k) 4)

/-- Entry records: code offset, worst-case ticks, and the reserved bytes. -/
def certEntries (im : List Byte) : List (Nat × Nat × Nat) :=
  let c := sectionOf im 4
  (List.range (imEntries im)).map fun e => (leAt c (64 + 8 * e) 4, leAt c (68 + 8 * e) 2, leAt c (70 + 8 * e) 2)

/-- Resource records (R167); `size` holds bytes 2–3. -/
def certResources (im : List Byte) : List Res :=
  let c := sectionOf im 4
  (List.range (leAt c 20 2)).map fun k =>
    let o := 64 + 8 * imEntries im + 8 * k
    { kind := leAt c o 1, attr := leAt c (o + 1) 1, size := leAt c (o + 2) 2, num := leAt c (o + 4) 4 }

/-- THREADS of R166: ceil(B × R / 250,000,000). -/
def rateThreads (b r : Nat) : Nat := ceilDiv (b * r) 250000000

/-- The certificate fields of R166. -/
def certFault (im : List Byte) : Option (Nat × Nat) :=
  let c := sectionOf im 4
  let b := leAt c 0 2
  let es := certEntries im
  firstFail [
    (decide (64 + 8 * imEntries im + 8 * leAt c 20 2 ≤ c.length), ldFormat, 4),
    (decide (leAt c 22 1 < 8) && leAt c 23 1 == 0 && allZero (slice c 32 32) &&
      es.all (fun e => e.2.2 == 0), ldFormat, 4),
    (b != 0, ldCertificate, 0),
    (leAt c 4 4 != 0, ldCertificate, 0),
    ((leAt c 2 2 == 0) == (sectionOf im 2).isEmpty, ldCertificate, 0),
    (leAt c 8 2 == rateThreads b (leAt c 4 4), ldCertificate, 0),
    (decide (leAt c 17 1 ≤ 8), ldCertificate, 0),
    (es.all (fun e => e.1 % 4 == 0 && decide (e.1 < (sectionOf im 0).length) && decide (e.2.1 ≤ b)),
      ldCertificate, 0)]

/-- A resource record's kind, attribute and reserved bytes are of R167. -/
def resourceListed (r : Res) : Bool :=
  decide (1 ≤ r.kind ∧ r.kind ≤ 9) && (r.kind == 7 || r.size == 0) &&
    (if r.kind = 1 then r.attr == 5 || r.attr == 6 || r.attr == 48 else r.attr == 0)

/-- Place of the first element that fails a check. -/
def firstBad {α : Type} (ok : α → Bool) (xs : List α) : Option Nat := xs.findIdx? fun x => !ok x

def resourceFault (im : List Byte) : Option (Nat × Nat) :=
  (firstBad resourceListed (certResources im)).map fun k => (ldFormat, k)

/-! ### Key and signature (R164, R168, R169) -/

/-- Word `off` of a registry entry (R177). -/
def keyAddr (k off : Nat) : Nat := 0x6080000 + k * 0x80 + off

/-- A registered public key, x ‖ y. -/
def registryKey (s : State) (k : Nat) : List Byte :=
  wordBytes ((List.range 24).map fun i => word s (keyAddr k (0x20 + 4 * i)))

/-- Step 3 of R172, up to the class. -/
def keyFault (s : State) (im : List Byte) : Option (Nat × Nat) :=
  let w := word s (keyAddr (imKey im) 0)
  firstFail [
    (bit w 31 && fld w 9 0 == imTenancy im, ldUnknownKey, 0),
    (signatureOk (registryKey s (imKey im)) (im.take (im.length - 96)) (im.drop (im.length - 96)),
      ldSignature, 0)]

/-! ### Parse programs (R181–R184) -/

/-- The transitions of a state: the eight entries, then DEFAULT, each with its byte offset. -/
def parseTrans (sect : List Byte) (st : Nat) : List (Nat × Nat) :=
  ((List.range 8).map fun k => (stateWord sect st (4 + k), 16 + 96 * st + 16 + 4 * k)) ++
    [(stateWord sect st 3, 16 + 96 * st + 12)]

/-- Bytes that a state appends to the hash input. -/
def hashBytes (sect : List Byte) (st : Nat) : Nat :=
  (List.range 8).foldl (fun n k =>
    let w := stateWord sect st (12 + k)
    if bits w 20 20 = 1 ∧ bits w 21 21 = 1 then n + bits w 12 9 + 1 else n) 0

/-- States that can follow a state. -/
def nextStates (sect : List Byte) (st : Nat) : List Nat :=
  ((parseTrans sect st).filterMap fun t => if bits t.1 25 24 = 1 then some (bits t.1 23 16) else none).eraseDups

/-- The greatest sum of `cost` over a chain of visits from a state, each state at most VISITS + 1 times and
32 visits in all (R182, R183). -/
def longestChain (sect : List Byte) (cost : Nat → Nat) : Nat → List Nat → Nat → Nat
  | 0, _, _ => 0
  | fuel + 1, seen, st =>
    if bits (stateWord sect st 0) 7 5 + 1 ≤ seen.count st then 0
    else cost st + ((nextStates sect st).map (longestChain sect cost fuel (st :: seen))).foldl max 0

/-- PARSE_WC of a parse section: 2 plus its longest chain (R183). -/
def sectionTicks (sect : List Byte) : Nat := 2 + longestChain sect (fun _ => 1) 32 [] (leAt sect 2 1)

/-- Reserved bits and ranges of one state; the byte offset of the first that fails (R181, R184). -/
def stateFault (sect : List Byte) (count st : Nat) : Option Nat :=
  let o := 16 + 96 * st
  let w := fun k => stateWord sect st k
  let transBad := (parseTrans sect st).find? fun t =>
    decide (bits t.1 31 27 ≠ 0) || (bits t.1 25 24 == 1 && decide (count ≤ bits t.1 23 16))
  let extBad := (List.range 8).find? fun k =>
    let e := w (12 + k)
    decide (bits e 31 22 ≠ 0) ||
      (bits e 20 20 == 1 && (decide (bits e 19 13 < 8) || decide (80 < bits e 19 13 + bits e 12 9 + 1)))
  if bits (w 0) 31 9 ≠ 0 ∨ 13 < bits (w 0) 3 0 then some o
  else if bits (w 1) 0 0 = 0 ∧ (448 < bits (w 1) 9 1 ∨ bits (w 1) 31 10 ≠ 0) then some (o + 4)
  else if bits (w 1) 31 28 ≠ 0 then some (o + 4)
  else if 3584 < bits (w 2) 11 0 + bits (w 2) 15 12 + 1 then some (o + 8)
  else if bits (w 3) 25 24 = 0 then some (o + 12)
  else match transBad with
    | some t => some t.2
    | none => match extBad with
      | some k => some (o + 48 + 4 * k)
      | none => if allZero (slice sect (o + 80) 16) then none else some (o + 80)

/-- The checks of R184; the detail is the byte offset. -/
def parseFault (sect : List Byte) : Option (Nat × Nat) :=
  let n := leAt sect 0 2
  if sect.isEmpty then none
  else if n = 0 ∨ 256 < n ∨ sect.length < 16 + 96 * n then some (ldParse, 0)
  else if n ≤ leAt sect 2 1 then some (ldParse, 2)
  else if !allZero (slice sect 3 13) then some (ldParse, 3)
  else match (List.range n).findSome? (stateFault sect n) with
    | some o => some (ldParse, o)
    | none => if 48 < longestChain sect (hashBytes sect) 32 [] (leAt sect 2 1) then some (ldParse, 0) else none

/-! ### Decision trees (R187, R188, R190) -/

/-- A directory entry's counts and offsets. -/
structure TreeDir where
  num : Nat
  reserved : Nat
  masks : Nat
  rules : Nat
  nodes : Nat
  nodeOff : Nat
  ruleOff : Nat
  maskOff : Nat
  actOff : Nat
  acts : Nat
  deriving DecidableEq, Repr

def treeDir (sect : List Byte) (k : Nat) : TreeDir :=
  let o := 16 + 32 * k
  ⟨leAt sect o 1, leAt sect (o + 1) 1, leAt sect (o + 2) 2, leAt sect (o + 4) 4, leAt sect (o + 8) 4,
    leAt sect (o + 12) 4, leAt sect (o + 16) 4, leAt sect (o + 20) 4, leAt sect (o + 24) 4,
    leAt sect (o + 28) 4⟩

/-- Counts, offsets and extents of a directory entry lie in their ranges and in the section. -/
def dirOk (sect : List Byte) (d : TreeDir) : Bool :=
  let inside := fun (off n size : Nat) => off % 16 == 0 && decide (off + n * size ≤ sect.length)
  decide (d.num < 64) && d.reserved == 0 && decide (1 ≤ d.masks) && decide (d.masks ≤ 256) &&
    decide (d.rules ≤ 262144) && decide (1 ≤ d.nodes) && decide (d.acts ≤ 65536) &&
    inside d.nodeOff d.nodes 16 && inside d.ruleOff d.rules 32 && inside d.maskOff d.masks 32 &&
    inside d.actOff d.acts 64

/-- A wire-order 64-bit value. -/
def wire64 (sect : List Byte) (o : Nat) : BitVec 64 := BitVec.ofNat 64 (beAt sect o 8)

/-- The rule set that a directory entry describes. -/
def readSet (sect : List Byte) (tenancy : Nat) (d : TreeDir) : RuleSet :=
  { round := 0, tenancy := tenancy, num := d.num,
    nodes := (List.range d.nodes).map fun i => BitVec.ofNat 128 (leAt sect (d.nodeOff + 16 * i) 16),
    rules := (List.range d.rules).map fun i =>
      let o := d.ruleOff + 32 * i
      { rule := leAt sect o 4 % 2 ^ 20, mask := leAt sect o 4 / 2 ^ 20 % 256, act := leAt sect (o + 4) 4 % 65536,
        values := [wire64 sect (o + 8), wire64 sect (o + 16), wire64 sect (o + 24)] },
    masks := (List.range d.masks).map fun i =>
      let o := d.maskOff + 32 * i
      { words := [leAt sect o 1 % 16, leAt sect o 1 / 16, leAt sect (o + 1) 1 % 16],
        masks := [wire64 sect (o + 8), wire64 sect (o + 16), wire64 sect (o + 24)] },
    acts := (List.range d.acts).map fun i => slice sect (d.actOff + 64 * i) 64,
    size := d.nodes * 16 + d.rules * 32 + d.masks * 32 + d.acts * 64 }

/-- Reserved bits of a node are 0 and its fields in range (R188). -/
def nodeOk (d : TreeDir) (v : Nat) : Bool :=
  match bits v 1 0 with
  | 0 =>
    let w := bits v 14 12 + 1
    bits v 15 15 == 0 && bits v 127 48 == 0 && decide (bits v 11 2 + w ≤ 640) &&
      decide (bits v 47 16 + 2 ^ w ≤ d.nodes)
  | 1 =>
    let idx := [bits v 27 8, bits v 47 28, bits v 67 48, bits v 87 68]
    decide (bits v 4 2 ≤ 4) && bits v 7 5 == 0 && bits v 127 88 == 0 &&
      (idx.take (bits v 4 2)).all fun i => decide (i < d.rules)
  | 2 => bits v 127 2 == 0
  | _ => false

/-- No path from a node exceeds the nodes left (R190). -/
def shallow (nodes : List (BitVec 128)) : Nat → Nat → Bool
  | 0, _ => false
  | fuel + 1, n =>
    match nodes[n]? with
    | none => true
    | some v =>
      let v := v.toNat
      bits v 1 0 != 0 || (List.range (2 ^ (bits v 14 12 + 1))).all fun u => shallow nodes fuel (bits v 47 16 + u)

/-- Reserved bits of the rule and mask records of a set are 0. -/
def recordsClean (sect : List Byte) (d : TreeDir) : Bool :=
  ((List.range d.rules).all fun i =>
      let o := d.ruleOff + 32 * i
      decide (leAt sect o 4 < 2 ^ 28) && decide (leAt sect (o + 4) 4 < 65536)) &&
    ((List.range d.masks).all fun i =>
      let o := d.maskOff + 32 * i
      decide (leAt sect (o + 1) 1 < 16) && allZero (slice sect (o + 2) 6))

/-- Words, values and indices of the rules and masks of a set (R190). -/
def rulesOk (d : TreeDir) (set : RuleSet) : Bool :=
  (set.masks.all fun m => m.words.all fun w => decide (w ≤ 9) || w == 15) &&
    (set.rules.all fun r => decide (r.mask < d.masks) && decide (r.act < d.acts) &&
      (match set.masks[r.mask]? with
        | none => false
        | some m => (List.range 3).all fun k => (r.values.getD k 0 &&& ~~~(m.masks.getD k 0)) == 0)) &&
    (set.rules.map fun r => r.rule).Nodup

/-- Reserved bytes of an action record are 0 and its used fields hold listed values (R190, R192). -/
def actRecordOk (a : List Byte) : Bool :=
  actionListed a && leAt a 25 1 == 0 && leAt a 51 1 == 0 && allZero (slice a 60 4)

/-- The checks of one set that need no other set. -/
def setOk (sect : List Byte) (d : TreeDir) (set : RuleSet) : Bool :=
  recordsClean sect d && (set.nodes.all fun v => nodeOk d v.toNat) && shallow set.nodes 12 0 && rulesOk d set &&
    set.acts.all actRecordOk

/-- An action record of a tenancy's set names only objects open to it. A platform record may name any
class; its frames take the class owner's tenancy, so objects open to that owner pass (R191). -/
def actRecordOpen (s : State) (r tenancy : Nat) (a : List Byte) : Bool :=
  let owner := (pathAt s r (leAt a 2 1 % 64)).owner
  let openFor := fun (t : Nat) => actionOpen s r t (setDestination (setTag newTag 0 21 12 t) a) a
  openFor tenancy || (tenancy == 0 && actBit a 3 && openFor owner)

/-- The sets of a tree section. -/
def readSets (sect : List Byte) (tenancy : Nat) : List (TreeDir × RuleSet) :=
  if sect.isEmpty then []
  else (List.range (leAt sect 0 1)).map fun k => (treeDir sect k, readSet sect tenancy (treeDir sect k))

/-- Bytes of table memory (R37, R518). -/
def tableMemory : Nat := 768 * 65536

/-- Bytes of the region of a table by its TBL_CFG and TBL_REGION words; `none`: none in that memory. -/
def regionOf (n : Nat) (cfg region : Word) (place : Nat) : Option (Nat × Nat) :=
  if fld cfg 1 0 ≠ place ∨ (isPinned n ∧ place ≠ 1) then none
  else
    let start := fld region 19 0 * 65536
    let slots := 2 ^ fld region 24 20 * (if isPinned n then 4 else 2) + if isPinned n then 4096 else 0
    some (start, start + slots * (32 * 2 ^ fld cfg 3 2))

/-- The words of a table's block in force, and as each pending commit leaves them. -/
def tableShapes (s : State) (n : Nat) : List (Word × Word) :=
  let step := fun (w : Word × Word) (c : Commit) =>
    c.writes.foldl (fun w x =>
      (if x.1 = tblAddr n 0 then blend w.1 x.2.1 x.2.2 else w.1,
       if x.1 = tblAddr n 4 then blend w.2 x.2.1 x.2.2 else w.2)) w
  let mine := s.commits.filter fun c => c.blk == .tbl n
  let now := (word s (tblAddr n 0), word s (tblAddr n 4))
  (mine.foldl (fun ws c => ws ++ [step (ws.getLastD now) c]) [now])

/-- The highest byte, plus 1, of any table region in table memory, in force or pending (R518). -/
def regionsTop (s : State) : Nat :=
  ((List.range 72).flatMap fun n =>
    (tableShapes s n).filterMap fun w => (regionOf n w.1 w.2 1).map fun p => p.2).foldl max 0

/-- Rule-set extents in use: of the versions held, and of commits still pending. -/
def extentsUsed (s : State) : List (Nat × Nat) :=
  (s.ruleSets.map fun x => (x.start, x.start + x.size)) ++
    s.commits.flatMap fun c => match c.what with
      | .pathClass _ sets _ => sets.map fun x => (x.start, x.start + x.size)
      | _ => []

/-- Start of the highest free extent of `size` bytes wholly above `floor_` (R518). -/
def placeExtent (used : List (Nat × Nat)) (floor_ size : Nat) : Option Nat :=
  let tops := tableMemory :: used.map fun e => e.1
  let fits := tops.filter fun t => decide (floor_ + size ≤ t) &&
    used.all fun e => decide (t ≤ e.1 ∨ e.2 ≤ t - size)
  match fits with
  | [] => none
  | _ => some (fits.foldl max 0 - size)

/-- CLS_TREE_FLOOR: the lowest 64 KB unit that an extent in use occupies (R518). -/
def treeFloor (s : State) : Nat :=
  ((extentsUsed s).filter fun e => decide (e.1 < e.2)).foldl (fun m e => min m (e.1 / 65536)) 768

/-- Sets placed one after another; the set that finds no extent is named. -/
def placeSets (floor_ : Nat) : List (Nat × Nat) → List RuleSet → Except Nat (List RuleSet)
  | _, [] => .ok []
  | used, x :: rest =>
    match placeExtent used floor_ x.size with
    | none => .error x.num
    | some b =>
      match placeSets floor_ ((b, b + x.size) :: used) rest with
      | .ok m => .ok ({ x with start := b } :: m)
      | .error e => .error e

/-- The newest version of each rule set, with the sets of pending loads. -/
def newestSets (s : State) : List RuleSet :=
  (s.ruleSets ++ s.commits.flatMap fun c => match c.what with
    | .pathClass _ sets _ => sets
    | _ => []).foldl (fun m x => (m.filter fun y => !(y.tenancy == x.tenancy && y.num == x.num)) ++ [x]) []

/-- The checks of R190 and R518: the sets of the image with their extents, or the refusal. -/
def treeCheck (s : State) (sect : List Byte) (tenancy : Nat) : Except (Nat × Nat) (List RuleSet) :=
  let sets := readSets sect tenancy
  let n := leAt sect 0 1
  let nums := sets.map fun x => x.1.num
  if sect.isEmpty then .ok []
  else if n = 0 ∨ 64 < n ∨ sect.length < 16 + 32 * n ∨ !allZero (slice sect 1 15) ∨ !nums.Nodup then
    .error (ldTree, 0)
  else
    match sets.find? fun x => !(dirOk sect x.1 && setOk sect x.1 x.2) with
    | some x => .error (ldTree, x.1.num)
    | none =>
      let rs := sets.map fun x => x.2
      let all := (newestSets s).filter (fun y => !(y.tenancy == tenancy && nums.contains y.num)) ++ rs
      let rules := all.foldl (fun m x => m + x.rules.length) 0
      let acts := all.foldl (fun m x => m + x.acts.length) 0
      if 1048576 < rules ∨ 131072 < acts then .error (ldTree, nums.headD 0)
      else
        match rs.find? fun x => !(x.acts.all fun a => actRecordOpen s (round s) tenancy a) with
        | some x => .error (ldNotOpen, x.num)
        | none =>
          match placeSets (regionsTop s) (extentsUsed s) rs with
          | .ok m => .ok m
          | .error k => .error (ldTree, k)

end Sys2Proof.Machine
end

