-- ==== Sys2Proof/Machine/Ports.lean ====
section
/-! DEFINITION. Ethernet ports: reception and its checks, MAC control, pause in both directions, link up
and down, low-power idle and port reset (R299–R316). -/

namespace Sys2Proof.Machine

open Sys2Proof

/-! ### Reception (R304–R307) -/

/-- A frame dropped at a port, with no carrier tag beyond its reason (R304). -/
def portDrop (s : State) (p reason ctr : Nat) : State :=
  countDrop (macCount s p ctr) (.port p) reason

/-- The destination address of an endpoint-mode port's filter, as configured in a round (R26, R306). -/
def stationAccepts (s : State) (r p : Nat) (bs : List Byte) : Bool :=
  let da := slice bs 0 6
  if bit (wordAt s r (macAddr p 0)) 1 then true
  else if da = be 6 0xFFFFFFFFFFFF then bit (wordAt s r (macAddr p 0x1C)) 0
  else (List.range 16).any fun k =>
    let hi := wordAt s r (macAddr p (0x24 + k * 8))
    bit hi 31 && da == be 2 (fld hi 15 0) ++ be 4 (wordAt s r (macAddr p (0x20 + k * 8))).toNat

/-- Receive tag insertion: an untagged or priority-tagged frame takes PVID_TCI (R307). -/
def receiveTag (s : State) (r p : Nat) (bs : List Byte) : List Byte :=
  let w := wordAt s r (macAddr p 0xC)
  let tags := vlanTags bs
  let bare := if (tags.headD 0) % 4096 = 0 then removeTag bs else bs
  if !bit w 16 || (!tags.isEmpty && tags.headD 0 % 4096 != 0) then bs
  else insertTag (if tags.isEmpty then bs else bare) (if bit w 17 then 0x88A8 else 0x8100) (fld w 15 0)

/-- A pause or PFC frame received (R309): counted, and its times wait for their acting tick, one after
the tick in which it is whole (R310). -/
def takeControl (s : State) (p : Nat) (bs : List Byte) : State :=
  let op := beAt bs 14 2
  let rx := rf s (macAddr p 0) 9 8
  let at_ := now s + 1
  if op = 0x0001 then
    if rx = 1 then
      let s := macCount s p 12
      let v := port s p
      putPort s p { v with pauses := v.pauses ++ [⟨at_, none, beAt bs 16 2⟩] }
    else macCount s p 14
  else if op = 0x0101 then
    if rx = 2 then
      let en := beAt bs 16 2
      (List.finRange 8).foldl (fun s q =>
        if en.testBit q.val && bit (word s (macAddr p 0x18)) q.val then
          let s := count64 s (macAddr p (0x500 + q.val * 0x10))
          let v := port s p
          putPort s p { v with pauses := v.pauses ++ [⟨at_, some q, beAt bs (18 + 2 * q.val) 2⟩] }
        else s) s
    else macCount s p 14
  else macCount s p 15

/-- The tag of a frame that a port receives (R58, R59). -/
def portTag (s : State) (p len : Nat) (ingress endTime : BitVec 64) (opened : Bool) : Tag :=
  let t := setTag newTag 0 11 0 p
  let t := setTag64 (setTag64 t 1 ingress.toNat) 3 endTime.toNat
  let t := setFlag (setFlag (setTag t 7 15 0 len) 17 true) 26 (parityAt s ingress)
  if opened then setFlag (setCrypto t 1 2) 22 true else t

/-- Steps 6 and 7 of R304: the filter, the tag, the ingress buffer; then the frame stands whole. -/
def storeFrame (s : State) (p : Nat) (wire : Nat) (bs : List Byte) (opened : Bool)
    (ingress endTime : BitVec 64) : State :=
  let r := roundOf (now s - frx s p)
  if !stationAccepts s r p bs then portDrop s p rsFilter 9
  else
    let multi := (slice bs 0 1).any fun b => b.getLsbD 0
    let bcast := slice bs 0 6 == be 6 0xFFFFFFFFFFFF
    let bs := receiveTag s r p bs
    let q := outerPcp bs
    let key := bufferKey s p q
    let c := cellsOf bs.length
    if bufferLimit s p key ≤ occupancy s p key + c then portDrop s p rsBufferFull 10
    else
      let s := takeCells s p q c
      let s := macCount (macCount s p 0) p 1 (wire - 18)
      let s := if bcast then macCount s p 5 else if multi then macCount s p 4 else s
      let e := now s - frx s p
      newFrame s
        { id := 0, stage := .whole, src := .port p, tag := portTag s p bs.length ingress endTime opened,
          bytes := bs, endTick := e, wholeTick := now s, round := roundOf e,
          ingressTick := tickOfTime s ingress, buffered := some (p, q, c) }

/-- FRAME_RECEIVE: a frame with its FCS is whole at a port (R304). A reception that a port reset cut off
ends under TARGET_RESET (R303). -/
def frameReceiveStep (p : Nat) (bytes : List Byte) (bad : Bool) (ingress endTime : BitVec 64)
    (s : State) : State :=
  let cut := match (port s p).resetAt with
    | some t => decide (tickOfTime s ingress ≤ t)
    | none => false
  if cut then portDrop s p rsTargetReset 19
  else if !linkUp s p then s
  else
    let n := bytes.length
    let body := bytes.take (n - 4)
    let s := if bad then macCount s p 17 else s
    if n < 64 then portDrop s p rsRunt 7
    else if rfAt s (roundOf (now s - frx s p)) (macAddr p 4) 14 0 < n then portDrop s p rsOversize 8
    else if bad || bytes.drop (n - 4) != crcBytes .crc32 (crc .crc32 body) then portDrop s p rsFcsError 6
    else if etherAt body 12 = 0x8808 then takeControl s p body
    else
      let v := macVerify s p (roundOf (now s - frx s p)) body
      match v.2 with
      | .error reason => countDrop v.1 (.port p) reason
      | .ok r => storeFrame v.1 p n r.1 r.2 ingress endTime

/-! ### Pause (R310–R312) -/

/-- MAC_STATUS bit of a pause kind. -/
def pauseBit (q : Option (Fin 8)) : Nat :=
  match q with
  | none => 2
  | some q => 4 + q.val

/-- Hold of one kind set until a tick. -/
def holdUntil (s : State) (p : Nat) (q : Option (Fin 8)) (t : Nat) : State :=
  let v := port s p
  putPort s p (match q with
    | none => { v with pausedUntil := t }
    | some q => { v with pfcUntil := v.pfcUntil.set q.val t })

/-- One received pause acts: it replaces the time that is left; a time of 0 resumes (R311). -/
def pauseOne (p : Nat) (s : State) (d : PauseDue) : State :=
  let t := pauseTicks (portRate s p) d.quanta
  let b := pauseBit d.prio
  let s := setRf (holdUntil s p d.prio (d.act + t)) (macAddr p 8) b b (if t = 0 then 0 else 1)
  if t = 0 then putPort s p { port s p with resumed := some d.act } else s

/-- PAUSE_ACT: received pauses whose acting tick has come, in order (R310, R311). -/
def pauseActStep (p : Nat) (s : State) : State :=
  let v := port s p
  let due := v.pauses.filter fun d => decide (d.act ≤ now s)
  due.foldl (pauseOne p) (putPort s p { v with
    pauses := v.pauses.filter fun d => !decide (d.act ≤ now s) })

/-- PAUSE_EXPIRE: pauses whose time has run out are no longer shown (R311). -/
def pauseExpireStep (p : Nat) (s : State) : State :=
  let v := port s p
  let clear := fun (s : State) (q : Option (Fin 8)) (t : Nat) =>
    if t ≤ now s then setRf s (macAddr p 8) (pauseBit q) (pauseBit q) 0 else s
  (List.finRange 8).foldl (fun s q => clear s (some q) (v.pfcUntil.getD q.val 0))
    (clear s none v.pausedUntil)

/-- PAUSE_RESEND: while occupancy stays at or above XON the frame is sent again every half pause time
(R312). -/
def pauseResendStep (p q : Nat) (s : State) : State :=
  let quanta := rf s (macAddr p 0x14) 15 0
  let v := port s p
  match v.xoff.find? fun x => x.1 == q with
  | none => s
  | some x =>
    if quanta = 0 ∨ now s < x.2 + pauseTicks (portRate s p) quanta / 2 then s
    else sendPause (putPort s p { v with
      xoff := v.xoff.map fun y => if y.1 = q then (q, now s) else y }) p (pauseKind s p q) quanta

/-! ### Link (R301) -/

/-- A link that goes down ends the pauses and low-power idle (R311, R315). -/
def endLink (s : State) (p : Nat) : State :=
  let v := port s p
  let s := putPort s p { v with
    pauses := [], pausedUntil := 0, pfcUntil := List.replicate 8 0, resumed := none }
  setRf s (macAddr p 8) 11 0 0

/-- The port may bring its link up: enabled, placed by its group's mode, and past its reset (R299,
R303). -/
def mayLink (s : State) (p : Nat) : Bool :=
  portEnabled s p && portRate s p != 0 &&
    (match (port s p).resetAt with | some t => decide (t + 256 ≤ now s) | none => true)

/-- LINK_UP (R301). -/
def linkUpStep (p : Nat) (anDone : Bool) (s : State) : State :=
  if linkUp s p || !mayLink s p then s
  else
    let an := anDone && bit (word s (macAddr p 0)) 6
    let s := setRf s (macAddr p 8) 1 0 (1 + if an then 2 else 0)
    event (linkAen s p) (srcPort p) evLink (detail p 1)

/-- LINK_DOWN: the link is lost, or an attempt to negotiate it ends without the ability (R301). A frame
that it cuts off is dropped under FCS_ERROR (R304). -/
def linkDownStep (p : Nat) (receiving : Bool) (s : State) : State :=
  let was := linkUp s p
  if !was && !mayLink s p then s
  else
    let s := macCount (endLink s p) p 18
    let s := if was && receiving then macCount (portDrop s p rsFcsError 6) p 19 else s
    if was then event (linkAen s p) (srcPort p) evLink (detail p 0) else s

/-- LPI_ENTER: the transmit side of an idle port whose PHY type defines it goes to low-power idle
(R315). -/
def lpiEnterStep (p : Nat) (s : State) : State :=
  let v := port s p
  if linkUp s p && portLpiEn s p && lpiType (portMode s p) (rf s (macAddr p 0) 3 2) &&
      v.onWay.isEmpty && decide (v.started ≤ bitTime (now s)) then
    setRf s (macAddr p 8) 3 3 1
  else s

/-! ### Reset of a port (R303) -/

/-- Queue nodes of a port that hold state, and its tenancy nodes and port node. -/
def portNodes (s : State) (p : Nat) : List (Nat × Node) :=
  s.nodes.filter fun n => (decide (n.1 < 0x1000000) && n.1 / 32768 == p) || n.1 == 0x1000000 + p ||
    (decide (0x2000000 ≤ n.1) && (n.1 - 0x2000000) / 1024 == p)

/-- A frame waiting in a queue of a port, or chosen for its wire. -/
def frameOnPort (p : Nat) (f : Frame) : Bool :=
  match f.stage with
  | .queue n => n / 32768 == p
  | .wire q => q == p
  | _ => false

/-- A port through Dusk: frames held for transmit end under TARGET_RESET, its scheduler nodes start anew
with their shapers at BURST, its link goes down and its generation rises (R303, R331). -/
def resetPort (s : State) (p : Nat) : State :=
  let s := dropAll s (frameOnPort p) (fun f => .node (tagNode f.tag)) rsTargetReset
  let was := linkUp s p
  let gone := (portNodes s p).map fun n => n.1
  let s := { s with
    nodes := s.nodes.filter fun n => !gone.contains n.1,
    cellsDue := s.cellsDue.filter fun d => d.node / 32768 != p }
  let s := endLink s p
  let v := port s p
  let s := putPort s p { v with
    generation := (v.generation + 1) % 16, onWay := [], wireFree := 0, started := 0, resetAt := some (now s) }
  let s := setRf s (macAddr p 8) 15 12 (v.generation + 1)
  if was then event s (srcPort p) evLink (detail p 0) else s

/-- PORT_RESET: a write of RST_PORT_CTRL by PF0 of H0 (R303, R462). -/
def portResetStep (fn : FnId) (p : Nat) (s : State) : State :=
  if fn ≠ pf0 then denied s fn 0x100018 else servoRestart (resetPort s p)

/-- FRAME_RECEIVE (R304). -/
def execFrameReceive (p : Fin 16) (bytes : List Byte) (codewordBad : Bool)
    (ingress endTime : BitVec 64) (s : State) : Out :=
  act s (frameReceiveStep p.val bytes codewordBad ingress endTime)
/-- PAUSE_RESEND (R312). -/
def execPauseResend (p : Fin 16) (prio : Fin 8) (s : State) : Out :=
  act s (pauseResendStep p.val prio.val)
/-- PAUSE_ACT (R310). -/
def execPauseAct (p : Fin 16) (s : State) : Out := act s (pauseActStep p.val)
/-- PAUSE_EXPIRE (R311). -/
def execPauseExpire (p : Fin 16) (s : State) : Out := act s (pauseExpireStep p.val)
/-- LINK_UP (R301). -/
def execLinkUp (p : Fin 16) (anDone : Bool) (s : State) : Out := act s (linkUpStep p.val anDone)
/-- LINK_DOWN (R301). -/
def execLinkDown (p : Fin 16) (receiving : Bool) (s : State) : Out := act s (linkDownStep p.val receiving)
/-- LPI_ENTER (R315). -/
def execLpiEnter (p : Fin 16) (s : State) : Out := act s (lpiEnterStep p.val)
/-- PORT_RESET (R303). -/
def execPortReset (fn : FnId) (p : Fin 16) (s : State) : Out :=
  act s fun s => writeAs s fn 0x100018 (portResetStep fn p.val)

end Sys2Proof.Machine
end

