-- ==== Sys2Proof/Machine/Egress.lean ====
section
/-! DEFINITION. The egress scheduler: eligibility, fair queueing, shapers, calendars, the transmitter, and
the window through which queues, tenancy nodes and meters are configured (R317–R331, R336–R338). -/

namespace Sys2Proof.Machine

open Sys2Proof

/-- Node numbers of a port's root and of a tenancy node; a queue node's number is its SCHED_NODE. -/
def portNode (p : Nat) : Nat := 0x1000000 + p
def tenNode (p t : Nat) : Nat := 0x2000000 + p * 1024 + t

/-! ### Tag edits on transmit (R308) -/

/-- TX_STRIP of a port applied. -/
def txStrip (s : State) (r p : Nat) (bs : List Byte) : List Byte :=
  let w := wordAt s r (macAddr p 0x10)
  let tags := vlanTags bs
  match fld w 13 12 with
  | 1 => if !tags.isEmpty && tags.headD 0 % 4096 == fld w 11 0 then removeTag bs else bs
  | 2 => if tags.isEmpty then bs else removeTag bs
  | 3 => tags.foldl (fun b _ => removeTag b) bs
  | _ => bs

/-- TX_INSERT of a port applied: the bytes, and whether the insertion was skipped. -/
def txInsert (s : State) (r p prio : Nat) (bs : List Byte) : List Byte × Bool :=
  let w := wordAt s r (macAddr p 0x10)
  let k := fld w 15 14
  if k ≠ 1 ∧ k ≠ 2 then (bs, false)
  else if 2 ≤ (vlanTags bs).length ∨ 16384 < bs.length + 8 then (bs, true)
  else (insertTag bs (if k = 2 then 0x88A8 else 0x8100)
    (prio * 8192 + fld w 28 28 * 4096 + fld w 27 16), false)

/-- PRIORITY of a frame (tag word 12). -/
def tagPriority (t : Tag) : Nat := tagFld t 12 12 10

/-- The tag edits of a port on a frame's bytes, as configured in its round (R26, R308). -/
def txEdit (s : State) (r p : Nat) (t : Tag) (bs : List Byte) : List Byte × Bool :=
  txInsert s r p (tagPriority t) (txStrip s r p bs)

/-- Lw of a queued frame: its length after the port's edits, with MACsec, and 24 bytes (R319, R346). -/
def lw (s : State) (p : Nat) (f : Frame) : Nat :=
  let e := (txEdit s f.round p f.tag f.bytes).1
  let len := tagLength f.tag + e.length - f.bytes.length
  max 60 len + (if macProtects s f.round p e then macAdds s f.round p else 0) + 24

/-! ### Shapers (R324, R519) -/

/-- Weight and tenancy of a queue, and weight of a tenancy node. -/
def queueWeight (s : State) (n : Nat) : Nat := rf s (queueAddr n 0) 31 16
def queueOwner (s : State) (n : Nat) : Nat := rf s (queueAddr n 0) 9 0
def tenWeight (s : State) (p t : Nat) : Nat := rf s (tnodeAddr p t 0) 15 0

/-- Shaper of a node: whether it is enabled, its RATE and its BURST. -/
def shaperOf (s : State) (n : Nat) : Bool × Nat × Nat :=
  if n < 0x1000000 then
    (bit (word s (queueAddr n 2)) 31, (word s (queueAddr n 1)).toNat, rf s (queueAddr n 2) 23 0)
  else if n < 0x2000000 then
    let p := n - 0x1000000
    (bit (word s (schAddr p 0)) 2, (word s (schAddr p 4)).toNat, rf s (schAddr p 8) 23 0)
  else
    let p := (n - 0x2000000) / 1024
    let t := n % 1024
    (bit (word s (tnodeAddr p t 2)) 31, (word s (tnodeAddr p t 1)).toNat, rf s (tnodeAddr p t 2) 23 0)

/-- Credit of a node's shaper, up to date in this tick: RATE × 4 ns / 8 bytes a tick, at most BURST. -/
def shaperCredit (s : State) (n : Nat) : Credit :=
  let h := shaperOf s n
  match (node s n).credit with
  | none => ⟨h.2.2 * unit16, 0, now s⟩
  | some c => gain c (now s - c.last) (h.2.1 * unit16) 2000000 (h.2.2 * unit16) (now s)

/-- The shaper lets a frame start. -/
def shaperOpen (s : State) (n : Nat) : Bool :=
  let h := shaperOf s n
  !h.1 || (decide (0 ≤ (shaperCredit s n).amount) && !(h.2.1 == 0 && h.2.2 == 0))

/-- A node's credit falls by the bytes of a frame that starts. -/
def charge (s : State) (n bytes : Nat) : State :=
  if !(shaperOf s n).1 then s
  else
    let c := shaperCredit s n
    putNode s n { node s n with credit := some { c with amount := c.amount - (bytes * unit16 : Nat) } }

/-! ### Calendars (R325–R329) -/

/-- Word `k` of a port's calendar as it governs a tick: a commit whose effect lies at or before the tick
counts as in force. -/
def calWord (s : State) (p k tick : Nat) : Word :=
  let a := 0x1B10000 + p * 0x2000 + k * 4
  s.commits.foldl (fun w c =>
    if c.blk = .sch ∧ 256 * c.effect ≤ tick then
      c.writes.foldl (fun w x => if x.1 = a then blend w x.2.1 x.2.2 else w) w
    else w) (word s a)

/-- Owner of the slot in force in a tick; none: NONE (R325). -/
def slotOwner (s : State) (p tick : Nat) : Option Nat :=
  let k := tick % 65536 / 16
  let w := calWord s p (k / 2) tick
  let o := if k % 2 = 0 then fld w 10 0 else fld w 26 16
  if o = 0x7FF then none else some o

/-- Every slot of a span of bit times belongs to a tenancy (R326). -/
def slotsOwned (s : State) (p t b dur : Nat) : Bool :=
  let first := b / 400 / 16
  let last := (b + dur - 1) / 400 / 16
  (List.range (last + 1 - first)).all fun i => slotOwner s p ((first + i) * 16) == some t

def calMode (s : State) (p : Nat) : Nat := rf s (schAddr p 0) 1 0

/-! ### Choice (R320–R323, R328) -/

/-- What a choice starts: queue, tenancy, frame, finish tags of queue and tenancy node, Lw. -/
structure Pick where
  node : Nat
  ten : Nat
  frame : Frame
  tag : Nat
  lw : Nat
  deriving DecidableEq, Repr

/-- Queue nodes of a port that hold frames. -/
def busyQueues (s : State) (p : Nat) : List Nat :=
  (s.nodes.filter fun n => decide (n.1 < 0x1000000) && n.1 / 32768 == p && !n.2.queue.isEmpty).map
    fun n => n.1

/-- A queue's head, with its finish tag, when the queue is eligible at a bit time (R321). -/
def eligible (s : State) (p b n : Nat) : Option Pick :=
  let t := queueOwner s n
  let v := port s p
  match ((node s n).queue.head?).bind (frame? s) with
  | none => none
  | some f =>
    let start := b / 400 - ftx s p
    let len := lw s p f
    let prio := tagPriority f.tag
    let paused := decide (start < v.pausedUntil) ||
      (rf s (macAddr p 0) 9 8 == 2 && decide (start < v.pfcUntil.getD prio 0))
    let weight := queueWeight s n
    if weight = 0 ∨ tenWeight s p t = 0 ∨ paused ∨ b / 400 < f.ready then none
    else if !shaperOpen s n || !shaperOpen s (tenNode p t) || !shaperOpen s (portNode p) then none
    else if calMode s p = 1 ∧ !slotsOwned s p t b (wireTime s p len) then none
    else some { node := n, ten := t, frame := f, lw := len,
                tag := max (node s (tenNode p t)).v (node s n).flast + len * 65536 / weight }

/-- The least of a list under a key of two numbers. -/
def leastBy {α : Type} (key : α → Nat × Nat) : List α → Option α
  | [] => none
  | x :: xs => match leastBy key xs with
    | none => some x
    | some y =>
      let a := key x
      let b := key y
      if a.1 < b.1 ∨ (a.1 = b.1 ∧ a.2 ≤ b.2) then some x else some y

/-- The best eligible queue of each tenancy node. -/
def bestQueues (ps : List Pick) : List Pick :=
  ((ps.map fun x => x.ten).eraseDups).filterMap fun t =>
    leastBy (fun x => (x.tag, x.node)) (ps.filter fun x => x.ten == t)

/-- Finish tag of a tenancy node's choice at the port level (R323). -/
def portTag' (s : State) (p : Nat) (x : Pick) : Nat :=
  max (node s (portNode p)).v (node s (tenNode p x.ten)).flast + x.lw * 65536 / tenWeight s p x.ten

/-- The choice at a bit time: the pick, and the port level's finish tag when that level chose (R323, R326,
R328). -/
def pickAt (s : State) (p b : Nat) : Option (Pick × Option Nat) :=
  let best := bestQueues ((busyQueues s p).filterMap (eligible s p b))
  let fair := (leastBy (fun x => (portTag' s p x, x.ten)) best).map fun x => (x, some (portTag' s p x))
  match calMode s p with
  | 1 => best.head?.map fun x => (x, none)
  | 2 =>
    (match (slotOwner s p (b / 400)).bind fun o => best.find? fun x => x.ten == o with
      | some x => some (x, none)
      | none => fair)
  | _ => fair

/-- Virtual times and finish tags of nodes that have become empty start anew (R323). -/
def resetEmpty (s : State) (p t : Nat) : State :=
  let busy := busyQueues s p
  let s := if busy.any fun n => queueOwner s n == t then s
    else
      let s := putNode s (tenNode p t) { node s (tenNode p t) with v := 0 }
      { s with nodes := s.nodes.map fun n =>
          if n.1 < 0x1000000 ∧ n.1 / 32768 = p ∧ queueOwner s n.1 = t then (n.1, { n.2 with flast := 0 })
          else n }
  if busy.isEmpty then
    let s := putNode s (portNode p) { node s (portNode p) with v := 0 }
    { s with nodes := s.nodes.map fun n =>
        if 0x2000000 ≤ n.1 ∧ (n.1 - 0x2000000) / 1024 = p then (n.1, { n.2 with flast := 0 }) else n }
  else s

/-- A pick leaves its queue for the wire at a bit time (R320, R323, R324). -/
def startPick (s : State) (p b : Nat) (x : Pick) (fair : Option Nat) : State :=
  let q := node s x.node
  let s := putNode s x.node { q with queue := q.queue.drop 1, flast := x.tag }
  let tn := node s (tenNode p x.ten)
  let s := putNode s (tenNode p x.ten) { tn with v := x.tag, flast := fair.getD tn.flast }
  let s := match fair with
    | some f => putNode s (portNode p) { node s (portNode p) with v := f }
    | none => s
  let s := charge (charge (charge s x.node x.lw) (tenNode p x.ten) x.lw) (portNode p) x.lw
  let s := resetEmpty s p x.ten
  let v := port s p
  let s := putPort s p { v with
    wireFree := b + wireTime s p x.lw,
    onWay := v.onWay ++ [⟨b, false, x.frame.id⟩] }
  let s := setRf s (macAddr p 8) 3 3 0
  putFrame s { x.frame with stage := .wire p }

/-- Frames started one after another for as long as the wire's next free bit time lies before `stop`;
the choice looks at the bit times from `b` on, at the first bit of a later tick when nothing is eligible
at an earlier one (R320). -/
def chooseFrom (p stop : Nat) : Nat → Nat → State → State
  | 0, _, s => s
  | fuel + 1, b, s =>
    let b := max b (port s p).wireFree
    if stop ≤ b then s
    else match pickAt s p b with
      | some x => chooseFrom p stop fuel b (startPick s p b x.1 x.2)
      | none => chooseFrom p stop fuel ((b / 400 + 1) * 400) s

/-- Frames of a port without link, whose due tick has come, are dropped (R305). -/
def dropNoLink (s : State) (p : Nat) : State :=
  let gone := fun (f : Frame) => frameOnPort p f && decide (f.due ≤ now s) &&
    !((port s p).onWay.any fun w => w.frame == f.id && w.started)
  (s.frames.filter fun x => gone x.2).foldl (fun s x =>
    let f := x.2
    let n := tagNode f.tag
    let q := node s n
    let s := putNode s n { q with
      queue := q.queue.filter fun i => i != f.id, cells := q.cells - cellsOf (tagLength f.tag) }
    let v := port s p
    let s := putPort s p { v with onWay := v.onWay.filter fun w => w.frame != f.id }
    resetEmpty (dropFrame (macCount s p 11) f (.node n) rsPortDown) p (queueOwner s n)) s

/-- EGRESS_CHOICE: the choices of a tick, for the frames whose first bit passes f_tx + 4 ticks later; in
the tick in which a pause with time 0 acts, those from f_tx ticks later on (R311, R320). -/
def egressChoiceStep (p : Nat) (s : State) : State :=
  if !linkUp s p then dropNoLink s p
  else
    let t := now s + ftx s p + 4
    let first := if (port s p).resumed = some (now s) then now s + ftx s p else t
    chooseFrom p (bitTime (t + 1)) 64 (bitTime first) s

/-! ### The transmitter (R305, R311) -/

/-- Chosen frames that the transmitter starts by the end of a tick: those whose start lies at or before
it and that no pause holds; a frame that was held leaves f_tx ticks after its start (R311). -/
def startChosen (s : State) (p : Nat) : State :=
  (port s p).onWay.foldl (fun s w =>
    if w.started then s
    else match frame? s w.frame with
      | none => s
      | some f =>
        let v := port s p
        let hold := max v.pausedUntil
          (if rf s (macAddr p 0) 9 8 = 2 then v.pfcUntil.getD (tagPriority f.tag) 0 else 0)
        if now s < w.first / 400 - ftx s p ∨ now s < hold ∨ !linkUp s p then s
        else
          let b := max (max w.first v.started) (bitTime (now s + ftx s p))
          let stop := b + wireTime s p (lw s p f)
          putPort s p { v with
            onWay := v.onWay.map fun x => if x.frame = w.frame then ⟨b, true, w.frame⟩ else x,
            started := stop,
            wireFree := max v.wireFree stop }) s

/-- PTP registers of a port (R280). -/
def ptpPort (s : State) (p : Nat) : Word := word s (0x302000 + p * 0x10)

/-- The correction of an event message as it leaves a port: the change of its bytes (R275, R277). -/
def ptpFields (s : State) (p : Nat) (f : Frame) (tx : BitVec 64) (txFull : Nat) (at_ : Nat) :
    List Byte :=
  let bs := f.bytes
  let type := bits (beAt bs at_ 1) 3 0
  let w := ptpPort s p
  let corr := fun (bs : List Byte) (units : Nat) =>
    patch bs (at_ + 8) (be 8 ((beAt bs (at_ + 8) 8 + units * 256) % 2 ^ 64))
  let clear := fun (bs : List Byte) =>
    patch bs (at_ + 6) (le 1 (beAt bs (at_ + 6) 1 - if (beAt bs (at_ + 6) 1).testBit 1 then 2 else 0))
  let bs := if bit w 0 && type == 0 then
      let t := fullParts txFull
      corr (patch (clear bs) (at_ + 34) (be 6 t.1 ++ be 4 t.2.1)) t.2.2
    else if bit w 0 && type == 3 then
      let asked := leNat (readBytes s (fcAddr (tagFlow f.tag) 0) 8)
      corr (clear bs) (tx.toNat + 2 ^ 64 - asked)
    else bs
  match f.src with
  | .port q =>
    let v := ptpPort s q
    if bit w 1 && bit v 1 then
      corr bs (tx.toNat + 2 ^ 64 - tag64 f.tag 1 +
        if bit v 2 then (word s (0x302004 + q * 0x10)).toNat else 0)
    else bs
  | _ => bs

/-- The UDP checksum over a changed event message: 0 over IPv4, brought up to date over IPv6 (R275). -/
def ptpChecksum (f : Frame) (before after : List Byte) (at_ : Nat) : List Byte :=
  let udp := (f.hdrs.filter fun h => h.kind == hkUdp && decide (h.off < at_)).getLast?
  match udp with
  | none => after
  | some u =>
    let v6 := f.hdrs.any fun h => h.kind == hkIpv6 && h.layer == u.layer
    if !v6 then patch after (u.off + 6) [0, 0]
    else
      let part := fun (b : List Byte) => onesSum (slice b at_ (b.length - at_))
      let v := adjustChecksum (beAt after (u.off + 6) 2) (part before) (part after)
      patch after (u.off + 6) (be 2 (if v = 0 then 0xFFFF else v))

/-- The event header of a frame whose parse did not fail (R186, R277). -/
def eventHeader (f : Frame) : Option Hdr :=
  if tagFlag f.tag 18 then none else f.hdrs.find? fun h => h.kind == 13

/-- A frame's bytes with the corrections of its event message. -/
def ptpCorrect (s : State) (p : Nat) (f : Frame) (tx : BitVec 64) (txFull : Nat) : List Byte :=
  match eventHeader f with
  | none => f.bytes
  | some h =>
    let b := ptpFields s p f tx txFull h.off
    if b = f.bytes then b else ptpChecksum f f.bytes b h.off

/-- The transmit time queued for a frame with an event header (R276). -/
def queueStamp (s : State) (p : Nat) (f : Frame) (tx : BitVec 64) : State :=
  match eventHeader f with
  | none => s
  | some h =>
    if !bit (ptpPort s p) 3 then s
    else
      let q := (look s.tbs.txts p).getD []
      if 64 ≤ q.length then count s (0x302008 + p * 0x10)
      else
        let e := (beAt f.bytes (h.off + 30) 2, bits (beAt f.bytes h.off 1) 3 0, beAt f.bytes (h.off + 4) 1, tx)
        { s with tbs := { s.tbs with txts := place s.tbs.txts p (q ++ [e]) } }

/-- A frame that ends at the port without reaching the wire: its cells are free. -/
def dropOnWire (s : State) (f : Frame) (reason : Nat) : State :=
  let n := tagNode f.tag
  let q := node s n
  dropFrame (putNode s n { q with cells := q.cells - cellsOf (tagLength f.tag) }) f (.node n) reason

/-- The bytes that leave the port before MACsec, the bytes that the ledger records, and the state after
ESP took its number (R282, R305, R308, R351). -/
def protectFrame (s : State) (p : Nat) (f : Frame) : State × Except Nat (List Byte × List Byte) :=
  let edit := fun (s : State) (bs : List Byte) =>
    let e := txEdit s f.round p f.tag bs
    (if e.2 then macCount s p 20 else s, padTo 60 e.1)
  match f.sa with
  | none =>
    let e := edit s f.bytes
    (e.1, .ok (e.2, e.2))
  | some sa =>
    let o := espOutbound s f sa
    match o.2 with
    | .error r => (o.1, .error r)
    | .ok bs =>
      let e := edit o.1 bs
      (e.1, .ok (e.2, f.bytes))

/-- A frame's first bit passes the MDI: it is on the wire, with its time, counts, ledger record and
completion (R49, R50, R276, R305, R316). -/
def transmit (p : Nat) (s : State) (w : OnWay) : State :=
  let v := port s p
  let s := putPort s p { v with onWay := v.onWay.filter fun x => x.frame != w.frame }
  match frame? s w.frame with
  | none => s
  | some f =>
    if !linkUp s p then dropOnWire (macCount s p 11) f rsPortDown
    else
      let part := w.first % 400 * 256 / 100
      let tx := compactNow s + BitVec.ofNat 64 part
      let f := { f with bytes := ptpCorrect s p f tx (fullUnits s + part) }
      let e := protectFrame s p f
      match e.2 with
      | .error r => dropOnWire e.1 { f with tag := failCrypto f.tag 2 r } r
      | .ok b =>
        let f := if f.sa.isSome then { f with tag := setCrypto f.tag 2 3 } else f
        let m := macProtect e.1 p f.round b.1
        match m.2 with
        | .error r => dropOnWire m.1 (if f.sa.isSome then f else { f with tag := failCrypto f.tag 1 r }) r
        | .ok out =>
          let st := stampRelease m.1 f
          let g := st.2
          let s := st.1
          let late := decide (f.due < now s)
          let wire := out ++ crcBytes .crc32 (crc .crc32 out)
          let n := tagNode f.tag
          let last := (w.first + wireTime s p wire.length - 1) / 400
          let s := { s with
            cellsDue := s.cellsDue ++ [⟨last, n, cellsOf (tagLength f.tag)⟩] }
          let s := putPort s p { port s p with sent := (port s p).sent ++ [⟨now s, wire⟩] }
          let s := macCount (macCount s p 2) p 3 (wire.length - 18)
          let s := count64 (count64 s (schAddr p 0x10)) (queueCount n 1)
          let s := if late then count (count s (schAddr p 0x18)) (tnCounter (tagTenancy g.tag) 5) else s
          let s := queueStamp s p g tx
          let s := if captured g then
              recordRelease s { g with bytes := b.2 } tx (lateness s g) else s
          let s := completeSent s g 0 (tagReason g.tag) (compactNow s).toNat (lateness s g)
          endFrame (makeMirror s g) g

/-- Frames whose first bit lies in this tick, in the order of their first bits and then of port number
(R346, R351). -/
def transmitDue (s : State) : State :=
  let due := (List.range 16).flatMap fun p =>
    ((port s p).onWay.filter fun w => w.started && decide (w.first / 400 ≤ now s)).map fun w => (w, p)
  (sortBy (fun a b => decide (a.1.first < b.1.first ∨ (a.1.first = b.1.first ∧ a.2 ≤ b.2))) due).foldl
    (fun s x => transmit x.2 s x.1) s

/-- Queue cells of frames whose last bit has left are free (R330). -/
def freeQueueCells (s : State) : State :=
  let done := s.cellsDue.filter fun d => decide (d.tick < now s)
  done.foldl (fun s d =>
    let q := node s d.node
    putNode s d.node { q with cells := q.cells - d.cells })
    { s with cellsDue := s.cellsDue.filter fun d => !decide (d.tick < now s) }

/-! ### The window (R336–R338) -/

/-- A word of a function's scheduler window. -/
def schWin (fn : FnId) (off : Nat) : Nat := fnWordAddr fn (0x1B00000 + off)

/-- Kind and index that SCH_IND_SEL names. -/
def schSel (s : State) (fn : FnId) : Nat × Nat := (rf s (schWin fn 8) 27 24, rf s (schWin fn 8) 19 0)

/-- A function may reach the selected object (R337). -/
def schOpen (s : State) (fn : FnId) (kind i : Nat) (write : Bool) : Bool :=
  let t := fnTenancy s fn
  let r := round s
  match kind with
  | 1 => decide (i < 524288) && (fn == pf0 || queueTenancy s r i == t)
  | 2 => decide (i < 16384) && (fn == pf0 || (!write && i % 1024 == t))
  | 3 => decide (i < 524288) && !write && (fn == pf0 || queueTenancy s r i == t)
  | 5 => fn == pf0 || meterOwned s r t i
  | _ => false

/-- Model address of word `w` of the selected object. -/
def schObject (kind i w : Nat) : Nat :=
  match kind with
  | 1 => queueAddr i w
  | 2 => tnodeAddr (i / 1024) (i % 1024) w
  | _ => meterAddr i w

/-- Writable bits of word `w` of an object. -/
def schMask (kind w : Nat) : Word :=
  match kind, w with
  | 1, 0 => 0xFFFF03FF
  | 1, 2 => 0x80FFFFFF
  | 2, 0 => 0x0000FFFF
  | 2, 2 => 0x80FFFFFF
  | 2, 3 => 0
  | _, _ => 0xFFFFFFFF

/-- A window command denied: IND_DENIED and an event (R337). -/
def schDeny (s : State) (fn : FnId) : State :=
  ignored (setRf s (schWin fn 4) 1 1 1) fn 0x1B0000C 5

/-- SCH_READ: the selected object to DATA (R337). -/
def schReadStep (fn : FnId) (s : State) : State :=
  let o := schSel s fn
  if !schOpen s fn o.1 o.2 false then schDeny s fn
  else (List.range 4).foldl (fun s w => setWord s (schWin fn (0x10 + 4 * w))
    (if o.1 = 3 then
      (if w = 0 then BitVec.ofNat 32 ((node s o.2).cells % 65536) else word s (queueCount o.2 (w - 1)))
    else shadowWord s .sch fn (schObject o.1 o.2 w))) s

/-- SCH_WRITE: DATA to the selected object's shadow (R337). -/
def schWriteStep (fn : FnId) (s : State) : State :=
  let o := schSel s fn
  if !schOpen s fn o.1 o.2 true then schDeny s fn
  else
    let d := fun (w : Nat) => word s (schWin fn (0x10 + 4 * w))
    let moves := o.1 = 1 ∧
      fld (d 0) 9 0 ≠ fld (shadowWord s .sch fn (queueAddr o.2 0)) 9 0
    if moves ∧ !platform s fn then schDeny s fn
    else
      let locked := moves && lockAsked s 0
      let s := if locked then deniedByLock s fn 0x1B0000C else s
      (List.range 4).foldl (fun s w =>
        let m := schMask o.1 w
        let m := if o.1 = 1 ∧ w = 0 ∧ (locked ∨ !platform s fn) then 0xFFFF0000 else m
        if m = 0 then s else writeShadow s .sch fn (schObject o.1 o.2 w) m (d w)) s

/-! ### Commit (R327, R329, R334, R338) -/

/-- Least run of a STRICT calendar, in slots, by rate (R327). -/
def minRun (rate : Nat) : Nat :=
  match rate with
  | 800 => 3 | 400 => 6 | 200 => 11 | 100 => 21 | 50 => 42 | 25 => 83 | 10 => 206 | _ => 0

/-- Lengths of the runs of a cyclic list of owners, NONE left out. -/
def calendarRuns : List Nat → Nat → Nat → List Nat
  | [], cur, n => if cur = 0x7FF then [] else [n]
  | o :: os, cur, n =>
    if o = cur then calendarRuns os cur (n + 1)
    else (if cur = 0x7FF then [] else [n]) ++ calendarRuns os o 1

/-- The owners turned so that a run begins at the head. -/
def turned (os : List Nat) : List Nat :=
  let head := os.takeWhile fun o => o == os.headD 0
  os.drop head.length ++ head

/-- A calendar breaks R327 for a rate. -/
def shortRun (rate : Nat) (os : List Nat) : Bool :=
  match turned os with
  | [] => false
  | o :: rest => os.any (· != o) && (calendarRuns rest o 1).any fun n => decide (n < minRun rate)

/-- The calendar of a port as a function's commit would leave it. -/
def newCalendar (s : State) (fn : FnId) (p : Nat) : List Nat :=
  (List.range 2048).flatMap fun k =>
    let w := shadowWord s .sch fn (0x1B10000 + p * 0x2000 + k * 4)
    [fld w 10 0, fld w 26 16]

/-- Why a commit is refused; 0: it is not (R338). -/
def schRefusal (s : State) (fn : FnId) : Nat :=
  let strict := fn = pf0 ∧ (List.range 16).any fun p =>
    fld (shadowWord s .sch fn (schAddr p 0)) 1 0 == 1 && portRate s p != 0 &&
      shortRun (portRate s p) (newCalendar s fn p)
  let meters := ((s.shadow.filter fun x => x.blk == .sch && x.fn == fn &&
    decide (0x120000000 ≤ x.addr) && decide (x.addr < 0x130000000)).map fun x => x.addr / 16 * 16).eraseDups
  if strict then 1
  else if meters.any fun a => decide ((shadowWord s .sch fn (a + 4)).toNat < (shadowWord s .sch fn a).toNat)
    then 2
  else 0

/-- Round of the first calendar cycle that starts at least 4,096 ticks after a commit tick (R329). -/
def calendarRound (t : Nat) : Nat := ceilDiv (t + 1 + 4096) 65536 * 256

/-- The bits of a shadow value that commit with the calendar: the slots, and CAL_MODE (R329). -/
def calendarMask (a : Nat) : Word :=
  if 0x1B10000 ≤ a ∧ a < 0x1B30000 then 0xFFFFFFFF
  else if inArray a 0x1B01000 16 0x40 0 then 3 else 0

/-- SCH_COMMIT: the function's shadow set, calendars to their cycle start (R338). -/
def schCommitStep (fn : FnId) (s : State) : State :=
  let code := schRefusal s fn
  let s := setRf s (schWin fn 4) 15 8 code
  if code ≠ 0 then event s srcScheduler evCommit (detail 0 code) (fnTenancy s fn)
  else
    let mine := s.shadow.filter fun x => x.blk == .sch && x.fn == fn
    let cut := fun (m : Nat → Word) => mine.filterMap fun x =>
      if x.mask &&& m x.addr = 0 then none else some (x.addr, x.mask &&& m x.addr, x.val)
    let cal := cut calendarMask
    let rest := cut fun a => ~~~calendarMask a
    let k := fun (effect : Nat) (w : List (Nat × Word × Word)) =>
      ({ blk := .sch, fn := fn, tick := now s, effect := effect, writes := w, what := .regs } : Commit)
    { s with
      shadow := s.shadow.filter fun x => !(x.blk == .sch && x.fn == fn),
      commits := s.commits ++ [k (effectRound (now s)) rest] ++
        if cal.isEmpty then [] else [k (calendarRound (now s)) cal] }

/-- A node's shaper after a commit: one that the commit enables starts at BURST; another gains at its old
RATE up to the boundary and is capped at the new BURST (R324, R519). -/
def shaperEffect (old s : State) (n : Nat) : State :=
  let a := shaperOf old n
  let b := shaperOf s n
  if a = b then s
  else if !a.1 || !b.1 then putNode s n { node s n with credit := none }
  else
    let c := shaperCredit old n
    let cap := (b.2.2 * unit16 : Nat)
    putNode s n { node s n with credit := some (if (cap : Int) < c.amount then ⟨cap, 0, c.last⟩ else c) }

/-- Frames of a queue whose TENANCY changed end under TARGET_RESET (R331). -/
def queueEffect (old s : State) (n : Nat) : State :=
  if queueOwner old n = queueOwner s n then s
  else
    let p := n / 32768
    let ids := (node s n).queue
    ids.foldl (fun s id =>
      match frame? s id with
      | none => s
      | some f =>
        let q := node s n
        dropFrame (putNode s n { q with
          queue := q.queue.filter (· != id), cells := q.cells - cellsOf (tagLength f.tag) }) f
          (.tenancy (queueOwner old n)) rsTargetReset)
      (resetEmpty (putNode s n { node s n with flast := 0 }) p (queueOwner old n))

/-- What a scheduler commit does beside its words: shapers, queues that change their tenancy, and meters
filled (R324, R331, R333). `addrs` are the words that it wrote. -/
def schEffect (old s : State) (addrs : List Nat) : State :=
  let s := (List.range 16).foldl (fun s p => shaperEffect old s (portNode p)) s
  let objs := (addrs.map fun a => a / 16 * 16).eraseDups
  objs.foldl (fun s a =>
    if 0x100000000 ≤ a ∧ a < 0x110000000 then
      let n := (a - 0x100000000) / 16
      queueEffect old (shaperEffect old s n) n
    else if 0x110000000 ≤ a ∧ a < 0x120000000 then
      shaperEffect old s (0x2000000 + (a - 0x110000000) / 16)
    else if 0x120000000 ≤ a ∧ a < 0x130000000 then fillMeter s ((a - 0x120000000) / 16)
    else s) s

/-- EGRESS_CHOICE (R320). -/
def execEgressChoice (p : Fin 16) (s : State) : Out := act s (egressChoiceStep p.val)
/-- SCH_COMMIT (R338). -/
def execSchCommit (fn : FnId) (s : State) : Out := act s fun s => writeAs s fn 0x1B00000 (schCommitStep fn)
/-- SCH_READ (R337). -/
def execSchRead (fn : FnId) (s : State) : Out := act s fun s => writeAs s fn 0x1B0000C (schReadStep fn)
/-- SCH_WRITE (R337). -/
def execSchWrite (fn : FnId) (s : State) : Out := act s fun s => writeAs s fn 0x1B0000C (schWriteStep fn)

end Sys2Proof.Machine
end

