-- ==== Sys2Proof/Machine/Events.lean ====
section
/-! DEFINITION. The event recorder: placement, the Evening and Morning areas, flash copies, clearing and
views (R483–R494). -/

namespace Sys2Proof.Machine

open Sys2Proof

/-! ### Records (R484) -/

/-- The 32 bytes of a record. -/
def eventBytes (e : EvRec) : List Byte :=
  le 8 e.tick.toNat ++ le 8 e.time.toNat ++
    le 2 (e.source % 512 + flagBit e.epoch 9 + flagBit e.fatal 10 + flagBit e.lost 11 +
      flagBit e.morning 12) ++
    le 2 (e.tenancy % 1024) ++ le 1 e.code ++ le 1 e.reason ++ le 2 e.boot.toNat ++ le 8 e.detail.toNat

/-! ### Random draws -/

/-- 32 bytes from the device's random source. -/
def draw32 (s : State) : List Byte × State :=
  ((List.range 4).flatMap fun i => le 8 (Config.random (s.draws + i)).toNat, { s with draws := s.draws + 4 })

/-- A new clear nonce; EVR_NONCE_0–7 read it (R489). -/
def drawNonce (s : State) : State :=
  let d := draw32 s
  { d.2 with recorder := { d.2.recorder with nonce := d.1 } }

/-! ### Areas (R487, R488) -/

def eveningSize : Nat := 65536
def morningSize : Nat := 16384

/-- EVR_NEXT, EVR_MORNING_COUNT and EVR_STATUS follow the recorder (R493). -/
def showRecorder (s : State) : State :=
  let r := s.recorder
  let s := setWord64 s 0x400000 r.next
  let s := setWord s 0x400008 (BitVec.ofNat 32 r.morning.length)
  setWord s 0x40000C (BitVec.ofNat 32
    (flagBit (decide (morningSize ≤ r.morning.length)) 0 + flagBit r.copying.isSome 1 +
      flagBit r.flash.isSome 2 + r.boot.toNat * 65536))

/-- A copy to flash starts; it erases the one before (R488). -/
def startCopy (s : State) (cause : Nat) : State :=
  let r := s.recorder
  { s with recorder := { r with
      flash := none,
      copying := some
        { boot := r.boot, tick := s.tick, next := r.next, cause := cause, morning := r.morning,
          evening := ((r.evening.take 16256).map fun p => p.rec_).reverse } } }

/-- A trigger of a copy: during one, one more follows it (R488). -/
def triggerCopy (s : State) (cause : Nat) : State :=
  let r := s.recorder
  if r.copying.isSome then
    { s with recorder := { r with copyAgain := some (r.copyAgain.getD cause) } }
  else startCopy s cause

/-- One record placed: its sequence numbers, both areas, and the copies that it triggers (R487,
R488). -/
def placeRecord (s : State) (e : EvRec) : State :=
  let r := s.recorder
  let v := (look r.viewNext e.tenancy).getD 0
  let room := decide (r.morning.length < morningSize)
  let e := { e with morning := room }
  let r := { r with
    evening := (⟨v, e⟩ :: r.evening).take eveningSize,
    morning := if room then r.morning ++ [e] else r.morning,
    next := r.next + 1,
    viewNext := place r.viewNext e.tenancy (v + 1) }
  let s := { s with recorder := r }
  let s := if room && decide (r.morning.length = morningSize) then triggerCopy s 1 else s
  if e.fatal then triggerCopy s 2 else s

/-- The first record of the lowest source that has one, with its queue shortened. -/
def nextRecord (qs : Sparse (List EvRec)) : Option (EvRec × Sparse (List EvRec)) :=
  match qs with
  | [] => none
  | (k, q) :: rest =>
    match q with
    | [] => nextRecord rest
    | e :: more => some (e, if more.isEmpty then rest else (k, more) :: rest)

/-- Up to `n` records placed. -/
def placeRecords : Nat → State → State
  | 0, s => s
  | n + 1, s =>
    match nextRecord s.recorder.queues with
    | none => s
    | some (e, qs) =>
      placeRecords n (placeRecord { s with recorder := { s.recorder with queues := qs } } e)

/-- EVENT_PLACE: the placement of a tick, at most 32 records (R486). -/
def eventPlaceStep (s : State) : State :=
  if s.recorder.placedAt = some (now s) then s
  else
    let s := placeRecords 32 s
    showRecorder { s with recorder := { s.recorder with placedAt := some (now s) } }

/-- COPY_GO: EVR_COPY_GO written by PF0 of H0 (R488). -/
def copyGoStep (fn : FnId) (s : State) : State :=
  if fn ≠ pf0 then denied s fn 0x40001C else showRecorder (triggerCopy s 3)

/-- COPY_COMPLETE: the copy in progress is whole in flash; it goes on in a stopped device while VDD_AON and
VDD_IO hold (R488, R499). -/
def copyCompleteStep (s : State) : State :=
  let r := s.recorder
  match if s.power.aon && s.power.rails.contains .vddIo then r.copying else none with
  | none => s
  | some c =>
    let s := count { s with recorder := { r with copying := none, flash := some c } } 0x400018
    showRecorder (match r.copyAgain with
      | none => s
      | some cause => startCopy { s with recorder := { s.recorder with copyAgain := none } } cause)

/-- The bytes of a copy's region of flash, CRC-32C included (R488). -/
def copyBytes (c : FlashCopy) : List Byte :=
  let head := fun (crcField : List Byte) =>
    [0x53, 0x5A, 0x4D, 0x41] ++ le 2 1 ++ le 2 c.boot.toNat ++ le 8 c.tick.toNat ++ le 8 c.next ++
      le 2 c.morning.length ++ le 1 c.cause ++ [0] ++ le 4 c.evening.length ++ crcField
  let body := padTo (528384 - 4096) (c.morning.flatMap eventBytes) ++ c.evening.flatMap eventBytes
  let whole := fun (crcField : List Byte) => padTo 1048576 (padTo 4096 (head crcField) ++ body)
  whole (le 4 (crc .crc32c (whole [0, 0, 0, 0])))

/-- An accepted clear takes effect: the first `n` records of the Morning area go and a CLEAR record
becomes its first (R490). -/
def clearMorning (s : State) (n slot : Nat) : State :=
  let r := s.recorder
  let v := (look r.viewNext 0).getD 0
  let e : EvRec := ⟨s.tick, compactNow s, srcRecorder, s.tbs.midnights.getLsbD 0, false, false, true,
    0, evClear, 0, r.boot, BitVec.ofNat 64 (n + slot * 2 ^ 32)⟩
  showRecorder (count { s with recorder := { r with
    evening := (⟨v, e⟩ :: r.evening).take eveningSize,
    morning := e :: r.morning.drop n,
    next := r.next + 1,
    viewNext := place r.viewNext 0 (v + 1) } } 0x400014)

/-! ### Views (R491, R492, R494) -/

/-- A word of a function's event view block. -/
def viewAddr (fn : FnId) (off : Nat) : Nat := fnWordAddr fn (0x410000 + off)

/-- The function uses the platform view. -/
def platformView (s : State) (fn : FnId) : Bool := fn == pf0 || (fn == pf0h1 && mirror s != 0)

/-- The records of a function's view, oldest first, with their sequences. -/
def viewRecords (s : State) (fn : FnId) : List (EvRec × Nat) :=
  let r := s.recorder
  let all := r.evening.zipIdx.map fun x => (x.1, r.next - 1 - x.2)
  if platformView s fn then (all.map fun x => (x.1.rec_, x.2)).reverse
  else
    let t := fnTenancy s fn
    ((all.filter fun x => x.1.rec_.tenancy == t).map fun x => (x.1.rec_, x.1.view)).reverse

/-- Sequence that the view's next record takes. -/
def viewNextOf (s : State) (fn : FnId) : Nat :=
  if platformView s fn then s.recorder.next
  else (look s.recorder.viewNext (fnTenancy s fn)).getD 0

/-- The view's oldest sequence still held; its next when it holds none. -/
def viewOldest (s : State) (fn : FnId) : Nat :=
  match viewRecords s fn with
  | [] => viewNextOf s fn
  | x :: _ => x.2

/-- A window filled from a cursor. -/
def fillView (s : State) (fn : FnId) (cursor : Nat) (slots : List (EvRec × Nat)) : State :=
  let s := setWord64 s (viewAddr fn 0) cursor
  let s := setRf s (viewAddr fn 8) 6 0 slots.length
  { s with recorder := { s.recorder with views := place s.recorder.views (fnNum fn) ⟨slots⟩ } }

/-- CURSOR_WRITE: the window refreshed (R492). -/
def cursorWriteStep (fn : FnId) (cursor : Nat) (s : State) : State :=
  if platformView s fn && bit (word s (viewAddr fn 0x10)) 0 then
    let m := s.recorder.morning
    let c := min cursor m.length
    fillView s fn c (((m.zipIdx).drop c).take 64)
  else
    let oldest := viewOldest s fn
    let c := min cursor (viewNextOf s fn)
    let s := if c < oldest then
        let lost := min ((word s (viewAddr fn 0xC)).toNat + (oldest - c)) (2 ^ 32 - 1)
        setRf (setWord s (viewAddr fn 0xC) (BitVec.ofNat 32 lost)) (viewAddr fn 8) 8 8 1
      else s
    let c := max c oldest
    fillView s fn c (((viewRecords s fn).filter fun x => decide (c ≤ x.2)).take 64)

/-- EVR_VIEW_LOST read and cleared (R494). -/
def evrViewLostReadStep (fn : FnId) (s : State) : State :=
  let a := viewAddr fn 0xC
  setWord { s with reply := [word s a] } a 0

/-- A reset of a function starts its view anew (R492). -/
def resetView (s : State) (fn : FnId) : State :=
  let s := setWord64 s (viewAddr fn 0) (viewOldest s fn)
  let s := setWord (setWord (setWord s (viewAddr fn 8) 0) (viewAddr fn 0xC) 0) (viewAddr fn 0x10) 0
  { s with recorder := { s.recorder with views := remove s.recorder.views (fnNum fn) } }

/-- The 64 bytes of a slot of a view's window (R491). -/
def viewSlot (s : State) (fn : FnId) (k : Nat) : List Byte :=
  match ((look s.recorder.views (fnNum fn)).getD {}).slots[k]? with
  | some x => padTo 64 (eventBytes x.1 ++ le 8 x.2)
  | none => List.replicate 64 0

/-- EVENT_PLACE (R486). -/
def execEventPlace (s : State) : Out := act s eventPlaceStep
/-- COPY_GO (R488). -/
def execCopyGo (fn : FnId) (s : State) : Out := act s fun s => writeAs s fn 0x40001C (copyGoStep fn)
/-- COPY_COMPLETE (R488). -/
def execCopyComplete (s : State) : Out := actAlways s copyCompleteStep
/-- CURSOR_WRITE (R492). -/
def execCursorWrite (fn : FnId) (cursor : BitVec 64) (s : State) : Out :=
  act s fun s => writeAs s fn 0x410004 (cursorWriteStep fn cursor.toNat)
/-- EVR_VIEW_LOST_READ (R494). -/
def execEvrViewLostRead (fn : FnId) (s : State) : Out :=
  act s fun s => readAs s fn (evrViewLostReadStep fn)

end Sys2Proof.Machine
end

