-- ==== Sys2Proof/Machine/Time.lean ====
section
/-! DEFINITION. The Kalram timebase: its commits, Midnight, references and the servo, PPS
and frequency signals, timebase records, snapshots and transmit timestamps (R258–R280). -/

namespace Sys2Proof.Machine

open Sys2Proof

/-- The block of a function's commit, as its shadow values give it. -/
def timebaseBlock (s : State) (fn : FnId) : TbsCommit :=
  let w := fun (a : Nat) => (shadowWord s .tbs fn a).toNat
  { mode := w 0x30001C % 8
    incr := BitVec.ofNat 48 (w 0x300008 + w 0x30000C % 65536 * 2 ^ 32)
    offset := toSigned 64 (w 0x300010 + w 0x300014 * 2 ^ 32)
    sec := w 0x300020 + w 0x300024 % 65536 * 2 ^ 32
    ns := w 0x300028
    frac := w 0x30002C % 256 }

/-- TBS_ADJ_GO (R264, R272). -/
def tbsAdjGoStep (fn : FnId) (s : State) : State :=
  if !platform s fn then denied s fn 0x300030
  else
    let c := timebaseBlock s fn
    if 4 ≤ c.mode then timebaseEvent s 4 0
    else if c.mode < 2 ∧ bit (word s 0x300000) 0 then timebaseEvent (setLast s 8) 8 0
    else requestCommit s .tbs fn (.timebase c)

/-- SLEW_END: the span of a slew is over (R265). -/
def slewEndStep (s : State) : State :=
  if s.tbs.slewLeft = 0 ∧ bit (word s 0x300004) 5 then endSlew s else s

/-! ### Midnight (R262) -/

/-- MIDNIGHT: compact time wraps in this tick. -/
def midnightStep (s : State) : State :=
  let t := s.tbs
  if t.wrapAt.isSome ∨ fullUnits s < t.base.toNat + 2 ^ 64 then s
  else
    let s := keepReading { s with tbs := { t with midnights := t.midnights + 1, wrapAt := some (now s) } }
    setRf s 0x300004 31 16 s.tbs.midnights.toNat

/-- EPOCH_BASE_ADVANCE: the base moves on at the first round boundary after the wrap tick. -/
def epochBaseAdvanceStep (s : State) : State :=
  match s.tbs.wrapAt with
  | none => s
  | some w =>
    if now s % 256 ≠ 0 ∨ now s ≤ w then s
    else
      let old := s.tbs.base
      let s := { s with tbs := { s.tbs with base := old + BitVec.ofNat 96 (2 ^ 64), wrapAt := none } }
      let s := showBase (showBase s 0x300068 0x300090 old.toNat) 0x300060 0x30008C s.tbs.base.toNat
      timebaseEvent (timebaseRecord s tkMidnight 0) 0 tkMidnight

/-! ### PPS and frequency (R278) -/

/-- Ticks for which an edge keeps PPS_PRESENT: 1.5 s. -/
def ppsHold : Nat := 375000000

/-- PPS_IN_EDGE: a rising edge of TB_PPS_IN at a compact time (R278). -/
def ppsInEdgeStep (time : BitVec 64) (s : State) : State :=
  let at_ := time - BitVec.ofNat 64 (rf s 0x300078 15 0)
  let full := fullUnits s - (compactNow s - at_).toNat
  let part := full % unitsPerSecond
  let err : Int := if 2 * part < unitsPerSecond then part else (part : Int) - unitsPerSecond
  let late := match s.tbs.ppsEdge with
    | none => false
    | some e =>
      let d := (at_ - e).toNat
      decide (d < unitsPerSecond - 256000000 ∨ unitsPerSecond + 256000000 < d)
  let s := setRf (setWord64 s 0x300070 at_.toNat) 0x300004 3 3 1
  let s := { s with tbs := { s.tbs with
    ppsUntil := some (now s + ppsHold), ppsEdge := some at_, ppsError := err } }
  if late then timebaseEvent s 2 0 else s

/-- PPS_PRESENT_EXPIRE: 1.5 s without an edge. -/
def ppsPresentExpireStep (s : State) : State :=
  match s.tbs.ppsUntil with
  | none => s
  | some t =>
    if now s < t then s
    else setRf { s with tbs := { s.tbs with ppsUntil := none } } 0x300004 3 3 0

/-- Full time in units at the end of the current tick. -/
def unitsAtEnd (s : State) : Nat := (s.tbs.acc + s.tbs.incr.zeroExtend 128).toNat / 2 ^ 32

/-- PPS_OUT_EDGE: TB_PPS_OUT rises at a whole second plus OFFSET that lies in this tick, and falls WIDTH
later (R278). -/
def ppsOutEdgeStep (rise : Bool) (s : State) : State :=
  let off := toSigned 32 (word s 0x30007C).toNat * 256
  let k := fun (u : Nat) => ((u : Int) - 1 - off) / (unitsPerSecond : Int)
  let width := max 1 (rf s 0x300080 18 0) * 256000
  match s.tbs.ppsOut with
  | none =>
    if rise && bit (word s 0x300078) 16 && k (fullUnits s) != k (unitsAtEnd s) then
      { s with tbs := { s.tbs with
        ppsOut := some (k (unitsAtEnd s) * (unitsPerSecond : Int) + off).toNat } }
    else s
  | some u =>
    if !rise && decide (u + width < unitsAtEnd s) then { s with tbs := { s.tbs with ppsOut := none } }
    else s

/-- FREQ_IN_EDGE: an edge of TB_FREQ_IN; FREQ_PRESENT follows at the end of the round (R273, R280). -/
def freqInEdgeStep (s : State) : State := { s with tbs := { s.tbs with freqEdge := some (now s) } }

/-- FREQ_PRESENT at a round boundary: edges were seen in the last round. -/
def freqRound (s : State) : State :=
  let seen := match s.tbs.freqEdge with
    | some t => roundOf t + 1 == round s
    | none => false
  setRf s 0x300004 4 4 (if seen then 1 else 0)

/-! ### The servo (R272, R273) -/

/-- The servo may discipline the timebase. -/
def servoOn (s : State) : Bool := bit (word s 0x300000) 0 && rf s 0x300000 3 1 != 0

/-- The servo stops when SERVO_EN or REF_SEL goes to 0 (R273). -/
def servoCheck (s : State) : State :=
  if !servoOn s && servoState s != 0 then servoTo s 0 else s

/-- SERVO_ESTIMATE: an estimate of reference minus timebase, and the INCR that the servo commits
(R273). -/
def servoEstimateStep (offset : Int) (incr : BitVec 48) (s : State) : State :=
  if !servoOn s then s
  else
    let s := { s with tbs := { s.tbs with offset := offset, refPresent := true } }
    let limit := rf s 0x300000 31 16
    let m := offset.natAbs
    let t := s.tbs
    let enter := fun (s : State) =>
      let s := servoTo s 1
      if (word s 0x300018).toNat < m then servoCommit s 1 incr offset else servoCommit s 0 incr 0
    match servoState s with
    | 1 =>
      let good := if m ≤ limit then t.good + 1 else 0
      let s := { s with tbs := { t with good := good } }
      servoCommit (if 8 ≤ good then servoTo s 2 else s) 0 incr 0
    | 2 =>
      let bad := if 4 * limit < m then t.bad + 1 else 0
      if 4 ≤ bad then enter s
      else servoCommit { s with tbs := { t with bad := bad } } 0 incr 0
    | _ => enter s

/-- The last 2^20 rounds of a log of runs, newest first. -/
def trimLog : Nat → List (BitVec 48 × Nat) → List (BitVec 48 × Nat)
  | _, [] => []
  | n, x :: xs => if n ≤ x.2 then (if n = 0 then [] else [(x.1, n)]) else x :: trimLog (n - x.2) xs

/-- One more round of LOCKED is logged with its INCR. -/
def logIncr (s : State) : State :=
  if servoState s ≠ 2 then s
  else
    let log := match s.tbs.incrLog with
      | [] => [(s.tbs.incr, 1)]
      | x :: xs => if x.1 = s.tbs.incr then (x.1, x.2 + 1) :: xs else (s.tbs.incr, 1) :: x :: xs
    { s with tbs := { s.tbs with incrLog := trimLog (2 ^ 20) log } }

/-- REFERENCE_LOST (R273). -/
def referenceLostStep (s : State) : State :=
  let st := servoState s
  let s := { s with tbs := { s.tbs with refPresent := false, offset := 0 } }
  let lost := fun (s : State) => { s with tbs := { s.tbs with lostSinceHealth := true } }
  match st with
  | 1 => servoTo (lost s) 0
  | 2 => servoTo (servoCommit (lost s) 0 (meanIncr s) 0) 3
  | _ => s

/-! ### HEALTH, snapshots and transmit timestamps -/

/-- HEALTH_RECORD: at the boundaries whose round number mod 2^20 is 0 (R279). -/
def healthRecordStep (s : State) : State :=
  if now s % 256 ≠ 0 ∨ round s % 2 ^ 20 ≠ 0 then s
  else
    let s := settleSteps s
    let body := timebaseBody s tkHealth (now s) (fullUnits s) s.tbs.offset
    let s := timebaseRecord s tkHealth s.tbs.offset
    { s with
      tbs := { s.tbs with stepsSinceHealth := 0, lostSinceHealth := false },
      ledger := { s.ledger with lastHealth := body } }

/-- TBS_SNAP: the snapshot registers latch in the next tick (R280). -/
def tbsSnapStep (fn : FnId) (s : State) : State :=
  if !platform s fn then denied s fn 0x300040
  else { s with tbs := { s.tbs with snapAt := some (now s + 1) } }

/-- The snapshot registers take the readings of a tick. -/
def latchSnap (s : State) : State :=
  if s.tbs.snapAt ≠ some (now s) then s
  else
    let f := fullParts (fullUnits s)
    let s := setWord64 (setWord64 s 0x300044 (now s)) 0x30004C (compactNow s).toNat
    let s := setWord s 0x300054 (BitVec.ofNat 32 f.1)
    let s := setWord s 0x300058 (BitVec.ofNat 32 (f.1 / 2 ^ 32 % 65536 + f.2.1 / 2 ^ 24 * 65536))
    setWord { s with tbs := { s.tbs with snapAt := none } } 0x30005C
      (BitVec.ofNat 32 (f.2.1 % 2 ^ 24 * 256 + f.2.2))

/-- TXTS_HEAD_READ: the oldest transmit timestamp of a port (R276, R280). -/
def txtsHeadReadStep (fn : FnId) (p : Nat) (s : State) : State :=
  match (look s.tbs.txts p).getD [] with
  | [] => { s with reply := [0] }
  | e :: rest =>
    if !platform s fn then { s with reply := [0] }
    else
      let w := BitVec.ofNat 32 (e.1 % 65536 + e.2.1 * 65536 + e.2.2.1 * 2 ^ 20 + 2 ^ 31)
      let s := setWord64 s (0x303004 + p * 0x10) e.2.2.2.toNat
      { s with reply := [w], tbs := { s.tbs with txts := place s.tbs.txts p rest } }

/-- The timebase after a fundamental reset (R261). -/
def timebaseReset (s : State) : State := { s with tbs := {} }

/-- TBS_ADJ_GO (R264). -/
def execTbsAdjGo (fn : FnId) (s : State) : Out := act s fun s => writeAs s fn 0x300030 (tbsAdjGoStep fn)
/-- SLEW_END (R265). -/
def execSlewEnd (s : State) : Out := act s slewEndStep
/-- MIDNIGHT (R262). -/
def execMidnight (s : State) : Out := act s midnightStep
/-- EPOCH_BASE_ADVANCE (R262). -/
def execEpochBaseAdvance (s : State) : Out := act s epochBaseAdvanceStep
/-- PPS_IN_EDGE (R278). -/
def execPpsInEdge (time : BitVec 64) (s : State) : Out := act s (ppsInEdgeStep time)
/-- PPS_OUT_EDGE (R278). -/
def execPpsOutEdge (rise : Bool) (s : State) : Out := act s (ppsOutEdgeStep rise)
/-- PPS_PRESENT_EXPIRE (R278). -/
def execPpsPresentExpire (s : State) : Out := act s ppsPresentExpireStep
/-- FREQ_IN_EDGE (R273). -/
def execFreqInEdge (s : State) : Out := act s freqInEdgeStep
/-- SERVO_ESTIMATE (R273). -/
def execServoEstimate (offset : Int) (incr : BitVec 48) (s : State) : Out :=
  act s (servoEstimateStep offset incr)
/-- REFERENCE_LOST (R273). -/
def execReferenceLost (s : State) : Out := act s referenceLostStep
/-- HEALTH_RECORD (R279). -/
def execHealthRecord (s : State) : Out := act s healthRecordStep
/-- TBS_SNAP (R280). -/
def execTbsSnap (fn : FnId) (s : State) : Out := act s fun s => writeAs s fn 0x300040 (tbsSnapStep fn)
/-- TXTS_HEAD_READ (R276). -/
def execTxtsHeadRead (fn : FnId) (port : Fin 16) (s : State) : Out :=
  act s fun s => readAs s fn (txtsHeadReadStep fn port.val)

end Sys2Proof.Machine
end

