-- ==== Sys2Proof/Machine/Journal.lean ====
section
/-! DEFINITION. The ledger's life: enable and disable, early closing, seals, the drives of C0 and reading
back (R287–R297). -/

namespace Sys2Proof.Machine

open Sys2Proof

/-- The words of the drive map. -/
def mapWords (s : State) : List Nat :=
  (List.range 8).flatMap fun d => (List.range 5).map fun k => (word s (0x4000100 + d * 0x20 + k * 4)).toNat

/-- KEY_ID (R288). -/
def keyId : List Byte := slice (sha384 Config.identityPoint) 0 4

/-- The 12 bytes of a full time in units (R260). -/
def fullBytes (units : Nat) : List Byte :=
  let f := fullParts units
  le 6 f.1 ++ le 4 f.2.1 ++ le 1 f.2.2 ++ le 1 0

/-- The body of a CHAIN_START record (R288). -/
def chainStartBody (s : State) : List Byte :=
  let certs := Config.identityCerts.take 3008
  slice s.ledger.chainId 0 16 ++ le 8 Config.deviceId.toNat ++ keyId ++ le 2 certs.length ++ le 2 0 ++
    le 8 (now s) ++ fullBytes (fullUnits s) ++ List.replicate 12 0 ++ certs

/-- LDG_CHAIN_ID follows the chain. -/
def showChain (s : State) : State :=
  (List.range 4).foldl (fun s k =>
    setWord s (0x4000044 + 4 * k) (BitVec.ofNat 32 (leAt s.ledger.chainId (4 * k) 4))) s

/-- LDG_OLDEST: the oldest stored block. -/
def showOldest (s : State) : State :=
  setWord64 s 0x4000010 (match s.ledger.journal with
    | x :: _ => x.1
    | [] => match s.ledger.open_ with | some b => b.num | none => 0)

/-- A new chain: block 0 with its CHAIN_START record (R288). -/
def newChain (s : State) : State :=
  let d := draw32 s
  let s := d.2
  let s := { s with ledger := { s.ledger with
    chainId := d.1.take 16, journal := [], sealNo := 0, totalRecords := 0, totalGaps := 0,
    totalLost := 0, open_ := some { num := 0, prev := [], opened := round s } } }
  let s := setWord64 (setWord64 (showChain s) 0x4000020 0) 0x4000018 0
  putRecord s recChainStart 0 (plainRecord recChainStart 0 (compactNow s) (chainStartBody s))

/-- The chain resumes after its highest stored block (R296). -/
def resumeChain (s : State) (m : Nat) (stored : List Byte × BitVec 64) : State :=
  let s := { s with ledger := { s.ledger with
    open_ := some { num := m + 1, prev := sha384 stored.1, last := stored.2, opened := round s } } }
  let body := le 8 m ++ le 8 stored.2.toNat ++ le 1 s.ledger.stopCause ++ List.replicate 47 0
  putRecord s recRestart 0 (plainRecord recRestart 0 (compactNow s) body)

/-- LEDGER_ENABLE: ENABLE of LDG_CTRL written 1 by PF0 (R288, R291, R292, R296). -/
def ledgerEnableStep (fn : FnId) (s : State) : State :=
  if !platform s fn then denied s fn 0x4000000
  else if s.ledger.enabled then s
  else
    let ds := driveMap s
    let same := mapWords s == s.ledger.mapAtStop
    let s := setRf s 0x4000000 0 0 1
    let s := (List.range 8).foldl (fun s d =>
      let on := ds.contains d
      setWord s (0x4000114 + d * 0x20) (if !on then 0 else if s.power.c0Clock then 1 else 2)) s
    let s := setRf s 0x4000004 2 2 (if ds.isEmpty || s.power.c0Clock then 0 else 1)
    let s := { s with ledger := { s.ledger with
      enabled := true, drives := ds, stripes := journalSize s ds, gaps := [], spill := [],
      inFlight := [], sealDue := none } }
    let s := match (if bit (word s 0x4000040) 0 && same then s.ledger.journal.getLast? else none) with
      | some x => resumeChain s x.1 x.2
      | none => newChain s
    showOldest (ledgerStatus s)

/-- The ledger stops: the pending gap, the blocks on chip and the spill buffer are lost (R296). -/
def ledgerStop (s : State) (cause : Nat) : State :=
  if !s.ledger.enabled then s
  else
    let s := setRf s 0x4000000 0 0 0
    ledgerStatus { s with ledger := { s.ledger with
      enabled := false, open_ := none, spill := [], inFlight := [], gaps := [], sealDue := none, reads := [],
      stopCause := cause, mapAtStop := mapWords s } }

/-- LEDGER_DISABLE: ENABLE written 0 by PF0; the open block is closed first (R287, R296). -/
def ledgerDisableStep (fn : FnId) (s : State) : State :=
  if !platform s fn then denied s fn 0x4000000
  else if !s.ledger.enabled then s
  else ledgerStop (closeBlock s) 3

/-- BLOCK_CLOSE_TIMEOUT: the open block's first record has waited 1,024 rounds (R287). -/
def blockCloseTimeoutStep (s : State) : State :=
  match s.ledger.open_ with
  | none => s
  | some b =>
    if b.payload.isEmpty ∨ round s < b.opened + 1024 then s else ledgerStatus (closeBlock s)

/-! ### Seals (R289, R290) -/

/-- SEAL: at the boundaries whose round number mod 2^20 is 0 the block of the HEALTH record closes and the
first record place of the next block is reserved. -/
def sealStep (s : State) : State :=
  if now s % 256 ≠ 0 ∨ round s % 2 ^ 20 ≠ 0 ∨ !s.ledger.enabled ∨ s.ledger.sealDue.isSome then s
  else
    let s := match s.ledger.open_ with
      | some b => if b.payload.isEmpty then s else closeBlock s
      | none => s
    match s.ledger.open_ with
    | none => s
    | some b =>
      let l := s.ledger
      let due : SealDue :=
        { tick := now s, release := compactNow s, health := l.lastHealth, block := b.num - 1,
          head := b.prev, records := l.totalRecords, gaps := l.totalGaps, lost := l.totalLost }
      let b := { b with
        payload := List.replicate 352 0, records := 1, sealing := true, reserved := true,
        last := compactNow s, opened := round s }
      count64 { s with ledger := { l with
        open_ := some b, sealDue := some due, totalRecords := l.totalRecords + 1,
        lastRelease := compactNow s } } 0x4000020

/-- The 352 bytes of a seal record (R290). -/
def sealRecord (s : State) (d : SealDue) : List Byte :=
  let l := s.ledger
  let body := le 8 l.sealNo ++ le 8 d.block ++ slice d.head 0 48 ++ slice d.health 0 64 ++ le 8 d.records ++
    le 8 d.gaps ++ le 8 d.lost ++ le 8 d.tick ++ slice l.chainId 0 16 ++ le 8 Config.deviceId.toNat ++
    keyId ++ le 4 0
  let head := (plainRecord recSeal 0 d.release (List.replicate 288 0)).take 64
  head ++ body ++ slice (Config.identitySign (head ++ body)) 0 96

/-- Blocks of the spill buffer that waited for a seal close, each hashed into its successor (R289). -/
def closeWaiting (l : Ledger) : List Block → List Byte → List Block × List Byte
  | [], prev => ([], prev)
  | b :: bs, prev =>
    let b := if b.closed then b else { b with
      closed := true, prev := if b.prev.isEmpty ∧ b.num ≠ 0 then prev else b.prev }
    let r := closeWaiting l bs (sha384 (blockBytes l b))
    (b :: r.1, r.2)

/-- SEAL_COMPLETE: the signing engine has completed the seal (R289). -/
def sealCompleteStep (s : State) : State :=
  match s.ledger.sealDue with
  | none => s
  | some d =>
    let rec_ := sealRecord s d
    let fill := fun (b : Block) => if b.sealing then
      { b with sealing := false, payload := patch b.payload 0 rec_ } else b
    let l := s.ledger
    let w := closeWaiting l (l.spill.map fill) []
    let l := { l with
      sealDue := none, sealNo := l.sealNo + 1, spill := w.1,
      open_ := l.open_.map fun b =>
        let b := fill b
        if b.prev.isEmpty ∧ b.num ≠ 0 then { b with prev := w.2 } else b }
    let s := setWord64 { s with ledger := l } 0x4000018 (l.sealNo - 1)
    ledgerStatus (issueWrites s)

/-! ### The drives (R291, R293, R295) -/

/-- C0 command timeout in ticks (R295). -/
def c0Timeout (s : State) : Nat :=
  let ms := rf s 0x4000054 15 0
  (if ms = 0 then 100 else ms) * 250000

/-- A Write of a block failed: it is tried three times in all, then the drive has FAILED (R295). -/
def writeFailed (s : State) (d b : Nat) : State :=
  let l := s.ledger
  match l.inFlight.find? fun c => c.drive == d && c.block == b with
  | none => s
  | some c =>
    let s := count s (0x4000118 + d * 0x20)
    if c.tries < 2 then
      { s with ledger := { l with inFlight := l.inFlight.map fun x =>
          if x.drive = d ∧ x.block = b then { x with tries := x.tries + 1, sent := now s } else x } }
    else
      let s := { s with ledger := { l with
        inFlight := l.inFlight.filter (fun x => !(x.drive == d && x.block == b)),
        spill := l.spill.filter fun x => x.num != b } }
      let s := setRf (setRf s (0x4000114 + d * 0x20) 1 1 1) 0x4000004 2 2 1
      let s := event (count s 0x4000034) srcLedger evLimit (detail d b)
      ledgerStatus (issueWrites s)

/-- DRIVE_WRITE_COMPLETE: a drive's completion entry for a block (R292, R295). -/
def driveWriteCompleteStep (d b : Nat) (ok : Bool) (s : State) : State :=
  let l := s.ledger
  if !(l.inFlight.any fun c => c.drive == d && c.block == b) then s
  else if !ok then writeFailed s d b
  else
    match l.spill.find? fun x => x.num == b with
    | none => s
    | some blk =>
      let kept := l.journal.filter fun x => !decide (x.1 + l.stripes ≤ b)
      let s := { s with ledger := { l with
        inFlight := l.inFlight.filter (fun x => !(x.drive == d && x.block == b)),
        spill := l.spill.filter (fun x => x.num != b),
        journal := place kept b (blockBytes l blk, blk.last) } }
      showOldest (ledgerStatus (issueWrites s))

/-- C0_COMMAND_TIMEOUT: no completion entry in time; the command is aborted and tried again (R295). -/
def c0CommandTimeoutStep (d b : Nat) (s : State) : State :=
  match s.ledger.inFlight.find? fun c => c.drive == d && c.block == b with
  | none => s
  | some c => if now s < c.sent + c0Timeout s then s else writeFailed s d b

/-! ### Reading back (R297) -/

/-- Host address of a read descriptor. -/
def readAddr (s : State) (q : LedgerRead) : Nat :=
  match (item? s q.ring q.pos).bind fun i => i.desc with
  | some d => leAt d 16 8
  | none => 0

/-- A read with all its blocks: they are written to host memory, then the completion. -/
def finishRead (s : State) (q : LedgerRead) : State :=
  if q.got.length < q.count then s
  else
    let s := { s with ledger := { s.ledger with
      reads := s.ledger.reads.filter fun x => !(x.ring == q.ring && x.pos == q.pos) } }
    match item? s q.ring q.pos, ringOwner s q.ring with
    | some i, some fn =>
      let a := readAddr s q
      let s := (List.range q.count).foldl (fun s k =>
        match q.got.find? fun x => x.1 == q.first + k with
        | some x => writeBuffer s fn (a + 4096 * k) x.2 false
        | none => s) s
      endItem s q.ring i 0 0
    | _, _ => s

/-- First block that is not yet closed. -/
def firstOpen (s : State) : Nat :=
  match s.ledger.spill.find? fun b => !b.closed with
  | some b => b.num
  | none => match s.ledger.open_ with
    | some b => b.num
    | none => match s.ledger.journal.getLast? with | some x => x.1 + 1 | none => 0

/-- One read descriptor of the ledger read ring. -/
def ledgerReadOne (s : State) (r : Nat) (fn : FnId) (i : SendItem) (d : List Byte) : State :=
  let first := leAt d 0 8
  let n := leAt d 8 4
  let s := setItem s r i.pos fun j => { j with processed := true }
  if !platform s fn then endItem s r i 2 rsTenancy
  else if n = 0 ∨ 256 < n ∨ leAt d 12 4 ≠ 0 ∨ leAt d 24 8 ≠ 0 ∨ leAt d 16 8 % 4096 ≠ 0 then
    endItem s r i 2 rsBadDescriptor
  else if first < word64 s 0x4000010 then endItem s r i 1 0
  else if firstOpen s < first + n then endItem s r i 2 0
  else
    let l := s.ledger
    let got := (l.spill.filter fun b => decide (first ≤ b.num ∧ b.num < first + n)).map fun b =>
      (b.num, blockBytes l b)
    let q : LedgerRead := { ring := r, pos := i.pos, first := first, count := n, got := got }
    finishRead { s with ledger := { l with reads := l.reads ++ [q] } } q

/-- LEDGER_READ: read descriptors that have arrived on the ledger read ring (R297). -/
def ledgerReadStep (r : Nat) (s : State) : State :=
  match ringOwner s r with
  | none => s
  | some fn =>
    if !ledgerRing s r then s
    else (ring s r).items.foldl (fun s i =>
      match i.desc with
      | some d => if i.processed then s else ledgerReadOne s r fn i d
      | none => s) s

/-- DRIVE_READ_COMPLETE: a drive returns a block of the journal, or the read fails (R297). -/
def driveReadCompleteStep (d b : Nat) (data : List Byte) (fail : Option ReadFail) (s : State) : State :=
  if driveOf s b ≠ d then s
  else match s.ledger.reads.find? fun q =>
      decide (q.first ≤ b ∧ b < q.first + q.count) && !(q.got.any fun x => x.1 == b) with
    | none => s
    | some q =>
      match fail with
      | some f =>
        let s := { s with ledger := { s.ledger with
          reads := s.ledger.reads.filter fun x => !(x.ring == q.ring && x.pos == q.pos) } }
        (match item? s q.ring q.pos with
          | some i => endItem s q.ring i 3 (if f = .poisoned then rsPoisoned else rsTimeout)
          | none => s)
      | none =>
        let q' := { q with got := q.got ++ [(b, slice data 0 4096)] }
        finishRead { s with ledger := { s.ledger with
          reads := s.ledger.reads.map fun x => if x = q then q' else x } } q'

/-- Capture buckets gain at a round boundary (R284). -/
def capturesGain (s : State) : State :=
  let l := s.ledger
  { s with ledger := { l with credit := l.credit.map fun x =>
      let quota := (word s (0x4001000 + x.1 * 16)).toNat
      (x.1, min (65536 * quota) (x.2 + 1024 * quota)) } }

/-- BLOCK_CLOSE_TIMEOUT (R287). -/
def execBlockCloseTimeout (s : State) : Out := act s blockCloseTimeoutStep
/-- SEAL (R289). -/
def execSeal (s : State) : Out := act s sealStep
/-- SEAL_COMPLETE (R289). -/
def execSealComplete (s : State) : Out := act s sealCompleteStep
/-- DRIVE_WRITE_COMPLETE (R295). -/
def execDriveWriteComplete (drive : Fin 8) (block : Nat) (ok : Bool) (s : State) : Out :=
  act s (driveWriteCompleteStep drive.val block ok)
/-- C0_COMMAND_TIMEOUT (R295). -/
def execC0CommandTimeout (drive : Fin 8) (block : Nat) (s : State) : Out :=
  act s (c0CommandTimeoutStep drive.val block)
/-- LEDGER_ENABLE (R296). -/
def execLedgerEnable (fn : FnId) (s : State) : Out :=
  act s fun s => writeAs s fn 0x4000000 (ledgerEnableStep fn)
/-- LEDGER_DISABLE (R296). -/
def execLedgerDisable (fn : FnId) (s : State) : Out :=
  act s fun s => writeAs s fn 0x4000000 (ledgerDisableStep fn)
/-- LEDGER_READ (R297). -/
def execLedgerRead (ring : Fin 65536) (s : State) : Out := act s (ledgerReadStep ring.val)
/-- DRIVE_READ_COMPLETE (R297). -/
def execDriveReadComplete (drive : Fin 8) (block : Nat) (data : List Byte) (fail : Option ReadFail)
    (s : State) : Out := act s (driveReadCompleteStep drive.val block data fail)

end Sys2Proof.Machine
end

