-- ==== Sys2Proof/Machine/CodeRules.lean ====
section
/-! DEFINITION. The structural rules that the loader checks on the code of an image (R128), all but
Budget: encodings, forward flow, loops, calls, the link register, X pairs and ends. Places are word
indices; the loader names a broken rule by its code offset. -/

namespace Sys2Proof.Machine

open Sys2Proof

/-- The word at an index; `none` past the end of the code. -/
abbrev wordIn (code : List Word) (i : Nat) : Option Word := code[i]?

/-- Opcode of the word at an index; 0x40 past the end. -/
def opAt (code : List Word) (i : Nat) : Nat := match wordIn code i with
  | some w => wfld w 31 26
  | none => 0x40

/-- Field of the word at an index. -/
def fldAt (code : List Word) (i hi lo : Nat) : Nat := match wordIn code i with
  | some w => wfld w hi lo
  | none => 0

/-- The condition of a branch, call, return or DONE is always 1, or never (p0 reads 1). -/
def condAlways (code : List Word) (i : Nat) : Bool := fldAt code i 25 22 == 0
def condNever (code : List Word) (i : Nat) : Bool := fldAt code i 25 22 == 1

/-- Targets of a BR and of a CALL at an index. -/
def brTarget (code : List Word) (i : Nat) : Nat := i + 1 + fldAt code i 21 0
def callTarget (code : List Word) (i : Nat) : Nat := fldAt code i 21 0

/-- Places that an instruction's own routine goes on at, a CALL going on after its return. -/
def nextIn (code : List Word) (i : Nat) : List Nat :=
  match opAt code i with
  | 0x20 =>
    if condAlways code i then [brTarget code i]
    else if condNever code i then [i + 1] else [i + 1, brTarget code i]
  | 0x21 => [i + 1, i + 1 + fldAt code i 9 0]
  | 0x22 => [i + 1, i + 1 - fldAt code i 9 0]
  | 0x24 => if condAlways code i then [] else [i + 1]
  | 0x25 => if condAlways code i then [] else [i + 1]
  | 0x3E => [i + 2]
  | 0x40 => []
  | _ => [i + 1]

/-- The routine that a word calls. -/
def callsAt (code : List Word) (i : Nat) : List Nat :=
  if opAt code i = 0x23 ∧ !condNever code i then [callTarget code i] else []

/-- Everything that `next` reaches from a set in a number of rounds. -/
def reachBy (next : Nat → List Nat) : Nat → List Nat → List Nat
  | 0, m => m
  | k + 1, m => reachBy next k (m ++ m.flatMap next).eraseDups

/-- Words of the routine that starts at an index. -/
def routine (code : List Word) (start : Nat) : List Nat := reachBy (nextIn code) (code.length + 1) [start]

/-- Words reachable from a set of starts, called routines included. -/
def reachable_ (code : List Word) (starts : List Nat) : List Nat :=
  reachBy (fun i => nextIn code i ++ callsAt code i) (code.length + 1) starts

/-- An instruction writes general register `r` (R109, R113–R121, R134). -/
def writesReg (w : Word) (r : Nat) : Bool :=
  let op := wfld w 31 26
  let top := wfld w 25 21 == r
  let fn := wfld w 7 0
  if op = 0x01 then top
  else if op = 0x03 then wfld w 6 0 == 6 && top
  else if 0x04 ≤ op ∧ op ≤ 0x0A then top
  else if op = 0x11 ∨ op = 0x12 ∨ op = 0x13 then top
  else if op = 0x14 ∨ op = 0x16 ∨ op = 0x18 then top
  else if op = 0x21 ∨ op = 0x22 then top
  else if op = 0x23 then r == 31
  else if op = 0x38 then
    (fn != 0x18 && top) || ((fn == 0x2A || (fn == 0x14 && wfld w 10 8 == 2)) && wfld w 15 11 == r)
  else false

/-- A loop: its LOOP, the last word of its body and its count register. -/
abbrev LoopAt := Nat × Nat × Nat

/-- The reachable loops. -/
def loopsOf (code : List Word) (live : List Nat) : List LoopAt :=
  (live.filter fun i => opAt code i == 0x21).map fun i => (i, i + fldAt code i 9 0, fldAt code i 25 21)

/-- An index lies in a loop's body. -/
def inBody (l : LoopAt) (i : Nat) : Bool := decide (l.1 < i ∧ i ≤ l.2.1)

/-- A jump from one place to another enters no body from outside it. -/
def jumpOk (loops : List LoopAt) (from_ to_ : Nat) : Bool :=
  loops.all fun l => !inBody l to_ || inBody l from_

/-- Two bodies nest or do not overlap. -/
def bodiesOk (a b : LoopAt) : Bool :=
  a == b || decide (a.2.1 < b.1 ∨ b.2.1 < a.1) || (inBody a b.1 && decide (b.2.1 ≤ a.2.1)) ||
    (inBody b a.1 && decide (a.2.1 ≤ b.2.1))

/-- Calls from a routine stay within the levels left (R128). -/
def depthOk (code : List Word) : Nat → Nat → Bool
  | 0, _ => false
  | k + 1, start => (routine code start).all fun i => (callsAt code i).all (depthOk code k)

/-- The word that does the work of the instruction at an index: the second of a pair, behind its X word (R108). -/
def workWord (code : List Word) (i : Nat) : Option Word := wordIn code (if opAt code i = 0x3E then i + 1 else i)

/-- The instruction at an index writes a general register. -/
def writesRegAt (code : List Word) (i r : Nat) : Bool := match workWord code i with
  | some w => writesReg w r
  | none => false

/-- An LST of g31 stores the link of the routine that starts at `start`, on every path to it: no call of the routine
lies between, or an LLD that restores g31 lies behind the call. -/
def storesLink (code : List Word) (start j : Nat) : Bool :=
  let after := (routine code start).flatMap fun k => if (callsAt code k).isEmpty then [] else nextIn code k
  let lost := reachBy (fun k => if opAt code k = 0x16 ∧ fldAt code k 25 21 = 31 then [] else nextIn code k)
    (code.length + 1) after
  opAt code j == 0x17 && fldAt code j 25 21 == 31 && fldAt code j 15 14 == 3 && !lost.contains j

/-- An LLD restores into g31 what its routine stored: on every path from the routine's start to it an LST has stored the
link at the same place, and nothing in between makes that another place or stores there again. -/
def restoresLink (code : List Word) (starts : List Nat) (i : Nat) : Bool :=
  let base := fldAt code i 20 16
  let same := fun (j : Nat) => opAt code j == 0x17 && fldAt code j 20 16 == base &&
    fldAt code j 11 0 == fldAt code i 11 0
  opAt code i == 0x16 && fldAt code i 15 14 == 3 &&
    (starts.filter fun r => (routine code r).contains i).all fun r =>
      let words := routine code r
      let unstored := reachBy (fun k => if same k then [] else nextIn code k) (code.length + 1) [r]
      !unstored.contains i && (words.all fun j => !same j || storesLink code r j) &&
        (base == 0 || words.all fun j => !writesRegAt code j base)

/-- An instruction of the loop's body, or of a routine called from it, writes its count. -/
def countWritten (code : List Word) (live : List Nat) (l : LoopAt) : Bool :=
  let body := live.filter fun i => inBody l i
  let called := reachable_ code (body.flatMap (callsAt code))
  ((body.filter fun i => i != l.2.1) ++ called).any fun i => writesRegAt code i l.2.2

/-- A reachable word breaks one of the rules. -/
def breaksAt (code : List Word) (entries live starts : List Nat) (loops : List LoopAt) (i : Nat) : Bool :=
  match wordIn code i with
  | none => true
  | some w =>
    let op := wfld w 31 26
    let seconds := (live.filter fun j => opAt code j == 0x3E).map fun j => j + 1
    let targets := (if op = 0x20 then [brTarget code i] else []) ++ callsAt code i
    illegalAt w (wordIn code (i + 1)) ||
      targets.any (fun t => seconds.contains t || decide (code.length ≤ t)) ||
      (op == 0x20 && !condNever code i && !jumpOk loops i (brTarget code i)) ||
      (op == 0x23 && !condNever code i && (decide (callTarget code i ≤ i) || !jumpOk loops i (i + 1))) ||
      (op == 0x21 && (opAt code (i + fldAt code i 9 0) != 0x22 ||
        fldAt code (i + fldAt code i 9 0) 25 21 != fldAt code i 25 21 ||
        fldAt code (i + fldAt code i 9 0) 9 0 != fldAt code i 9 0)) ||
      (op == 0x22 && !(loops.any fun l => l.2.1 == i && l.2.2 == fldAt code i 25 21)) ||
      (op == 0x21 && (loops.any fun l => l.1 == i &&
        (countWritten code live l || loops.any fun m => !bodiesOk l m))) ||
      (op != 0x23 && writesRegAt code i 31 && !restoresLink code starts i) ||
      (op == 0x24 && !condNever code i && (entries.any fun e => (routine code e).contains i)) ||
      (entries.contains i && (seconds.contains i || loops.any fun l => inBody l i))

/-- The code offset of the first word that breaks a rule of R128 other than Budget; entries are code
offsets. -/
def codeFault (code : List Word) (entries : List Nat) : Option Nat :=
  let es := entries.map fun e => e / 4
  let live := reachable_ code es
  let starts := (es ++ live.flatMap (callsAt code)).eraseDups
  let loops := loopsOf code live
  let bad := live.filter (breaksAt code es live starts loops)
  let deep := es.filter fun e => !depthOk code 5 e
  match bad ++ deep with
  | [] => none
  | x :: m => some (4 * m.foldl min x)

/-- Tables that the reachable code names, rule sets, and whether it uses mailboxes (R137). -/
def codeDevs (code : List Word) (entries : List Nat) (fns : List Nat) : List Word :=
  (reachable_ code (entries.map fun e => e / 4)).filterMap fun i => match wordIn code i with
    | some w => if wfld w 31 26 = 0x38 ∧ fns.contains (wfld w 7 0) then some w else none
    | none => none

/-- The 8-bit object number of a device operation (R140, R145). -/
def objNumber (w : Word) : Nat := wfld w 15 11 * 8 + wfld w 10 8

end Sys2Proof.Machine
end

