-- ==== Sys2Proof/Machine/PathCount.lean ====
section
/-! DEFINITION. The loader's count of a program (R128, R138, R139, R166, R167, R209): what its registers can hold, the
longest path in ticks with the stalls of R111, the uses per frame, and the objects that the code names. Places are word
indices.

R139 and R167 have the loader bound operands "from the code" and do not say how: here by the interval of unsigned values
that each register can hold at each place, over every path, whatever the predicates are; registers are unknown at an entry
and after a call returns (DESIGN CHOICE). -/

namespace Sys2Proof.Machine

open Sys2Proof

/-! ### What the registers can hold -/

/-- The unsigned values that a register can hold. -/
structure Span where
  lo : Nat
  hi : Nat
  deriving DecidableEq, Repr

/-- Any value of 64 bits, and one value. -/
def Span.any : Span := ⟨0, 2 ^ 64 - 1⟩
def Span.one (v : Nat) : Span := ⟨v, v⟩

/-- The value, where there is one. -/
def Span.value (a : Span) : Option Nat := if a.lo = a.hi then some a.lo else none

/-- The interval, where no value in it needs more than 64 bits. -/
def Span.fit (lo hi : Nat) : Span := if hi < 2 ^ 64 then ⟨lo, hi⟩ else Span.any

/-- Both intervals' values. -/
def Span.hull (a b : Span) : Span := ⟨min a.lo b.lo, max a.hi b.hi⟩

/-- As the hull, with a bound that moves taken as far as it can go. -/
def Span.widen (a b : Span) : Span := ⟨if b.lo < a.lo then 0 else a.lo, if a.hi < b.hi then 2 ^ 64 - 1 else a.hi⟩

/-- The registers at a place. -/
abbrev Env := List Span

/-- Nothing known, but that g0 is 0. -/
def Env.start : Env := Span.one 0 :: List.replicate 31 Span.any

def Env.get (e : Env) (r : Nat) : Span := if r = 0 then Span.one 0 else e.getD r Span.any
def Env.put (e : Env) (r : Nat) (a : Span) : Env := if r = 0 then e else e.set r a

/-- The place of the instruction itself: past its X word. -/
def coreAt (code : List Word) (i : Nat) : Nat := if opAt code i = 0x3E then i + 1 else i

/-- The immediate of the instruction at a place, widened by an X word, as 64 bits (R108, R114). -/
def immAt (code : List Word) (i : Nat) (signed : Bool) : Nat :=
  let x : Option (BitVec 26) := if opAt code i = 0x3E then some (BitVec.ofNat 26 (fldAt code i 25 0)) else none
  let m : Imm := ⟨BitVec.ofNat 16 (fldAt code (coreAt code i) 15 0), x⟩
  if signed then (immS m).toNat else (immZ m).toNat

/-- The ALU function of two operands, by FN (R113). -/
def aluFn (fn : Nat) (a b : DWord) : DWord :=
  ([aluAdd, aluSub, aluMul, aluMulhu, aluAnd, aluOr, aluXor, aluAndn, aluShl, aluShr, aluSar, aluRol, aluMin, aluMax,
    aluMinu, aluMaxu, aluAdd, aluClz, aluCtz, aluPopc, aluBsw16, aluBsw32, aluBsw64].getD fn aluAdd) a b

/-- Values of a function of two operands: its value where both are known, else the bound given. -/
def both (a b : Span) (f : DWord → DWord → DWord) (bound : Span) : Span :=
  match a.value, b.value with
  | some x, some y => Span.one (f (BitVec.ofNat 64 x) (BitVec.ofNat 64 y)).toNat
  | _, _ => bound

/-- Values of an ALU function (R113). -/
def aluSpan (fn : Nat) (a b : Span) : Span :=
  let f := aluFn fn
  match fn with
  | 0x00 => both a b f (Span.fit (a.lo + b.lo) (a.hi + b.hi))
  | 0x02 => both a b f (Span.fit (a.lo * b.lo) (a.hi * b.hi))
  | 0x04 => both a b f ⟨0, min a.hi b.hi⟩
  | 0x07 => both a b f ⟨0, a.hi⟩
  | 0x09 => both a b f ⟨0, a.hi⟩
  | 0x0E => both a b f ⟨min a.lo b.lo, min a.hi b.hi⟩
  | 0x0F => both a b f ⟨max a.lo b.lo, max a.hi b.hi⟩
  | 0x10 => a.hull b
  | 0x11 | 0x12 | 0x13 => both a b f ⟨0, 64⟩
  | 0x14 => both a b f ⟨0, 2 ^ 16 - 1⟩
  | 0x15 => both a b f ⟨0, 2 ^ 32 - 1⟩
  | _ => both a b f Span.any

/-- Values that an I-format instruction writes (R114). -/
def immSpan (code : List Word) (i : Nat) (a d : Span) : Span :=
  let c := coreAt code i
  let z := Span.one (immAt code i false)
  let k := fldAt code c 5 0
  let len := fldAt code c 11 6 + 1
  match opAt code c with
  | 0x04 => aluSpan 0x00 a (Span.one (immAt code i true))
  | 0x05 => aluSpan 0x04 a z
  | 0x06 => aluSpan 0x05 a z
  | 0x07 => aluSpan 0x06 a z
  | 0x08 => both a (Span.one k) aluShl (Span.fit (a.lo * 2 ^ k) (a.hi * 2 ^ k))
  | 0x09 => ⟨a.lo / 2 ^ k, a.hi / 2 ^ k⟩
  | 0x0A => both a (Span.one k) aluSar Span.any
  | 0x11 =>
    (match a.value with
      | some x => Span.one (x % 2 ^ 32 + immAt code i true % 2 ^ 32 * 2 ^ 32)
      | none => Span.any)
  | 0x12 => both a (Span.one 0) (fun x _ => BitVec.ofNat 64 (bits x.toNat (k + len - 1) k)) ⟨0, 2 ^ len - 1⟩
  | 0x13 => both d a (fun x v => BitVec.ofNat 64
      (x.toNat - bits x.toNat (k + len - 1) k * 2 ^ k + bits v.toNat (len - 1) 0 * 2 ^ k)) Span.any
  | _ => Span.any

/-- The registers after the instruction at a place, one that neither branches nor counts a loop: an instruction whose
guard may be false leaves the old value too (R112). -/
def envAfter (code : List Word) (i : Nat) (e : Env) : Env :=
  let c := coreAt code i
  let op := opAt code c
  let rd := fldAt code c 25 21
  let a := e.get (fldAt code c 20 16)
  let guarded := fun (v : Span) =>
    if fldAt code c 10 7 = 0 then v else if fldAt code c 10 7 = 1 then e.get rd else v.hull (e.get rd)
  if op = 0x01 then
    let b := e.get (fldAt code c 15 11)
    e.put rd (if fldAt code c 6 0 = 0x10 then aluSpan 0x10 a b else guarded (aluSpan (fldAt code c 6 0) a b))
  else if (0x04 ≤ op ∧ op ≤ 0x0A) ∨ (0x11 ≤ op ∧ op ≤ 0x13) then e.put rd (immSpan code i a (e.get rd))
  else if op = 0x14 ∨ op = 0x16 ∨ op = 0x18 then
    e.put rd (if fldAt code c 12 12 = 0 then ⟨0, 2 ^ (8 * 2 ^ fldAt code c 15 14) - 1⟩ else Span.any)
  else match wordIn code c with
    | some w => (List.range 32).foldl (fun e r => if writesReg w r then e.put r Span.any else e) e
    | none => e

/-- Where control goes from a place, called routines among them, and the registers there (R123–R126). -/
def envOuts (code : List Word) (i : Nat) (e : Env) : List (Nat × Env) :=
  match opAt code i with
  | 0x21 =>
    let gc := fldAt code i 25 21
    (nextIn code i).map fun j => (j, e.put gc ⟨0, fldAt code i 19 10⟩)
  | 0x22 =>
    let gc := fldAt code i 25 21
    (nextIn code i).map fun j => (j, e.put gc ⟨0, (e.get gc).hi⟩)
  | 0x23 => ((callsAt code i).map fun j => (j, e.put 31 (Span.one (4 * (i + 1))))) ++ [(i + 1, Env.start)]
  | _ => (nextIn code i).map fun j => (j, envAfter code i e)

/-- The registers at every place that a path reaches. -/
abbrev Flow := List (Option Env)

/-- Registers brought to a place. -/
def flowJoin (wide : Bool) (m : Flow) (x : Nat × Env) : Flow :=
  match m.getD x.1 none with
  | none => m.set x.1 (some x.2)
  | some old => m.set x.1 (some (List.zipWith (fun a b => if wide then a.widen b else a.hull b) old x.2))

/-- One pass over the code. -/
def flowPass (code : List Word) (wide : Bool) (m : Flow) : Flow :=
  (List.range code.length).foldl (fun m i => match m.getD i none with
    | some e => (envOuts code i e).foldl (flowJoin wide) m
    | none => m) m

/-- Passes until nothing changes, at most a number of them. -/
def flowRun (code : List Word) (wide : Bool) : Nat → Flow → Flow
  | 0, m => m
  | k + 1, m =>
    let n := flowPass code wide m
    if n = m then m else flowRun code wide k n

/-- The registers at every place, from the entries on: the exact hull while as many passes as the code has words settle
it, and widened from there on. -/
def flowOf (code : List Word) (starts : List Nat) : Flow :=
  let m := starts.foldl (fun (m : Flow) i => m.set i (some Env.start)) (List.replicate code.length none)
  flowRun code true (64 * (code.length + 1)) (flowRun code false (code.length + 1) m)

/-- A register's values at a place. -/
def spanAt (m : Flow) (i r : Nat) : Span := match m.getD i none with
  | some e => e.get r
  | none => Span.any

/-! ### The tables as placed (R137, R209) -/

/-- A table's latency, and the slots that a lookup of it takes. -/
structure TableCost where
  table : Nat
  latency : Nat
  slots : Nat
  deriving DecidableEq, Repr

/-- The cost of a table; one that is not listed is standard and in table memory. -/
def costOf (ts : List TableCost) (n : Nat) : TableCost := (ts.find? fun t => t.table == n).getD ⟨n, 6, 1⟩

/-! ### Instructions on a path -/

/-- The function of a device operation at a place. -/
def devAt (code : List Word) (i : Nat) : Option Nat := if opAt code i = 0x38 then some (fldAt code i 7 0) else none

/-- The greatest number of bytes that a check operation at a place scans (R139, R155, R156). -/
def checkBytes (code : List Word) (m : Flow) (i : Nat) : Nat :=
  let fn := fldAt code i 7 0
  let from_ := (spanAt m i (fldAt code i 20 16)).lo
  if fn < 0x48 then
    min (spanAt m i (fldAt code i 15 11)).hi ((if fldAt code i 10 10 = 1 then 512 else 16384) - from_)
  else if fn < 0x4C then 16380 - from_
  else 16380 - [4, 4, 2, 8].getD (fn % 4) 4 - from_

/-- Latency of the result of the instruction at a place (R110, R137). -/
def latencyAt (code : List Word) (ts : List TableCost) (m : Flow) (i : Nat) : Nat :=
  match opAt code i with
  | 0x16 => 2
  | 0x18 => 6
  | 0x38 =>
    let fn := fldAt code i 7 0
    if fn ≤ 2 then (costOf ts (fldAt code i 15 11 * 8 + fldAt code i 10 8)).latency
    else if fn = 0x04 then 24
    else if fn = 0x05 then 3
    else if (0x08 ≤ fn ∧ fn ≤ 0x0A) ∨ fn = 0x19 then 48
    else if fn = 0x0C then 8 * (fldAt code i 10 8 + 1)
    else if fn = 0x14 ∨ fn = 0x18 then 1
    else if fn = 0x30 ∨ fn = 0x31 then 13
    else if 0x40 ≤ fn then 4 + ceilDiv (checkBytes code m i) 64
    else 2
  | _ => 1

/-- Registers (0–31) and predicates (32 + n) that the instruction at a place names (R109, R111, R124–R126). -/
def namesAt (code : List Word) (i : Nat) : List Nat :=
  let c := coreAt code i
  let rd := fldAt code c 25 21
  let ra := fldAt code c 20 16
  let rb := fldAt code c 15 11
  let pd := 32 + fldAt code c 25 23
  let pq := 32 + fldAt code c 10 8
  let preds := (List.range 8).map (32 + ·)
  match opAt code c with
  | 0x01 => [rd, ra, rb, pq]
  | 0x02 => [pd, ra, rb, pq]
  | 0x03 =>
    (match fldAt code c 6 0 with
      | 5 => [pd, ra, pq]
      | 6 => [rd, pq] ++ preds
      | 7 => [ra, pq] ++ preds
      | _ => [pd, 32 + fldAt code c 20 18, 32 + fldAt code c 15 13, pq])
  | 0x20 | 0x25 => [pd]
  | 0x21 | 0x22 => [rd]
  | 0x23 | 0x24 => [pd, 31]
  | 0x38 =>
    let fn := fldAt code c 7 0
    if fn ≤ 2 ∨ fn = 0x04 then [rd, ra] else [rd, ra, rb]
  | op => if 0x0B ≤ op ∧ op ≤ 0x10 then [pd, ra] else [rd, ra]

/-- Registers and predicates that the instruction at a place writes. -/
def writesAt (code : List Word) (i : Nat) : List Nat :=
  let c := coreAt code i
  let op := opAt code c
  let regs := match wordIn code c with
    | some w => (List.range 32).filter (writesReg w)
    | none => []
  let preds := if op = 0x03 ∧ fldAt code c 6 0 = 7 then (List.range 8).map (32 + ·)
    else if op = 0x02 ∨ (op = 0x03 ∧ fldAt code c 6 0 ≠ 6) ∨ (0x0B ≤ op ∧ op ≤ 0x10) then [32 + fldAt code c 25 23]
    else []
  (regs ++ preds).filter fun n => n != 0 && n != 32

/-- Ticks that a LOCKW or WAIT at a place keeps its thread from issuing after its own, at its limit; 0: it is none, or
its limit is 0 (R95, R139). -/
def waitAt (code : List Word) (m : Flow) (i : Nat) : Nat :=
  if devAt code i = some 0x21 ∨ devAt code i = some 0x24 then
    let l := min 65535 (spanAt m i (fldAt code i 15 11)).hi
    if l = 0 then 0 else l + 1
  else 0

/-- Uses of the instruction at a place: table-memory slots, HBM slots, CLASSIFY operations, copies and scan steps. A
thread's INSERT or DELETE is counted as the lookup that it begins with, since the update engine's writes take slots that
are not booked (R209, R216; DEDUCED); a counter access takes one 64-byte access of HBM (R37, R149; DEDUCED). -/
def usesAt (code : List Word) (ts : List TableCost) (m : Flow) (i : Nat) : List Nat :=
  match devAt code i with
  | none => [0, 0, 0, 0, 0]
  | some fn =>
    if fn ≤ 2 then
      let t := costOf ts (fldAt code i 15 11 * 8 + fldAt code i 10 8)
      if t.latency = 48 then [0, t.slots, 0, 0, 0] else [t.slots, 0, 0, 0, 0]
    else if fn = 0x04 then [0, 0, 1, 0, 0]
    else if 0x08 ≤ fn ∧ fn ≤ 0x0A then [0, 2, 0, 0, 0]
    else if fn = 0x18 ∨ fn = 0x19 then [0, 1, 0, 0, 0]
    else if fn = 0x10 then [0, 0, 0, fldAt code i 8 8, 0]
    else if 0x40 ≤ fn then [0, 0, 0, 0, ceilDiv (checkBytes code m i) 64]
    else [0, 0, 0, 0, 0]

/-! ### Paths (R128, R166) -/

/-- A thread on a path: where it is, where its calls return, what its loops still count, and how many ticks after the
next one each pending register or predicate stays pending. -/
structure OnPath where
  at_ : Nat
  calls : List Nat := []
  loops : Sparse Nat := []
  ready : Sparse Nat := []
  deriving DecidableEq, Repr

/-- Where a thread on a path goes on: every LOOP counts its MAX, a CALL, RET, branch or DONE whose condition is not
constant goes both ways; nowhere after a DONE (R123–R128). -/
def pathNext (code : List Word) (x : OnPath) : List OnPath :=
  let i := x.at_
  let gc := fldAt code i 25 21
  match opAt code i with
  | 0x21 =>
    let n := fldAt code i 19 10
    if n = 0 then [{ x with at_ := i + 1 + fldAt code i 9 0 }]
    else [{ x with at_ := i + 1, loops := place x.loops gc n }]
  | 0x22 =>
    let n := (look x.loops gc).getD 0
    if n ≤ 1 then [{ x with at_ := i + 1, loops := remove x.loops gc }]
    else [{ x with at_ := i + 1 - fldAt code i 9 0, loops := place x.loops gc (n - 1) }]
  | 0x23 =>
    ((callsAt code i).map fun j => { x with at_ := j, calls := (i + 1) :: x.calls }) ++
      if condAlways code i then [] else [{ x with at_ := i + 1 }]
  | 0x24 =>
    (match x.calls with
      | r :: rest => if condNever code i then [] else [{ x with at_ := r, calls := rest }]
      | [] => []) ++ if condAlways code i then [] else [{ x with at_ := i + 1 }]
  | _ => (nextIn code i).map fun j => { x with at_ := j }

/-- The instruction at a thread's place issued: what it adds to each count, ticks first, and where the thread goes
on. -/
def pathIssue (code : List Word) (ts : List TableCost) (m : Flow) (x : OnPath) : List Nat × List OnPath :=
  let i := x.at_
  let stall := ((namesAt code i).map fun n => (look x.ready n).getD 0).foldl max 0
  let wait := waitAt code m i
  let later := fun (n : Nat) => n - (stall + 1 + wait)
  let l := latencyAt code ts m i
  let ready := x.ready.filterMap fun p => if later p.2 = 0 then none else some (p.1, later p.2)
  let result := if wait = 0 then l - 1 else 0
  let ready := (writesAt code i).foldl (fun m n => if result = 0 then remove m n else place m n result) ready
  ((stall + 1 + wait) :: usesAt code ts m i, (pathNext code x).map fun y => { y with ready := ready })

/-- Threads at one place of one path, each count the greatest that any of them has reached. -/
def pathJoin (xs : List (OnPath × List Nat)) (x : OnPath × List Nat) : List (OnPath × List Nat) :=
  if xs.any fun y => y.1 == x.1 then
    xs.map fun y => if y.1 == x.1 then (y.1, List.zipWith max y.2 x.2) else y
  else xs ++ [x]

/-- More ticks than any budget holds. -/
def overBudget : Nat := 65536

/-- The greatest counts over all paths: ticks, then the uses. A path of more ticks than any budget ends the count. -/
def pathRun (code : List Word) (ts : List TableCost) (m : Flow) : Nat → List (OnPath × List Nat) → List Nat → List Nat
  | 0, _, best => overBudget :: best.drop 1
  | k + 1, xs, best =>
    if xs.isEmpty then best
    else
      let steps := xs.map fun x =>
        let r := pathIssue code ts m x.1
        (List.zipWith (· + ·) x.2 r.1, r.2)
      let best := steps.foldl (fun b r => List.zipWith max b r.1) best
      let next := (steps.flatMap fun r => if overBudget ≤ r.1.headD 0 then [] else r.2.map fun y => (y, r.1)).foldl
        pathJoin []
      pathRun code ts m k next best

/-- The greatest counts over the paths from an entry. -/
def pathWorst (code : List Word) (ts : List TableCost) (m : Flow) (entry : Nat) : List Nat :=
  pathRun code ts m overBudget [({ at_ := entry }, List.replicate 6 0)] (List.replicate 6 0)

/-- The longest path from an entry, a code offset, in ticks (R128, R139). -/
def pathCount (code : List Word) (entries : List Nat) (ts : List TableCost) (entry : Nat) : Nat :=
  (pathWorst code ts (flowOf code (entries.map (· / 4))) (entry / 4)).headD 0

/-- Reachable device operations of one function, with the words' indices. -/
def devsOf (code : List Word) (entries : List Nat) (fn : Nat) : List Nat :=
  (reachable_ code (entries.map (· / 4))).filter fun i => devAt code i == some fn

/-- The reachable HSTs of an address that the code fixes: index, address and bytes. -/
def fixedStores (code : List Word) (entries : List Nat) : List (Nat × Nat × Nat) :=
  let m := flowOf code (entries.map (· / 4))
  (reachable_ code (entries.map (· / 4))).filterMap fun i =>
    if opAt code i = 0x15 then
      (spanAt m i (fldAt code i 20 16)).value.map fun a => (i, a + fldAt code i 11 0, 2 ^ fldAt code i 15 14)
    else none

/-- The HSTs that R65 masks: they store to a tag bit that programs of the tenancy may not write. -/
def maskedStores (code : List Word) (entries : List Nat) (tenancy : Nat) : List Nat :=
  ((fixedStores code entries).filter fun x => (List.range x.2.2).any fun k =>
    writableBits tenancy (x.2.1 + k) != 0xFF).map fun x => x.1

/-- The uses per frame over the worst path: TBL_USES, HBM_USES, CLS_USES, COPIES, CHK_USES; then OVERRIDE_MAX and FLAGS
(R166). -/
def pathUses (code : List Word) (entries : List Nat) (tenancy : Nat) (ts : List TableCost) : List Nat :=
  let m := flowOf code (entries.map (· / 4))
  let worst := (entries.map fun e => (pathWorst code ts m (e / 4)).drop 1).foldl (List.zipWith max) (List.replicate 5 0)
  let overrides := (devsOf code entries 0x10).filter fun i => fldAt code i 9 9 == 1
  let greatest := (overrides.map fun i => min 65535 (spanAt m i (fldAt code i 20 16)).hi).foldl max 0
  let records := (devsOf code entries 0x38).filter fun i => fldAt code i 8 8 == 1
  worst ++ [greatest, (if (maskedStores code entries tenancy).isEmpty then 0 else 1) +
    (if overrides.isEmpty then 0 else 2) + (if records.isEmpty then 0 else 4)]

/-! ### The objects of the resource records (R167) -/

/-- Numbers of one kind that reachable operations name in a register bounded within the objects of the kind. -/
def boundedNumbers (code : List Word) (entries : List Nat) (m : Flow) (fns : List Nat) (hi lo limit unit : Nat) :
    List Nat :=
  ((fns.flatMap (devsOf code entries)).flatMap fun i =>
    let a := spanAt m i (fldAt code i hi lo)
    if a.hi < limit then (List.range (a.hi / unit - a.lo / unit + 1)).map (a.lo / unit + ·) else []).eraseDups

/-- Objects that the loader bounds as register operands, as kind, size and number: locks, channels put to or notified,
channels waited on or got from, counter blocks, flow contexts by index and masked tag stores. An operand that the code
does not bound names none. -/
def pathObjects (code : List Word) (entries : List Nat) (tenancy : Nat) : List (Nat × Nat × Nat) :=
  let m := flowOf code (entries.map (· / 4))
  let named := fun (kind : Nat) (fns : List Nat) (limit unit : Nat) =>
    (boundedNumbers code entries m fns 20 16 limit unit).map fun n => ((kind, 0, n) : Nat × Nat × Nat)
  let contexts := (([0x08, 0x09, 0x0A].flatMap (devsOf code entries)).filter fun i => fldAt code i 8 8 == 0).filterMap
    fun i =>
      let a := spanAt m i (fldAt code i 15 11)
      if a.hi < 2 ^ 24 then some (7, a.hi / 4096 - a.lo / 4096 + 1, a.lo / 4096 * 4096) else none
  named 3 [0x20, 0x21, 0x22] 4096 1 ++ named 4 [0x25, 0x28, 0x29] 1024 1 ++ named 5 [0x24, 0x2A] 1024 1 ++
    named 6 [0x18, 0x19] (2 ^ 24) 4096 ++ contexts.eraseDups ++
    (maskedStores code entries tenancy).map fun i => (8, 0, 4 * i)

end Sys2Proof.Machine
end

