-- ==== Sys2Proof/Machine/Constants.lean ====
section
/-! DEFINITION. What the loader computes from a configuration: the minimum constants, threads,
calendars, skew bounds and hold windows (R37, R38, R43–R46, R183, R241, R242, R249). The configuration
is a state in which every pending commit, and the one under check, has been applied. -/

namespace Sys2Proof.Machine

open Sys2Proof

/-- The words of a commit written over a state, with no record of what they were. -/
def applyWords (s : State) (ws : List (Nat × Word × Word)) : State :=
  ws.foldl (fun s x => setWord s x.1 (blend (word s x.1) x.2.1 x.2.2)) s

/-- The state with a commit's configuration in place. -/
def applyPlan (s : State) (c : Commit) : State :=
  let s := applyWords s c.writes
  match c.what with
  | .pathClass p sets _ => { s with classes := s.classes ++ [p], ruleSets := s.ruleSets ++ sets }
  | _ => s

/-- The configuration that every accepted commit leads to. -/
def planned (s : State) : State := s.commits.foldl applyPlan s

/-- That configuration with a function's uncommitted values of a block as well. -/
def plannedWith (s : State) (b : Blk) (fn : FnId) : State :=
  applyWords (planned s)
    ((s.shadow.filter fun x => x.blk == b && x.fn == fn).map fun x => (x.addr, x.mask, x.val))

/-- The newest version of a path class. -/
def newest (s : State) (c : Nat) : PathClass :=
  match (s.classes.filter fun x => x.cls == c).getLast? with
  | some x => x
  | none => { round := 0, cls := c }

/-- The newest version of a rule set. -/
def newestSet (s : State) (tenancy num : Nat) : Option RuleSet :=
  (s.ruleSets.filter fun x => x.tenancy == tenancy && x.num == num).getLast?

/-! ### What places frames in a class, and where they go (R43) -/

/-- A source kind of R43. -/
inductive SrcKind where
  | port (p : Nat)
  | host
  | peer
  | tcp
  deriving DecidableEq, Repr

/-- The kind of a binding's source (R203). -/
def bindKind (b : Nat) : SrcKind := if b < 16 then .port b else if b < 2064 then .host else .peer

/-- Action records of the binding's rules that place frames in class `c`; `none`: the binding places
none. A binding that is not enabled misses every frame (R191) and places none. -/
def placing (s : State) (b c : Nat) : Option (List (List Byte)) :=
  if !bit (word s (bindAddr b 4)) 31 then none
  else
    let dflt := rf s (bindAddr b 0) 13 8
    let acts : List (List Byte) := match newestSet s (rf s (bindAddr b 4) 25 16) (rf s (bindAddr b 4) 5 0) with
      | some set => (set.rules.map fun r => set.acts.getD r.act []).filter fun a =>
          (if actBit a 3 then leAt a 2 1 % 64 else dflt) == c
      | none => []
    if dflt == c || !acts.isEmpty then some acts else none

/-- Bindings that can place frames in a class, with the action records that do. -/
def placers (s : State) (c : Nat) : List (Nat × List (List Byte)) :=
  (List.range 2192).filterMap fun b => (placing s b c).map fun a => (b, a)

/-- FEED of a class fed by the TCP engine (R382). -/
def tcpFeed (s : State) (c : Nat) : Nat := rf s (0x1F40000 + 4 * c) 17 0

/-- Source kinds of a class; a class that nothing yet reaches has the three kinds of R43. -/
def sourceKinds (s : State) (c : Nat) : List SrcKind :=
  let ks := ((placers s c).map fun p => bindKind p.1).eraseDups ++ (if tcpFeed s c = 0 then [] else [.tcp])
  if ks.isEmpty then (List.range 16).map SrcKind.port ++ [.host, .peer] else ks

/-- PARSE_WC that the newest program of a class proves; 2 with no parse program (R179, R183). -/
def classParse (s : State) (c : Nat) : Nat :=
  match (newest s c).program with
  | some p => if p.parse.isEmpty then 2 else p.parseWc
  | none => 2

/-- p of R43 for a class (R183). -/
def classP (s : State) (c : Nat) : Nat :=
  let own := match (newest s c).program with
    | some p => p.parseWc
    | none => 0
  ((placers s c).map fun p => classParse s (rf s (bindAddr p.1 0) 5 0)).foldl max own

/-- Ports whose MAC_CTRL.ENABLE is 1, and the largest delays over them (R43). -/
def enabledPorts (s : State) : List Nat := (List.range 16).filter (portEnabled s)
def frxAll (s : State) : Nat :=
  if (enabledPorts s).isEmpty then 32 else ((enabledPorts s).map (frx s)).foldl max 0
def ftxAll (s : State) : Nat :=
  if (enabledPorts s).isEmpty then 16 else ((enabledPorts s).map (ftx s)).foldl max 0

/-- s_in of a class from a source kind (R43, R382). A class that no binding reaches takes the port term
over the enabled ports. -/
def sIn (s : State) (c p a : Nat) : SrcKind → Nat
  | .port n => (if (placers s c).isEmpty then frxAll s else frx s n) + 1 + p + 24 + 3
  | .host => 1 + a + 1 + p + 24 + 1
  | .peer => 1 + p + 24 + 1
  | .tcp => tcpFeed s c + 9

/-- The code offsets of a program's entries. -/
def entryOffsets (p : Program) : List Nat := p.entries.map fun e => e.1

/-- The code stores to a byte of the tag that satisfies `b`: a reachable HST at a header buffer offset that the code
fixes covers one (R43, R56, R119). -/
def storesByte (p : Program) (b : Nat → Bool) : Bool :=
  (fixedStores p.code (entryOffsets p)).any fun x => (List.range x.2.2).any fun k => b (x.2.1 + k)

/-- The code stores to DEST_KIND, DEST_INDEX or SCHED_NODE of the tag (R43). -/
def storesDest (p : Program) : Bool :=
  storesByte p fun a => decide (35 ≤ a ∧ a ≤ 39) || decide (49 ≤ a ∧ a ≤ 51)

/-- s_out of a list member's kind and target (R43, R253). -/
def memberOut (s : State) (m : Nat × Nat × Nat) : List Nat :=
  if m.2.1 = dkRing then [11] else if m.2.1 = dkPort then [4 + ftx s (m.2.2 % 16)]
  else if m.2.1 = dkLedger then [6] else []

/-- Members of a fan-out list in force. -/
def listMembers (s : State) (l : Nat) : List (Nat × Nat × Nat) :=
  let base := rf s (foAddr l 4) 14 0
  (List.range (rf s (foAddr l 0) 22 16)).map fun i =>
    (i, rf s (0x1A50000 + (base + i) * 8) 7 0, rf s (0x1A50004 + (base + i) * 8) 22 0)

/-- s_out of a sequence group's output. -/
def groupOut (s : State) (g : Nat) : Nat :=
  if bit (word s (seqAddr g 0)) 1 then 4 + ftx s (rf s (seqAddr g 4) 3 0) else 11

/-- s_out of a destination kind and index (R43); DISCARD and UNSET have none. -/
def destOut (s : State) (kind index : Nat) : List Nat :=
  if kind = dkRing ∨ kind = dkException then [11]
  else if kind = dkPort then [4 + ftx s (index % 16)]
  else if kind = dkLedger ∨ kind = dkTcp ∨ kind = dkStorage then [6]
  else if kind = dkSequence then [groupOut s (index % 256)]
  else if kind = dkFanout then (listMembers s (index % 4096)).flatMap (memberOut s)
  else if kind = dkFlood then
    (listMembers s (rf s (0x1810004 + index % 4096 * 0x10) 11 0)).flatMap (memberOut s)
  else []

/-- s_out of the destinations that an action record sets through actions 4, 7 and 9. -/
def actionOuts (s : State) (a : List Byte) : List Nat :=
  (if actBit a 9 then destOut s dkSequence (leAt a 9 1)
    else if actBit a 4 then destOut s (leAt a 8 1) (leAt a 12 4) else []) ++
    if actBit a 7 then destOut s (leAt a 24 1) (leAt a 28 4) else []

/-- s_out of a class (R43): the largest of all kinds when its program stores a destination or no rule
names one. -/
def sOut (s : State) (pc : PathClass) : Nat :=
  let full := max 11 (4 + ftxAll s)
  let stores : Bool := match pc.program with
    | some p => storesDest p
    | none => false
  let outs := ((placers s pc.cls).flatMap fun p => p.2.flatMap (actionOuts s)) ++
    (if pc.sequenced then [groupOut s pc.group] else [])
  if stores || outs.isEmpty then full else outs.foldl max 0

/-! ### Threads, waits and constants (R43, R45, R46) -/

def classBudget (pc : PathClass) : Nat := match pc.program with
  | some p => p.budget
  | none => 0
def classRateOf (pc : PathClass) : Nat := match pc.program with
  | some p => p.rate
  | none => 0

/-- W = ceil(K / s), K and s of 0 taken as 1 (R45). -/
def waitTicks (pc : PathClass) : Nat := ceilDiv (max 1 pc.k) (max 1 pc.s)

/-- A after R45: 0 taken as 96. -/
def fetchAllowance (pc : PathClass) : Nat := if pc.a = 0 then 96 else pc.a

/-- Threads assigned and required (R45). -/
def threadsAssigned (pc : PathClass) : Nat := 8 * pc.cores.length
def threadsRequired (pc : PathClass) : Nat :=
  max 1 pc.k + rateThreads (classBudget pc) (classRateOf pc)

/-- Groups to which a class's program can send frames: it stores DEST_KIND, the group is enabled and open to the class's
owner, and SEQ_GROUP is the class's own or stored too; a frame for a disabled group is dropped, so it reaches none
(R66, R241, R251; DEDUCED). -/
def programGroups (s : State) (pc : PathClass) : List Nat :=
  match pc.program with
  | none => []
  | some p =>
    if !storesByte p (· == 35) then []
    else
      let gs := if storesByte p (· == 48) then List.range 256 else [if pc.sequenced then pc.group else 0]
      gs.filter fun g => bit (word s (seqAddr g 0)) 0 && groupOpen s (round s) pc.owner g

/-- Groups that a class's frames can reach: the one it feeds, those of the rules that place frames in the class, and
those that its program can name (R241). -/
def classFeeds (s : State) (c : Nat) : List Nat :=
  let pc := newest s c
  (((if pc.sequenced then [pc.group] else []) ++
    ((placers s c).flatMap fun p => p.2.filterMap fun a =>
      if actBit a 9 then some (leAt a 9 1)
      else if actBit a 4 && leAt a 8 1 == dkSequence then some (leAt a 12 4 % 256) else none)) ++
    programGroups s pc).eraseDups

/-- Every class with the groups that its frames can reach. -/
def feedTable (s : State) : List (Nat × List Nat) := (List.range 64).map fun c => (c, classFeeds s c)

/-- Classes whose frames can reach a group. -/
def feeders (fed : List (Nat × List Nat)) (g : Nat) : List Nat := (fed.filter fun x => x.2.contains g).map fun x => x.1

/-- s_in + w + b of a class, largest over its source kinds. -/
def entryTicks (s : State) (c : Nat) (k : SrcKind) : Nat :=
  let pc := newest s c
  sIn s c (classP s c) (fetchAllowance pc) k + waitTicks pc + classBudget pc

/-- The term of R241 for a class and a source kind. -/
def skewTerm (s : State) (c : Nat) (k : SrcKind) : Nat :=
  entryTicks s c k + 2 +
    match k with
    | .port p =>
      let r := portRate s p
      if r = 0 then 0 else ceilDiv (rf s (macAddr p 4) 14 0 * 8) (r * 4)
    | _ => 0

/-- The skew bound S of a group (R241). -/
def skewBound (s : State) (fed : List (Nat × List Nat)) (g : Nat) : Nat :=
  ((feeders fed g).flatMap fun c => (sourceKinds s c).map (skewTerm s c)).foldl max 0

/-- Entries of a group's source list (R240). -/
def sourceList (s : State) (g : Nat) : List Word :=
  ((List.range 64).map fun j => word s (seqAddr g (0x100 + 4 * j))).takeWhile fun w => fld w 2 0 != 0

/-- The window that a group asks for (R242). -/
def holdAsked (s : State) (g : Nat) : Nat :=
  let hold := rf s (seqAddr g 0xC) 15 0
  let ls := sourceList s g
  if hold ≠ 0xFFFF then hold else if ls ≠ [] ∧ ls.all (fun w => fld w 2 0 == 1) then 500 else 1000

/-- The window of a group (R242). -/
def holdWindow (s : State) (fed : List (Nat × List Nat)) (g : Nat) : Nat :=
  max (max (holdAsked s g) (skewBound s fed g)) 125

/-- The hold term h of a class: the windows of the groups that it feeds, 0 when it feeds none (R43, R242). -/
def classHold (s : State) (fed : List (Nat × List Nat)) (c : Nat) : Nat :=
  (((fed.filter fun x => x.1 == c).flatMap fun x => x.2).map (holdWindow s fed)).foldl max 0

/-- What a reject class adds for its groups (R250). -/
def rejectHold (s : State) (fed : List (Nat × List Nat)) (c : Nat) : Nat :=
  (((List.range 256).filter fun g =>
    let w := word s (seqAddr g 0)
    bit w 0 && bit w 15 && fld w 13 8 == c).map fun g => holdWindow s fed g + 5).foldl max 0

/-- c_min of a class (R43, R250). -/
def cMin (s : State) (fed : List (Nat × List Nat)) (c : Nat) : Nat :=
  ((sourceKinds s c).map (entryTicks s c)).foldl max 0 + sOut s (newest s c) + classHold s fed c + rejectHold s fed c

/-- No class's constant lies below its minimum; a constant of 0 takes it (R46). -/
def constantsOk (s : State) : Bool :=
  let fed := feedTable s
  (List.range 64).all fun c => (newest s c).cAsked == 0 || decide (cMin s fed c ≤ (newest s c).cAsked)

/-! ### Calendars (R37, R38) -/

/-- Slots per round of `n` uses per frame at a rate: rounded up to whole slots of 1.024 µs rounds. -/
def slotsFor (rate n : Nat) : Nat := ceilDiv (rate * n * 1024) 1000000000

/-- A tenancy owns associations whose keys lie wrapped in HBM (R340). -/
def ownsWrapped (s : State) (t : Nat) : Bool :=
  s.words.any (fun p => inArray p.1 0x1C20400 768 4 0 && fld p.2 9 0 == t) ||
    (t == 0 && decide ((s.words.filter fun p => inArray p.1 0x1C20400 768 4 0).length < 768))

/-- A class's frames can carry an association whose key is wrapped: by FC_SELECT, by a rule, by a send descriptor of a
tenancy that owns one, or by the TLS association of a connection that feeds the class (R340; DEDUCED). -/
def carriesWrapped (s : State) (c : Nat) : Bool :=
  bit (word s (0x1C30000 + 4 * c)) 0 ||
    ((placers s c).any fun p =>
      (p.2.any fun a => actBit a 10 && decide (65536 ≤ leAt a 32 4 % 2 ^ 18)) ||
        (16 ≤ p.1 && p.1 < 2064 && ownsWrapped s (rf s (bindAddr p.1 4) 25 16))) ||
    (tcpFeed s c != 0 && ownsWrapped s (newest s c).owner)

/-- HBM slots per frame that a class adds for wrapped keys and for FC_SELECT (R340, R354). -/
def keyUses (s : State) (c : Nat) : Nat :=
  (if carriesWrapped s c then 2 else 0) + if bit (word s (0x1C30000 + 4 * c)) 0 then 2 else 0

/-- Table-memory slots per round for the session lookups of the enabled groups with REJECT_EN: one for each frame of 64
bytes on the wire at the group's RATE (R38, R250; DESIGN CHOICE: the spec books slots with the group and gives no
number). -/
def sessionSlots (s : State) : Nat :=
  ((List.range 256).map fun g =>
    let w := word s (seqAddr g 0)
    if bit w 0 && bit w 15 && (sessionTable s (round s) g).isSome then 2 * rf s (seqAddr g 0x10) 9 0
      else 0).foldl (· + ·) 0

/-- Clusters that hold threads of a class. -/
def classClusters (pc : PathClass) : List Nat := (pc.cores.map fun k => k.1).eraseDups

/-- Per-frame uses of table memory and HBM by a program: those of its certificate, or recounted for tables as placed
(R38, R138). -/
def usesOf (p : Program) (costs : Option (List TableCost)) : Nat × Nat :=
  match costs with
  | none => (p.tblUses, p.hbmUses)
  | some ts =>
    let u := pathUses p.code (entryOffsets p) p.tenancy ts
    (u.getD 0 0, u.getD 1 0)

/-- Bookings of a class, by the calendars' numbers in R173: 0 HBM, 1 table memory, 2 classifier, 3
parse, 4 + n dispatcher and 21 + n check unit of cluster n. -/
def bookings (s : State) (pc : PathClass) (costs : Option (List TableCost) := none) : List (Nat × Nat) :=
  match pc.program with
  | none => []
  | some p =>
    let u := usesOf p costs
    [(0, slotsFor p.rate (u.2 + keyUses s pc.cls)), (1, slotsFor p.rate u.1),
      (2, slotsFor p.rate (1 + p.clsUses)), (3, slotsFor p.rate 1)] ++
      (classClusters pc).flatMap fun n => [(4 + n, slotsFor p.rate 1), (21 + n, slotsFor p.rate p.chkUses)]

/-- Available slots of a calendar (R37). -/
def calendarCap (k : Nat) : Nat :=
  if k = 0 then 30464 else if k = 1 then 258048 else if k < 4 then 8192 else if k < 21 then 2048 else 1024

/-- Slots booked on a calendar by the newest version of every class, and by the fixed-function blocks (R38). -/
def booked (s : State) (k : Nat) (costs : Option (List TableCost) := none) : Nat :=
  (((List.range 64).flatMap fun c => bookings s (newest s c) costs).filter fun b => b.1 == k).foldl
    (fun n b => n + b.2) (if k = 1 then sessionSlots s else 0)

/-- The first calendar above its capacity. -/
def calendarFault (s : State) (costs : Option (List TableCost) := none) : Option Nat :=
  (List.range 38).find? fun k => decide (calendarCap k < booked s k costs)

/-- Latency and lookup slots of the tables as a configuration places them: a lookup in HBM reads a bucket pair, ESIZE /
16 slots (R137, R209). -/
def tableCosts (s : State) : List TableCost :=
  (List.range 72).map fun n =>
    if isPinned n then ⟨n, 5, 1⟩
    else if rf s (tblAddr n 0) 1 0 = 2 then ⟨n, 48, 2 * 2 ^ rf s (tblAddr n 0) 3 2⟩
    else ⟨n, 6, 1⟩

/-! ### What a boundary shows and stores (R46, R55, R242) -/

/-- A class with its minimum and constant under a configuration. -/
def fillClass (s : State) (fed : List (Nat × List Nat)) (pc : PathClass) : PathClass :=
  let m := cMin s fed pc.cls
  { pc with cMin := m, c := if pc.cAsked = 0 then m else pc.cAsked }

/-- The registers of a path class (R55). -/
def showClass (s : State) (pc : PathClass) : State :=
  let a := fun o => pcAddr pc.cls o
  let s := setWord s (a 0) (BitVec.ofNat 32 ((if pc.program.isSome then 1 else 0) +
    (if pc.sequenced then 2 else 0) + (if pc.sequenced then pc.group else 0) * 2 ^ 8 + pc.owner * 2 ^ 16))
  let s := setWord s (a 4) (BitVec.ofNat 32 pc.c)
  let s := setWord s (a 8) (BitVec.ofNat 32 pc.cMin)
  let s := setWord s (a 0xC) (BitVec.ofNat 32 (classRateOf pc))
  let s := setWord s (a 0x10) (BitVec.ofNat 32 (max 1 pc.k + max 1 pc.s * 2 ^ 16))
  let s := setWord s (a 0x14) (BitVec.ofNat 32 (classBudget pc + waitTicks pc * 2 ^ 16))
  let s := setWord s (a 0x18) (BitVec.ofNat 32 (threadsAssigned pc + threadsRequired pc * 2 ^ 16))
  setWord s (a 0x1C) (BitVec.ofNat 32 (fetchAllowance pc))

/-- A class whose minimum or constant has changed gets a new version from the current round (R46,
R47). -/
def refreshClass (fed : List (Nat × List Nat)) (s : State) (c : Nat) : State :=
  let old := newest s c
  let new := fillClass s fed old
  if old.cMin = new.cMin ∧ old.c = new.c then s
  else
    let s := { s with classes := s.classes ++ [{ new with round := round s }] }
    let s := if old.c = new.c then s else setWord64 s (pcAddr c 0x34) (round s)
    showClass s new

/-- A group's skew bound and window brought up to the configuration in force (R242). -/
def refreshGroup (fed : List (Nat × List Nat)) (s : State) (g : Nat) : State :=
  let h := holdWindow s fed g
  let a := seqAddr g 0x1C
  let v := BitVec.ofNat 32 (skewBound s fed g + h * 65536)
  let s := if word s a = v then s else setConfig s a v
  setRf s (seqAddr g 0x18) 1 1 (if holdAsked s g < h then 1 else 0)

/-- Groups whose bound and window the registers show: those that a commit has reached. -/
def groupsShown (s : State) : List Nat :=
  (List.range 256).filter fun g => bit (word s (seqAddr g 0)) 0 || word s (seqAddr g 0x1C) != 0

/-- After a commit has taken effect: windows, constants and calendars follow the configuration (R38,
R43, R46). Only classes that a request has configured, or that a frame can meet, have a version. -/
def refreshConstants (s : State) : State :=
  let fed := feedTable s
  let s := (groupsShown s).foldl (refreshGroup fed) s
  let s := ((s.classes.map fun c => c.cls).eraseDups).foldl (refreshClass fed) s
  let s := setRf s 0x1A08008 15 0 (booked s 0)
  let s := setRf s 0x1A0800C 17 0 (booked s 1)
  setRf (setRf s 0x1A08010 13 0 (booked s 2)) 0x1A08010 29 16 (booked s 3)

end Sys2Proof.Machine
end

