-- ==== Sys2Proof/Machine/Loader.lean ====
section
/-! DEFINITION. The loader's requests, checks, answers and commits (R42, R170–R177, R517). -/

namespace Sys2Proof.Machine

open Sys2Proof

/-- The firmware serves requests: in Noon and outside a handover (R479, R517). -/
def firmwareWorks (s : State) : Bool := s.handover.isNone && stage s == 2

/-- Step 1 of R172: the sender's right to ask, the class, and no other request under way. -/
def requestFault (s : State) (j : LoadJob) : Option (Nat × Nat) :=
  firstFail [
    (j.fn == pf0 || (j.req != rqClass && decide (j.cls < 64) && (pathNow s j.cls).owner == fnTenancy s j.fn),
      ldNotOpen, 0),
    (decide (j.cls < 64), ldFormat, 0),
    (!s.jobs.any fun x => x.cls == j.cls, ldBusy, 0)]

/-- A request between acceptance and its answer removed. -/
def endJob (s : State) (cls : Nat) : State := { s with jobs := s.jobs.filter fun x => x.cls != cls }

/-! ### Steps 7 to 12 of R172 -/

/-- A resource is open to the image's tenancy (R133, R93). -/
def resourceOpen (s : State) (t : Nat) (clusters : List Nat) (codeLen : Nat) (r : Res) : Bool :=
  let rnd := round s
  match r.kind with
  | 1 => tableOpen s rnd r.num t
  | 2 => decide (r.num < 64)
  | 3 => decide (r.num < 4096) && clusters.all fun c => rf s (cluAddr c (0x100 + r.num / 64 * 4)) 9 0 == t
  | 4 => decide (r.num < 1024) && clusters.all fun c => rf s (cluAddr c (0x200 + r.num / 16 * 4)) 9 0 == t
  | 5 => decide (r.num < 1024) && clusters.all fun c => rf s (cluAddr c (0x200 + r.num / 16 * 4)) 9 0 == t
  | 6 => decide (r.num < 4096) && ctrOwned s rnd t (r.num * 4096)
  | 7 => decide (r.num + max 1 r.size * 4096 ≤ 2 ^ 24) &&
      (List.range (max 1 r.size + 1)).all fun k =>
        fcOwned s rnd t (min (r.num + k * 4096) (r.num + max 1 r.size * 4096 - 1))
  | 8 => r.num % 4 == 0 && decide (r.num < codeLen)
  | _ => true

/-- The first core of a class that does not serve its tenancy, or whose tenancy has unequal partitions in
its cluster (R104). The spare has no path class (R18), and a request that names one of its cores is refused likewise
(DESIGN CHOICE: R173 names no status for it). -/
def partitionFault (s : State) (t : Nat) (cores : List (Nat × Nat)) : Option (Nat × Nat) :=
  let part := fun (cl c : Nat) =>
    (rf s (cluAddr cl (0x304 + c * 8)) 5 0, rf s (cluAddr cl (0x304 + c * 8)) 13 8)
  (firstBad (fun (k : Nat × Nat) =>
      coreTenancy s k.1 k.2 == t && clusterRole s k.1 != 1 &&
        (List.range 16).all fun c => coreTenancy s k.1 c != t || part k.1 c == part k.1 k.2) cores).map
    fun i => (ldPartition, i)

/-- Programs that occupy instruction memory of a cluster: the versions still held and pending ones, each
load once (R175). -/
def codeInUse (s : State) (cl : Nat) : Nat :=
  let pend := s.commits.filterMap fun c => match c.what with
    | .pathClass p _ _ => some p
    | _ => none
  let held := (s.classes ++ pend).filterMap fun p =>
    match p.program with
    | some g => if p.cores.any (fun k => k.1 == cl) then some ((p.cls, p.loadedAt), 4 * g.code.length) else none
    | none => none
  held.eraseDups.foldl (fun n x => n + x.2) 0

/-- A cluster of the class has no room for the code (R28). -/
def spaceFault (s : State) (p : PathClass) (len : Nat) : Option (Nat × Nat) :=
  ((classClusters p).find? fun cl => decide (2 * 2 ^ 20 < codeInUse s cl + len)).map fun cl => (ldSpace, cl)

/-- The configuration that a request leads to. -/
def planFor (s : State) (p : PathClass) (sets : List RuleSet) : State :=
  let s := planned s
  { s with classes := s.classes ++ [p], ruleSets := s.ruleSets ++ sets }

/-- Steps 8 to 12 of R172 for a class as the request leaves it. -/
def classFault (s : State) (p : PathClass) (sets : List RuleSet) (codeLen : Nat) : Option (Nat × Nat) :=
  let pl := planFor s p sets
  match partitionFault s p.owner p.cores with
  | some e => some e
  | none =>
    if threadsAssigned p < threadsRequired p then some (ldThreads, 0)
    else
      match calendarFault pl with
      | some k => some (ldCalendar, k)
      | none =>
        if !constantsOk pl then some (ldConstant, 0)
        else if codeLen = 0 then none else spaceFault s p codeLen

/-! ### Requests -/

/-- The commit request of a job reaches the release block in this tick (R175). -/
def sendClass (s : State) (j : LoadJob) (p : PathClass) (sets : List RuleSet) : State :=
  let j := { j with sent := true }
  { s with
    jobs := (s.jobs.filter fun x => x.cls != j.cls) ++ [j],
    commits := s.commits ++ [⟨.loader j.cls, j.fn, now s, effectRound (now s), [], .pathClass p sets j, 0⟩] }

/-- A job refused. -/
def refuseJob (s : State) (j : LoadJob) (e : Nat × Nat) : State :=
  loaderAnswer (endJob s j.cls) j e.1 e.2 0

/-- A request that the firmware has taken is checked at step 1, and goes on where that passes; outside Noon it is
answered BUSY (R172, R479). -/
def beginRequest (t : Taken) (s : State) (go : LoadJob → State) : State :=
  let j := jobOf t
  if stage s ≠ 2 then loaderAnswer s j ldBusy 0 0
  else match requestFault s j with
    | some e => loaderAnswer s j e.1 e.2 0
    | none => go j

/-- UNLOAD: the class with no program (R170); checked at step 1 only. -/
def unloadStep (t : Taken) (s : State) : State :=
  beginRequest t s fun j => sendClass s j { newest (planned s) j.cls with program := none } []

/-- LOAD: the read of the image is asked for (R172, R400, R517). -/
def loadStep (t : Taken) (s : State) : State :=
  beginRequest t s fun j =>
    let addr := leAt t.msg.payload 4 8
    let len := leAt t.msg.payload 12 4
    if addr % 64 ≠ 0 then loaderAnswer s j ldFormat 0 0
    else
      let j := { j with len := len, parts := (readParts s j.fn addr len).length }
      askRead { s with jobs := s.jobs ++ [j] } j.fn (.image j.cls) addr len

/-- The CLASS payload of R170 at an offset of a message or a store. -/
def classPayload (bs : List Byte) (o : Nat) : ClassPayload :=
  let n := leAt bs (o + 34) 1
  { cls := leAt bs (o + 16) 1, owner := leAt bs (o + 18) 2, k := leAt bs (o + 20) 2, s := leAt bs (o + 22) 1,
    a := leAt bs (o + 24) 2, c := leAt bs (o + 28) 4, sequenced := bits (leAt bs (o + 32) 1) 7 7 == 1,
    group := leAt bs (o + 33) 1,
    cores := (List.range n).map fun i =>
      let w := leAt bs (o + 40 + 2 * i) 2
      (bits w 4 0, bits w 11 8),
    reservedZero := allZero (slice bs (o + 1) 15) && allZero (slice bs (o + 17) 1) && allZero (slice bs (o + 23) 1) &&
      allZero (slice bs (o + 26) 2) && bits (leAt bs (o + 32) 1) 6 0 == 0 && allZero (slice bs (o + 35) 5) }

/-- Payload ranges of a CLASS request (R45, R170). -/
def payloadFault (p : ClassPayload) : Option (Nat × Nat) :=
  firstFail [
    (p.reservedZero && decide (p.owner < 1024) && decide (p.k ≤ 8191) && decide (p.s ≤ 8) &&
      decide (p.a < 65536) && decide (p.c < 2 ^ 18) && decide (p.group < 256) && decide (p.cores.length ≤ 64),
      ldFormat, 0),
    (p.cores.all (fun k => decide (k.1 < 17) && decide (k.2 < 16)), ldFormat,
      (p.cores.findIdx? fun k => !(decide (k.1 < 17) && decide (k.2 < 16))).getD 0)]

/-- CLASS: the configuration of R42, checked against the program loaded (R172). -/
def classStep (t : Taken) (s : State) : State :=
  beginRequest t s fun j =>
    let p := classPayload t.msg.payload 0
    let new := { newest (planned s) p.cls with
      owner := p.owner, k := p.k, s := p.s, a := p.a, cAsked := p.c, sequenced := p.sequenced,
      group := p.group, cores := p.cores }
    let fault := match payloadFault p with
      | some e => some e
      | none =>
        if p.sequenced && !groupOpen s (round s) p.owner p.group then some (ldNotOpen, 0)
        else classFault s new [] 0
    match fault with
    | some e => loaderAnswer s j e.1 e.2 0
    | none => sendClass s j new []

/-- At Noon and outside a handover the loader serves an UNLOAD or a CLASS by 2 ms after its take (R517). -/
def serveOverdue (s : State) : State :=
  if !firmwareWorks s then s
  else
    let late := fun (t : Taken) => decide (t.tick + 500000 ≤ now s) &&
      (leAt t.msg.payload 0 1 == rqUnload || leAt t.msg.payload 0 1 == rqClass)
    (s.taken.filter late).foldl
      (fun s t => if leAt t.msg.payload 0 1 = rqUnload then unloadStep t s else classStep t s)
      { s with taken := s.taken.filter fun t => !late t }

/-! ### The image (R172, steps 2 to 12) -/

/-- The program of an image whose format has been checked. -/
def imageProgram (im : List Byte) : Program :=
  let c := sectionOf im 4
  { tenancy := imTenancy im, entries := (certEntries im).map fun e => (e.1, e.2.1), code := imCode im,
    data := sectionOf im 1, parse := sectionOf im 2, budget := leAt c 0 2, parseWc := leAt c 2 2,
    rate := leAt c 4 4, overrideMax := leAt c 10 2, tblUses := leAt c 12 2, hbmUses := leAt c 14 2,
    clsUses := leAt c 16 1, chkUses := leAt c 18 2, buildId := leAt c 24 8, res := certResources im,
    digest := sha384 im }

/-- Objects that the code names as immediates: tables, rule sets and mailbox use (R167). -/
def namedObjects (p : Program) : List (Nat × Nat × Nat) :=
  let es := p.entries.map fun e => e.1
  ((codeDevs p.code es [0x00, 0x01, 0x02]).map fun w => (1, 0, objNumber w)) ++
    ((codeDevs p.code es [0x04]).map fun w => (2, 0, objNumber w)) ++
    ((codeDevs p.code es [0x30, 0x31, 0x32]).map fun _ => (9, 0, 0))

/-- The certificate equals the loader's count: worst cases, uses, p, and the objects listed with the table
latencies in force (R167, R172). -/
def certMatches (s : State) (im : List Byte) (p : Program) : Bool :=
  let c := sectionOf im 4
  let costs := tableCosts s
  let es := entryOffsets p
  let objs := (namedObjects p ++ pathObjects p.code es p.tenancy).eraseDups
  let listed := p.res.map fun r => (r.kind, r.size, r.num)
  (p.entries.all fun e => pathCount p.code es costs e.1 == e.2) &&
    pathUses p.code es p.tenancy costs ==
      [p.tblUses, p.hbmUses, p.clsUses, leAt c 17 1, p.chkUses, p.overrideMax, leAt c 22 1] &&
    p.parseWc == (if p.parse.isEmpty then 0 else sectionTicks p.parse) &&
    objs.all (listed.contains ·) && listed.all (objs.contains ·) &&
    p.res.all fun r => r.kind != 1 || (costOf costs r.num).latency == r.attr

/-- Step 4 of R172: the code rules, then Budget. -/
def codeCheck (s : State) (p : Program) : Option (Nat × Nat) :=
  match codeFault p.code (p.entries.map fun e => e.1) with
  | some o => some (ldCode, o)
  | none => (p.entries.find? fun e =>
      decide (p.budget < pathCount p.code (entryOffsets p) (tableCosts s) e.1)).map fun e => (ldOverBudget, e.1)

/-- A table that the image names is placed beyond the allotment in force, or moves by a pending commit so that the
program, recounted, no longer fits its budget or the calendars (R29, R138). The loader's order names no step for
PLACEMENT: it follows the resources (DESIGN CHOICE). -/
def placementFault (s : State) (new : PathClass) (sets : List RuleSet) (p : Program) : Option (Nat × Nat) :=
  let pl := planFor s new sets
  let costs := tableCosts pl
  let named := fun (r : Res) => r.kind == 1 && decide (r.num < 72)
  let beyond := fun (r : Res) => match regionOf r.num (word pl (tblAddr r.num 0)) (word pl (tblAddr r.num 4)) 2 with
    | some x => decide (rf s 0x198200C 20 16 * 2 ^ 30 < x.2)
    | none => false
  let moves := p.res.any fun r => named r && costOf costs r.num != costOf (tableCosts s) r.num
  match firstBad (fun r => !(named r && beyond r)) p.res with
  | some k => some (ldPlacement, k)
  | none =>
    if moves && (p.entries.any (fun e => decide (p.budget < pathCount p.code (entryOffsets p) costs e.1)) ||
        (calendarFault pl (some costs)).isSome) then some (ldPlacement, 0)
    else none

/-- Steps 2 to 12 of R172: the new version of the class and its rule sets, or the refusal. -/
def imageCheck (s : State) (j : LoadJob) (im : List Byte) : Except (Nat × Nat) (PathClass × List RuleSet) :=
  let old := newest (planned s) j.cls
  let p := imageProgram im
  let new := { old with program := some p, loadedAt := effectRound (now s) }
  let early := match headerFault im with
    | some e => some e
    | none => match certFault im with
      | some e => some e
      | none => match resourceFault im with
        | some e => some e
        | none => match keyFault s im with
          | some e => some e
          | none =>
            if imClass im ≠ j.cls ∨ old.owner ≠ p.tenancy then some (ldWrongClass, 0)
            else match codeCheck s p with
              | some e => some e
              | none => parseFault p.parse
  match early with
  | some e => .error e
  | none =>
    match treeCheck s (sectionOf im 3) p.tenancy with
    | .error e => .error e
    | .ok sets =>
      if !certMatches s im p then .error (ldMismatch, 0)
      else match firstBad (resourceOpen s p.tenancy (classClusters new) (4 * p.code.length)) p.res with
        | some k => .error (ldNotOpen, k)
        | none => match placementFault s new sets p with
          | some e => .error e
          | none => match classFault s new sets (4 * p.code.length) with
            | some e => .error e
            | none => .ok (new, sets)

/-- IMAGE_READ_DONE: the last byte of the image has arrived, and it is checked and its commit request sent, or the
LOAD refused; or its read has failed (R172, R175, R401). -/
def imageReadDoneStep (cls : Nat) (im : List Byte) (fail : Option ReadFail) (s : State) : State :=
  match s.jobs.find? fun j => j.cls == cls && j.req == rqLoad && !j.sent with
  | none => s
  | some j =>
    if j.failed then
      if fail.isSome then refuseJob (dropDelivered s (.image cls)) j (ldReadFailed, 0) else s
    else if fail.isSome ∨ deliveredFor s (.image cls) j.parts ≠ some im then s
    else
      let s := dropDelivered s (.image cls)
      match imageCheck s j im with
      | .error e => refuseJob s j e
      | .ok r => sendClass s j r.1 r.2

/-! ### The boundary (R171, R175, R332) -/

/-- BUILD_ID of a program that has come into effect, reported with the load's event (R166). R485 gives LOADER no room
for it: here it is the DETAIL of a STATE record that follows the answer's (DESIGN CHOICE). -/
def reportBuild (s : State) (j : LoadJob) (p : PathClass) : State :=
  match p.program with
  | some g => if j.req = rqLoad then event s srcFirmware evState g.buildId p.owner else s
  | none => s

/-- A path-class commit in effect from the current round: the class, its rule sets, its registers and its
meter; then the constants that follow, and the answer. -/
def placeClass (s : State) (p : PathClass) (sets : List RuleSet) (j : LoadJob) : State :=
  let r := round s
  let old := newest s p.cls
  let s := { s with
    classes := s.classes ++ [assignCores old { p with
      round := r, loadedAt := if j.req = rqLoad then r else p.loadedAt }],
    ruleSets := s.ruleSets ++ sets.map fun x => { x with round := r } }
  let new := fillClass s (feedTable s) (newest s p.cls)
  let s := { s with classes := s.classes.dropLast ++ [new] }
  let s := if classRateOf old = classRateOf new ∧ max 1 old.k = max 1 new.k then s
    else { s with buckets := remove s.buckets (classKey p.cls) }
  let s := setWord64 (showClass s new) (pcAddr p.cls 0x34) r
  let s := refreshConstants s
  match s.jobs.find? fun x => x.cls == j.cls with
  | some k => reportBuild (loaderAnswer (endJob s j.cls) k ldDone 0 r) k p
  | none => s

/-- A path-class commit falls due. The code of a LOAD goes on the clusters that now hold the class, and a LOAD for which
one of them has no room is refused (R176). -/
def classEffect (s : State) (p : PathClass) (sets : List RuleSet) (j : LoadJob) : State :=
  let len := match p.program with | some g => 4 * g.code.length | none => 0
  match (if j.req = rqLoad then spaceFault s p len else none) with
  | some e => refuseJob s ((s.jobs.find? fun x => x.cls == j.cls).getD j) e
  | none => placeClass s p sets j

/-- Versions that govern no frame any more are freed with their code and extents (R41, R175, R518). -/
def retireClasses (s : State) : State :=
  let r := oldestRound s
  { s with
    classes := s.classes.filter fun p => decide (r < p.round) || pathAt s r p.cls == p,
    ruleSets := s.ruleSets.filter fun x =>
      decide (r < x.round) || ruleSetAt s r x.tenancy x.num == some x }

/-- LOAD (R172). -/
def execLoad (fn : FnId) (cookie : BitVec 32) (addr : BitVec 64) (len cls : Nat) (s : State) : Out :=
  act s (onTaken fn cookie rqLoad
    (fun m => leAt m 4 8 == addr.toNat && leAt m 12 4 == len && leAt m 16 1 == cls) loadStep)
/-- UNLOAD (R170). -/
def execUnload (fn : FnId) (cookie : BitVec 32) (cls : Nat) (s : State) : Out :=
  act s (onTaken fn cookie rqUnload (fun m => leAt m 16 1 == cls) unloadStep)
/-- CLASS (R172). -/
def execClassRequest (fn : FnId) (cookie : BitVec 32) (p : ClassPayload) (s : State) : Out :=
  act s (onTaken fn cookie rqClass (fun m => classPayload m 0 == p) classStep)
/-- IMAGE_READ_DONE (R517). -/
def execImageReadDone (cls : Fin 64) (image : List Byte) (fail : Option ReadFail) (s : State) : Out :=
  act s (imageReadDoneStep cls.val image fail)

end Sys2Proof.Machine
end

