-- ==== Sys2Proof/Machine/Commits.lean ====
section
/-! DEFINITION. The commits of the cluster, classifier, table, port-group, sequence-group and fan-out
blocks: what each refuses at its GO and what it does at its boundary (R83, R202, R208, R242, R249, R251,
R253, R302, R303). -/

namespace Sys2Proof.Machine

open Sys2Proof

/-- A GO decided: REFUSAL at `status` shows the outcome, a refusal leaves the shadows as they are, an
acceptance requests the commit (R515). -/
def decideCommit (s : State) (b : Blk) (fn : FnId) (status code : Nat) : State :=
  let s := setRefusal s status code
  if code = 0 then requestCommit s b fn .regs else s

/-- As `decideCommit`, a refusal with its event that names the object (R485). -/
def decideNamed (s : State) (b : Blk) (fn : FnId) (status code src obj : Nat) : State :=
  let s := decideCommit s b fn status code
  if code = 0 then s else event s src evCommit (detail obj code) (fnTenancy s fn)

/-- CLU_COMMIT: CLU_CORE_MODE of a cluster, by PF0 of H0 (R83). -/
def cluCommitStep (fn : FnId) (n : Nat) (s : State) : State :=
  if fn ≠ pf0 then denied s fn (cluAddr n 0x30) else requestCommit s (.clu n) fn .regs

/-- CLS_COMMIT: a function's own classifier shadows; refused when a class's constant would lie below its new minimum
(R46, R202), and under the same code when the keys that its rules name would raise a calendar above its slots (R37,
R340; DESIGN CHOICE: CLS_STATUS gives no other code). -/
def clsCommitStep (fn : FnId) (s : State) : State :=
  let pl := plannedWith s (.cls fn) fn
  let code := if constantsOk pl && (calendarFault pl).isNone then 0 else 1
  decideNamed s (.cls fn) fn (fnWordAddr fn 0x16C0008) code srcClassifier 0

/-! ### Tables (R205, R208, R138) -/

/-- A table's shape lies within R205 and suits its number; one that is placed nowhere has no sizes (R208). -/
def shapeOk (n : Nat) (cfg : Word) : Bool :=
  let place := fld cfg 1 0
  let size := 32 * 2 ^ fld cfg 3 2
  let k := fld cfg 12 6
  let v := fld cfg 19 13
  (if isPinned n then fld cfg 4 4 == 0 && place != 2 else fld cfg 5 5 == 0) &&
    (place == 0 ||
      (place != 3 && fld cfg 3 2 != 3 && decide (1 ≤ k ∧ k ≤ 64) && decide (v ≤ 64) && decide (8 + k + v ≤ size) &&
        (fld cfg 4 4 == 0 || (k == 8 && v == 8 && size == 32))))

/-- A region overlaps another table's of the same memory. -/
def regionClash (pl : State) (n place : Nat) (r : Nat × Nat) : Bool :=
  (List.range 72).any fun m => m != n &&
    match regionOf m (word pl (tblAddr m 0)) (word pl (tblAddr m 4)) place with
    | some q => decide (r.1 < q.2 ∧ q.1 < r.2)
    | none => false

/-- A committed program that names the table exceeds its budget when it is recounted (R138). -/
def recountFails (pl : State) (n : Nat) : Bool :=
  (List.range 64).any fun c => match (newest pl c).program with
    | none => false
    | some p => p.res.any (fun r => r.kind == 1 && r.num == n) &&
        p.entries.any fun e => decide (p.budget < pathCount p.code (entryOffsets p) (tableCosts pl) e.1)

/-- REFUSAL of R208 for a table commit; 0: none. -/
def tblRefusal (s : State) (fn : FnId) (n : Nat) : Nat :=
  let pl := plannedWith s (.tbl n) fn
  let cfg := word pl (tblAddr n 0)
  let reg := word pl (tblAddr n 4)
  let moved := fld cfg 1 0 != rf (planned s) (tblAddr n 0) 1 0
  let costs := some (tableCosts pl)
  let bad1 := match regionOf n cfg reg 1 with
    | some r => decide (tableMemory < r.2) || decide (treeFloor s * 65536 < r.2) || regionClash pl n 1 r
    | none => match regionOf n cfg reg 2 with
      | some r => regionClash pl n 2 r
      | none => false
  let bad2 := match regionOf n cfg reg 2 with
    | some r => decide (rf s 0x198200C 20 16 * 2 ^ 30 < r.2)
    | none => false
  if bad1 then 1 else if bad2 then 2 else if moved && recountFails pl n then 3
  else if !shapeOk n cfg then 4
  else if moved && (calendarFault pl costs).isSome then 5 else 0

/-- TBL_COMMIT (R208). -/
def tblCommitStep (fn : FnId) (n : Nat) (s : State) : State :=
  if !platform s fn then denied s fn (tblAddr n 0x14)
  else decideNamed s (.tbl n) fn (tblAddr n 0x18) (tblRefusal s fn n) srcTables n

/-- What a table commit does beside its words: a change of shape clears every partition, a change of a
partition's range clears that partition (R208). -/
def tblEffect (old s : State) (n : Nat) : State :=
  let differs := fun (a : Nat) (m : Word) => (word old a &&& m) != (word s a &&& m)
  let shape := differs (tblAddr n 0) 0x000FFFDF || differs (tblAddr n 4) 0x01FFFFFF ||
    differs (tblAddr n 8) 0xFFFFFFFF || differs (tblAddr n 0xC) 0xFFFFFFFF
  if shape then clearTable s n none
  else if isPinned n then s
  else ((List.range 1024).filter fun t =>
      differs (partAddr n t 0) 0x0FFFFFFF || differs (partAddr n t 4) 0x1F).foldl (fun s t => clearTable s n (some t)) s

/-! ### Port groups (R302, R303) -/

/-- FEC, MEDIA and AN_EN of a port are allowed for its mode (R300, R302). -/
def phyOk (s : State) (p : Nat) : Bool :=
  let rate := portRate s p
  let fec := portFec s p
  let media := rf s (macAddr p 0) 3 2
  let an := bit (word s (macAddr p 0)) 6
  rate == 0 || !portEnabled s p ||
    (media != 3 && (if rate = 25 ∨ rate = 10 then fec == 2
      else if rate = 100 ∨ rate = 200 then decide (fec < 2) else fec == 0) &&
      !(an && (fec == 1 || media == 2)))

/-- Headroom cells reserved: over the priorities for which each port sends pause or PFC (R313). -/
def headroomSum (s : State) : Nat :=
  ((List.range 16).flatMap fun p => (List.range 8).map fun q =>
    if (txPause s p == 1 && q == 0) || (txPause s p == 2 && sendsPause s p q) then
      rf s (macAddr p (0x108 + q * 16)) 11 0 else 0).foldl (· + ·) 0

/-- REFUSAL of R302. -/
def macRefusal (s : State) (fn : FnId) (g : Nat) : Nat :=
  let pl := plannedWith s (.macGrp g) fn
  let ports := (List.range 4).map fun k => 4 * g + k
  if !ports.all (phyOk pl) then 1
  else if !constantsOk pl then 2
  else if 65536 < headroomSum pl then 3
  else if ports.any fun p => (List.range 8).any fun q =>
      decide (rf pl (macAddr p (0x100 + q * 16)) 15 0 ≤ rf pl (macAddr p (0x104 + q * 16)) 15 0) then 4
  else 0

/-- MAC_GRP_COMMIT (R302). -/
def macGrpCommitStep (fn : FnId) (g : Nat) (s : State) : State :=
  if fn ≠ pf0 then denied s fn (grpAddr g 4)
  else decideNamed s (.macGrp g) fn (grpAddr g 8) (macRefusal s fn g) (srcPort (4 * g)) g

/-- What a port-group commit does beside its words: a change of mode, media, FEC, auto-negotiation or
enable of any port resets every port of the group (R303). -/
def macEffect (old s : State) (g : Nat) : State :=
  let ports := (List.range 4).map fun k => 4 * g + k
  let changed := rf old (grpAddr g 0) 2 0 != rf s (grpAddr g 0) 2 0 ||
    ports.any fun p => (word old (macAddr p 0) &&& 0x7D) != (word s (macAddr p 0) &&& 0x7D)
  refreshConstants (if changed then servoRestart (ports.foldl resetPort s) else s)

/-! ### Sequence groups (R241, R242, R249, R251) -/

/-- Sum of the enabled groups' RATE. -/
def rateSum (s : State) : Nat :=
  ((List.range 256).map fun g => if bit (word s (seqAddr g 0)) 0 then rf s (seqAddr g 0x10) 9 0 else 0).foldl (· + ·) 0

/-- The largest frame of any source of a group (R249). -/
def groupFrame (s : State) (fed : List (Nat × List Nat)) (g : Nat) : Nat :=
  let ls := sourceList s g
  let others := ls.any (fun w => fld w 2 0 != 1) || (feeders fed g).any fun c =>
    (sourceKinds s c).any fun k => match k with
      | .port p => !ls.any fun w => fld w 2 0 == 1 && fld w 31 16 == p
      | _ => true
  if ls.isEmpty ∨ others then maxLength
  else (ls.map fun w => rf s (macAddr (fld w 31 16 % 16) 4) 14 0 - 4).foldl max 0

/-- Cells that the loader reserves for a group (R249). -/
def groupCells (s : State) (fed : List (Nat × List Nat)) (g : Nat) : Nat :=
  let cmax := ((feeders fed g).map fun c => (fillClass s fed (newest s c)).c).foldl max 0
  ceilDiv (rf s (seqAddr g 0x10) 9 0 * cmax * 4) 2048 +
    (sourceList s g).length * ceilDiv (groupFrame s fed g + 64) 256

/-- Cells of every enabled group. -/
def cellsReserved (s : State) : Nat :=
  let fed := feedTable s
  ((List.range 256).map fun g => if bit (word s (seqAddr g 0)) 0 then groupCells s fed g else 0).foldl (· + ·) 0

/-- REFUSAL of a group commit (R46, R242, R249). -/
def seqRefusal_ (s : State) (fn : FnId) (g : Nat) : Nat :=
  let pl := plannedWith s (.seqGrp g) fn
  let on := bit (word pl (seqAddr g 0)) 0
  if 25000 < skewBound pl (feedTable pl) g then 1
  else if 800 < rateSum pl ∨ (on ∧ rf pl (seqAddr g 0x10) 9 0 = 0) then 2
  else if 40960 < cellsReserved pl then 3
  else if !constantsOk pl then 4 else 0

/-- SEQ_GRP_COMMIT (R242). -/
def seqGrpCommitStep (fn : FnId) (g : Nat) (s : State) : State :=
  if !platform s fn then denied s fn (seqAddr g 0x14)
  else decideNamed s (.seqGrp g) fn (seqAddr g 0x18) (seqRefusal_ s fn g) srcRelease g

/-- What a group commit does beside its words: numbers start at 1 when it enables the group, and window,
cells and rates follow (R242, R249, R251). -/
def seqEffect (old s : State) (g : Nat) : State :=
  let on := bit (word s (seqAddr g 0)) 0
  let s := if on && !bit (word old (seqAddr g 0)) 0 then setWord64 s (seqAddr g 0x20) 1 else s
  let s := refreshConstants (refreshGroup (feedTable s) s g)
  let s := setRf s (seqAddr g 0x28) 15 0 (if on then groupCells s (feedTable s) g else 0)
  setRf s 0x1A90004 9 0 (rateSum s)

/-- SEQ_FO_COMMIT (R253): refused when a class's constant would lie below its new minimum. -/
def seqFoCommitStep (fn : FnId) (s : State) : State :=
  if !platform s fn then denied s fn 0x1A9000C
  else decideNamed s .seqFo fn 0x1A90010 (if constantsOk (plannedWith s .seqFo fn) then 0 else 1) srcRelease 0

/-- A commit refused by a block whose status register has no REFUSAL: nothing changes but an event (R46; DESIGN CHOICE:
the event is the report). -/
def commitIf (s : State) (ok : Bool) (b : Blk) (fn : FnId) (src : Nat) : State :=
  if ok then requestCommit s b fn .regs else event s src evCommit (detail 0 1) (fnTenancy s fn)

/-- TBL_AUX_COMMIT: bridge domains, source limits and flow-context defaults commit together (R236); refused when a flood
list raises a class's minimum above its constant (R46). -/
def tblAuxCommitStep (fn : FnId) (s : State) : State :=
  if !platform s fn then denied s fn 0x1982004
  else commitIf s (constantsOk (plannedWith s .tblAux fn)) .tblAux fn srcTables

/-- CRY_COMMIT: the function's shadow set (R342); refused when FC_SELECT raises a calendar above its slots (R37,
R354). -/
def cryCommitStep (fn : FnId) (s : State) : State :=
  commitIf s (calendarFault (plannedWith s (.cry fn) fn)).isNone (.cry fn) fn srcCrypto

/-- CLU_COMMIT (R83). -/
def execCluCommit (fn : FnId) (c : Fin 17) (s : State) : Out :=
  act s fun s => writeAs s fn (cluAddr c.val 0x30) (cluCommitStep fn c.val)
/-- CLS_COMMIT (R202). -/
def execClsCommit (fn : FnId) (s : State) : Out := act s fun s => writeAs s fn 0x16C0004 (clsCommitStep fn)
/-- TBL_COMMIT (R208). -/
def execTblCommit (fn : FnId) (table : Fin 72) (s : State) : Out :=
  act s fun s => writeAs s fn (tblAddr table.val 0x14) (tblCommitStep fn table.val)
/-- MAC_GRP_COMMIT (R302). -/
def execMacGrpCommit (fn : FnId) (group : Fin 4) (s : State) : Out :=
  act s fun s => writeAs s fn (grpAddr group.val 4) (macGrpCommitStep fn group.val)
/-- SEQ_GRP_COMMIT (R242). -/
def execSeqGrpCommit (fn : FnId) (g : Fin 256) (s : State) : Out :=
  act s fun s => writeAs s fn (seqAddr g.val 0x14) (seqGrpCommitStep fn g.val)
/-- SEQ_FO_COMMIT (R253). -/
def execSeqFoCommit (fn : FnId) (s : State) : Out := act s fun s => writeAs s fn 0x1A9000C (seqFoCommitStep fn)
/-- TBL_AUX_COMMIT (R236). -/
def execTblAuxCommit (fn : FnId) (s : State) : Out :=
  act s fun s => writeAs s fn 0x1982004 (tblAuxCommitStep fn)
/-- CRY_COMMIT (R342). -/
def execCryCommit (fn : FnId) (s : State) : Out := act s fun s => writeAs s fn 0x1C00000 (cryCommitStep fn)

end Sys2Proof.Machine
end

