-- ==== Sys2Proof/Machine/Tcp.lean ====
section
/-! DEFINITION. The TCP engine: offload, segments received and sent, timers and the per-function window
(R376–R385). -/

namespace Sys2Proof.Machine

open Sys2Proof

/-! ### Sequence numbers and the context -/

/-- `a` at or before `b` in sequence space (RFC 9293). -/
def seqLe (a b : BitVec 32) : Bool := decide ((b - a).toNat < 2 ^ 31)

/-- `a` before `b` in sequence space. -/
def seqLt (a b : BitVec 32) : Bool := seqLe a b && a != b

/-- A field of the offload record (R377). -/
def recFld (r : List Byte) (off n : Nat) : Nat := leAt r off n

/-- USER GATEWAY. -/
def connGateway (c : Conn) : Bool := recFld c.rec_ 4 1 == 2

/-- Largest payload of a segment: MSS less the timestamp option. -/
def connMss (c : Conn) : Nat := recFld c.rec_ 8 2 - if connFlag c 3 then 12 else 0

/-- Receive window in bytes: the receive buffer less the bytes of an unfinished TLS record. -/
def connRcvWnd (c : Conn) : Nat := connRcvBuf c - c.tls.length

/-- Bytes sent and not acknowledged, a FIN included. -/
def outstanding (c : Conn) : Nat := (c.sndNxt - c.sndUna).toNat

/-- Stream bytes not yet sent. -/
def unsent (c : Conn) : Nat := c.sndBuf.length - outstanding c

/-- The smaller of send window and congestion window, less what is outstanding. -/
def sendRoom (c : Conn) : Nat := min c.sndWnd c.cwnd - outstanding c

/-- Timer bounds of a function's TCP_TIMERS, in rounds (R384). -/
def rtoMin (s : State) (fn : FnId) : Nat := rf s (fnWordAddr fn 0x1EF0010) 15 0
def rtoMax (s : State) (fn : FnId) : Nat := rf s (fnWordAddr fn 0x1EF0010) 31 16 * 1024

/-- A retransmission time within its bounds (R378). -/
def boundRto (s : State) (fn : FnId) (r : Nat) : Nat := min (max r (rtoMin s fn)) (rtoMax s fn)

/-- RETRY_LIMIT, 0 meaning 8 (R377). -/
def retryLimit (c : Conn) : Nat := if recFld c.rec_ 12 1 = 0 then 8 else recFld c.rec_ 12 1

/-- CC FIXED never changes its window (R378). -/
def ccFixed (c : Conn) : Bool := recFld c.rec_ 7 1 == 2

def putConn (s : State) (n : Nat) (c : Conn) : State := { s with conns := place s.conns n c }

/-- Tenancy of a connection in the governing round of the current tick. -/
def connTenancy (s : State) (n : Nat) : Nat := rf s (0x6029000 + n / 1024 * 4) 9 0

/-- A connection's context is released, with an event (R376). -/
def releaseConn (s : State) (n : Nat) : State :=
  event { s with conns := remove s.conns n } srcTcp evState (detail n 0) (connTenancy s n)

/-! ### Segments sent (R380) -/

/-- The sequence numbers held out of order as SACK blocks: blocks of neighbouring data, newest first. -/
def sackBlocks (c : Conn) : List (BitVec 32 × BitVec 32) :=
  c.ooo.foldl (fun bs x =>
    let lo := x.1
    let hi := x.1 + BitVec.ofNat 32 x.2.length
    let touch := bs.filter fun b => seqLe b.1 hi && seqLe lo b.2
    let rest := bs.filter fun b => !(seqLe b.1 hi && seqLe lo b.2)
    (touch.foldl (fun l b => if seqLt b.1 l then b.1 else l) lo,
      touch.foldl (fun h b => if seqLt h b.2 then b.2 else h) hi) :: rest) []

/-- Options of a segment: timestamps and SACK blocks, padded to four bytes (R378). -/
def segOptions (s : State) (c : Conn) : List Byte :=
  let ts := if connFlag c 3 then
      [1, 1, 8, 10] ++ be 4 (round s) ++ be 4 c.tsRecent.toNat
    else []
  let blocks := if connFlag c 2 then (sackBlocks c).take (if connFlag c 3 then 3 else 4) else []
  if blocks.isEmpty then ts
  else ts ++ [1, 1, 5] ++ le 1 (2 + 8 * blocks.length) ++
    blocks.flatMap fun b => be 4 b.1.toNat ++ be 4 b.2.toNat

/-- The TCP checksum over the pseudo-header and the segment at `l4`. -/
def tcpChecksum (bs : List Byte) (ip l4 len : Nat) (v6 : Bool) : Nat :=
  let pseudo := if v6 then slice bs (ip + 8) 32 ++ be 4 len ++ [0, 0, 0, 6]
    else slice bs (ip + 12) 8 ++ [0, 6] ++ be 2 len
  inetChecksum (pseudo ++ slice bs l4 len)

/-- The bytes of a segment: the template with sequence numbers, flags, window, options, lengths and
checksums, and the payload (R377, R380). -/
def segmentBytes (s : State) (c : Conn) (seq : BitVec 32) (flags : Nat) (data : List Byte) : List Byte :=
  let hl := recFld c.rec_ 14 1
  let head := slice c.rec_ 64 hl
  let ip := 14 + 4 * (vlanTags head).length
  let l4 := hl - 20
  let opts := segOptions s c
  let shift := if connFlag c 1 then bits (recFld c.rec_ 6 1) 7 4 else 0
  let wnd := min 65535 (connRcvWnd c / 2 ^ shift)
  let tcp := slice head l4 4 ++ be 4 seq.toNat ++ be 4 c.rcvNxt.toNat ++
    le 1 ((20 + opts.length) / 4 * 16) ++ le 1 flags ++ be 2 wnd ++ [0, 0, 0, 0] ++ opts ++ data
  let bs := head.take l4 ++ tcp
  let v6 := connFlag c 0
  let bs := if v6 then patch bs (ip + 4) (be 2 (bs.length - ip - 40))
    else fixIpv4 (patch bs (ip + 2) (be 2 (bs.length - ip))) ip (l4 - ip)
  padTo 60 (patch bs (l4 + 16) (be 2 (tcpChecksum bs ip l4 tcp.length v6)))

/-- Flags of the TCP header. -/
def tcpFin : Nat := 1
def tcpRst : Nat := 4
def tcpPsh : Nat := 8
def tcpAck : Nat := 16

/-- The tag of an engine frame of the TCP engine with ingress and end times (R58, R380). -/
def engineTag (s : State) (n len : Nat) (times : BitVec 64 × BitVec 64) : Tag :=
  let t := setTag (setTag newTag 0 11 10 3) 0 9 0 0x300
  let t := setTag64 (setTag64 t 1 times.1.toNat) 3 times.2.toNat
  setFlag (setTag (setTag t 0 21 12 (connTenancy s n)) 7 15 0 len) 26 (s.tbs.midnights.getLsbD 0)

/-- A segment built in this tick: an engine frame for the connection's egress queue (R380). -/
def sendSegment (s : State) (n : Nat) (c : Conn) (seq : BitVec 32) (flags : Nat) (data : List Byte)
    (times : BitVec 64 × BitVec 64) : State :=
  let bs := segmentBytes s c seq flags data
  let q := recFld c.rec_ 44 4 % 2 ^ 19
  let due := now s + ftx s (q / 32768) + 4
  let t := engineTag s n bs.length times
  let t := setTag (setTag (setTag t 8 31 24 dkPort) 9 31 0 (q / 32768)) 12 31 13 q
  let t := setFlag (setTag64 t 5 ((compactNow s).toNat + (due - now s) * 1024)) 20 (connFlag c 4)
  let f : Frame := {
    id := s.nextFrame, stage := .held, src := .tcp n, tag := t, bytes := bs, endTick := now s,
    ingressTick := now s, wholeTick := now s, round := round s, due := due, plainDue := due,
    heldFrom := now s, conn := some n }
  joinQueue (newFrame s f) f q

/-- The times of a segment that carries no send frame's bytes. -/
def builtNow (s : State) : BitVec 64 × BitVec 64 := (compactNow s, compactNow s)

/-- An acknowledgment without data (R377). -/
def sendAck (s : State) (n : Nat) (c : Conn) : State :=
  putConn (sendSegment s n c c.sndNxt tcpAck [] (builtNow s)) n { c with ackAt := none }

/-- The retransmission and persist timers as the context's state asks for them (R378). -/
def armTimers (s : State) (c : Conn) : Conn :=
  let waits := decide (0 < outstanding c)
  let zero := decide (c.sndWnd = 0) && (decide (0 < unsent c) || waits)
  { c with
    rtxAt := if !waits || zero then none else some (c.rtxAt.getD (round s + c.rto))
    persistAt := if zero then some (c.persistAt.getD (round s + c.rto)) else none }

/-- The bytes from SND_UNA on that a retransmission carries: up to the segment size, the bytes sent so
far, and the first range that the peer holds already (R378). -/
def resendBytes (c : Conn) : List Byte :=
  let sent := min c.sndBuf.length (outstanding c)
  let stop := c.sacked.foldl (fun m b =>
    if seqLt c.sndUna b.1 then min m (b.1 - c.sndUna).toNat else m) (connMss c)
  c.sndBuf.take (min sent stop)

/-- The first segment not acknowledged is sent again; a FIN with nothing before it too. -/
def resend (s : State) (n : Nat) (c : Conn) : State :=
  let bs := resendBytes c
  let fin := c.finSent && decide (bs.length = c.sndBuf.length)
  let c := { connCount c 0 with timed := none, ackAt := none }
  putConn (sendSegment s n c c.sndUna (tcpAck + tcpPsh + if fin then tcpFin else 0) bs c.sendTimes) n c

/-! ### Delivery frames (R381) -/

/-- One delivery frame of a gateway connection, admitted to its receive class with the times of segment
`f`; the dispatcher may take it in the tick after the 8 of R379 (R382). -/
def deliveryFrame (s : State) (n : Nat) (c : Conn) (f : Frame) (offset flags : Nat) (data : List Byte) :
    State :=
  let head := le 4 n ++ le 8 offset ++ le 2 data.length ++ le 1 flags ++ [0]
  let bs := padTo 60 (head ++ data)
  let t := engineTag s n bs.length (BitVec.ofNat 64 (tag64 f.tag 1), BitVec.ofNat 64 (tag64 f.tag 3))
  let t := setTag (setTag t 0 27 22 (recFld c.rec_ 10 1 % 64)) 8 23 0 (recFld c.rec_ 40 3)
  let t := setFlag (setTag t 11 31 0 n) 26 (tagFlag f.tag 26)
  let pc := pathAt s f.round (tagClass t)
  let g : Frame := {
    id := s.nextFrame, stage := .engine, src := .tcp n, tag := t, bytes := bs, endTick := f.endTick,
    ingressTick := f.ingressTick, wholeTick := now s + 8, round := f.round, conn := some n }
  let s := newFrame s g
  if pc.program.isNone then dropFrame s g (atTenancy g) rsNoProgram
  else
    let g := setDue g pc.c
    putFrame { s with admissions := s.admissions + 1 } { g with
      stage := .queued, order := s.admissions, ready := now s + 9 }

/-- Largest payload of a delivery frame. -/
def deliveryMax : Nat := 16364

/-- The bytes made available, in delivery frames of the greatest size; a flag alone takes one frame. -/
def deliverFrames (n : Nat) (c : Conn) (f : Frame) (flags : Nat) :
    Nat → Nat → List Byte → State → State
  | 0, _, _, s => s
  | k + 1, offset, bs, s =>
    if bs.isEmpty then s
    else
      let last := decide (bs.length ≤ deliveryMax)
      deliverFrames n c f flags k (offset + deliveryMax) (bs.drop deliveryMax)
        (deliveryFrame s n c f offset (if last then flags else 0) (bs.take deliveryMax))

/-- Whole TLS records at the stream's head: their headers and ciphertexts, and what is left. -/
def tlsRecords : Nat → List Byte → List (List Byte × List Byte) × List Byte
  | 0, bs => ([], bs)
  | k + 1, bs =>
    let len := beAt bs 3 2
    if bs.length < 5 ∨ bs.length < 5 + len then ([], bs)
    else
      let r := tlsRecords k (bs.drop (5 + len))
      ((bs.take 5, (bs.drop 5).take len) :: r.1, r.2)

/-- The records opened in order; a failed record adds nothing and is counted under its reason (R352). -/
def openRecords (sa : Nat) (f : Frame) (t : Nat) : List (List Byte × List Byte) → State → State × List Byte
  | [], s => (s, [])
  | x :: m, s =>
    match tlsOpen s f.round sa x.1 x.2 with
    | (s, .error r) => openRecords sa f t m (countDrop s (.tenancy t) r)
    | (s, .ok p) =>
      let q := openRecords sa f t m s
      (q.1, p.1 ++ q.2)

/-- New bytes in order: opened when the connection names a receive SA, then delivered (R381); a storage
connection's bytes go to the storage engine, whose PDUs have commands of their own. -/
def takeBytes (s : State) (n : Nat) (c : Conn) (f : Frame) (new : List Byte) (flags : Nat) :
    State × Conn :=
  if !connGateway c then (s, c)
  else
    let sa := recFld c.rec_ 48 4
    let r := if bits sa 31 31 = 1 then
        let q := tlsRecords ((c.tls ++ new).length / 5 + 1) (c.tls ++ new)
        let o := openRecords (sa % 2 ^ 18) f (connTenancy s n) q.1 s
        (o.1, o.2, q.2)
      else (s, new, [])
    let bs := r.2.1
    let c := { c with tls := r.2.2 }
    let s := if bs.isEmpty ∧ flags ≠ 0 then deliveryFrame r.1 n c f c.offset flags []
      else deliverFrames n c f flags (bs.length / deliveryMax + 1) c.offset bs r.1
    (s, { c with offset := c.offset + bs.length })

/-- A connection ends without a FIN exchange: state 3 or 4, nothing left to send, and the close
reported (R378, R381). -/
def breakConn (s : State) (n : Nat) (c : Conn) (f : Frame) (state flag : Nat) : State :=
  let c := { c with
    state := state, sndBuf := [], ooo := [], tls := [], rtxAt := none, persistAt := none,
    ackAt := none, timed := none }
  let s := if connGateway c then deliveryFrame s n c f c.offset flag [] else s
  event (putConn s n c) srcTcp evState (detail n state) (connTenancy s n)
    (if state = 3 then rsTcpReset else rsRetryLimit)

/-- The context is released once both FINs are acknowledged (R376). -/
def settleClose (s : State) (n : Nat) : State :=
  match look s.conns n with
  | none => s
  | some c => if c.finAcked && c.peerFin then releaseConn s n else s

/-! ### Received segments (R378, R379) -/

/-- A TCP segment as received: sequence and acknowledgment numbers, flags, window, timestamp, SACK blocks
and payload. -/
structure Segment where
  seq : BitVec 32
  ack : BitVec 32
  flags : Nat
  wnd : Nat
  ts : Option (BitVec 32 × BitVec 32)
  sack : List (BitVec 32 × BitVec 32)
  data : List Byte
  deriving DecidableEq, Repr

/-- Timestamp and SACK blocks among the options. -/
def tcpOptions : Nat → List Byte → Option (BitVec 32 × BitVec 32) × List (BitVec 32 × BitVec 32)
  | 0, _ => (none, [])
  | k + 1, bs =>
    match bs with
    | [] => (none, [])
    | o :: m =>
      if o = 0 then (none, [])
      else if o = 1 then tcpOptions k m
      else
        let len := leAt m 0 1
        let r := tcpOptions k (bs.drop (max len 2))
        if o = 8 ∧ len = 10 then
          (some (BitVec.ofNat 32 (beAt bs 2 4), BitVec.ofNat 32 (beAt bs 6 4)), r.2)
        else if o = 5 then
          (r.1, (List.range ((len - 2) / 8)).map fun i =>
            (BitVec.ofNat 32 (beAt bs (2 + 8 * i) 4), BitVec.ofNat 32 (beAt bs (6 + 8 * i) 4)))
        else r

/-- Offset of the TCP header and bytes of the segment; extension headers of IPv6 are passed over. -/
def tcpPlace (bs : List Byte) (ip : Nat) (v6 : Bool) (ipEnd : Nat) : Option (Nat × Nat) :=
  if !v6 then
    if beAt bs (ip + 9) 1 = 6 then some (ipEnd, ip + beAt bs (ip + 2) 2 - ipEnd) else none
  else
    let stop := ip + 40 + beAt bs (ip + 4) 2
    let r := (List.range 8).foldl (fun (a : Nat × Nat) _ =>
      if a.1 = 0 ∨ a.1 = 43 ∨ a.1 = 60 then (beAt bs a.2 1, a.2 + 8 * (beAt bs (a.2 + 1) 1 + 1)) else a)
      (beAt bs (ip + 6) 1, ip + 40)
    if r.1 = 6 then some (r.2, stop - r.2) else none

/-- The segment in a frame; none when it is no TCP segment or its checksum fails (R379). -/
def segmentOf (bs : List Byte) : Option Segment :=
  match ipOf bs with
  | none => none
  | some (ip, v6, ipEnd) =>
    match tcpPlace bs ip v6 ipEnd with
    | none => none
    | some (l4, len) =>
      let off := beAt bs (l4 + 12) 1 / 16 * 4
      if len < 20 ∨ bs.length < l4 + len ∨ off < 20 ∨ len < off then none
      else if tcpChecksum bs ip l4 len v6 ≠ 0 then none
      else
        let o := tcpOptions 40 (slice bs (l4 + 20) (off - 20))
        some {
          seq := BitVec.ofNat 32 (beAt bs (l4 + 4) 4), ack := BitVec.ofNat 32 (beAt bs (l4 + 8) 4)
          flags := beAt bs (l4 + 13) 1, wnd := beAt bs (l4 + 14) 2, ts := o.1, sack := o.2
          data := slice bs (l4 + off) (len - off) }

/-- A flag of a segment. -/
def Segment.has (g : Segment) (flag : Nat) : Bool := g.flags / flag % 2 == 1

/-- A round-trip sample in rounds: smoothed round trip, variance and timeout as RFC 6298 gives (R378). -/
def sampleRtt (s : State) (c : Conn) (r : Nat) : Conn :=
  let first := decide (c.srtt = 0) && decide (c.rttvar = 0)
  let var := if first then r / 2 else (3 * c.rttvar + (max c.srtt r - min c.srtt r)) / 4
  let srtt := if first then r else (7 * c.srtt + r) / 8
  { c with srtt := srtt, rttvar := var, rto := boundRto s c.fn (srtt + max 1 (4 * var)) }

/-- The congestion window after `acked` new bytes outside recovery (RFC 5681, RFC 9438). -/
def growWindow (s : State) (c : Conn) (acked : Nat) : Conn :=
  let mss := connMss c
  if ccFixed c then c
  else if c.cwnd < c.ssthresh then { c with cwnd := c.cwnd + min acked mss }
  else if recFld c.rec_ 7 1 = 1 then
    { c with cwnd := Config.cubicWindow c.cwnd c.wmax mss (round s - c.epoch) c.srtt }
  else { c with cwnd := c.cwnd + max 1 (mss * mss / max 1 c.cwnd) }

/-- The slow-start threshold after a loss: half of what is outstanding, or under CUBIC seven tenths of the
window, and at least two segments. -/
def lossThreshold (c : Conn) : Nat :=
  max (if recFld c.rec_ 7 1 = 1 then c.cwnd * 7 / 10 else outstanding c / 2) (2 * connMss c)

/-- The third duplicate acknowledgment: the first segment is sent again (RFC 5681, RFC 6582). -/
def fastRetransmit (s : State) (n : Nat) (c : Conn) : State :=
  let ss := lossThreshold c
  let c := { c with
    recover := some c.sndNxt, wmax := c.cwnd, epoch := round s, ssthresh := ss
    cwnd := if ccFixed c then c.cwnd else ss + 3 * connMss c }
  resend s n c

/-- A duplicate acknowledgment. -/
def duplicateAck (s : State) (n : Nat) (c : Conn) : State :=
  let c := { c with dups := c.dups + 1 }
  match c.recover with
  | some _ => putConn s n (if ccFixed c then c else { c with cwnd := c.cwnd + connMss c })
  | none => if c.dups = 3 then fastRetransmit s n c else putConn s n c

/-- The ranges of a scoreboard above SND_UNA, at most 32 (R378). -/
def scoreboard (una : BitVec 32) (old new : List (BitVec 32 × BitVec 32)) : List (BitVec 32 × BitVec 32) :=
  ((new ++ old).eraseDups.filter fun b => seqLt una b.2 && seqLt b.1 b.2).take 32

/-- A new acknowledgment up to `ack`. -/
def newAck (s : State) (n : Nat) (c : Conn) (g : Segment) : State :=
  let acked := (g.ack - c.sndUna).toNat
  let fin := c.finSent && g.ack == c.sndNxt
  let c := match g.ts, c.timed with
    | some ts, _ => if connFlag c 3 then
        sampleRtt s c ((BitVec.ofNat 32 (round s) - ts.2).toNat) else c
    | none, some t => if seqLe t.1 g.ack then
        { sampleRtt s c (round s - t.2) with timed := none } else c
    | none, none => c
  let c := { c with
    sndUna := g.ack, sndBuf := c.sndBuf.drop acked, retries := 0, dups := 0
    sacked := scoreboard g.ack c.sacked [], finAcked := c.finAcked || fin
    rtxAt := none, persistAt := none }
  match c.recover with
  | none => putConn s n (armTimers s (growWindow s c acked))
  | some r =>
    if seqLe r g.ack then
      let w := min c.ssthresh (max (outstanding c) (connMss c) + connMss c)
      putConn s n (armTimers s { c with recover := none, cwnd := if ccFixed c then c.cwnd else w })
    else
      let w := max (c.cwnd - acked) (connMss c) + if connMss c ≤ acked then connMss c else 0
      resend s n (armTimers s { c with cwnd := if ccFixed c then c.cwnd else w })

/-- The acknowledgment and window of an acceptable segment (RFC 9293 Section 3.10.7.4). -/
def takeAck (s : State) (n : Nat) (c : Conn) (g : Segment) (plain : Bool) : State :=
  let wnd := if connFlag c 1 then g.wnd * 2 ^ bits (recFld c.rec_ 6 1) 3 0 else g.wnd
  let same := wnd == c.sndWnd
  let fresh := seqLt c.wl1 g.seq || (c.wl1 == g.seq && seqLe c.wl2 g.ack)
  let c := if connFlag c 2 then { c with sacked := scoreboard c.sndUna c.sacked g.sack } else c
  let c := if fresh && seqLe c.sndUna g.ack then
    { c with sndWnd := wnd, wl1 := g.seq, wl2 := g.ack } else c
  if seqLt c.sndUna g.ack then newAck s n c g
  else if g.ack == c.sndUna && plain && same && decide (0 < outstanding c) then
    duplicateAck s n (armTimers s c)
  else putConn s n (armTimers s c)

/-- Out-of-order bytes joined to the stream while they continue it: the bytes, the next number and what
stays. -/
def joinBytes : Nat → BitVec 32 → List (BitVec 32 × List Byte) →
    List Byte × BitVec 32 × List (BitVec 32 × List Byte)
  | 0, nxt, held => ([], nxt, held)
  | k + 1, nxt, held =>
    let held := held.filter fun x => seqLt nxt (x.1 + BitVec.ofNat 32 x.2.length)
    match held.find? fun x => seqLe x.1 nxt with
    | none => ([], nxt, held)
    | some x =>
      let bs := x.2.drop (nxt - x.1).toNat
      let r := joinBytes k (nxt + BitVec.ofNat 32 bs.length) (held.filter fun y => y != x)
      (bs ++ r.1, r.2)

/-- The data and FIN of an acceptable segment: bytes within the window are held or delivered, those
beyond the receive buffer counted, and the acknowledgment sent or delayed (R377–R381). -/
def takeData (s : State) (n : Nat) (c : Conn) (f : Frame) (g : Segment) : State :=
  let stop := c.rcvNxt + BitVec.ofNat 32 (connRcvWnd c)
  let stop' := g.seq + BitVec.ofNat 32 g.data.length
  let beyond := seqLt stop stop'
  let data := if beyond then g.data.take (stop - g.seq).toNat else g.data
  let c := if beyond then connCount c 4 else c
  let inOrder := seqLe g.seq c.rcvNxt && c.ooo.isEmpty
  let j := joinBytes (c.ooo.length + 2) c.rcvNxt
    (if data.isEmpty then c.ooo else c.ooo ++ [(g.seq, data)])
  let c := if g.has tcpFin && !beyond then { c with finAt := some stop' } else c
  let fin := !c.peerFin && c.finAt == some j.2.1
  let c := { c with
    rcvNxt := j.2.1 + (if fin then 1 else 0), ooo := j.2.2, peerFin := c.peerFin || fin
    finAsked := c.finAsked || fin, state := if fin then 2 else c.state }
  let t := takeBytes s n c f j.1 (if fin then 1 else 0)
  let c := t.2
  let dack := recFld c.rec_ 13 1
  if g.data.isEmpty ∧ !g.has tcpFin then putConn t.1 n c
  else if dack = 0 ∨ !inOrder ∨ fin ∨ beyond ∨ c.ackAt.isSome then sendAck t.1 n c
  else putConn t.1 n { c with ackAt := some (round s + dack) }

/-- A segment refused by its sequence number or timestamp: counted and acknowledged, but a RST only
counted (RFC 9293, RFC 7323). -/
def refuseSegment (s : State) (n : Nat) (c : Conn) (g : Segment) (k : Nat) : State :=
  let c := connCount c k
  if g.has tcpRst then putConn s n c else sendAck s n c

/-- Processing of a received segment on an open connection (R378, R379). -/
def processSegment (s : State) (n : Nat) (c : Conn) (f : Frame) (g : Segment) : State :=
  let len := g.data.length + if g.has tcpFin then 1 else 0
  let stop := g.seq + BitVec.ofNat 32 len
  let old := if len = 0 then seqLt g.seq c.rcvNxt else seqLe stop c.rcvNxt
  let wnd := connRcvWnd c
  let outside := if wnd = 0 then seqLt c.rcvNxt g.seq || decide (0 < len)
    else seqLe (c.rcvNxt + BitVec.ofNat 32 wnd) g.seq
  let stale := match g.ts with
    | some ts => connFlag c 3 && seqLt ts.1 c.tsRecent
    | none => false
  if old then refuseSegment s n c g 2
  else if outside || (stale && !g.has tcpRst) then refuseSegment s n c g 3
  else if g.has tcpRst then breakConn s n c f 3 2
  else if g.has 2 then sendAck s n c
  else if !g.has tcpAck then s
  else if seqLt c.sndNxt g.ack then sendAck s n c
  else
    let c := match g.ts with
      | some ts => if connFlag c 3 && seqLe g.seq c.rcvNxt then { c with tsRecent := ts.1 } else c
      | none => c
    let s := takeAck s n c g (decide (len = 0))
    match look s.conns n with
    | none => s
    | some c => settleClose (takeData s n c f g) n

/-- SEGMENT_RECEIVE: the engine processes a segment in the tick in which it took it (R379). -/
def segmentReceiveStep (id : Nat) (s : State) : State :=
  match frame? s id with
  | none => s
  | some f =>
    match f.src, f.conn with
    | .port _, some n =>
      if f.stage ≠ .engine ∨ f.heldFrom ≠ now s then s
      else match connOpenFor s f n with
        | none => endFrame s f
        | some c =>
          let s := endFrame s f
          match segmentOf f.bytes with
          | none => putConn s n (connCount c 1)
          | some g => processSegment s n c f g
    | _, _ => s

/-! ### Sending and timers (R378, R383) -/

/-- Bytes of the next new segment; none when the windows allow none (R383). -/
def nextSegment (c : Conn) : Option (List Byte) :=
  let want := min (connMss c) (unsent c)
  if want = 0 then none
  else if want ≤ sendRoom c then some ((c.sndBuf.drop (outstanding c)).take want)
  else if outstanding c = 0 ∧ 0 < sendRoom c then
    some (c.sndBuf.take (min want (sendRoom c)))
  else none

/-- SEGMENT_SEND: the next segment of new bytes, or the FIN behind them (R376, R383). -/
def segmentSendStep (n : Nat) (s : State) : State :=
  match look s.conns n with
  | none => s
  | some c =>
    if 3 ≤ c.state ∨ c.finSent ∨ now s < c.sendFrom then s
    else
      let data := nextSegment c
      let bs := data.getD []
      let fin := c.finAsked && decide (bs.length = unsent c)
      if data.isNone ∧ !fin then s
      else
        let flags := tcpAck + (if bs.length = unsent c ∧ data.isSome then tcpPsh else 0) +
          if fin then tcpFin else 0
        let nxt := c.sndNxt + BitVec.ofNat 32 (bs.length + if fin then 1 else 0)
        let s := sendSegment s n c c.sndNxt flags bs (if data.isSome then c.sendTimes else builtNow s)
        putConn s n (armTimers s { c with
          sndNxt := nxt, finSent := fin, ackAt := none
          timed := if c.timed.isNone then some (nxt, round s) else c.timed })

/-- A frame that lends its times to the report of a close by retries. -/
def closeFrame (s : State) (n : Nat) : Frame :=
  {
    id := 0, stage := .engine, src := .tcp n, tag := engineTag s n 0 (builtNow s), bytes := [],
    endTick := now s, ingressTick := now s, wholeTick := now s, round := round s }

/-- RETRANSMIT_TIMEOUT: the first segment is sent again with the doubled time, or the connection is reset
and closed after its last retry (R378). -/
def retransmitTimeoutStep (n : Nat) (s : State) : State :=
  match look s.conns n with
  | none => s
  | some c =>
    match c.rtxAt with
    | none => s
    | some t =>
      if round s < t ∨ 3 ≤ c.state then s
      else if retryLimit c ≤ c.retries then
        breakConn (sendSegment s n c c.sndNxt (tcpRst + tcpAck) [] (builtNow s)) n c (closeFrame s n) 4 4
      else
        let rto := boundRto s c.fn (2 * c.rto)
        let c := { c with
          retries := c.retries + 1, rto := rto, rtxAt := some (round s + rto), sacked := [], dups := 0
          ssthresh := if c.retries = 0 then lossThreshold c else c.ssthresh
          wmax := c.cwnd, epoch := round s, recover := some c.sndNxt
          cwnd := if ccFixed c then c.cwnd else connMss c }
        resend s n c

/-- PERSIST_TIMEOUT: a probe of one byte into a zero window, at doubling times (R378). -/
def persistTimeoutStep (n : Nat) (s : State) : State :=
  match look s.conns n with
  | none => s
  | some c =>
    match c.persistAt with
    | none => s
    | some t =>
      if round s < t ∨ 3 ≤ c.state then s
      else
        let rto := boundRto s c.fn (2 * c.rto)
        let c := { c with
          rto := rto, persistAt := some (round s + rto), ackAt := none, timed := none
          sndNxt := if outstanding c = 0 then c.sndNxt + 1 else c.sndNxt }
        putConn (sendSegment s n c c.sndUna (tcpAck + tcpPsh) (c.sndBuf.take 1) c.sendTimes) n c

/-- DELAYED_ACK: the acknowledgment whose delay has ended (R377). -/
def delayedAckStep (n : Nat) (s : State) : State :=
  match look s.conns n with
  | none => s
  | some c =>
    match c.ackAt with
    | none => s
    | some t => if round s < t ∨ 3 ≤ c.state then s else sendAck s n c

/-! ### The window (R377, R384, R385) -/

def tcpWin (fn : FnId) (off : Nat) : Nat := fnWordAddr fn (0x1EF0000 + off)

/-- TCP_CMD_STATUS. -/
def setTcpStatus (s : State) (fn : FnId) (v : Nat) : State := setWord s (tcpWin fn 0xC) (BitVec.ofNat 32 v)

/-- A record with a reserved value, or for another connection than the command (R377). -/
def badRecord (r : List Byte) (n : Nat) : Bool :=
  let at_ := recFld r
  let gateway := at_ 4 1 == 2
  decide (at_ 0 4 ≠ n) || (at_ 4 1 != 1 && !gateway) || decide (0 < at_ 5 1 / 32) ||
    decide (14 < at_ 6 1 % 16) || decide (14 < at_ 6 1 / 16) || decide (2 < at_ 7 1) ||
    decide (at_ 8 2 < 536) || decide (9000 < at_ 8 2) ||
    decide ((if gateway then 64 else 4096) ≤ at_ 10 2) || decide (15 < at_ 12 1) ||
    decide (at_ 14 1 < 54) || decide (128 < at_ 14 1) || at_ 15 1 != 0 ||
    decide (2 ^ 24 ≤ at_ 40 4) || decide (2 ^ 19 ≤ at_ 44 4) ||
    bits (at_ 48 4) 30 18 != 0 || bits (at_ 52 4) 30 18 != 0 ||
    at_ 56 1 == 0 || at_ 57 1 == 0 || at_ 58 2 != 0

/-- Every object that a record names is open to the function's tenancy (R133, R377). -/
def recordOpen (s : State) (fn : FnId) (r : List Byte) (n : Nat) : Bool :=
  let t := fnTenancy s fn
  let rd := round s
  let at_ := recFld r
  let saOk (w : Nat) := bits w 31 31 == 0 || saTenancy s rd (w % 2 ^ 18) == t
  let tgt := rf s (0x1EA0000 + at_ 10 2 * 0x40) 9 0
  connOwned s rd t n && fcOwned s rd t (at_ 40 3) &&
    queueTenancy s rd (at_ 44 4) == t && saOk (at_ 48 4) && saOk (at_ 52 4) &&
    (if at_ 4 1 = 2 then classOpen s rd t (at_ 10 1) (pathNow s (at_ 10 1)).owner
      else tgt == t || tgt == 0)

/-- Initial congestion window (RFC 5681), or FIXED_WND. -/
def firstWindow (r : List Byte) : Nat :=
  let mss := recFld r 8 2
  if recFld r 7 1 = 2 then (if recFld r 60 4 = 0 then 10 * mss else recFld r 60 4)
  else if 2190 < mss then 2 * mss else if 1095 < mss then 3 * mss else 4 * mss

/-- The context that an offload record starts (R377). -/
def offloaded (s : State) (fn : FnId) (r : List Byte) : Conn :=
  let at_ := recFld r
  let nxt := BitVec.ofNat 32 (at_ 16 4)
  let rcv := BitVec.ofNat 32 (at_ 20 4)
  let known := at_ 32 4 ≠ 0 ∨ at_ 36 4 ≠ 0
  { fn := fn, opened := now s, rec_ := slice r 0 192, sndUna := nxt, sndNxt := nxt, sndWnd := at_ 24 4,
    wl1 := rcv, wl2 := nxt, rcvNxt := rcv, tsRecent := BitVec.ofNat 32 (at_ 28 4), srtt := at_ 32 4,
    rttvar := at_ 36 4,
    rto := if known then boundRto s fn (at_ 32 4 + max 1 (4 * at_ 36 4)) else 977,
    cwnd := firstWindow r }

/-- OFFLOAD: a connection handed to the engine (R377). -/
def offloadStep (fn : FnId) (n : Nat) (r : List Byte) (fail : Option ReadFail) (s : State) : State :=
  let used := match look s.conns n with
    | some c => decide (c.state < 3)
    | none => false
  if !mayRequest s fn then s
  else if fail.isSome then setTcpStatus s fn 6
  else if badRecord r n then setTcpStatus s fn 2
  else if !recordOpen s fn r n then setTcpStatus s fn 3
  else if used then setTcpStatus s fn 4
  else setTcpStatus (putConn s n (offloaded s fn r)) fn 0

/-- A command on an offloaded connection open to the function (R384). -/
def onConn (s : State) (fn : FnId) (n : Nat) (f : Conn → State → State) : State :=
  if !connOwned s (round s) (fnTenancy s fn) n then setTcpStatus s fn 3
  else match look s.conns n with
    | none => setTcpStatus s fn 5
    | some c => setTcpStatus (f c s) fn 0

/-- The record of a connection with its live values (R384). -/
def liveRecord (c : Conn) : List Byte :=
  patch c.rec_ 16 (le 4 c.sndNxt.toNat ++ le 4 c.rcvNxt.toNat ++ le 4 c.sndWnd ++ le 4 c.tsRecent.toNat ++
    le 4 c.srtt ++ le 4 c.rttvar)

/-- TCP_READ: the live context to the record address (R384). -/
def tcpReadStep (fn : FnId) (n : Nat) (s : State) : State :=
  onConn s fn n fun c s =>
    hostWrite s fn (word64 s (tcpWin fn 0) / 64 * 64) (liveRecord c) false

/-- CLOSE: queued bytes, then FIN; a connection already closed is released (R383, R384). -/
def closeStep (fn : FnId) (n : Nat) (s : State) : State :=
  onConn s fn n fun c s =>
    if 3 ≤ c.state then releaseConn s n
    else putConn s n { c with state := 2, finAsked := true }

/-- TCP_ABORT: RST, and the context is released (R384). -/
def tcpAbortStep (fn : FnId) (n : Nat) (s : State) : State :=
  onConn s fn n fun c s =>
    let s := if 3 ≤ c.state then s else sendSegment s n c c.sndNxt (tcpRst + tcpAck) [] (builtNow s)
    releaseConn s n

/-- CONN_SEL: the selected connection is latched in the tick after (R385). -/
def connSelStep (fn : FnId) (n : Nat) (s : State) : State :=
  addDue (setWord s (tcpWin fn 0x14) (BitVec.ofNat 32 n))
    { tick := now s, phase := 8, slot := fnNum fn, what := .connLatch fn n }

/-- The latch of R385: six counters and the state, or zeros and DENIED. -/
def connLatch (s : State) (fn : FnId) (n : Nat) : State :=
  let ok := fn = pf0 ∨ connOwned s (round s) (fnTenancy s fn) n
  let c := look s.conns n
  let cs := match c with
    | some c => if ok then c.counts else []
    | none => []
  let st := match c with
    | some c => if ok then c.state else 0
    | none => 0
  let s := (List.range 6).foldl (fun s k => setWord s (tcpWin fn (0x20 + 4 * k)) (cs.getD k 0)) s
  setWord (setWord s (tcpWin fn 0x38) (BitVec.ofNat 32 st)) (tcpWin fn 0x18) (if ok then 0 else 1)

/-! ### Meanings -/

def execOffload (fn : FnId) (conn : Fin 262144) (record : List Byte) (fail : Option ReadFail) (s : State) :
    Out :=
  act s fun s => writeAs s fn 0x1EF0008 (offloadStep fn conn.val record fail)

def execTcpRead (fn : FnId) (conn : Fin 262144) (s : State) : Out :=
  act s fun s => writeAs s fn 0x1EF0008 (tcpReadStep fn conn.val)

def execClose (fn : FnId) (conn : Fin 262144) (s : State) : Out :=
  act s fun s => writeAs s fn 0x1EF0008 (closeStep fn conn.val)

def execTcpAbort (fn : FnId) (conn : Fin 262144) (s : State) : Out :=
  act s fun s => writeAs s fn 0x1EF0008 (tcpAbortStep fn conn.val)

def execConnSel (fn : FnId) (conn : Fin 262144) (s : State) : Out :=
  act s fun s => writeAs s fn 0x1EF0014 (connSelStep fn conn.val)

def execSegmentReceive (f : Nat) (s : State) : Out := act s (segmentReceiveStep f)

def execSegmentSend (conn : Fin 262144) (s : State) : Out := act s (segmentSendStep conn.val)

def execRetransmitTimeout (conn : Fin 262144) (s : State) : Out := act s (retransmitTimeoutStep conn.val)

def execPersistTimeout (conn : Fin 262144) (s : State) : Out := act s (persistTimeoutStep conn.val)

def execDelayedAck (conn : Fin 262144) (s : State) : Out := act s (delayedAckStep conn.val)

end Sys2Proof.Machine
end

