-- ==== Sys2Proof/Machine/Storage.lean ====
section
/-! DEFINITION. The storage engine: emulated controllers and their queues, commands, namespaces, targets
and their connections (R365–R375, R384). -/

namespace Sys2Proof.Machine

open Sys2Proof

/-! ### Registers and records -/

def stoAddr (c off : Nat) : Nat := 0x1E00000 + c * 0x40 + off
def nsAddr (c n off : Nat) : Nat := 0x1E10000 + (c * 16 + (n - 1)) * 0x20 + off
def tgtAddr (t off : Nat) : Nat := 0x1EA0000 + t * 0x40 + off

/-- The VF of a controller, and ENABLE (R365). -/
def ctrlVf (s : State) (c : Nat) : FnId := fnOf (rf s (stoAddr c 0) 10 0)
def ctrlOn (s : State) (c : Nat) : Bool := bit (word s (stoAddr c 0)) 31

def ctrl (s : State) (c : Nat) : Ctrl := (look s.ctrls c).getD {}
def putCtrl (s : State) (c : Nat) (v : Ctrl) : State := { s with ctrls := place s.ctrls c v }
def target (s : State) (t : Nat) : Target := (look s.targets t).getD {}
def putTarget (s : State) (t : Nat) (v : Target) : State := { s with targets := place s.targets t v }

/-- Number of the admin connection among a target's connections. -/
def adminLink : Nat := 8

/-- Connection of a target in the TCP engine. -/
def linkConn (s : State) (t k : Nat) : Nat :=
  rf s (tgtAddr t (if k = adminLink then 4 else 8 + 4 * k)) 17 0

/-- OPEN of a target: some I/O connection is open. -/
def targetOpen (s : State) (t : Nat) : Bool := rf s (tgtAddr t 0x28) 7 0 != 0

/-- Status codes of a completion: type 0 (R367, R371–R375). -/
def scOk : Nat := 0
def scOpcode : Nat := 0x01
def scField : Nat := 0x02
def scConflict : Nat := 0x03
def scTransfer : Nat := 0x04
def scAborted : Nat := 0x07
def scQueueDeleted : Nat := 0x08
def scNamespace : Nat := 0x0B
def scTransport : Nat := 0x22
def scLbaRange : Nat := 0x80
def scNotReady : Nat := 0x82

/-! ### Completions -/

/-- Entries of a queue; the admin queues have the largest size (R366). -/
def sqOf (v : Ctrl) (q : Nat) : Option SubQueue :=
  match look v.sqs q with
  | some x => some x
  | none => if q = 0 then some { size := 4096, cq := 0 } else none

def cqOf (v : Ctrl) (q : Nat) : Option CplQueue :=
  match look v.cqs q with
  | some x => some x
  | none => if q = 0 then some { size := 4096, vector := 0, intEn := true } else none

/-- A completion written to its queue, with the queue's interrupt; one that finds no room waits. -/
def flushDone (c : Nat) : Nat → State → State
  | 0, s => s
  | k + 1, s =>
    let v := ctrl s c
    match v.held with
    | [] => s
    | d :: m =>
      let cq := match sqOf v d.qid with | some q => q.cq | none => 0
      match cqOf v cq with
      | none => flushDone c k (putCtrl s c { v with held := m })
      | some q =>
        if (q.tail + 1) % q.size = q.head then s
        else
          let v := { v with
            held := m, done := v.done ++ [d], cqs := place v.cqs cq { q with tail := (q.tail + 1) % q.size } }
          let s := putCtrl s c v
          flushDone c k (if q.intEn then signalVector s (ctrlVf s c) q.vector else s)

/-- A command of a controller ends: its staging is free, STO_OUTSTANDING falls, and its completion is
written. -/
def finish (s : State) (c : Nat) (x : NvmeCmd) (sct sc : Nat) (dnr : Bool := false) (result : Nat := 0)
    (data md : List Byte := []) : State :=
  let v := ctrl s c
  let cmds := v.cmds.filter fun y => y != x
  let s := putCtrl s c { v with cmds := cmds, held := v.held ++ [⟨x.qid, x.cid, sct, sc, dnr, result, data, md⟩] }
  let s := setWord s (stoAddr c 0x1C) (BitVec.ofNat 32 cmds.length)
  flushDone c ((ctrl s c).held.length) s

/-- The fetched command at a place, with its opcode, whose own command has not run yet. -/
def fetched? (s : State) (id : NvmeId) (opcode : Nat) : Option NvmeCmd :=
  (ctrl s id.ctrl.val).cmds.find? fun x =>
    x.qid == id.qid && x.cid == id.cid && x.opcode == opcode && x.sent.isNone

/-- What a command row does with its fetched command. -/
def onCmd (s : State) (id : NvmeId) (admin : Bool) (opcode : Nat) (f : NvmeCmd → State → State) : State :=
  if decide (id.qid = 0) != admin then s
  else match fetched? s id opcode with
    | none => s
    | some x => f x s

/-! ### Doorbells and fetching (R366, R368) -/

/-- NVME_DOORBELL: submissions published, or completion entries freed (R366). -/
def nvmeDoorbellStep (c q : Nat) (completion : Bool) (val : BitVec 32) (s : State) : State :=
  if !ctrlOn s c then s
  else
    let v := ctrl s c
    let n := val.toNat
    if completion then
      match cqOf v q with
      | none => s
      | some x => if x.size ≤ n then s
        else
          let s := putCtrl s c { v with cqs := place v.cqs q { x with head := n } }
          flushDone c ((ctrl s c).held.length) s
    else
      match sqOf v q with
      | none => s
      | some x => if x.size ≤ n then s
        else
          let new := (n + x.size - x.tail) % x.size
          putCtrl s c { v with sqs := place v.sqs q { x with
            tail := n, published := x.published ++ List.replicate new (now s) } }

/-- Outstanding commands of the device. -/
def allOutstanding (s : State) : Nat := s.ctrls.foldl (fun n p => n + p.2.cmds.length) 0

/-- Bytes that a controller's commands stage. -/
def stagedBytes (v : Ctrl) : Nat := v.cmds.foldl (fun n x => n + x.bytes) 0

/-- Namespace record: valid, its target, and that target's tenancy fitting the controller's (R371,
R372). -/
def nsValid (s : State) (c n : Nat) : Bool :=
  decide (1 ≤ n ∧ n ≤ 16) && bit (word s (nsAddr c n 0)) 31
def nsTarget (s : State) (c n : Nat) : Nat := rf s (nsAddr c n 0) 11 0
def targetFits (s : State) (c t : Nat) : Bool :=
  let w := rf s (tgtAddr t 0) 9 0
  w == ctrlTenancy s (round s) c || w == 0

/-- READY of a namespace of nonzero size on a fitting target (R372). -/
def nsReady (s : State) (c n : Nat) : Bool :=
  bit (word s (nsAddr c n 0x18)) 0 && word64 s (nsAddr c n 0x10) != 0 && targetFits s c (nsTarget s c n)

/-- Opcodes of the admin and I/O queues (R367). -/
def adminOpcodes : List Nat := [0, 1, 2, 4, 5, 6, 8, 9, 0xA, 0xC]
def ioOpcodes : List Nat := [0, 1, 2, 8, 9]

/-- The head entry of a submission queue taken off it. -/
def takeHead (s : State) (c q : Nat) : State :=
  let v := ctrl s c
  match sqOf v q with
  | none => s
  | some x => putCtrl s c { v with sqs := place v.sqs q { x with
      head := (x.head + 1) % x.size, published := x.published.drop 1 } }

/-- A command taken from its queue: outstanding and counted. -/
def fetchNow (s : State) (c q cid opcode nsid bytes : Nat) : State × NvmeCmd :=
  let s := takeHead s c q
  let v := ctrl s c
  let x : NvmeCmd := { qid := q, cid := cid, opcode := opcode, nsid := nsid, bytes := bytes, fetched := now s }
  let s := count (putCtrl s c { v with cmds := v.cmds ++ [x] }) (stoAddr c 0xC)
  (setWord s (stoAddr c 0x1C) (BitVec.ofNat 32 (v.cmds.length + 1)), x)

/-- NVME_COMMAND_FETCH: the head command of a queue, when limits, staging and connections allow; an
unsupported opcode completes at once (R367, R368). -/
def nvmeFetchStep (c q cid opcode nsid bytes : Nat) (s : State) : State :=
  let v := ctrl s c
  match sqOf v q with
  | none => s
  | some x =>
    let room := decide (v.cmds.length < 4096) && decide (allOutstanding s < 262144) &&
      decide (stagedBytes v + bytes ≤ rf s (stoAddr c 4) 12 0 * 1048576)
    let reach := q == 0 || !nsValid s c nsid || targetOpen s (nsTarget s c nsid)
    if !ctrlOn s c || !mayRequest s (ctrlVf s c) || x.published.isEmpty || !room || !reach then s
    else
      let again := v.cmds.any fun y => y.qid == q && y.cid == cid
      let r := fetchNow s c q cid opcode nsid bytes
      if again then finish r.1 c r.2 0 scConflict
      else if (if q = 0 then adminOpcodes else ioOpcodes).contains opcode then r.1
      else finish r.1 c r.2 0 scOpcode

/-! ### Admin commands (R367, R370) -/

/-- Queue numbers and sizes that a controller supports (R368). -/
def queueOk (q size : Nat) : Bool := decide (1 ≤ q ∧ q ≤ 64) && decide (2 ≤ size ∧ size ≤ 4096)

/-- CREATE_IO_COMPLETION_QUEUE (R367). -/
def createCqStep (id : NvmeId) (q size vector : Nat) (contiguous intEn : Bool) (s : State) : State :=
  let c := id.ctrl.val
  onCmd s id true 5 fun x s =>
    let v := ctrl s c
    if !queueOk q size ∨ !contiguous ∨ 64 ≤ vector then finish s c x 0 scField
    else if (look v.cqs q).isSome then finish s c x 1 1
    else finish (putCtrl s c { v with
      cqs := place v.cqs q { size := size, vector := vector, intEn := intEn } }) c x 0 scOk

/-- CREATE_IO_SUBMISSION_QUEUE (R367). -/
def createSqStep (id : NvmeId) (q size cq : Nat) (contiguous : Bool) (s : State) : State :=
  let c := id.ctrl.val
  onCmd s id true 1 fun x s =>
    let v := ctrl s c
    if !queueOk q size ∨ !contiguous then finish s c x 0 scField
    else if cq = 0 ∨ (look v.cqs cq).isNone then finish s c x 1 0
    else if (look v.sqs q).isSome then finish s c x 1 1
    else finish (putCtrl s c { v with sqs := place v.sqs q { size := size, cq := cq } }) c x 0 scOk

/-- DELETE_IO_SUBMISSION_QUEUE: the queue's outstanding commands complete as aborted by it (R367). -/
def deleteSqStep (id : NvmeId) (q : Nat) (s : State) : State :=
  let c := id.ctrl.val
  onCmd s id true 0 fun x s =>
    if q = 0 ∨ (look (ctrl s c).sqs q).isNone then finish s c x 1 1
    else
      let s := ((ctrl s c).cmds.filter fun y => y.qid == q).foldl
        (fun s y => finish s c y 0 scQueueDeleted) s
      let v := ctrl s c
      finish (putCtrl s c { v with sqs := remove v.sqs q }) c x 0 scOk

/-- DELETE_IO_COMPLETION_QUEUE: refused while a submission queue uses it (R367). -/
def deleteCqStep (id : NvmeId) (q : Nat) (s : State) : State :=
  let c := id.ctrl.val
  onCmd s id true 4 fun x s =>
    let v := ctrl s c
    if q = 0 ∨ (look v.cqs q).isNone then finish s c x 1 1
    else if v.sqs.any fun p => p.2.cq == q then finish s c x 1 0xC
    else finish (putCtrl s c { v with cqs := remove v.cqs q }) c x 0 scOk

/-- The notice event: an Asynchronous Event Request completes when the log holds an entry and none has
been reported since it was last read (R370). -/
def reportNotice (s : State) (c : Nat) : State :=
  let v := ctrl s c
  match v.aers with
  | [] => s
  | cid :: m =>
    if v.noticeTold || ((look s.notices c).getD []).isEmpty then s
    else
      match v.cmds.find? fun x => x.qid == 0 && x.cid == cid with
      | none => putCtrl s c { v with aers := m }
      | some x => finish (putCtrl s c { v with aers := m, noticeTold := true }) c x 0 scOk false
          (7 + 0xC0 * 256 + 0xC0 * 65536)

/-- Every controller's notice event. -/
def noticePass (s : State) : State := s.ctrls.foldl (fun s p => reportNotice s p.1) s

/-- GET_LOG_PAGE (R367, R370). -/
def getLogPageStep (id : NvmeId) (lid : BitVec 8) (retain : Bool) (s : State) : State :=
  let c := id.ctrl.val
  onCmd s id true 2 fun x s =>
    if lid = 0xC0 then
      let log := (look s.notices c).getD []
      let data := log.headD (List.replicate 4096 0)
      let s := if retain then s
        else
          let s := { s with notices := place s.notices c (log.drop 1) }
          putCtrl s c { ctrl s c with noticeTold := false }
      reportNotice (finish s c x 0 scOk false 0 data []) c
    else if lid = 1 ∨ lid = 2 ∨ lid = 3 then finish s c x 0 scOk false 0 (Config.logPage lid.toNat c) []
    else finish s c x 0 scField

/-- Protection format and LBA bytes of a namespace (R371). -/
def nsFormat (s : State) (c n : Nat) : Nat := rf s (nsAddr c n 0) 14 13
def nsLba (s : State) (c n : Nat) : Nat := if bit (word s (nsAddr c n 0)) 12 then 4096 else 512

/-- Bytes of protection information per LBA. -/
def piBytes (format : Nat) : Nat := if format = 1 then 8 else if format = 2 then 16 else 0

/-- Identify Namespace: the record's values over the data that the specification does not give
(R371). -/
def identifyNamespace (s : State) (c n : Nat) : List Byte :=
  let size := le 8 (word64 s (nsAddr c n 0x10))
  let f := nsFormat s c n
  let bs := patch (slice (Config.identifyData 0 c n) 0 4096) 0 (size ++ size)
  let bs := patch bs 25 [0, 0, (if f = 0 then 0 else 2), (if f = 0 then 0 else 1), (if f = 0 then 0 else 1)]
  patch bs 128 (le 2 (piBytes f) ++ [if nsLba s c n = 4096 then 12 else 9])

/-- Identify Controller: MDTS, the abort and event limits and the number of namespaces (R367, R368). -/
def identifyController (c : Nat) : List Byte :=
  let bs := patch (slice (Config.identifyData 1 c 0) 0 4096) 77 [5]
  let bs := patch bs 258 [3, 3]
  patch (patch bs 262 [63]) 516 (le 4 16)

/-- Active namespaces above `n`, as Identify CNS 2 lists them. -/
def namespaceList (s : State) (c n : Nat) : List Byte :=
  slice (((List.range 16).filter fun k => nsValid s c (k + 1) && decide (n < k + 1)).flatMap
    fun k => le 4 (k + 1)) 0 4096

/-- IDENTIFY (R367). -/
def identifyStep (id : NvmeId) (cns : BitVec 8) (nsid : Nat) (s : State) : State :=
  let c := id.ctrl.val
  onCmd s id true 6 fun x s =>
    if x.nsid ≠ nsid then s
    else match cns.toNat with
      | 0 => if nsid = 0 ∨ 16 < nsid then finish s c x 0 scNamespace
        else finish s c x 0 scOk false 0
          (if nsValid s c nsid then identifyNamespace s c nsid else List.replicate 4096 0) []
      | 1 => finish s c x 0 scOk false 0 (identifyController c) []
      | 2 => finish s c x 0 scOk false 0 (namespaceList s c nsid) []
      | 3 => if nsValid s c nsid then
          finish s c x 0 scOk false 0 (slice (Config.identifyData 3 c nsid) 0 4096) []
        else finish s c x 0 scNamespace
      | _ => finish s c x 0 scField

/-- A PDU sent on a connection of a target. -/
def sendPdu (s : State) (t k : Nat) (p : SentPdu) : State :=
  let v := target s t
  putTarget s t { v with sent := v.sent ++ [(k, p)] }

/-- ABORT: a command already sent is aborted at its target, and completes as aborted (R375). -/
def abortStep (id : NvmeId) (q cid : Nat) (s : State) : State :=
  let c := id.ctrl.val
  onCmd s id true 8 fun x s =>
    if 4 < ((ctrl s c).cmds.filter fun y => y.qid == 0 && y.opcode == 8).length then finish s c x 1 3
    else
      match (ctrl s c).cmds.find? fun y => y.qid == q && y.cid == cid && y != x with
      | none => finish s c x 0 scOk false 1
      | some y =>
        let s := if y.sent.isSome then sendPdu s y.target y.conn (.abort y.rcid) else s
        let v := ctrl s c
        let s := putCtrl s c { v with aers := v.aers.filter fun a => !(q == 0 && a == cid) }
        finish (finish s c y 0 scAborted) c x 0 scOk

/-- SET_FEATURES (R367). -/
def setFeaturesStep (id : NvmeId) (feature : BitVec 8) (value : BitVec 32) (s : State) : State :=
  let c := id.ctrl.val
  onCmd s id true 9 fun x s =>
    let v := ctrl s c
    let n := value.toNat
    if feature = 7 then
      if n % 65536 = 65535 ∨ n / 65536 = 65535 then finish s c x 0 scField
      else
        let r := min (n % 65536) 63 + min (n / 65536) 63 * 65536
        finish (putCtrl s c { v with features := place v.features 7 r }) c x 0 scOk false r
    else if feature = 8 ∨ feature = 0xB then
      finish (putCtrl s c { v with features := place v.features feature.toNat n }) c x 0 scOk
    else finish s c x 0 scField

/-- GET_FEATURES (R367). -/
def getFeaturesStep (id : NvmeId) (feature : BitVec 8) (s : State) : State :=
  let c := id.ctrl.val
  onCmd s id true 0xA fun x s =>
    let v := ctrl s c
    if feature = 7 then finish s c x 0 scOk false ((look v.features 7).getD (63 + 63 * 65536))
    else if feature = 8 ∨ feature = 0xB then
      finish s c x 0 scOk false ((look v.features feature.toNat).getD 0)
    else finish s c x 0 scField

/-- ASYNCHRONOUS_EVENT_REQUEST: up to four wait; a fifth ends at once (R367, R370). -/
def aerStep (id : NvmeId) (s : State) : State :=
  let c := id.ctrl.val
  onCmd s id true 0xC fun x s =>
    let v := ctrl s c
    if v.aers.contains x.cid then s
    else if 4 ≤ v.aers.length then finish s c x 1 5
    else reportNotice (putCtrl s c { v with aers := v.aers ++ [x.cid] }) c

/-! ### Protection information (R374) -/

/-- The protection information of one block: guard, application tag, reference tag. -/
def protOf (format : Nat) (app ref : Nat) (block : List Byte) : List Byte :=
  if format = 1 then be 2 (crc .crc16 block) ++ be 2 app ++ be 4 ref
  else be 8 (crc .crc64 block) ++ be 2 app ++ be 6 ref

/-- Block `i` of a transfer. -/
def blockAt (bs : List Byte) (size i : Nat) : List Byte := slice bs (i * size) size

/-- The first failed check of a block under PRCHK: guard, application tag, reference tag (R374). -/
def protFault (format : Nat) (p : ProtInfo) (i : Nat) (block pi : List Byte) : Option Nat :=
  let g := if format = 1 then 2 else 8
  let rn := if format = 1 then 4 else 6
  let guard := if format = 1 then crc .crc16 block else crc .crc64 block
  let app := BitVec.ofNat 16 (beAt pi g 2)
  let ref := (p.ilbrt + i) % 256 ^ rn
  if app = 0xFFFF then none
  else if p.prchk.getLsbD 2 && beAt pi 0 g != guard then some 0x82
  else if p.prchk.getLsbD 1 && (app &&& p.lbatm) != (p.lbat &&& p.lbatm) then some 0x83
  else if p.prchk.getLsbD 0 && beAt pi (g + 2) rn != ref then some 0x84
  else none

/-- The first failed check of a transfer. -/
def transferFault (format size blocks : Nat) (p : ProtInfo) (data pi : List Byte) : Option Nat :=
  if format = 0 then none
  else (List.range blocks).findSome? fun i =>
    protFault format p i (blockAt data size i) (blockAt pi (piBytes format) i)

/-- Data and protection information as they are sent, block by block. -/
def withProt (format size blocks : Nat) (data pi : List Byte) : List Byte :=
  (List.range blocks).flatMap fun i => blockAt data size i ++ blockAt pi (piBytes format) i

/-! ### I/O commands (R371, R372, R374) -/

/-- Why an I/O command ends before it is sent: its namespace, readiness, or range. -/
def ioFault (s : State) (c nsid slba blocks : Nat) : Option Nat :=
  if !nsValid s c nsid then some scNamespace
  else if word64 s (nsAddr c nsid 0x10) < slba + blocks then some scLbaRange
  else if !nsReady s c nsid then some scNotReady
  else none

/-- The smallest identifier not in use on a target's connections. -/
def freeRcid (s : State) (t : Nat) : Nat :=
  let used := s.ctrls.flatMap fun p =>
    (p.2.cmds.filter fun x => x.sent.isSome && x.target == t).map fun x => x.rcid
  ((List.range (used.length + 1)).find? fun k => !used.contains k).getD 0

/-- A command sent to its namespace's target, as remote LBAs, on connection y mod the count; one whose
connection is not open ends with a transport error (R371, R372). -/
def sendCmd (s : State) (c : Nat) (x : NvmeCmd) (slba blocks : Nat) (data : List Byte)
    (prot : Option ProtInfo) : State :=
  let t := nsTarget s c x.nsid
  let k := x.qid % max 1 (rf s (tgtAddr t 0) 15 12)
  if !bit (word s (tgtAddr t 0x28)) k then finish s c x 0 scTransport
  else
    let rcid := freeRcid s t
    let limit := rf s (tgtAddr t 0) 21 18 * 1024
    let remote := (word64 s (nsAddr c x.nsid 8) + slba) % 2 ^ 64
    let v := ctrl s c
    let y := { x with
      sent := some (now s), target := t, conn := k, rcid := rcid, slba := slba, blocks := blocks
      prot := prot, data := data }
    let s := putCtrl s c { v with cmds := v.cmds.map fun z => if z == x then y else z }
    sendPdu s t k (.capsule rcid x.opcode (word s (nsAddr c x.nsid 4)).toNat remote blocks
      (if data.length ≤ limit then data else []))

/-- An I/O command row: the fetched command, or the status with which it ends. -/
def onIo (s : State) (id : NvmeId) (opcode nsid slba blocks : Nat) (f : NvmeCmd → State → State) : State :=
  let c := id.ctrl.val
  onCmd s id false opcode fun x s =>
    if x.nsid ≠ nsid then s
    else match ioFault s c nsid slba blocks with
      | some sc => finish s c x 0 sc
      | none => f x s

/-- FLUSH (R367). -/
def flushStep (id : NvmeId) (nsid : Nat) (s : State) : State :=
  onIo s id 0 nsid 0 0 fun x s => sendCmd s id.ctrl.val x 0 0 [] none

/-- A protection failure counted and completed (R374). -/
def protFail (s : State) (c : Nat) (x : NvmeCmd) (sc : Nat) : State :=
  finish (count s (stoAddr c 0x10)) c x 2 sc

/-- WRITE: staged, protected or checked, and sent (R369, R374). -/
def writeStep (id : NvmeId) (nsid slba blocks : Nat) (p : ProtInfo) (data md : List Byte)
    (fail : Option ReadFail) (s : State) : State :=
  let c := id.ctrl.val
  onIo s id 1 nsid slba blocks fun x s =>
    let size := nsLba s c nsid
    let f := nsFormat s c nsid
    if 131072 < blocks * size then finish s c x 0 scField
    else if fail.isSome then finish (count s (stoAddr c 0x18)) c x 0 scTransfer
    else
      let data := slice data 0 (blocks * size)
      let pi := if f = 0 then [] else if p.pract then
          (List.range blocks).flatMap fun i => protOf f p.lbat.toNat (p.ilbrt + i) (blockAt data size i)
        else slice md 0 (blocks * piBytes f)
      match (if p.pract then none else transferFault f size blocks p data pi) with
      | some sc => protFail s c x sc
      | none => sendCmd s c x slba blocks (withProt f size blocks data pi) (some p)

/-- READ: sent; its data is checked and written when the target has answered (R374). A failed read of its
PRP list ends it. -/
def readStep (id : NvmeId) (nsid slba blocks : Nat) (p : ProtInfo) (fail : Option ReadFail) (s : State) :
    State :=
  let c := id.ctrl.val
  onIo s id 2 nsid slba blocks fun x s =>
    if 131072 < blocks * nsLba s c nsid then finish s c x 0 scField
    else if fail.isSome then finish (count s (stoAddr c 0x18)) c x 0 scTransfer
    else sendCmd s c x slba blocks [] (some p)

/-- WRITE_ZEROES: up to 65,536 LBAs (R367). -/
def writeZeroesStep (id : NvmeId) (nsid slba blocks : Nat) (s : State) : State :=
  onIo s id 8 nsid slba blocks fun x s =>
    if 65536 < blocks then finish s id.ctrl.val x 0 scField
    else sendCmd s id.ctrl.val x slba blocks [] none

/-- DATASET_MANAGEMENT: deallocate only, up to 256 ranges (R367). -/
def datasetStep (id : NvmeId) (nsid : Nat) (deallocate : Bool) (ranges : List (Nat × Nat)) (s : State) :
    State :=
  let c := id.ctrl.val
  onIo s id 9 nsid 0 0 fun x s =>
    if !deallocate ∨ 256 < ranges.length then finish s c x 0 scField
    else if ranges.any fun r => decide (word64 s (nsAddr c nsid 0x10) < r.1 + r.2) then
      finish s c x 0 scLbaRange
    else
      let base := word64 s (nsAddr c nsid 8)
      sendCmd s c x 0 ranges.length
        (ranges.flatMap fun r => le 4 0 ++ le 4 r.2 ++ le 8 ((base + r.1) % 2 ^ 64)) none

/-! ### Targets (R372, R373, R375) -/

/-- Every command that a target or one of its connections holds, with its controller. -/
def atTarget (s : State) (t : Nat) (k : Option Nat) : List (Nat × NvmeCmd) :=
  s.ctrls.flatMap fun p =>
    (p.2.cmds.filter fun x => x.sent.isSome && x.target == t &&
      (match k with | some k => x.conn == k | none => true)).map fun x => (p.1, x)

/-- Commands ended with Transient Transport Error, DNR 0. -/
def failCmds (s : State) (xs : List (Nat × NvmeCmd)) : State :=
  xs.foldl (fun s p => finish s p.1 p.2 0 scTransport) s

def targetTenancy (s : State) (t : Nat) : Nat := rf s (tgtAddr t 0) 9 0

/-- The last I/O connection of a target is gone: its commands end, with an event and a count (R375). -/
def unreachable (s : State) (t : Nat) : State :=
  let s := failCmds s (atTarget s t none)
  let s := putTarget s t { target s t with closedAt := now s }
  event (count s (tgtAddr t 0x30)) srcStorage evState (detail t 0) (targetTenancy s t)

/-- A connection of a target no longer open for the storage engine. -/
def dropLink (s : State) (t k : Nat) : State :=
  let was := bit (word s (tgtAddr t 0x28)) k
  let s := setRf s (tgtAddr t 0x28) k k 0
  let v := target s t
  let s := putTarget s t { v with links := place v.links k { (look v.links k).getD {} with stage := 3 } }
  if was ∧ k ≠ adminLink ∧ !targetOpen s t then unreachable s t else s

/-- The TCP engine is asked to close a target's connection. -/
def closeLink (s : State) (t k : Nat) : State :=
  let n := linkConn s t k
  let s := match look s.conns n with
    | some c => if c.state < 3 then putConn s n { c with state := 2, finAsked := true } else s
    | none => s
  dropLink s t k

/-- A connection closed for an error: its own commands end (R373). -/
def failLink (s : State) (t k : Nat) : State := closeLink (failCmds s (atTarget s t (some k))) t k

/-- The connections that a target's record names: the admin connection and its I/O connections. -/
def targetLinks (s : State) (t : Nat) : List Nat :=
  adminLink :: List.range (min 8 (rf s (tgtAddr t 0) 15 12))

/-- GO reads 1 until every connection is open or refused and every Identify answered (R372). -/
def settleGo (s : State) (t : Nat) : State :=
  let v := target s t
  let done := (targetLinks s t).all fun k => match look v.links k with
    | some l => decide (2 ≤ l.stage)
    | none => true
  if done && v.idents.isEmpty then setRf s (tgtAddr t 0) 31 31 0 else s

/-- A connection that the storage engine may use: offloaded for this target and established. -/
def linkUsable (s : State) (t k : Nat) : Bool :=
  match look s.conns (linkConn s t k) with
  | none => false
  | some c => c.state == 1 && !connGateway c && recFld c.rec_ 10 2 == t

/-- TARGET_GO: the connection set-up begins with ICReq on each connection (R372, R373). -/
def targetGoStep (t : Nat) (s : State) : State :=
  let w := word s (tgtAddr t 0)
  let s := setRf (setRf s (tgtAddr t 0) 31 31 1) (tgtAddr t 0x28) 8 0 0
  let s := putTarget s t { target s t with links := [], idents := [], closedAt := now s }
  let s := (targetLinks s t).foldl (fun s k =>
    if linkUsable s t k then
      let v := target s t
      sendPdu (putTarget s t { v with links := place v.links k {} }) t k (.icReq (bit w 16) (bit w 17))
    else s) s
  settleGo s t

/-- The namespace records that name a remote namespace of a target. -/
def recordsOf (s : State) (t : Nat) (nsid : Option Nat) : List (Nat × Nat) :=
  let used := s.words.filterMap fun p =>
    if 0x1E10000 ≤ p.1 ∧ p.1 < 0x1E90000 ∧ p.1 % 0x20 = 0 then
      some ((p.1 - 0x1E10000) / 0x200, (p.1 - 0x1E10000) / 0x20 % 16 + 1)
    else none
  used.filter fun x => nsValid s x.1 x.2 && nsTarget s x.1 x.2 == t &&
    (match nsid with
      | some n => (word s (nsAddr x.1 x.2 4)).toNat == n
      | none => true)

/-- Identify of every remote namespace that the records of a target name. -/
def askIdentify (s : State) (t : Nat) : State :=
  let ids := ((recordsOf s t none).map fun x => (word s (nsAddr x.1 x.2 4)).toNat).eraseDups
  let s := putTarget s t { target s t with idents := ids }
  ids.foldl (fun s n => sendPdu s t adminLink (.identify n)) s

/-- A link of a target, for a PDU that its set-up stage expects. -/
def atStage (s : State) (t k stage : Nat) (f : TgtLink → State) : State :=
  match look (target s t).links k with
  | none => s
  | some l => if l.stage = stage then f l else s

/-- The sent command that a PDU names on a connection. -/
def sentCmd (s : State) (t k cid : Nat) : Option (Nat × NvmeCmd) :=
  (atTarget s t (some k)).find? fun p => p.2.rcid == cid

/-- A change of a sent command. -/
def setCmd (s : State) (c : Nat) (x : NvmeCmd) (f : NvmeCmd → NvmeCmd) : State :=
  let v := ctrl s c
  putCtrl s c { v with cmds := v.cmds.map fun y => if y == x then f y else y }

/-- A PDU for a sent command; a late answer is discarded as STALE_GENERATION (R375). -/
def onSent (s : State) (t k cid : Nat) (f : Nat → NvmeCmd → State) : State :=
  match sentCmd s t k cid with
  | none => countDrop s (.tenancy (targetTenancy s t)) rsStale
  | some p => f p.1 p.2

/-- H2CData PDUs for an R2T, none longer than MAXH2CDATA (R372). -/
def sendH2c (t k : Nat) (x : NvmeCmd) (max_ : Nat) : Nat → Nat → Nat → State → State
  | 0, _, _, s => s
  | n + 1, off, len, s =>
    if len = 0 then s
    else
      let m := min len max_
      sendH2c t k x max_ n (off + m) (len - m) (sendPdu s t k (.h2cData x.rcid off (slice x.data off m)))

/-- A PDU with correct digests, by its kind (R372). -/
def takePdu (s : State) (t k : Nat) : PduKind → State
  | .icResp max_ h d => atStage s t k 0 fun l =>
      if max_ < 4096 then settleGo (closeLink s t k) t
      else
        let w := word s (tgtAddr t 0)
        let l := { l with stage := 1, maxH2c := max_, hdgst := h && bit w 16, ddgst := d && bit w 17 }
        sendPdu (putTarget s t { target s t with links := place (target s t).links k l }) t k .connect
  | .connectResp ok => atStage s t k 1 fun l =>
      if !ok then settleGo (closeLink s t k) t
      else
        let s := putTarget s t { target s t with links := place (target s t).links k { l with stage := 2 } }
        let s := setRf s (tgtAddr t 0x28) k k 1
        settleGo (if k = adminLink then askIdentify s t else s) t
  | .identifyResp nsid lba4k pi =>
      if k ≠ adminLink ∨ !(target s t).idents.contains nsid then s
      else
        let s := putTarget s t { target s t with idents := (target s t).idents.filter (· != nsid) }
        let s := (recordsOf s t (some nsid)).foldl (fun s x =>
          let same := bit (word s (nsAddr x.1 x.2 0)) 12 == lba4k && nsFormat s x.1 x.2 == pi.toNat
          let s := setWord s (nsAddr x.1 x.2 0x18) (if same then 1 else 0)
          if same then s
          else event s srcStorage evState (detail (x.1 * 16 + x.2) 0) (ctrlTenancy s (round s) x.1)) s
        settleGo s t
  | .capsuleResp cid status => onSent s t k cid fun c x => setCmd s c x fun y => { y with answer := some status }
  | .c2hData cid data pi => onSent s t k cid fun c x => setCmd s c x fun y =>
      { y with data := y.data ++ data, pi := y.pi ++ pi }
  | .r2t cid off len => onSent s t k cid fun _ x =>
      sendH2c t k x (max 1 ((look (target s t).links k).getD {}).maxH2c) (len + 1) off len s
  | .c2hTermReq =>
      event (failLink s t k) srcStorage evState (detail t k) 0

/-- The command identifier that a PDU with data names. -/
def pduCid : PduKind → Option Nat
  | .capsuleResp cid _ => some cid
  | .c2hData cid _ _ => some cid
  | .r2t cid _ _ => some cid
  | _ => none

/-- PDU_RECEIVE: digests checked where the target granted them, then the PDU taken (R372, R373). -/
def pduReceiveStep (t : Nat) (conn : Option (Fin 8)) (p : PduKind) (headerOk dataOk : Bool) (s : State) :
    State :=
  let k := match conn with | some k => k.val | none => adminLink
  match look (target s t).links k with
  | none => s
  | some l =>
    if l.stage = 3 ∨ !linkUsable s t k then s
    else if l.hdgst ∧ !headerOk then
      let xs := atTarget s t (some k)
      let s := failLink (sendPdu (count s (tgtAddr t 0x2C)) t k .h2cTermReq) t k
      let ts := (xs.map fun x => ctrlTenancy s (round s) x.1).eraseDups
      let s := ts.foldl (fun s w => event s srcStorage evState (detail t k) w) s
      event s srcStorage evState (detail t k) 0
    else if l.ddgst ∧ !dataOk then
      let s := count s (tgtAddr t 0x2C)
      match (pduCid p).bind fun cid => sentCmd s t k cid with
      | some x => finish s x.1 x.2 0 scTransport
      | none => s
    else takePdu s t k p

/-- REMOTE_COMPLETION: the received status passes to the host; the data of a read is checked first
(R374, R375). -/
def remoteCompletionStep (id : NvmeId) (status : BitVec 16) (s : State) : State :=
  let c := id.ctrl.val
  match (ctrl s c).cmds.find? fun x => x.qid == id.qid && x.cid == id.cid with
  | none => s
  | some x =>
    if x.answer ≠ some status then s
    else
      let n := status.toNat
      if bits n 10 0 ≠ 0 then finish s c x (bits n 10 8) (bits n 7 0) (bits n 14 14 == 1)
      else if x.opcode ≠ 2 then finish s c x 0 scOk
      else
        let size := nsLba s c x.nsid
        let f := nsFormat s c x.nsid
        let short := x.data.length ≠ x.blocks * size ∨ x.pi.length ≠ x.blocks * piBytes f
        let p := x.prot.getD ⟨false, 0, 0, 0, 0⟩
        if short then finish s c x 0 scTransport
        else match transferFault f size x.blocks p x.data x.pi with
          | some sc => protFail s c x sc
          | none => finish s c x 0 scOk false 0 x.data (if p.pract then [] else x.pi)

/-- COMMAND_TIMEOUT: an Abort to the target and a transport error to the host (R375). -/
def commandTimeoutStep (id : NvmeId) (s : State) : State :=
  let c := id.ctrl.val
  let limit := rf s (stoAddr c 8) 15 0
  match (ctrl s c).cmds.find? fun x => x.qid == id.qid && x.cid == id.cid with
  | none => s
  | some x =>
    match x.sent with
    | none => s
    | some t0 =>
      if limit = 0 ∨ round s < roundOf t0 + limit * 1024 then s
      else finish (count (sendPdu s x.target x.conn (.abort x.rcid)) (stoAddr c 0x14)) c x 0 scTransport

/-- UNREACH_TIMEOUT: a command that waited unfetched too long is fetched and completed (R375). -/
def unreachTimeoutStep (c q cid nsid : Nat) (s : State) : State :=
  let limit := rf s (stoAddr c 8) 31 16
  match sqOf (ctrl s c) q with
  | none => s
  | some x =>
    match x.published with
    | [] => s
    | p :: _ =>
      let t := nsTarget s c nsid
      if q = 0 ∨ limit = 0 ∨ !nsValid s c nsid ∨ targetOpen s t ∨ !ctrlOn s c ∨
          round s < roundOf (max p (target s t).closedAt) + limit * 1024 then s
      else
        let r := fetchNow s c q cid 0 nsid 0
        event (count (finish r.1 c r.2 0 scNotReady) (tgtAddr t 0x30)) srcStorage evState (detail t c)
          (ctrlTenancy s (round s) c)

/-- CONNECTION_CLOSE: the TCP engine's connection is no longer established (R375). -/
def connectionCloseStep (t k : Nat) (s : State) : State :=
  if linkUsable s t k || !bit (word s (tgtAddr t 0x28)) k then s else dropLink s t k

/-- A controller whose VF passes through Dusk: an Abort for each command in flight, nothing completed
(R375). -/
def resetController (s : State) (c : Nat) : State :=
  let v := ctrl s c
  let s := (v.cmds.filter fun x => x.sent.isSome).foldl
    (fun s x => sendPdu s x.target x.conn (.abort x.rcid)) s
  let s := setWord s (stoAddr c 0x1C) 0
  let s := { s with ctrls := remove s.ctrls c, notices := remove s.notices c }
  if v.cmds.isEmpty then s else event s srcStorage evState (detail c v.cmds.length) 0

/-- The controllers bound to a function. -/
def controllersOf (s : State) (fn : FnId) : List Nat :=
  (s.ctrls.map fun p => p.1).filter fun c => ctrlVf s c == fn

/-! ### Commits (R365, R369, R384) -/

/-- Addresses of the controller blocks that hold a word. -/
def ctrlBlocks (ws : Sparse Word) : List Nat :=
  (ws.filterMap fun p =>
    if 0x1E00000 ≤ p.1 ∧ p.1 < 0x1E10000 then some ((p.1 - 0x1E00000) / 0x40) else none).eraseDups

/-- STAGE_MB, notice logs and TCP buffers together, in units of 64 KB (R369, R370). -/
def stagingSum (s : State) : Nat :=
  let ctrls := (ctrlBlocks s.words).foldl (fun n c =>
    n + rf s (stoAddr c 4) 12 0 * 16 + if ctrlOn s c then 1 else 0) 0
  s.conns.foldl (fun n p => n + leAt p.2.rec_ 56 1 + leAt p.2.rec_ 57 1) ctrls

/-- The state with a function's waiting shadow words of the storage block in force. -/
def stoPlanned (s : State) (fn : FnId) : State :=
  s.shadow.foldl (fun t x =>
    if x.blk = .sto ∧ x.fn = fn then setWord t x.addr (blend (word t x.addr) x.mask x.val) else t) s

/-- STO_COMMIT: refused with an event when the staging area would be exceeded (R369). -/
def stoCommitStep (fn : FnId) (s : State) : State :=
  if fn ≠ pf0 then denied s fn 0x1EE0000
  else if 8192 * 16 < stagingSum (stoPlanned s fn) then
    event s srcStorage evCommit (detail 0x1EE0000 0) 0
  else requestCommit s .sto fn .regs

/-- The VF is in reset: its endpoint is down, it does not exist, or it passes through Dusk. -/
def inReset (s : State) (fn : FnId) : Bool :=
  (endpoint s fn.ep).down || !fnExists s fn || (fnState s fn).dusk.isSome

/-- A committed binding that names a VF out of reset, or one of another tenancy, is undone with an event
(R365). -/
def stoEffect (old s : State) : State :=
  (ctrlBlocks s.words).foldl (fun s c =>
    let w := word s (stoAddr c 0)
    let o := word old (stoAddr c 0)
    let vf := ctrlVf s c
    if w = o ∨ !bit w 31 ∨ (fld w 10 0 = fld o 10 0 ∧ bit o 31 ∧ fld w 25 16 = fld o 25 16) then s
    else if inReset s vf && fnTenancy s vf == fld w 25 16 then s
    else event (setWord s (stoAddr c 0) o) srcStorage evCommit (detail c (fnNum vf)) 0) s

/-! ### Meanings -/

def execStoCommit (fn : FnId) (s : State) : Out := act s fun s => writeAs s fn 0x1EE0000 (stoCommitStep fn)

def execTargetGo (fn : FnId) (target : Fin 4096) (s : State) : Out :=
  act s fun s => writeAs s fn (tgtAddr target.val 0) fun s =>
    if fn = pf0 then targetGoStep target.val s else denied s fn (tgtAddr target.val 0)

def execNvmeDoorbell (ctrl : Fin 1024) (queue : Nat) (completion : Bool) (val : BitVec 32) (s : State) :
    Out :=
  act s fun s => postAs s (ctrlVf s ctrl.val) (nvmeDoorbellStep ctrl.val queue completion val)

def execNvmeCommandFetch (ctrl : Fin 1024) (queue cid opcode nsid bytes : Nat) (s : State) : Out :=
  act s (nvmeFetchStep ctrl.val queue cid opcode nsid bytes)

def execDeleteIoSubmissionQueue (id : NvmeId) (sq : Nat) (s : State) : Out := act s (deleteSqStep id sq)

def execCreateIoSubmissionQueue (id : NvmeId) (sq size cq : Nat) (contiguous : Bool) (s : State) : Out :=
  act s (createSqStep id sq size cq contiguous)

def execDeleteIoCompletionQueue (id : NvmeId) (cq : Nat) (s : State) : Out := act s (deleteCqStep id cq)

def execCreateIoCompletionQueue (id : NvmeId) (cq size vector : Nat) (contiguous intEn : Bool) (s : State) :
    Out :=
  act s (createCqStep id cq size vector contiguous intEn)

def execGetLogPage (id : NvmeId) (lid : BitVec 8) (retain : Bool) (s : State) : Out :=
  act s (getLogPageStep id lid retain)

def execIdentify (id : NvmeId) (cns : BitVec 8) (nsid : Nat) (s : State) : Out :=
  act s (identifyStep id cns nsid)

def execAbort (id : NvmeId) (sq target : Nat) (s : State) : Out := act s (abortStep id sq target)

def execSetFeatures (id : NvmeId) (feature : BitVec 8) (value : BitVec 32) (s : State) : Out :=
  act s (setFeaturesStep id feature value)

def execGetFeatures (id : NvmeId) (feature : BitVec 8) (s : State) : Out :=
  act s (getFeaturesStep id feature)

def execAsynchronousEventRequest (id : NvmeId) (s : State) : Out := act s (aerStep id)

def execFlush (id : NvmeId) (nsid : Nat) (s : State) : Out := act s (flushStep id nsid)

def execWrite (id : NvmeId) (nsid slba blocks : Nat) (pi : ProtInfo) (data md : List Byte)
    (fail : Option ReadFail) (s : State) : Out :=
  act s (writeStep id nsid slba blocks pi data md fail)

def execRead (id : NvmeId) (nsid slba blocks : Nat) (pi : ProtInfo) (fail : Option ReadFail) (s : State) :
    Out :=
  act s (readStep id nsid slba blocks pi fail)

def execWriteZeroes (id : NvmeId) (nsid slba blocks : Nat) (s : State) : Out :=
  act s (writeZeroesStep id nsid slba blocks)

def execDatasetManagement (id : NvmeId) (nsid : Nat) (deallocate : Bool) (ranges : List (Nat × Nat))
    (s : State) : Out :=
  act s (datasetStep id nsid deallocate ranges)

def execPduReceive (target : Fin 4096) (conn : Option (Fin 8)) (pdu : PduKind) (headerOk dataOk : Bool)
    (s : State) : Out :=
  act s (pduReceiveStep target.val conn pdu headerOk dataOk)

def execRemoteCompletion (id : NvmeId) (status : BitVec 16) (s : State) : Out :=
  act s (remoteCompletionStep id status)

def execCommandTimeout (id : NvmeId) (s : State) : Out := act s (commandTimeoutStep id)

def execUnreachTimeout (ctrl : Fin 1024) (queue : Nat) (cid nsid : Nat) (s : State) : Out :=
  act s (unreachTimeoutStep ctrl.val queue cid nsid)

def execConnectionClose (target : Fin 4096) (conn : Fin 8) (s : State) : Out :=
  act s (connectionCloseStep target.val conn.val)

end Sys2Proof.Machine
end

