-- ==== Sys2Proof/Machine/Reset.lean ====
section
/-! DEFINITION. Resets of functions, endpoints and clusters, generations, and the moves of the spare role
(R17–R20, R27, R412, R462–R465). -/

namespace Sys2Proof.Machine

open Sys2Proof

/-! ### Functions (R463, R464) -/

/-- The rings assigned to a function. -/
def ringsOf (s : State) (fn : FnId) : List Nat :=
  s.words.filterMap fun p =>
    if inArray p.1 0x1000000 65536 0x40 0 && bit p.2 31 && fnOf (fld p.2 10 0) == fn then
      some ((p.1 - 0x1000000) / 0x40) else none

/-- A ring disabled because its function passes through Dusk: it keeps BASE, SIZE_LOG2 and CQ (R435). -/
def duskRing (s : State) (r : Nat) : State :=
  let s := losePlaces (setRf (setRf s (rngAddr r 4) 3 3 0) (rngAddr r 0x2C) 0 0 0) r
  putRing s r { ring s r with enabling := none, retry := [] }

/-- A function enters Dusk: its rings are disabled in the tick in which the reset arrives (R463 step 1). -/
def startDusk (s : State) (fn : FnId) (flr : Bool) : State :=
  let f := fnState s fn
  if f.dusk.isSome then putFn s fn { f with flr := f.flr || flr }
  else
    putFn ((ringsOf s fn).foldl duskRing s) fn
      { f with dusk := some (now s), flr := flr, drained := false, held := false }

/-- Address of RST_FUNC_GEN of a function. -/
def genAddr (fn : FnId) : Nat := 0x101000 + fnNum fn * 4

/-- A request that carries generation `g` of a function can still exist (R464). -/
def genInUse (s : State) (fn : FnId) (g : Nat) : Bool :=
  (endpoint s fn.ep).requests.any fun q => q.2.fn == fn && q.2.generation == g

/-- Reason of the drop of frames held for a function's rings (R27, R463). -/
def duskReason (s : State) (fn : FnId) : Nat :=
  let other := if fn.ep = .h0 then Endpoint.h1 else .h0
  if (endpoint s fn.ep).down && !tenancyOn s (fnTenancy s fn) other then rsHostDown else rsTargetReset

/-- The held frame is bound for the ring. -/
def boundFor (r : Nat) (f : Frame) : Bool :=
  f.stage == .held && (tagDestKind f.tag == dkRing || tagDestKind f.tag == dkException) && tagDest f.tag == r

/-- Admitted members of a group whose output ring is `r` dropped (R252, R463). -/
def dropMembers (s : State) (r reason : Nat) : State :=
  s.groups.foldl (fun s g =>
    (group s g.1).positions.foldl (fun s p =>
      match p.frame.bind (frame? s) with
      | some f => if p.ring = some r then dropMember (leavePlace s g.1 p f) f r reason else s
      | none => s) s) s

/-- A descriptor whose frame had not been formed: read, and not a control descriptor. -/
def formsFrame (i : SendItem) : Bool :=
  i.frame.isNone && match i.desc with
    | some d => descFld d 0 31 31 == 0
    | none => false

/-- A ring emptied by its function's reset: what waits for it or comes from it and has not reached stage 2
ends, its slots and pending completions are discarded (R435, R463 steps 2 and 3). -/
def drainRing (s : State) (fn : FnId) (r : Nat) : State :=
  let reason := duskReason s fn
  let v := ring s r
  let s := v.waiting.foldl (fun s f => dropById s f (fun _ => .ring r) reason) s
  let s := (v.items.filter formsFrame).foldl (fun s _ => countDrop s (.ring r) rsTargetReset) s
  let s := putRing s r {}
  let s := dropAll s (boundFor r) (fun _ => .ring r) reason
  let s := dropMembers s r reason
  let s := dropAll s (fun f => f.stage == .whole && f.sendPos.any fun p => p.1 == r) (fun _ => .ring r) rsTargetReset
  let ofRing := fun (op : ReadOp) => match op with
    | .sendDesc q _ | .sendGather q _ | .sendData q _ | .operand q _ | .rxDesc q _ _ => q == r
    | .image _ => false
  { s with
    cplDue := s.cplDue.filter fun d => d.cq != r && d.ring != r,
    signals := s.signals.filter fun x => x.2 != r,
    delivered := s.delivered.filter fun d => !ofRing d.1 }

/-- Reads of a function: those not sent are dropped, the tags of the others pass to quarantine
(R463 step 3). -/
def drainReads (s : State) (fn : FnId) : State :=
  let v := endpoint s fn.ep
  putEndpoint s fn.ep { v with
    waiting := v.waiting.filter fun r => r.1 != fn
    requests := v.requests.map fun q => if q.2.fn = fn then (q.1, { q.2 with quarantined := true }) else q }

/-- A DMA list not yet resolved is discarded; a resolved one takes effect without results (R463 step 5). -/
def drainDma (s : State) (fn : FnId) : State :=
  let q := dmaQueue s fn
  if !q.busy then s
  else if q.applied then putDma (setDmaStatus s fn 0 0 0) fn {}
  else if q.fetched && decide (q.list.length ≤ q.next) then putDma s fn { q with muted := true }
  else
    let s := { s with changes := s.changes.filter fun c => match c.by_ with
      | .dma g _ => g != fn
      | _ => true }
    putDma (setDmaStatus s fn 0 0 0) fn {}

/-- The function's part of configuration space after a reset: a PCIe reset clears it, RST_FUNC_CTRL keeps
it; the vector allocation comes into force (R433, R462). -/
def resetFn (s : State) (fn : FnId) (g : Nat) : State :=
  let f := fnState s fn
  let a := hlkAddr fn.ep (0x1000 + fn.fn.val * 4)
  let kept := if f.flr then { dusk := f.dusk, maxPayload := f.maxPayload : FnState } else f
  putFn s fn { kept with
    generation := g, drained := true, held := false, flr := false, pendingVectors := [],
    vecBase := rf s a 15 0, vecCount := rf s a 27 16 }

/-- The image of a LOAD has not all arrived, so that the reset of its function ends its read (R464). -/
def unread (s : State) (j : LoadJob) : Bool :=
  j.req == rqLoad && !j.sent && (deliveredFor s (.image j.cls) j.parts).isNone

/-- Steps 1 to 5 of R463 from the tick after the reset's arrival: the generation rises, unless a reply of
the coming generation can still exist (R464). -/
def drainFn (s : State) (fn : FnId) : State :=
  let f := fnState s fn
  let g := (f.generation + 1) % 16
  if genInUse s fn g then
    if f.held then s
    else putFn (hostErrorEvent s fn.ep (routingId fn) 0 0 (fnTenancy s fn) 0) fn { f with held := true }
  else
    let s := setWord s (genAddr fn) (BitVec.ofNat 32 g)
    let s := (ringsOf s fn).foldl (fun s r => drainRing s fn r) s
    let s := drainDma (drainReads s fn) fn
    let s := { s with
      signals := s.signals.filter fun x => x.2 != 65536 + fnNum fn,
      taken := s.taken.map fun t => if t.fn = fn then { t with discard := true } else t
      jobs := s.jobs.map fun j => if j.fn = fn then
        { j with discard := true, failed := j.failed || unread s j } else j }
    let s := resetView (resetPair s (.ofFn fn)) fn
    resetFn ((controllersOf s fn).foldl resetController s) fn g

/-- Functions whose reset arrived in an earlier tick are drained at the start of a tick. -/
def drainFns (s : State) : State :=
  let due := (s.functions.filter fun p => !p.2.drained && match p.2.dusk with
    | some t => decide (t < now s)
    | none => false).map fun p => fnOf p.1
  due.foldl drainFn s

/-- DUSK_END: the first round boundary after the drain is done (R463 step 6). -/
def duskEndStep (fn : FnId) (s : State) : State :=
  let f := fnState s fn
  if f.dusk.isNone || !f.drained || now s % 256 != 0 then s
  else
    let s := putFn s fn { f with dusk := none, drained := false }
    if s.boot.named = some fn then setRf s 0x100014 0 0 0 else s

/-- RST_FUNC_CTRL written with GO (R462, R470). -/
def funcCtrl (by_ target : FnId) (s : State) : State :=
  if by_ ≠ pf0 then denied s by_ 0x100010
  else if target = pf0 ∨ !fnExists s target then ignored s by_ 0x100010 5
  else
    let s := servoRestart (startDusk s target false)
    setRf { s with boot := { s.boot with named := some target } } 0x100014 0 0 1

/-- FUNCTION_RESET: a PCIe function-level reset, or RST_FUNC_CTRL (R462, R463). -/
def functionResetStep (by_ : Option FnId) (target : FnId) (s : State) : State :=
  match by_ with
  | some f => writeAs s f 0x100010 (funcCtrl f target)
  | none => if (endpoint s target.ep).down || !fnExists s target then s else servoRestart (startDusk s target true)

/-! ### Endpoints (R388, R399, R412, R462) -/

/-- HOT_RESET: every function of the endpoint passes through Dusk; the VF counts and the advertised
capabilities follow their registers; the endpoint's generation rises. -/
def hotResetStep (e : Endpoint) (cause : HotCause) (s : State) : State :=
  if cause = .perst1 ∧ e = .h0 then s
  else
    let fns := ((List.range 1024).map fun k => fnOf (Endpoint.num e * 1024 + k)).filter fun f => fnExists s f
    let was := bit (word s (hlkAddr e 0)) 0
    let s := servoRestart (fns.foldl (fun s f => startDusk s f true) s)
    let v := endpoint s e
    let g := (v.generation + 1) % 16
    let strict := bit (word s (hlkAddr e 4)) 0
    let s := putEndpoint s e { v with
      down := true, path := [], noCredit := false, askedWidth := 0, romEnabled := [], ecrcGen := false,
      ecrcCheck := false, strictShown := strict, generation := g,
      totalVfs := (List.range 4).map fun j => rf s (hlkAddr e (0x40 + 4 * j)) 9 0 }
    let s := setRf (setWord s (hlkAddr e 0) 0) (hlkAddr e 0) 23 20 g
    if was then event s (srcHost e) evLink (detail (Endpoint.num e) 0) else s

/-! ### Clusters (R17–R20, R462, R465) -/

/-- Cores of a list moved from one cluster to another. -/
def moveCores (a b : Nat) (cores : List (Nat × Nat)) : List (Nat × Nat) :=
  cores.map fun k => if k.1 = a then (b, k.2) else k

/-- Offsets of the configuration that goes with a cluster's work: LEND, the owners of locks, channels and
cores, and their shared-memory partitions. -/
def clusterConfig : List Nat :=
  [4] ++ ((List.range 64).map fun k => 0x100 + 4 * k) ++ ((List.range 64).map fun k => 0x200 + 4 * k) ++
    (List.range 32).map fun k => 0x300 + 4 * k

/-- The work of cluster `a` placed on cluster `b` from the current round on (R18, R20, R465). -/
def moveWork (s : State) (a b : Nat) : State :=
  if a = b then s
  else
    let s := clusterConfig.foldl (fun s o =>
      if word s (cluAddr a o) = word s (cluAddr b o) then s
      else setConfig s (cluAddr b o) (word s (cluAddr a o))) s
    let s := { s with sliceOf := s.sliceOf.filter fun p => p.1 / 128 != b }
    let mine := ((List.range 64).map fun c => newest s c).filter fun p => p.cores.any fun k => k.1 == a
    { s with
      classes := s.classes ++ mine.map fun p =>
        assignCores p { p with round := round s, cores := moveCores a b p.cores },
      commits := s.commits.map fun c => match c.what with
        | .pathClass p sets j => { c with what := .pathClass { p with cores := moveCores a b p.cores } sets j }
        | _ => c }

/-- A cluster's memories, locks, channels, threads, cores and counters cleared (R19, R462). -/
def clearCluster (s : State) (n : Nat) : State :=
  let mine := fun (a : Nat) =>
    decide (n * 128 * 16384 ≤ a ∧ a < (n + 1) * 128 * 16384) ||
      decide (shmAddr n 0 ≤ a ∧ a < shmAddr (n + 1) 0)
  let s := (List.range 128).foldl (fun s k => resetPair s (.ofThread (tidOf (n * 128 + k)))) s
  let s := ([8, 0xC] ++ (List.range 8).map fun k => 0x10 + 4 * k).foldl (fun s o => setWord s (cluAddr n o) 0) s
  let s := (List.range 4).foldl (fun s k => setWord s (cluAddr n (0x44 + 4 * k)) 0) s
  { s with
    mem := s.mem.filter fun c => !mine c.1,
    threads := s.threads.filter fun p => p.1 / 128 != n,
    cores := s.cores.filter fun p => p.1 / 16 != n,
    locks := s.locks.filter fun p => p.1 / 4096 != n,
    chans := s.chans.filter fun p => p.1 / 1024 != n,
    sliceOf := s.sliceOf.filter fun p => p.1 / 128 != n,
    due := s.due.filter fun d => match d.what with
      | .shmWrite _ a _ => !mine a
      | _ => true }

/-- A cluster goes into its tests: every core is reset, its memories are cleared and reloaded (R19, R103, R462). -/
def testCluster (s : State) (n : Nat) : State :=
  let s := servoRestart ((List.range 16).foldl (fun s c => stopReset s n c) s)
  let s := clearCluster (setRole s n 4) n
  let s := setWord s (0x1D00004 + n * 0x20) 0
  putCluster s n { cluster s n with
    coreFences := [], fencedAt := none, testing := true, tested := none, resetAsked := false }

/-- Why a move of a cluster's work comes to nothing: a request outstanding to a cluster that has been fenced ends under
TARGET_FENCED (R464); 0 where nothing gives a reason. -/
def moveLost (s : State) (n : Nat) : Nat := if 3 ≤ clusterRole s n then rsTargetFenced else 0

/-- The move of a cluster's work to the spare in force takes effect: the cluster takes the spare role, or enters Dusk,
to be drained, cleared and tested (R20, R39, R462, R464, R465). -/
def spareEffect (s : State) (n : Nat) (dusk : Bool) : State :=
  match spareCluster s with
  | none => event s srcReset evFence (detail n 0) 0 (moveLost s n)
  | some sp =>
    if clusterRole s n ≠ 0 then event s srcReset evFence (detail n 0) 0 (moveLost s n)
    else
      let s := setRole (moveWork s n sp) sp 0
      if dusk then
        let s := bumpCluster (setRole s n 2) n
        putCluster s n { cluster s n with movedAt := round s }
      else event (setRf (setRole s n 1) 0x100020 4 0 n) srcReset evFence (detail n 1)

/-- A commit that moves the work of a cluster to the spare, on its way to a reset or not. -/
def requestMove (s : State) (n : Nat) (dusk : Bool) : State :=
  { s with commits := s.commits ++ [⟨.spare, pf0, now s, effectRound (now s), [], .spare n dusk, 0⟩] }

/-- A commit that moves the work of the cluster is pending. -/
def movePending (s : State) (n : Nat) : Bool :=
  s.commits.any fun c => match c.what with
    | .spare m _ => m == n
    | _ => false

/-- CLUSTER_RESET: RST_CLUSTER_CTRL by PF0 of H0; an active cluster needs a spare (R462, R470). The change of role
comes at a round boundary (R39). -/
def clusterResetStep (fn : FnId) (n : Nat) (s : State) : State :=
  if fn ≠ pf0 then denied s fn 0x10001C
  else if 16 < n then ignored s fn 0x10001C 5
  else
    let role := clusterRole s n
    if role = 0 ∧ (spareCluster s).isSome ∧ !movePending s n then requestMove s n true
    else if (role = 1 ∨ role = 3) ∧ !(cluster s n).resetAsked then
      putCluster s n { cluster s n with resetAsked := true }
    else ignored s fn 0x10001C 5

/-- RST_SPARE: the spare role moves to a cluster at the boundary of R40 (R465). -/
def rstSpareStep (fn : FnId) (n : Nat) (s : State) : State :=
  if fn ≠ pf0 then denied s fn 0x100020
  else if 16 < n ∨ clusterRole s n ≠ 0 ∨ (spareCluster s).isNone then ignored s fn 0x100020 5
  else requestMove s n false

/-- Frames that wait for a class none of whose cores lies on a cluster in service, or about to be replaced
by the spare, are dropped. A cluster that has come back is in service for its classes once they are placed on it
(R18, R19). -/
def dropCoreless (s : State) : State :=
  let lost := fun (f : Frame) =>
    let p := pathAt s f.round (tagClass f.tag)
    f.stage == .queued && !p.cores.isEmpty && p.cores.all fun k =>
      let c := cluster s k.1
      if c.moving then c.unplaced else decide (3 ≤ clusterRole s k.1)
  dropAll s lost atTenancy rsClusterFenced

/-- A fenced cluster goes through its reset and tests once its work has moved, or at once when no spare can
take it (R19). -/
def testFenced (s : State) : State :=
  (List.range 17).foldl (fun s n =>
    if clusterRole s n = 3 ∧ (cluster s n).fencedAt.isSome ∧ (!(cluster s n).moving ∨ (spareCluster s).isNone) then
      testCluster s n else s) s

/-- SPARE_TAKEOVER: at a round boundary the spare takes over the path classes of a fenced cluster; a
cluster that comes back into service takes its own (R18, R19). -/
def spareTakeoverStep (s : State) : State :=
  if now s % 256 ≠ 0 then s
  else match spareCluster s, (List.range 17).find? fun n => (cluster s n).moving with
    | some sp, some n =>
      let s := setRole (moveWork s n sp) sp 0
      let s := markUnplaced (putCluster s n { cluster s n with moving := false, unplaced := false })
      dropCoreless (event s (srcCluster sp) evFence (detail sp 0))
    | _, _ => s

/-- A debug-halted thread of cluster `n`. -/
def haltedOn (s : State) (n : Nat) (t : Tid) : Bool := t.cluster.val == n && (thread s t).halted

/-- The earliest round that governs something other than the frames of cluster `n`'s debug-halted threads. -/
def oldestBeside (s : State) (n : Nat) : Nat :=
  let rounds := ((s.frames.filter fun p => match p.2.stage with
      | .thread t => !haltedOn s n t
      | _ => true).map fun p => p.2.round) ++ s.rings.flatMap fun p => p.2.items.map fun i => i.round
  rounds.foldl min (round s - 1)

/-- Clusters in Dusk whose earlier frames are gone are cleared and tested; a debug-halted thread, which keeps its frame,
does not hold the cluster in Dusk, and the reset drops its frame (R20, R103, R462). -/
def testDrained (s : State) : State :=
  (List.range 17).foldl (fun s n =>
    let busy := s.threads.any fun p => p.1 / 128 == n && p.2.frame.isSome && !p.2.halted
    if clusterRole s n = 2 ∧ !busy ∧ (cluster s n).movedAt ≤ oldestBeside s n then testCluster s n else s) s

/-- Cluster resets asked for since the last boundary begin (R39, R464). -/
def testAsked (s : State) : State :=
  (List.range 17).foldl (fun s n =>
    if (cluster s n).resetAsked then testCluster (bumpCluster s n) n else s) s

/-- The clusters still to be updated: the next one passes through Dusk, and without a spare the update
suspends (R468). -/
def updateStep (s : State) : State :=
  match s.boot.update with
  | none => s
  | some u =>
    let put := fun (s : State) (u : Update) => { s with boot := { s.boot with update := some u } }
    if u.inHand.isSome ∨ rf s 0x100028 2 0 ≠ 3 then s
    else match u.left with
      | [] => s
      | n :: rest =>
        if clusterRole s n ≠ 0 then put s { u with left := rest }
        else if (spareCluster s).isNone then setRf s 0x100028 2 0 4
        else
          let s := setRf (setRf (requestMove s n true) 0x100028 2 0 3) 0x100028 12 8 n
          put s { u with left := rest, inHand := some n }

/-- CLUSTER_TESTS_DONE: the tests of a cluster end; its role follows at the next round boundary (R19, R20, R39). -/
def clusterTestsDoneStep (n : Nat) (pass : Bool) (s : State) : State :=
  if clusterRole s n ≠ 4 ∨ !(cluster s n).testing then s
  else
    putCluster (setWord s (0x1D00004 + n * 0x20) (if pass then 3 else 2)) n
      { cluster s n with testing := false, tested := some pass }

/-- The role of a tested cluster: it takes the spare role, or its place when a spare is in force; one that failed stays
fenced (R19, R20). -/
def takeRole (s : State) (n : Nat) (pass : Bool) : State :=
  let s := putCluster s n { cluster s n with tested := none }
  let s := match s.boot.update with
    | some u => if u.inHand = some n then
        { s with boot := { s.boot with update := some { u with inHand := none } } } else s
    | none => s
  if !pass then event (setRole s n 3) (srcCluster n) evFence (detail n 3)
  else if (spareCluster s).isSome then event (setRole s n 0) (srcCluster n) evFence (detail n 0)
  else event (setRf (setRole s n 1) 0x100020 4 0 n) (srcCluster n) evFence (detail n 1)

/-- The clusters whose tests have ended take their roles at the round boundary (R39). -/
def rolesRound (s : State) : State :=
  (List.range 17).foldl (fun s n => match (cluster s n).tested with
    | some pass => takeRole s n pass
    | none => s) s

/-! ### Meanings -/

/-- FUNCTION_RESET (R463). -/
def execFunctionReset (by_ : Option FnId) (target : FnId) (s : State) : Out := act s (functionResetStep by_ target)
/-- DUSK_END (R463). -/
def execDuskEnd (fn : FnId) (s : State) : Out := act s (duskEndStep fn)
/-- HOT_RESET (R462). -/
def execHotReset (ep : Endpoint) (cause : HotCause) (s : State) : Out := act s (hotResetStep ep cause)
/-- CLUSTER_RESET (R462). -/
def execClusterReset (fn : FnId) (cluster : Nat) (s : State) : Out :=
  act s fun s => writeAs s fn 0x10001C (clusterResetStep fn cluster)
/-- RST_SPARE (R465). -/
def execRstSpare (fn : FnId) (cluster : Nat) (s : State) : Out :=
  act s fun s => writeAs s fn 0x100020 (rstSpareStep fn cluster)
/-- SPARE_TAKEOVER (R18). -/
def execSpareTakeover (s : State) : Out := act s spareTakeoverStep
/-- CLUSTER_TESTS_DONE (R19). -/
def execClusterTestsDone (cluster : Fin 17) (pass : Bool) (s : State) : Out :=
  act s (clusterTestsDoneStep cluster.val pass)

end Sys2Proof.Machine
end

