-- ==== Sys2Proof/Machine/Tenancy.lean ====
section
/-! DEFINITION. The lock-until-reset bits, the tenancy table's commit, and what a change of an owner does
(R440, R442, R447–R449). -/

namespace Sys2Proof.Machine

open Sys2Proof

/-! ### Locks (R447, R448) -/

/-- The bits of a register or of a queue's data that any of the locks of `m` guards. -/
def guardedBy (s : State) (m a : Nat) : Word :=
  let own := (List.range 7).foldl (fun w n => if m / 2 ^ n % 2 = 1 then w ||| guardedMask s n a else w) 0
  if 0x100000000 ≤ a ∧ a < 0x110000000 ∧ a % 16 = 0 ∧ m % 2 = 1 then own ||| maskOf 9 0 else own

/-- The uncommitted values of guarded fields discarded, with a count for each register and one event for
each block (R448). -/
def discardGuarded (s : State) (m : Nat) : State :=
  let hit := s.shadow.filter fun x => (x.mask &&& guardedBy s m x.addr) != 0
  let kept := s.shadow.filterMap fun x =>
    let mask := x.mask &&& ~~~(guardedBy s m x.addr)
    if mask = 0 then none else some { x with mask := mask, val := x.val &&& mask }
  let s := count { s with shadow := kept } 0x200010 hit.length
  let firsts := (hit.map fun x => x.blk).eraseDups.filterMap fun b => hit.find? fun x => x.blk == b
  firsts.foldl (fun s x => ignored s x.fn x.addr 4) s

/-- LCK_SET written: from this tick the guarded registers are read-only; the lock is in force from the
boundary of R40 (R448). -/
def lckSetStep (fn : FnId) (req : BitVec 32) (s : State) : State :=
  let new := req &&& 0x7F &&& ~~~(word s 0x200000)
  if fn ≠ pf0 then denied s fn 0x200000
  else if new = 0 then s
  else
    let s := discardGuarded (setWord s 0x200000 (word s 0x200000 ||| new)) new.toNat
    { s with commits := s.commits ++ [⟨.lck, fn, now s, effectRound (now s), [], .locks new, 0⟩] }

/-- Locks come into force: LCK_STATE and LCK_ROUND, and the event of R485. -/
def locksEffect (s : State) (new : BitVec 32) : State :=
  let s := setWord s 0x200004 (word s 0x200004 ||| new)
  event (setWord64 s 0x200008 (round s)) srcTenancy evSecurity (detail new.toNat 0)

/-- TEN_COMMIT, by PF0 of H0 (R440). -/
def tenCommitStep (fn : FnId) (s : State) : State :=
  if fn ≠ pf0 then denied s fn 0x6030000 else requestCommit s .ten fn .regs

/-! ### Changes of owners (R442) -/

/-- Memory of an address range cleared. -/
def zeroMem (s : State) (lo hi : Nat) : State :=
  { s with mem := s.mem.filter fun c => !decide (lo ≤ c.1 ∧ c.1 < hi) }

/-- A core whose tenancy changed is restarted, and its slices are reloaded; a fence stays (R91). -/
def coreOwner (s : State) (old : State) (cl c : Nat) : State :=
  let s := (List.range 8).foldl (fun s t => stopThread s (threadOf cl c t) rsTargetReset) s
  let v := core s (cl * 16 + c)
  let s := clearCore (putCore s (cl * 16 + c) { v with
    stopped := v.fenced && v.stopped, resetNow := false }) cl c
  event (showCore s cl c) (srcCore cl c) evState (detail c 0) (coreTenancy old cl c)

/-- The held locks of a block whose owner changed are freed with the ABANDONED mark. -/
def lockOwner (s : State) (cl k : Nat) : State :=
  let s := (List.range 64).foldl (fun s j =>
    let n := lockNum cl (64 * k + j)
    if (lock s n).holder.isSome then freeLock s n (now s) true else s) s
  event s (srcCluster cl) evState (detail k 0)

/-- The channels of a block whose owner changed are emptied. -/
def chanOwner (s : State) (cl k : Nat) : State :=
  let s := { s with chans := s.chans.filter fun p => p.1 / 16 != chanNum cl (16 * k) / 16 }
  event s (srcCluster cl) evState (detail k 0)

/-- The meters of a block are set to CIR and PIR 0. -/
def meterOwner (s : State) (k : Nat) : State :=
  let mine := s.words.filter fun p => decide (meterAddr (1024 * k) 0 ≤ p.1 ∧ p.1 < meterAddr (1024 * (k + 1)) 0) &&
    decide (p.1 % 16 < 8)
  mine.foldl (fun s p => setConfig s p.1 0) s

/-- The connections of a block are reset and released under their former owner; frames bound for them are
dropped. -/
def tcpOwner (s old : State) (k : Nat) : State :=
  let a := 0x6029000 + 4 * k
  let new := word s a
  let mine := (s.conns.filter fun p => p.1 / 1024 == k).map fun p => p.1
  let s := mine.foldl (fun s n =>
    match look s.conns n with
    | none => s
    | some c =>
      let s := if 3 ≤ c.state then s else sendSegment s n c c.sndNxt (tcpRst + tcpAck) [] (builtNow s)
      releaseConn s n) (setWord s a (word old a))
  dropAll (setWord s a new)
    (fun f => f.stage == .held && tagDestKind f.tag == dkTcp && tagDest f.tag / 1024 == k) atTenancy rsTargetReset

/-- The security associations of a block are cleared and their keys zeroed (R341). -/
def saOwner (s : State) (k : Nat) : State :=
  let clear := fun (s : State) (lo hi : Nat) =>
    (s.words.filter fun p => decide (lo ≤ p.1 ∧ p.1 < hi)).foldl (fun s p => setConfig s p.1 0) s
  let s := clear s (saAddr (256 * k) 0) (saAddr (256 * (k + 1)) 0)
  let s := clear s (saKeyAddr (256 * k) 0) (saKeyAddr (256 * (k + 1)) 0)
  { s with sas := s.sas.filter fun p => p.1 / 256 != k }

/-- What a change of the owner word at `a` does (R442). -/
def ownerChange (old s : State) (a : Nat) : State :=
  let differs := fun (hi lo : Nat) => rf old a hi lo != rf s a hi lo
  match elem a 0x6010000 2048 4 with
  | some (f, _) =>
    if differs 9 0 then
      event (startDusk s (fnOf f) false) (srcHost (fnOf f).ep) evState (detail (f % 1024) 0) (rf old a 9 0)
    else s
  | none => match elem a 0x2000000 17 0x100000 with
    | some (cl, o) =>
      if !differs 9 0 then s
      else if 0x100 ≤ o ∧ o < 0x200 then lockOwner s cl ((o - 0x100) / 4)
      else if 0x200 ≤ o ∧ o < 0x300 then chanOwner s cl ((o - 0x200) / 4)
      else if 0x300 ≤ o ∧ o < 0x380 ∧ o % 8 = 0 then coreOwner s old cl ((o - 0x300) / 8)
      else s
    | none =>
      if !differs 9 0 then s
      else match elem a 0x6020000 4096 4 with
      | some (k, _) => zeroMem s (fcAddr (4096 * k) 0) (fcAddr (4096 * (k + 1)) 0)
      | none => match elem a 0x6024000 4096 4 with
        | some (k, _) => zeroMem s (ctrAddr (4096 * k)) (ctrAddr (4096 * (k + 1)))
        | none => match elem a 0x6028000 1024 4 with
          | some (k, _) => meterOwner s k
          | none => match elem a 0x6029000 256 4 with
            | some (k, _) => tcpOwner s old k
            | none => match elem a 0x1C20000 1024 4 with
              | some (k, _) => saOwner s k
              | none => s

/-- What the tenancy commit does beside its words. -/
def ownerEffect (old s : State) (addrs : List Nat) : State := addrs.foldl (ownerChange old) s

/-- LCK_SET (R448). -/
def execLckSet (fn : FnId) (req : BitVec 32) (s : State) : Out :=
  act s fun s => writeAs s fn 0x200000 (lckSetStep fn req)
/-- TEN_COMMIT (R440). -/
def execTenCommit (fn : FnId) (s : State) : Out := act s fun s => writeAs s fn 0x6030000 (tenCommitStep fn)

end Sys2Proof.Machine
end

