-- ==== Sys2Proof/Machine/Effects.lean ====
section
/-! DEFINITION. Commits taking effect at round boundaries, their deferral, and the limit of a deferral that
debug-halted threads cause (R26, R39–R42, R268). -/

namespace Sys2Proof.Machine

open Sys2Proof

/-! ### What commits do beside their words -/

/-- A path class some cluster of which is in Dusk, be it a cluster that only its earlier frames still run on: its commit
waits (R176). -/
def inDusk (s : State) (p : PathClass) : Bool :=
  (p :: s.classes.filter fun q => q.cls == p.cls).any fun q => q.cores.any fun k => clusterRole s k.1 == 2

/-- Exception buckets whose rate or burst changed: filled so far at the old rate; full after a change of
their burst (R198). -/
def exceptionEffect (old s : State) (addrs : List Nat) : State :=
  let ts := (addrs.filterMap fun a => match elem a 0x1610000 1024 0x20 with
    | some (t, 4) | some (t, 8) => some t
    | _ => none).eraseDups
  ts.foldl (fun s t =>
    let burst := fun (s : State) => max 1 (rf s (excAddr t 8) 15 0)
    if burst old ≠ burst s then { s with buckets := remove s.buckets (excKey t) }
    else setBucket s (excKey t) (roundBucket old (excKey t) (rf old (excAddr t 4) 23 0) (burst old))) s

/-- A committed number of an association starts its window, exhaustion and threshold anew; its counters go
on (R342, R345, R350). -/
def cryEffect (s : State) (addrs : List Nat) : State :=
  let sas := (addrs.filterMap fun a =>
    if 0x130000000 ≤ a ∧ a < 0x140000000 ∧ (a / 4 % 16 = 4 ∨ a / 4 % 16 = 5) then
      some ((a - 0x130000000) / 64) else none).eraseDups
  sas.foldl (fun s n =>
    let v := saState s n
    putSa s n { frames := v.frames, authFail := v.authFail, replay := v.replay }) s

/-- The effect of a commit's kind, after its words are in force; `old` is the state before them. -/
def commitHook (old s : State) (c : Commit) : State :=
  let addrs := c.writes.map fun w => w.1
  match c.what with
  | .timebase t => timebaseEffect s t
  | .pathClass p sets j => classEffect s p sets j
  | .locks b => locksEffect s b
  | .spare n dusk => spareEffect s n dusk
  | .regs => match c.blk with
    | .cls _ => refreshConstants (exceptionEffect old s addrs)
    | .tbl n => refreshConstants (tblEffect old s n)
    | .tblAux => refreshConstants s
    | .seqGrp g => seqEffect old s g
    | .seqFo => refreshConstants s
    | .macGrp g => macEffect old s g
    | .pwn => clearWindows old s
    | .sch => schEffect old s addrs
    | .cry _ => refreshConstants (cryEffect s addrs)
    | .sto => stoEffect old s
    | .ten => refreshConstants (ownerEffect old s addrs)
    | .clu _ | .lck | .tbs | .loader _ | .spare => s

/-! ### Taking effect (R40, R41) -/

/-- A block whose versions frames consult: a commit of another kind is never deferred for a version. -/
def holdsVersions : Blk → Bool
  | .lck | .tbs | .spare => false
  | _ => true

/-- The place of a block in the register map, for its events. -/
def blkAddr : Blk → Nat
  | .clu n => cluAddr n 0x30
  | .cls _ => 0x16C0004
  | .tbl n => tblAddr n 0x14
  | .tblAux => 0x1982004
  | .seqGrp g => seqAddr g 0x14
  | .seqFo => 0x1A9000C
  | .macGrp g => grpAddr g 4
  | .pwn => 0x600000
  | .sch => 0x1B00000
  | .cry _ => 0x1C00000
  | .sto => 0x1EE0000
  | .ten => 0x6030000
  | .lck => 0x200000
  | .tbs => 0x300030
  | .loader _ => 0x1A08000
  | .spare => 0x100020

/-- The object of a block that its events name. -/
def blkObject : Blk → Nat
  | .clu n | .tbl n | .seqGrp n | .macGrp n | .loader n => n
  | .cls fn | .cry fn => fnNum fn
  | _ => 0

/-- A commit takes effect now (R40). -/
def applyCommit (s : State) (c : Commit) : State :=
  let old := s
  let s := { s with commits := s.commits.erase c }
  let s := applyWrites s c
  let s := if holdsVersions c.blk then { s with versions := s.versions ++ [(c.blk, round s)] } else s
  commitHook old s c

/-- A due commit put off to the next boundary (R41). -/
def deferCommit (s : State) (c : Commit) : State :=
  let s := { s with commits := s.commits.map fun x =>
    if x = c then { x with effect := round s + 1, defers := x.defers + 1 } else x }
  event (count s 0x1A08014) (sourceOf (blkAddr c.blk)) evCommit (detail (blkObject c.blk) 0) (fnTenancy s c.fn)

/-- The commit waits for a cluster of its class to leave Dusk (R176). -/
def waitsForDusk (s : State) (c : Commit) : Bool :=
  match c.what with
  | .pathClass p _ _ => inDusk s p
  | _ => false

/-- One due commit settled: deferred, or in effect. -/
def settleCommit (s : State) (c : Commit) : State :=
  if waitsForDusk s c then
    { s with commits := s.commits.map fun x => if x = c then { x with effect := round s + 1 } else x }
  else if holdsVersions c.blk && versionsFull s c.blk then deferCommit s c
  else applyCommit s c

/-- The commits that fall due by this boundary, in commit-tick order. -/
def dueCommits (s : State) : List Commit := s.commits.filter fun c => decide (c.effect ≤ round s)

/-- COMMIT_EFFECT: in the first tick of a round the next due commit is settled; when none is left, the table changes
that fall due take effect, and constants follow the rules that they change (R40, R43, R74). -/
def commitEffectStep (s : State) : State :=
  if now s % 256 ≠ 0 then s
  else match dueCommits s with
    | c :: _ => settleCommit s c
    | [] =>
      let t := tablesDue s
      if t.ruleSets = s.ruleSets then t else refreshConstants t

/-! ### The limit of a deferral (R41) -/

/-- Effect round of the oldest version of a block that still governs something inside the device. -/
def oldestVersion (s : State) (b : Blk) : Nat :=
  (governingRounds s).foldl (fun m r => min m (versionAt s b r)) (versionAt s b (round s))

/-- Threads that hold a frame of the block's version `v`. -/
def threadsOf (s : State) (b : Blk) (v : Nat) : List Tid :=
  (s.threads.filter fun p => p.2.frame.isSome && match p.2.base with
    | some f => versionAt s b f.round == v
    | none => false).map fun p => tidOf p.1

/-- Version `v` of the block governs only frames that debug-halted threads hold. -/
def onlyHalted (s : State) (b : Blk) (v : Nat) : Bool :=
  (threadsOf s b v).all (fun t => (thread s t).halted) &&
    s.frames.all (fun p => versionAt s b p.2.round != v || (match p.2.stage with
      | .thread t => (thread s t).halted
      | _ => false)) &&
    s.rings.all fun p => p.2.items.all fun i => versionAt s b i.round != v

/-- Blocks that have deferred one commit, or one table's changes, 1,024 times and wait still (R41). -/
def deferredOut (s : State) : List Blk :=
  (s.commits.filter fun c => decide (1024 ≤ c.defers)).map (·.blk) ++
    (s.changes.filter fun c => !c.done && decide (1024 ≤ c.defers)).map fun c => .tbl c.table

/-- DEFER_LIMIT_RESET: when a block has deferred one commit 1,024 times and its oldest version governs only
frames of debug-halted threads, the cores that hold them are reset (R41). -/
def deferLimitResetStep (s : State) : State :=
  if now s % 256 ≠ 0 then s
  else
    ((((deferredOut s).filter fun b => onlyHalted s b (oldestVersion s b)).flatMap fun b =>
      (threadsOf s b (oldestVersion s b)).map coreNum).eraseDups).foldl (fun s n =>
        putCore s n { core s n with resetNow := true }) s

/-- COMMIT_EFFECT (R40). -/
def execCommitEffect (s : State) : Out := act s commitEffectStep
/-- DEFER_LIMIT_RESET (R41). -/
def execDeferLimitReset (s : State) : Out := act s deferLimitResetStep

end Sys2Proof.Machine
end

