-- ==== Sys2Proof/Machine/Restart.lean ====
section
/-! DEFINITION. Fundamental reset, warm reset and fallback, and the traffic of Daybreak (R449, R453, R455,
R462, R467, R487). -/

namespace Sys2Proof.Machine

open Sys2Proof

/-! ### RST_STAGE (R470) -/

def stageDaybreak : Nat := 0
def stageForenoon : Nat := 1
def stageNoon : Nat := 2
def stageHeld : Nat := 3

/-- The event at an entry to Forenoon, Noon or HELD (R485). -/
def stageEvent (s : State) (st : Nat) : State :=
  event s srcReset evStage (st + if st = stageNoon then rf s 0x100004 15 0 * 65536 else 0) 0 0 (st == stageHeld)

/-- A stage entered. -/
def enterStage (s : State) (st : Nat) : State := stageEvent (setRf s 0x100000 2 0 st) st

/-- The device stays in Daybreak with STAGE HELD and the cause (R454, R455, R467). -/
def enterHeld (s : State) (cause : Nat) : State := enterStage (setRf s 0x100000 15 8 cause) stageHeld

/-- The event of an entry to Daybreak; FATAL for causes 2, 3 and 8 (R485). -/
def resetEvent (s : State) (cause : Nat) : State :=
  event s srcReset evReset cause 0 0 (cause == 2 || cause == 3 || cause == 8)

/-- RST_SVN as OTP and the strap have it. -/
def showSvn (s : State) : State :=
  let b := s.boot
  let slots := (List.range 4).foldl (fun n k => n + flagBit (look b.slots k).isSome k) 0
  let revoked := (List.range 4).foldl (fun n k => n + flagBit (((look b.slots k).map (·.2)).getD false) k) 0
  setWord s 0x10000C (BitVec.ofNat 32 (b.otpSvn % 256 + slots * 256 + revoked * 4096 + b.bootSel.toNat * 65536))

/-! ### Fundamental reset (R449, R453, R487) -/

/-- What OTP and flash hold. -/
def bootKept (b : Boot) : Boot :=
  { bootSel := b.bootSel, otpSvn := b.otpSvn, slots := b.slots, banks := b.banks, activeBank := b.activeBank,
    stores := b.stores, activeStore := b.activeStore }

/-- The recorder's part in the VDD_AON domain, and the copy in flash (R487). -/
def recorderKept (r : Recorder) : Recorder :=
  { evening := r.evening, morning := r.morning, next := r.next, viewNext := r.viewNext, boot := r.boot,
    copying := r.copying, copyAgain := r.copyAgain, flash := r.flash }

/-- The state that a fundamental reset leaves: everything at its reset value but OTP, flash, the stored
ledger blocks and the VDD_AON domain (R449, R462, R487, R512). -/
def cleared (s : State) : State :=
  let v : State := {
    power := { s.power with clockVoid := false, railStop := false },
    boot := bootKept s.boot,
    recorder := recorderKept s.recorder,
    ledger := { journal := s.ledger.journal, drives := s.ledger.drives, stripes := s.ledger.stripes },
    freeReads := s.freeReads, draws := s.draws, pending := s.pending }
  let v := showRecorder (setWord v 0x500000C (word s 0x500000C))
  setWord64 v 0x5000010 (word64 s 0x5000010)

/-- PERST0_N_ASSERT: a fundamental reset, after which the device is held until deassertion; it also ends what
the loss of REF_CLK left undefined, and leaves a thermal trip latched (R449, R502, R509). -/
def perst0Step (s : State) : State :=
  if s.power.perst0 || !s.power.aon then s
  else
    let s := { s with recorder := { s.recorder with boot := s.recorder.boot + 1 } }
    cleared { s with power := { s.power with perst0 := true } }

/-- FUNDAMENTAL_RESET: PERST0_N is deasserted with every rail in range, and the boot ROM enters Daybreak; the
tick count, full time and the lock bits start at 0 (R33, R261, R453, R455); a latched rail fault is over (R499). -/
def fundamentalResetStep (sel : BitVec 2) (s : State) : State :=
  if !s.power.perst0 || !s.power.aon || s.power.thermTrip || s.power.railStop || s.power.rails.length < 9 then s
  else
    let side := fun (h1 : Bool) =>
      { strict := Config.flashStrict h1, strictShown := Config.flashStrict h1 : EndpointState }
    let s := { s with
      power := { s.power with perst0 := false }
      boot := { s.boot with bootSel := sel }
      endpoints := [(0, side false), (1, side true)] }
    let s := drawNonce (showSvn (resetEvent (setRf s 0x5000008 1 1 0) 0))
    if sel = 3 then enterHeld s 7 else s

/-! ### Warm reset and fallback (R467) -/

/-- Registers that a return to Daybreak leaves as they are: reset and lock state, the timebase, the recorder,
the endpoints' own registers, mailboxes, the table allotment, the count of deferred commits and power; in a
fallback the ports' too, whose links stay up (R29, R55, R261, R449, R467). -/
def staysWord (fallback : Bool) (a : Nat) : Bool :=
  decide (a < 0x500000) || decide (0x600000 ≤ a ∧ a < 0x601000) || decide (0x700000 ≤ a ∧ a < 0x701000) ||
    decide (0x900000 ≤ a ∧ a < 0xD00000) || a == 0x198200C || a == 0x1A08014 ||
    decide (0x5000000 ≤ a ∧ a < 0x6000000) ||
    (fallback && decide (0x1400000 ≤ a ∧ a < 0x1420000)) ||
    (decide (0x1000000000 ≤ a) && decide (0x410000 ≤ a % 0x10000000 ∧ a % 0x10000000 < 0x420000))

/-- The register words after a return to Daybreak: guarded fields whose lock bit is set keep their values
(R449), and clusters their generations (R464). -/
def wordsAfter (s : State) (fallback : Bool) : Sparse Word :=
  let m := (word s 0x200000).toNat
  s.words.filterMap fun p =>
    let w := if staysWord fallback p.1 then p.2
      else if inArray p.1 0x2000000 17 0x100000 0 then blend (resetWord p.1) (maskOf 7 4) p.2
      else blend (resetWord p.1) (guardedBy s m p.1) p.2
    if w = resetWord p.1 then none else some (p.1, w)

/-- Every frame inside the device is lost and counted (R467). -/
def loseFrames (s : State) : State :=
  s.frames.foldl (fun s f => countDrop s (atTenancy f.2) rsFallback) s

/-- Every function that had a mailbox receives request 0x19 FALLBACK (R467). -/
def tellFallback (s : State) : State :=
  ((List.range 2048).map fnOf).foldl (fun s fn =>
    if fnExists s fn then fwAnswer s fn ⟨0, [0x19]⟩ else s) s

/-- An endpoint after a return to Daybreak: its link stays trained, and the reads in flight are quarantined. -/
def endpointAfter (v : EndpointState) : EndpointState :=
  { v with waiting := [], requests := v.requests.map fun q => (q.1, { q.2 with quarantined := true }) }

/-- PF0 of an endpoint keeps its configuration space; the other functions keep their generations. -/
def functionAfter (p : Nat × FnState) : Nat × FnState :=
  let f := p.2
  if p.1 % 1024 = 0 then
    (p.1, { f with dusk := none, flr := false, drained := false, held := false, pendingVectors := [] })
  else (p.1, { generation := f.generation })

/-- The device returns to Daybreak (R467). Cluster 16 has the spare role again and the other clusters are active: R17
gives that for shipment and a fundamental reset only, and R462 and R467 are silent (DESIGN CHOICE). -/
def toDaybreak (s : State) (cause : Nat) (fallback : Bool) : State :=
  let s := tellFallback (loseFrames s)
  let s := if fallback then s else (List.range 16).foldl resetPort { s with frames := [] }
  let s := ledgerStop s (if fallback then 2 else 1)
  let s := servoRestart s
  let v : State := {
    power := s.power, tick := s.tick, tbs := s.tbs, words := wordsAfter s fallback,
    commits := s.commits.filter fun c => match c.what with
      | .locks _ => true
      | _ => false,
    latch := s.latch, reply := s.reply, nextFrame := s.nextFrame,
    recorder := s.recorder, mailboxes := s.mailboxes,
    endpoints := s.endpoints.map fun p => (p.1, endpointAfter p.2),
    functions := s.functions.map functionAfter,
    ledger := s.ledger,
    ports := s.ports.map fun p => (p.1, { p.2 with
      pauses := [], cells := List.replicate 8 0, xoff := [], onWay := [], wireFree := 0, started := 0 }),
    drops := s.drops,
    boot := { bootKept s.boot with entered := now s, fallbacks := s.boot.fallbacks },
    spdm := s.spdm, ncsi := s.ncsi, mgmt := s.mgmt, freeReads := s.freeReads, draws := s.draws,
    pending := s.pending }
  let v := setWord (setWord (setWord (setWord v 0x100004 0) 0x100008 0) 0x100014 0) 0x100028 0
  resetEvent (setWord (setRf v 0x100020 4 0 16) 0x100000 (BitVec.ofNat 32 (cause * 256))) cause

/-- WARM_RESET: RST_WARM written by PF0 of H0 with its key, or the management watchdog (R462, R467). -/
def warmResetStep (fn : Option FnId) (key : BitVec 32) (s : State) : State :=
  let go := fun (s : State) (cause : Nat) =>
    toDaybreak { s with boot := { s.boot with fallbacks := [] } } cause false
  match fn with
  | none => go s 2
  | some f => writeAs s f 0x100024 fun s =>
    if f ≠ pf0 then denied s f 0x100024
    else if key ≠ 0x5741524D then ignored s f 0x100024 5 else go s 1

/-- FALLBACK: the device returns to Daybreak after an error of its own state; after the third within 2^32
rounds it stays there (R466, R467). -/
def fallbackStep (c : FallbackCause) (s : State) : State :=
  let s := match c with
    | .bothPairs => s
    | .blockState => count s 0x100038
    | .datapathParity => event (count s 0x100038) srcReset evMemory 8 0 rsMemory
  let recent := (s.boot.fallbacks.filter fun r => decide (round s < r + 2 ^ 32)) ++ [round s]
  let s := count { s with boot := { s.boot with fallbacks := recent } } 0x10002C
  if 3 ≤ recent.length then enterHeld (toDaybreak s 8 true) 8 else toDaybreak s 3 true

/-! ### Daybreak traffic (R453) -/

/-- The receive ring of PF0 of H0 that takes the frames of P0 before Noon: its enabled one of lowest number. -/
def daybreakRing (s : State) : Option Nat :=
  (s.words.find? fun p => inArray p.1 0x1000000 65536 0x40 0 && bit p.2 31 && fnOf (fld p.2 10 0) == pf0 &&
    ringOn s ((p.1 - 0x1000000) / 0x40) 2).map fun p => (p.1 - 0x1000000) / 0x40

/-- A frame that is whole before Noon: P0 delivers to PF0, PF0's sent frames leave at P0, and nothing else is
forwarded. -/
def daybreakFrame (s : State) (f : Frame) : State :=
  match f.src with
  | .port 0 => match daybreakRing s with
    | some r => handToRing s { f with due := now s, tag := setTag (f.tag.set 9 (BitVec.ofNat 32 r)) 8 31 24 dkRing } r
    | none => dropFrame s f (.port 0) rsRingDisabled
  | .port p => dropFrame s f (.port p) rsFilter
  | .ring _ => joinQueue s { f with due := now s, tag := setTag (f.tag.set 9 0) 8 31 24 dkPort } 0
  | _ => dropFrame s f (atTenancy f) rsTargetReset

/-- The frames of a tick before Noon. -/
def daybreakFrames (s : State) : State :=
  if stage s = stageNoon then s
  else (s.frames.filter fun p => p.2.stage == .whole).foldl (fun s p => daybreakFrame s p.2) s

/-! ### Meanings -/

/-- PERST0_N_ASSERT (R449): it acts even when the loss of REF_CLK has voided every other rule (R502). -/
def execPerst0NAssert (s : State) : Out := .next (perst0Step s)
/-- FUNDAMENTAL_RESET (R453). -/
def execFundamentalReset (bootSel : BitVec 2) (s : State) : Out := actAlways s (fundamentalResetStep bootSel)
/-- WARM_RESET (R467). -/
def execWarmReset (fn : Option FnId) (key : BitVec 32) (s : State) : Out := act s (warmResetStep fn key)
/-- FALLBACK (R467). -/
def execFallback (cause : FallbackCause) (s : State) : Out := act s (fallbackStep cause)

end Sys2Proof.Machine
end

