-- ==== Sys2Proof/Machine/Regs.lean ====
section
/-! DEFINITION. Register accesses of functions: plain writes, writes that start an action, split counters,
read-to-clear maxima and accesses that are not aligned (R10–R14, R391, R514). -/

namespace Sys2Proof.Machine

open Sys2Proof

/-! ### Writes of one register -/

/-- What a write of a register that held `old` does beside its fields. -/
def afterWrite (s : State) (fn : FnId) (a : Nat) (old v : Word) : State :=
  if a = 0x300000 then servoCheck s
  else if a = mbxAddr fn 0x710 ∧ (fnState s fn).vecCount ≤ fld v 10 0 then
    event s srcRecorder evState (detail (fnNum fn) (fld v 10 0)) (fnTenancy s fn)
  else match elem a 0x4001000 1024 0x10 with
    | some (t, 0) =>
      if word s a = old then s else { s with ledger := { s.ledger with credit := remove s.ledger.credit t } }
    | _ => match elem a 0x1EA0000 4096 0x40 with
      | some (t, 0) => if bit v 31 then targetGoStep t s else s
      | _ => match elem a 0x1000000 65536 0x40 with
        | some (r, 0x20) => match ringOwner s r with
          | some o =>
            if (fnState s o).vecCount ≤ fld v 10 0 then
              event s (srcHost o.ep) evState (detail r (fld v 10 0)) (fnTenancy s o)
            else s
          | none => s
        | _ => s

/-- A write of the fields of a register: locked fields stay with an event, reserved values and values that
break a rule leave their fields as they are with an event, the others are set (R10, R12, R514). -/
def writeFields (s : State) (fn : FnId) (a : Nat) (v : Word) (r : RegSpec) : State :=
  let open_ := r.flds.filter fun f => !f.lock.any fun n => lockAsked s n
  let taken := open_.filter fun f => f.listed v.toNat && f.rule v.toNat
  let maskFor := fun (fs : List RegFld) => fs.foldl (fun m f => m ||| maskOf f.hi f.lo) (0 : Word)
  let set := maskFor (taken.filter fun f => !f.w1c)
  let clear := maskFor (taken.filter fun f => f.w1c) &&& v
  let at_ := if r.own then fnWordAddr fn a else a
  let s := match r.blk with
    | some b => if set = 0 then s else writeShadow s b fn at_ set v
    | none => setWord s at_ (blend (word s at_) set v)
  let s := if clear = 0 then s else setWord s at_ (word s at_ &&& ~~~clear)
  let s := if open_.length < r.flds.length then deniedByLock s fn a else s
  let s := if open_.any fun f => !f.listed v.toNat then ignored s fn a 1 else s
  if open_.any fun f => f.listed v.toNat && !f.rule v.toNat then ignored s fn a 5 else s

/-- The buffer of a function's H2F channel while its message waits: the write is discarded (R478). -/
def bufferFull (s : State) (fn : FnId) (a : Nat) : Bool :=
  decide (mbxAddr fn 0 ≤ a ∧ a < mbxAddr fn 0x208) && (mailbox s (fnNum fn)).up.full

/-- A write of a plain register (R10–R12, R391). -/
def plainWrite (s : State) (fn : FnId) (a : Nat) (v : Word) : State :=
  if bufferFull s fn a then
    let m := mailbox s (fnNum fn)
    count (putMailbox s (fnNum fn) { m with up := { m.up with reason := busyReason m.up } }) (mbxAddr fn 0x71C)
  else match regSpec s fn a with
    | none => s
    | some r =>
      if r.may then afterWrite (writeFields s fn a v r) fn a (word s a) v
      else denied s fn a

/-- A disabled ring's control word written without ENABLE (R436). -/
def ringCtrlWrite (s : State) (fn : FnId) (r : Nat) (v : Word) : State :=
  let a := rngAddr r 4
  if !platform s fn ∧ ringOwner s r ≠ some fn then ringDisableStep fn r s
  else if ringEnabled s r then ringDisableStep fn r s
  else
    let mask := ringCtrlMask v
    let s := ringDisableStep fn r (setWord s a (blend (word s a) mask v))
    if mask = maskOf 2 0 ||| maskOf 23 10 ||| maskOf 8 4 then s else ignored s fn a 1

/-- The four commands of the encryption window, bits 0–3 of CRY_IND_CTRL in order (R355). -/
def cryCommand (fn : FnId) (v : Word) (s : State) : State :=
  let s := if bit v 0 then cryReadStep fn s else s
  let s := if bit v 1 then cryWriteStep fn s else s
  let s := if bit v 2 then writeKeyStep fn s else s
  if bit v 3 then countersStep fn s else s

/-- TCP_CMD (R384); an OFFLOAD is the row of that name, whose operand holds the record that it reads. -/
def tcpCommand (fn : FnId) (v : Word) (s : State) : State :=
  let n := fld v 17 0
  match fld v 31 28 with
  | 1 => s
  | 2 => tcpReadStep fn n s
  | 3 => closeStep fn n s
  | 4 => tcpAbortStep fn n s
  | _ => ignored s fn 0x1EF0008 1

/-- CLU_DBG_CTRL (R101, R104). -/
def debugCommand (fn : FnId) (n : Nat) (v : Word) (s : State) : State :=
  let t := threadOf n (fld v 3 0) (fld v 6 4)
  if fn ≠ pf0 then denied s fn (cluAddr n 0x40)
  else if 1 < ([8, 9, 10].filter fun k => bit v k).length then ignored s fn (cluAddr n 0x40) 5
  else
    let s := if bit v 8 then debugHaltStep t s else s
    let s := if bit v 9 then debugResumeStep t s else s
    if bit v 10 then debugStepStep t s else s

/-- SEND and WITHDRAW of MBX_H2F_CTRL (R473, R476). -/
def mailboxCommand (fn : FnId) (v : Word) (s : State) : State :=
  if bit v 0 && bit v 1 then ignored s fn (mbxAddr fn 0x700) 5
  else if bit v 0 then sendStep fn s
  else if bit v 1 then withdrawStep fn s else s

/-- A step taken when a bit of the written word is 1. -/
def whenBit (v : Word) (n : Nat) (f : State → State) (s : State) : State := if bit v n then f s else s

/-- The action that a write of a register of the blocks from 0x01A0_0000 on starts. -/
def writeAction2 (fn : FnId) (a : Nat) (v : Word) : Option (State → State) :=
  if a = 0x1A9000C then some (whenBit v 0 (seqFoCommitStep fn))
  else if a = 0x1B00000 then some (whenBit v 0 (schCommitStep fn))
  else if a = 0x1B0000C then some fun s => whenBit v 1 (schWriteStep fn) (whenBit v 0 (schReadStep fn) s)
  else if a = 0x1C00000 then some (whenBit v 0 (cryCommitStep fn))
  else if a = 0x1C0000C then some (cryCommand fn v)
  else if a = 0x1EE0000 then some (whenBit v 0 (stoCommitStep fn))
  else if a = 0x1EF0008 then some (tcpCommand fn v)
  else if a = 0x1EF0014 then some (connSelStep fn (fld v 17 0))
  else if a = 0x4000000 then some fun s => if bit v 0 then ledgerEnableStep fn s else ledgerDisableStep fn s
  else if a = 0x6030000 then some (whenBit v 0 (tenCommitStep fn))
  else match elem a 0x1A20000 256 0x200 with
    | some (g, 0x14) => some (whenBit v 0 (seqGrpCommitStep fn g))
    | _ => match elem a 0x2000000 17 0x100000 with
      | some (n, 0x30) => some (whenBit v 0 (cluCommitStep fn n))
      | some (n, 0x38) => some (whenBit v 31 (coreResetStep fn n (fld v 3 0)))
      | some (n, 0x40) => some (debugCommand fn n v)
      | _ => none

/-- The action that a write of a register starts, where it starts one. -/
def writeAction (fn : FnId) (a : Nat) (v : Word) : Option (State → State) :=
  if a = 0x100010 then some (whenBit v 31 (funcCtrl fn (fnOf (fld v 10 0))))
  else if a = 0x100018 then some (whenBit v 31 (portResetStep fn (fld v 3 0)))
  else if a = 0x10001C then some (whenBit v 31 (clusterResetStep fn (fld v 4 0)))
  else if a = 0x100020 then some (whenBit v 31 (rstSpareStep fn (fld v 4 0)))
  else if a = 0x100024 then some (warmResetStep (some fn) v)
  else if a = 0x200000 then some (lckSetStep fn v)
  else if a = 0x300030 then some (whenBit v 0 (tbsAdjGoStep fn))
  else if a = 0x300040 then some (whenBit v 0 (tbsSnapStep fn))
  else if a = 0x40001C then some (whenBit v 0 (copyGoStep fn))
  else if a = 0x410004 then some fun s => cursorWriteStep fn ((word s (viewAddr fn 0)).toNat + v.toNat * 2 ^ 32) s
  else if a = 0x802000 then some (whenBit v 0 (pwnCommitStep fn))
  else if a = mbxAddr fn 0x700 then some (mailboxCommand fn v)
  else if a = 0x16C0004 then some (whenBit v 0 (clsCommitStep fn))
  else if a = 0x1982004 then some (whenBit v 0 (tblAuxCommitStep fn))
  else match elem a 0x1000000 65536 0x40 with
    | some (r, 4) => some fun s => if bit v 3 then ringEnableStep fn r v s else ringCtrlWrite s fn r v
    | _ => match elem a 0x1410000 4 0x40 with
      | some (g, 4) => some (whenBit v 0 (macGrpCommitStep fn g))
      | _ => match elem a 0x1800000 72 0x80 with
        | some (n, 0x14) => some (whenBit v 0 (tblCommitStep fn n))
        | _ => match elem a 0x1960000 2048 0x20 with
          | some (f, 0x14) => some (whenBit v 0 (tblDmaGoStep (fnOf f)))
          | _ => writeAction2 fn a v

/-- One register of a write (R13). -/
def writeRegister (fn : FnId) (a : Nat) (v : Word) (s : State) : State :=
  match writeAction fn a v with
  | some f => f s
  | none => plainWrite s fn a v

/-- A write access: one that is not aligned, or that has partial byte enables, is discarded with an event; a
64-bit one acts on two registers, the lower offset first (R13). One to the expansion ROM writes nothing (R392). -/
def registerWriteStep (fn : FnId) (off : Nat) (wide : Bool) (be : BitVec 8) (val : BitVec 64) (s : State) : State :=
  let misaligned := off % (if wide then 8 else 4) ≠ 0
  let whole := if wide then be = 0xFF else be &&& 0x0F = 0x0F
  let one := fun (a : Nat) (v : Word) (s : State) => writeAs s fn a (writeRegister fn a v)
  if romBase ≤ off then romWrite fn off s
  else if misaligned then postAs s fn fun s => ignored s fn off 6
  else if ¬whole then postAs s fn fun s => ignored s fn off 3
  else
    let s := one off (val.truncate 32) s
    if wide then one (off + 4) ((val >>> 32).truncate 32) s else s

/-! ### Reads that change state (R10, R13, R14) -/

/-- A split counter: offsets of its low half (R14). -/
def splitCounter (a : Nat) : Bool :=
  let pair := fun (base count stride off : Nat) => match elem a base count stride with
    | some (_, o) => o == off
    | none => false
  a == 0x1A08000 || a == 0x5000010 || a == 0x400000 ||
    (decide (0x4000008 ≤ a ∧ a ≤ 0x4000028) && a % 8 == 0) ||
    pair 0x1A09000 64 0x40 0x20 || pair 0x1A09000 64 0x40 0x28 || pair 0x1A0A000 1024 0x20 0 ||
    pair 0x1A0A000 1024 0x20 8 || pair 0x1A20000 256 0x200 0x20 || pair 0x1A20000 256 0x200 0x30 ||
    (match elem a 0x1400000 16 0x1000 with
      | some (_, o) => (decide (0x400 ≤ o ∧ o < 0x4A8) && o % 8 == 0) ||
          (decide (0x500 ≤ o ∧ o < 0x580) && o % 8 == 0)
      | none => false) ||
    pair 0x1B01000 16 0x40 0x10 || pair 0x1B40000 64 0x10 0 || pair 0x1D00000 17 0x20 8 || pair 0x1D08000 8 0x10 4

/-- The 64 bits of a split counter. -/
def counterValue (s : State) (a : Nat) : Nat := if a = 0x1A08000 then now s else word64 s a

/-- A read of the low half latches the high half; a 64-bit read then returns the latched half as well and
ends the latch (R13, R14). A 32-bit read of the high half returns the latched value and ends the latch; without
one it returns the half as it stands. A counter has one latch, whichever function reads it: R14 gives the latch to
the counter and names no reader (DESIGN CHOICE). -/
def counterLowStep (fn : FnId) (off : Nat) (wide : Bool) (s : State) : State :=
  let high := decide (4 ≤ off) && splitCounter (off - 4)
  if !splitCounter off && !(high && !wide) && off % 4 = 0 then s
  else alignedRead fn off wide (fun s =>
    if fn.fn ≠ 0 ∧ !readView s fn off then { s with reply := List.replicate (if wide then 2 else 1) 0 }
    else if splitCounter off then
      let v := counterValue s off
      let lo : Word := BitVec.ofNat 32 v
      let hi : Word := BitVec.ofNat 32 (v / 2 ^ 32)
      if wide then { s with reply := [lo, hi], latch := remove s.latch (off + 4) }
      else { s with reply := [lo], latch := place s.latch (off + 4) hi }
    else
      let now_ : Word := BitVec.ofNat 32 (counterValue s (off - 4) / 2 ^ 32)
      { s with reply := [(look s.latch off).getD now_], latch := remove s.latch off }) s

/-- A read of the greatest lateness of a path class or a tenancy, which clears it (R54, R55). -/
def lateMaxStep (fn : FnId) (off : Nat) (s : State) : State :=
  let max_ := match elem off 0x1A09000 64 0x40 with
    | some (_, o) => o == 0x30
    | none => match elem off 0x1A0A000 1024 0x20 with
      | some (_, o) => o == 0x10
      | none => false
  if off % 4 ≠ 0 then alignedRead fn off false (fun s => s) s
  else if !max_ then s
  else if fn.fn ≠ 0 ∧ !readView s fn off then { s with reply := [0] }
  else setWord { s with reply := [word s off] } off 0

/-- A read that is not aligned returns zeros, changes nothing and is recorded (R13). -/
def readUnalignedStep (fn : FnId) (off : Nat) (wide : Bool) (s : State) : State :=
  alignedRead fn off wide (fun s => s) s

/-- REGISTER_WRITE (R10). -/
def execRegisterWrite (fn : FnId) (off : Nat) (wide : Bool) (be : BitVec 8) (val : BitVec 64) (s : State) : Out :=
  act s (registerWriteStep fn off wide be val)
/-- COUNTER_LOW_READ (R14). -/
def execCounterLowRead (fn : FnId) (off : Nat) (wide : Bool) (s : State) : Out :=
  act s fun s => readAt s fn off wide (counterLowStep fn off wide)
/-- LATE_MAX_READ (R55). -/
def execLateMaxRead (fn : FnId) (off : Nat) (s : State) : Out :=
  act s fun s => readAt s fn off false (lateMaxStep fn off)
/-- REGISTER_READ_UNALIGNED (R13); a read of the expansion ROM, of any alignment (R392). -/
def execRegisterReadUnaligned (fn : FnId) (off : Nat) (wide : Bool) (s : State) : Out :=
  act s fun s => readAt s fn off wide (readUnalignedStep fn off wide)

end Sys2Proof.Machine
end

