-- ==== Sys2Proof/Machine/Boot.lean ====
section
/-! DEFINITION. Forenoon and Noon, firmware images and their staging and update, the stored configuration,
platform keys, the clearing of the Morning area, and attestation (R453–R461, R468, R469, R489, R490). -/

namespace Sys2Proof.Machine

open Sys2Proof

/-! ### Answers of the firmware (R458) -/

def fwDone : Nat := 0
def fwBusy : Nat := 1
def fwFormat : Nat := 2
def fwSignature : Nat := 3
def fwRollback : Nat := 4
def fwReadFailed : Nat := 5
def fwNotOpen : Nat := 6
def fwNoSpare : Nat := 7
def fwFlash : Nat := 8
def fwSlotUsed : Nat := 9
def fwBinding : Nat := 10

/-- The happenings of SECURITY: an image refused, a key enrolled or revoked, a clear refused (R485). -/
def securityEvent (s : State) (object value : Nat) : State := event s srcFirmware evSecurity (detail object value)

/-- A request that the firmware serves for PF0 of H0 only: in Noon and outside an update, else it is BUSY; while
the pairs hand over none is served (R458, R469, R479). -/
def fwRequest (fn : FnId) (cookie : BitVec 32) (req : Nat) (fits : List Byte → Bool) (f : Taken → State → State) :
    State → State :=
  onTaken fn cookie req fits fun t s =>
    if fn ≠ pf0 then replyTo s t fwNotOpen
    else if stage s ≠ stageNoon ∨ s.boot.update.isSome then replyTo s t fwBusy
    else f t s

/-! ### Firmware images (R456, R457) -/

def imageSvn (im : List Byte) : Nat := leAt im 12 4
def imageVersion (im : List Byte) : Nat := leAt im 8 4

/-- Some enrolled slot that is not revoked verifies the signature. -/
def slotSigned (b : Boot) (msg sig : List Byte) (other : Option Nat := none) : Bool :=
  b.slots.any fun p => !p.2.2 && other != some p.1 &&
    decide (0 < beNat (sig.take 48) ∧ beNat (sig.take 48) < p384Order ∧ 0 < beNat (sig.drop 48) ∧
      beNat (sig.drop 48) < p384Order) && Config.slotVerify p.2.1 msg sig

/-- The status of an image under R456: DONE when the boot ROM accepts it. -/
def imageStatus (b : Boot) (im : List Byte) : Nat :=
  let n := im.length
  let formed := decide (320 ≤ n ∧ n ≤ 12 * 2 ^ 20) && im.take 4 == [0x53, 0x5A, 0x46, 0x57] && leAt im 4 2 == 1 &&
    leAt im 16 4 == n
  let keyed := b.slots.any fun p => !p.2.2
  if !formed then fwFormat
  else if imageSvn im < b.otpSvn then fwRollback
  else if !signatureOk Config.romKey (im.take (n - 192)) (slice im (n - 192) 96) then fwSignature
  else if keyed && !slotSigned b (im.take (n - 96)) (slice im (n - 96) 96) then fwSignature
  else fwDone

/-! ### Forenoon (R453, R454, R363) -/

/-- The tests' results: the check engines, and at most one cluster fenced, whose place the spare takes. -/
def forenoonTests (s : State) (r : ForenoonResult) : State :=
  let s := (List.range 17).foldl (fun s n =>
    setWord s (0x1D00004 + n * 0x20) (if r.failedClusters.any fun c => c.val == n then 2 else 3)) s
  let s := (List.range 8).foldl (fun s e =>
    let bad := r.failedScanEngines.any fun x => x.val == e
    let s := setWord s (0x1D08000 + e * 0x10) (if bad then 2 else 3)
    if bad then event s srcCheck evState (detail e 0) else s) s
  match r.failedClusters with
  | c :: _ =>
    let s := if c.val = 16 then s else setRole s 16 0
    event (setRole s c.val 3) (srcCluster c.val) evFence (detail c.val 3)
  | [] => s

/-- The image that the boot ROM finds: what a bank is known to hold, or what the command says that it holds; the
image staged through the mailbox or PLDM. -/
def bootImage (s : State) (r : ForenoonResult) : Option (List Byte) :=
  if r.fromMailbox then s.boot.staged
  else some ((look s.boot.banks (if r.bankB then 1 else 0)).getD r.image)

/-- The boot ROM may start an image from this source: flash in Daybreak under BOOT_SEL 0, the mailbox or PLDM
under 1 and 2, and the mailbox once images have been refused (R455, R456). -/
def mayBoot (s : State) (r : ForenoonResult) : Bool :=
  let held := stage s == stageHeld && rf s 0x100000 15 8 == 4
  if r.fromMailbox then held || (stage s == stageDaybreak && (s.boot.bootSel == 1 || s.boot.bootSel == 2))
  else stage s == stageDaybreak && s.boot.bootSel == 0

/-- FORENOON: the boot ROM has an image, the memories are trained and the clusters tested; refused images, a
failed training or two failed clusters leave the device HELD in Daybreak (R453, R454, R456). -/
def forenoonStep (r : ForenoonResult) (s : State) : State :=
  match bootImage s r with
  | none => s
  | some im =>
    if !mayBoot s r then s
    else
      let st := imageStatus s.boot im
      if st ≠ fwDone then enterHeld (securityEvent s 0 st) 4
      else
        let s := { s with boot := { s.boot with running := im } }
        let s := setWord s 0x100008 (BitVec.ofNat 32 (imageVersion im))
        let s := setRf s 0x100000 3 3 (if r.bankB && !r.fromMailbox then 1 else 0)
        if !r.hbmTrained then enterHeld s 5
        else if 2 ≤ r.failedClusters.eraseDups.length then enterHeld (forenoonTests s { r with failedClusters := [] }) 6
        else enterStage (forenoonTests s r) stageForenoon

/-! ### The stored configuration (R459) -/

/-- The store is valid. -/
def storeValid (b : Boot) (c : StoredConfig) : Bool :=
  c.header.length == 64 && c.signed.take 64 == c.header && c.header.take 4 == [0x53, 0x5A, 0x43, 0x53] &&
    leAt c.header 4 2 == 1 && decide (leAt c.header 16 4 ≤ 8 * 2 ^ 20) && decide (leAt c.header 20 1 ≤ 16) &&
    (b.slots.isEmpty || slotSigned b c.signed c.signature)

/-- Every pending commit put in force: the firmware waits for the boundaries before Noon. -/
def settlePending (s : State) : State := s.commits.foldl (fun s c => applyCommit s c) s

/-- A class of the stored configuration in force at once; none: the request would be refused. -/
def storeClass (s : State) (p : ClassPayload) : Option State :=
  let new := { newest (planned s) p.cls with
    owner := p.owner, k := p.k, s := p.s, a := p.a, cAsked := p.c, sequenced := p.sequenced, group := p.group,
    cores := p.cores }
  if 64 ≤ p.cls ∨ (payloadFault p).isSome ∨ (p.sequenced && !groupOpen s (round s) p.owner p.group) ∨
      (classFault s new [] 0).isSome then none
  else some (classEffect s new [] { fn := pf0, cookie := 0, req := rqClass, cls := p.cls })

/-- A program of the stored configuration in force at once; none: the request would be refused. -/
def storeLoad (s : State) (im : List Byte) (cls : Nat) : Option State :=
  let j : LoadJob := { fn := pf0, cookie := 0, req := rqLoad, cls := cls, len := im.length }
  match imageCheck s j im with
  | .error _ => none
  | .ok r => some (classEffect s r.1 r.2 j)

/-- One entry applied; none: it ends the apply. -/
def applyEntry (s : State) (store : List Byte) (e : StoreEntry) : Option State :=
  match e.kind with
  | 1 => some (if e.offset % 4 = 0 then writeRegister pf0 e.offset e.value s else ignored s pf0 e.offset 6)
  | 2 =>
    let s := settlePending s
    if word s e.offset &&& e.value = 0 then some s else none
  | 3 => storeLoad s (slice store e.offset (leAt store (e.offset + 12) 4)) (fld e.value 5 0)
  | 4 => storeClass s (classPayload store e.offset)
  | _ => none

/-- The entries in order, up to the end mark or the first that fails; its index. -/
def applyEntries (store : List Byte) : Nat → List StoreEntry → State → State × Option Nat
  | _, [], s => (s, none)
  | k, e :: rest, s =>
    if e.kind = 0 then (s, none)
    else match applyEntry s store e with
      | some t => applyEntries store (k + 1) rest t
      | none => (s, some k)

/-- The allotment that the register holds comes into force (R29). -/
def allotTables (s : State) : State := setRf s 0x198200C 20 16 (rf s 0x198200C 4 0)

/-- The stored configuration applied (R459). The allotment of its header is in force for its entries, which are checked
as at Noon (R29; DEDUCED). -/
def applyStore (s : State) (c : StoredConfig) : State :=
  let s := allotTables (setRf s 0x198200C 4 0 (leAt c.header 20 1))
  let s := { s with boot := { s.boot with applied := some c } }
  let r := applyEntries c.signed 0 c.entries s
  match r.2 with
  | none => r.1
  | some k => event (setRf (setRf r.1 0x100000 4 4 1) 0x100000 31 16 k) srcFirmware evState (detail k 0)

/-- NOON: the stored configuration is applied and the device enters full function (R29, R454, R459). -/
def noonStep (store : Option StoredConfig) (s : State) : State :=
  if stage s ≠ stageForenoon then s
  else
    let found := match look s.boot.stores s.boot.activeStore with
      | some c => some c
      | none => store
    let s := { s with boot := { s.boot with applied := none } }
    let s := match found with
      | some c => if storeValid s.boot c then applyStore s c else s
      | none => s
    let s := allotTables s
    let s := { s with
      buckets := [], buckets2 := [], undo := [], ledger := { s.ledger with credit := [] } }
    let s := setWord s 0x100004 (BitVec.ofNat 32 ((now s - s.boot.entered) / 250000 % 65536))
    let s := enterStage (refreshConstants s) stageNoon
    fwAnswer s pf0 ⟨0, [0x18]⟩

/-! ### Staging, activation and the configuration store (R458, R468, R469) -/

/-- The other bank or store. -/
def otherOf (n : Nat) : Nat := 1 - n % 2

/-- The device waits in Daybreak for an image, from the mailbox or by PLDM firmware update (R455, R456). -/
def awaitsImage (s : State) : Bool :=
  (stage s == stageDaybreak && (s.boot.bootSel == 1 || s.boot.bootSel == 2)) ||
    (stage s == stageHeld && rf s 0x100000 15 8 == 4)

/-- An image of `length` bytes that a message gives the address and length of, or whose read has failed (R458). -/
def readOf (length : Nat) (fail : Option ReadFail) (m : List Byte) : Bool := leAt m 12 4 == length || fail.isSome

/-- FW_STAGE: an image read and verified under R456 is written to the inactive bank, or, where the device boots
from the mailbox or has refused its images, is kept for the boot ROM to run (R455, R456, R458). -/
def stageImage (image : List Byte) (fail : Option ReadFail) (flashOk : Bool) (t : Taken) (s : State) : State :=
  if t.fn ≠ pf0 then replyTo s t fwNotOpen
  else if (stage s ≠ stageNoon ∧ !awaitsImage s) ∨ s.boot.update.isSome then replyTo s t fwBusy
  else if leAt t.msg.payload 4 8 % 64 ≠ 0 then replyTo s t fwFormat
  else if fail.isSome then replyTo s t fwReadFailed
  else
    let st := imageStatus s.boot image
    if st ≠ fwDone then replyTo (securityEvent s 0x10 st) t st
    else if s.boot.bootSel == 1 || s.boot.bootSel == 2 || stage s == stageHeld then
      replyTo { s with boot := { s.boot with staged := some image } } t fwDone
    else if !flashOk then replyTo s t fwFlash
    else
      let b := s.boot
      replyTo { s with boot := { b with
        staged := some image, banks := place b.banks (otherOf b.activeBank) image } } t fwDone

/-- The image that a PLDM firmware update brings to the boot ROM: it answers no mailbox request (R455). -/
def pldmImage (image : List Byte) (fail : Option ReadFail) (s : State) : State :=
  let st := imageStatus s.boot image
  if fail.isSome then s
  else if st ≠ fwDone then securityEvent s 0x10 st
  else { s with boot := { s.boot with staged := some image } }

/-- FW_STAGE, or its counterpart of PLDM where the straps name MCTP (R455, R458). -/
def fwStageStep (fn : FnId) (cookie : BitVec 32) (image : List Byte) (fail : Option ReadFail) (flashOk : Bool)
    (s : State) : State :=
  if stage s == stageDaybreak && s.boot.bootSel == 2 then pldmImage image fail s
  else onTaken fn cookie 0x10 (readOf image.length fail) (stageImage image fail flashOk) s

/-- FW_ACTIVATE: the bank swapped for the next Daybreak, or the rolling update to the staged image (R468). -/
def fwActivateStep (fn : FnId) (cookie : BitVec 32) (commitSvn swapOnly : Bool) (s : State) : State :=
  fwRequest fn cookie 0x11 (fun m => bits (leAt m 16 1) 0 0 == flagBit commitSvn 0 &&
      bits (leAt m 16 1) 1 1 == flagBit swapOnly 0) (fun t s =>
    let b := s.boot
    if swapOnly then replyTo { s with boot := { b with activeBank := otherOf b.activeBank } } t fwDone
    else match b.staged with
      | none => replyTo s t fwFormat
      | some im =>
        let st := imageStatus b im
        if st ≠ fwDone then replyTo (securityEvent s 0x11 st) t st
        else if (spareCluster s).isNone then replyTo s t fwNoSpare
        else
          let active := (List.range 17).filter fun n => clusterRole s n == 0
          let s := { s with boot := { b with
            update := some { fn := fn, cookie := cookie, commitSvn := commitSvn, left := active } } }
          setWord s 0x100028 1) s

/-- HANDOVER: at a round boundary the standby management pair takes over, for the update in progress or because
the active pair's halves disagree, which is recorded (R466, R468, R469). -/
def handoverStep (s : State) : State :=
  if now s % 256 ≠ 0 ∨ s.handover.isSome ∨ (stage s ≠ stageForenoon ∧ stage s ≠ stageNoon) then s
  else
    let s := { s with handover := some (now s + 500000) }
    if rf s 0x100028 2 0 = 1 then setRf s 0x100028 2 0 2
    else event s srcReset evState (detail 0 0)

/-- The end of a handover: after one of an update the new image runs and the clusters follow (R468, R469). -/
def endHandover (s : State) : State :=
  match s.handover with
  | none => s
  | some t =>
    if now s < t then s
    else
      let s := { s with handover := none }
      match s.boot.staged with
      | some im =>
        if rf s 0x100028 2 0 = 2 then
          let s := { s with boot := { s.boot with running := im } }
          setRf (setWord s 0x100008 (BitVec.ofNat 32 (imageVersion im))) 0x100028 2 0 3
        else s
      | none => s

/-- The last step of an update: the former pair is the standby, the SVN counter rises when asked for, the image's
bank is the active one, and the answer is sent (R457, R468). -/
def finishUpdate (s : State) : State :=
  match s.boot.update with
  | none => s
  | some u =>
    if rf s 0x100028 2 0 ≠ 3 ∨ u.inHand.isSome ∨ !u.left.isEmpty then s
    else
      let b := s.boot
      let s := { s with boot := { b with
        update := none, activeBank := otherOf b.activeBank
        otpSvn := if u.commitSvn then max b.otpSvn (min 64 (imageSvn b.running)) else b.otpSvn } }
      fwReply (setWord (showSvn s) 0x100028 5) u.fn u.cookie 0x11 fwDone

/-- UPDATE_RESUME: a suspended update goes on once a cluster has the spare role (R468). -/
def updateResumeStep (s : State) : State :=
  if rf s 0x100028 2 0 = 4 ∧ (spareCluster s).isSome then setRf s 0x100028 2 0 3 else s

/-- CFG_WRITE: a valid store is written to the inactive store, which becomes the active one (R458, R459). -/
def cfgWriteStep (fn : FnId) (cookie : BitVec 32) (store : StoredConfig) (fail : Option ReadFail) (flashOk : Bool)
    (s : State) : State :=
  fwRequest fn cookie 0x12 (readOf (store.signed.length + store.signature.length) fail) (fun t s =>
    let b := s.boot
    if leAt t.msg.payload 4 8 % 64 ≠ 0 then replyTo s t fwFormat
    else if fail.isSome then replyTo s t fwReadFailed
    else if !storeValid { b with slots := [] } store then replyTo s t fwFormat
    else if !storeValid b store then replyTo (securityEvent s 0x12 fwSignature) t fwSignature
    else if !flashOk then replyTo s t fwFlash
    else
      let n := otherOf b.activeStore
      replyTo { s with boot := { b with stores := place b.stores n store, activeStore := n } } t fwDone) s

/-! ### Platform keys (R457) -/

/-- PKEY_ENROLL. -/
def pkeyEnrollStep (fn : FnId) (cookie : BitVec 32) (slot : Nat) (hash : List Byte) (s : State) : State :=
  fwRequest fn cookie 0x13 (fun m => leAt m 16 1 == slot && slice m 24 48 == hash) (fun t s =>
    let b := s.boot
    if 4 ≤ slot ∨ hash.length ≠ 48 then replyTo s t fwFormat
    else if (look b.slots slot).isSome then replyTo s t fwSlotUsed
    else
      let s := showSvn { s with boot := { b with slots := place b.slots slot (hash, false) } }
      replyTo (securityEvent s slot 0x13) t fwDone) s

/-- PKEY_REVOKE, signed by the key of another unrevoked slot over the payload before the signature. -/
def pkeyRevokeStep (fn : FnId) (cookie : BitVec 32) (slot : Nat) (payload : List Byte) (s : State) : State :=
  fwRequest fn cookie 0x14 (fun m => leAt m 16 1 == slot && slice m 0 168 == payload) (fun t s =>
    let b := s.boot
    match look b.slots slot with
    | none => replyTo s t fwFormat
    | some k =>
      if k.2 then replyTo s t fwSlotUsed
      else if !slotSigned b (slice payload 0 72) (slice payload 72 96) (some slot) then
        replyTo (securityEvent s 0x14 fwSignature) t fwSignature
      else
        let s := showSvn { s with boot := { b with slots := place b.slots slot (k.1, true) } }
        replyTo (securityEvent s slot 0x14) t fwDone) s

/-! ### Clearing the Morning area (R489, R490) -/

/-- The status of a clear token. -/
def tokenStatus (s : State) (t : List Byte) : Nat :=
  let n := leAt t 48 4
  let key := slice t 64 96
  let formed := t.length == 256 && t.take 4 == [0x53, 0x5A, 0x43, 0x54] && leAt t 4 2 == 1 && decide (leAt t 6 1 < 4) &&
    leAt t 7 1 == 0 && allZero (slice t 52 12) && decide (1 ≤ n ∧ n ≤ s.recorder.morning.length)
  let bound := leAt t 8 8 == Config.deviceId.toNat && slice t 16 32 == s.recorder.nonce
  let signed := match look s.boot.slots (leAt t 6 1) with
    | some k => !k.2 && k.1 == sha384 key && signatureOk key (t.take 160) (t.drop 160)
    | none => false
  if !formed then fwFormat else if !bound then fwBinding else if !signed then fwSignature else fwDone

/-- EVR_CLEAR (R489, R490). -/
def evrClearStep (fn : FnId) (cookie : BitVec 32) (token : List Byte) : State → State :=
  onTaken fn cookie 0x15 (fun m => slice m 4 256 == token) fun t s =>
    if fn = pf0 ∧ (stage s ≠ stageNoon ∨ s.boot.update.isSome) then replyTo s t fwBusy
    else
      let st := if fn ≠ pf0 then fwNotOpen else tokenStatus s token
      let s := if st = fwDone then clearMorning s (leAt token 48 4) (leAt token 6 1) else securityEvent s 0x15 st
      replyTo (drawNonce s) t st

/-! ### Attestation (R460, R461) -/

/-- An answer of the SPDM responder. -/
def spdmAnswer (s : State) (fn : FnId) (a : SpdmAnswer) : State := { s with spdm := s.spdm ++ [(fn, a)] }

/-- The firmware answers SPDM from Forenoon on, outside a handover. -/
def spdmServes (s : State) (fn : FnId) : Bool :=
  s.handover.isNone && (stage s == stageForenoon || stage s == stageNoon) && fnExists s fn

/-- Error codes of SPDM. -/
def spdmInvalid : Nat := 0x01

/-- A request that the responder serves. -/
def onSpdm (fn : FnId) (s : State) (f : State → State) : State := if spdmServes s fn then f s else s

/-- Measurement block `n` (R461). `own` is the tenancy to whose classes block 6 is filtered. -/
def measurement (s : State) (own : Option Nat) (n : Nat) : Measurement :=
  let b := s.boot
  let classes := ((List.range 64).map (pathNow s)).filter fun p => p.program.isSome && match own with
    | none => true
    | some t => p.owner == t || (p.owner == 0 && classOpen s (round s) t p.cls p.owner)
  let value := match n with
    | 1 => Config.romHash
    | 2 => sha384 b.running ++ le 4 (rf s 0x100008 31 0)
    | 3 => le 1 b.otpSvn ++ b.slots.flatMap fun p => p.2.1 ++ le 1 (flagBit p.2.2 0)
    | 4 => sha384 (match b.applied with
        | some c => c.signed ++ c.signature
        | none => []) ++ le 1 (rf s 0x100000 4 4)
    | 5 => le 4 (word s 0x200004).toNat ++ le 8 (word64 s 0x200008)
    | 6 => classes.flatMap fun p => le 1 p.cls ++ le 2 p.owner ++ match p.program with
        | some g => g.digest
        | none => []
    | _ => le 1 b.bootSel.toNat ++ le 1 (stage s) ++ le 1 (rf s 0x100000 15 8)
  { index := n, value := value }

/-- GET_VERSION: SPDM 1.3. -/
def getVersionStep (fn : FnId) (s : State) : State := onSpdm fn s fun s => spdmAnswer s fn (.version 0x13)
/-- GET_CAPABILITIES: certificates, challenges and signed measurements. -/
def getCapabilitiesStep (fn : FnId) (s : State) : State :=
  onSpdm fn s fun s => spdmAnswer s fn (.capabilities true true true)
/-- NEGOTIATE_ALGORITHMS: ECDSA P-384 and SHA-384 only. -/
def negotiateStep (fn : FnId) (p384 sha384 : Bool) (s : State) : State :=
  onSpdm fn s fun s => spdmAnswer s fn (.algorithms p384 sha384)
/-- GET_DIGESTS: slot 0 alone. -/
def getDigestsStep (fn : FnId) (s : State) : State :=
  onSpdm fn s fun s => spdmAnswer s fn (.digests 1 (sha384 Config.identityCerts))
/-- GET_CERTIFICATE: a portion of the identity chain. -/
def getCertificateStep (fn : FnId) (slot offset length : Nat) (s : State) : State :=
  onSpdm fn s fun s =>
    let chain := Config.identityCerts
    if slot ≠ 0 ∨ chain.length ≤ offset then spdmAnswer s fn (.error spdmInvalid)
    else
      let part := (chain.drop offset).take length
      spdmAnswer s fn (.certificate 0 part (chain.length - offset - part.length))
/-- CHALLENGE: the responder's nonce and its signature. -/
def challengeStep (fn : FnId) (slot : Nat) (nonce : List Byte) (s : State) : State :=
  onSpdm fn s fun s =>
    if slot ≠ 0 then spdmAnswer s fn (.error spdmInvalid)
    else
      let d := draw32 s
      let h := sha384 Config.identityCerts
      let m := sha384 ((List.range 7).flatMap fun k => (measurement s none (k + 1)).value)
      spdmAnswer d.2 fn (.challengeAuth 0 h d.1 m (Config.identitySign (nonce ++ h ++ d.1 ++ m)))
/-- GET_MEASUREMENTS: the count, one block or all of them; through the mailbox a tenancy sees its own classes and
the platform's open to it in block 6. -/
def getMeasurementsStep (fn : FnId) (index : Nat) (mailbox : Bool) (s : State) : State :=
  onSpdm fn s fun s =>
    let own := if mailbox && fnTenancy s fn != 0 then some (fnTenancy s fn) else none
    let blocks := if index = 0 then [] else if index = 255 then (List.range 7).map fun k => measurement s own (k + 1)
      else [measurement s own index]
    if 7 < index ∧ index ≠ 255 then spdmAnswer s fn (.error spdmInvalid)
    else spdmAnswer s fn (.measurements (if index = 0 then 7 else blocks.length) blocks
      (Config.identitySign (blocks.flatMap fun b => le 1 b.index ++ b.value)))

/-! ### Meanings -/

/-- FORENOON (R453). -/
def execForenoon (r : ForenoonResult) (s : State) : Out := act s (forenoonStep r)
/-- NOON (R459). -/
def execNoon (store : Option StoredConfig) (s : State) : Out := act s (noonStep store)
/-- FW_STAGE (R458). -/
def execFwStage (fn : FnId) (cookie : BitVec 32) (image : List Byte) (fail : Option ReadFail) (flashOk : Bool)
    (s : State) : Out := act s (fwStageStep fn cookie image fail flashOk)
/-- FW_ACTIVATE (R468). -/
def execFwActivate (fn : FnId) (cookie : BitVec 32) (commitSvn swapOnly : Bool) (s : State) : Out :=
  act s (fwActivateStep fn cookie commitSvn swapOnly)
/-- CFG_WRITE (R458). -/
def execCfgWrite (fn : FnId) (cookie : BitVec 32) (store : StoredConfig) (fail : Option ReadFail) (flashOk : Bool)
    (s : State) : Out := act s (cfgWriteStep fn cookie store fail flashOk)
/-- PKEY_ENROLL (R457). -/
def execPkeyEnroll (fn : FnId) (cookie : BitVec 32) (slot : Nat) (keyHash : List Byte) (s : State) : Out :=
  act s (pkeyEnrollStep fn cookie slot keyHash)
/-- PKEY_REVOKE (R457). -/
def execPkeyRevoke (fn : FnId) (cookie : BitVec 32) (slot : Nat) (payload : List Byte) (s : State) : Out :=
  act s (pkeyRevokeStep fn cookie slot payload)
/-- EVR_CLEAR (R489). -/
def execEvrClear (fn : FnId) (cookie : BitVec 32) (token : List Byte) (s : State) : Out :=
  act s (evrClearStep fn cookie token)
/-- GET_VERSION (R460). -/
def execGetVersion (fn : FnId) (s : State) : Out := act s (getVersionStep fn)
/-- GET_CAPABILITIES (R460). -/
def execGetCapabilities (fn : FnId) (s : State) : Out := act s (getCapabilitiesStep fn)
/-- NEGOTIATE_ALGORITHMS (R460). -/
def execNegotiateAlgorithms (fn : FnId) (p384 sha384 : Bool) (s : State) : Out := act s (negotiateStep fn p384 sha384)
/-- GET_DIGESTS (R460). -/
def execGetDigests (fn : FnId) (s : State) : Out := act s (getDigestsStep fn)
/-- GET_CERTIFICATE (R460). -/
def execGetCertificate (fn : FnId) (slot offset length : Nat) (s : State) : Out :=
  act s (getCertificateStep fn slot offset length)
/-- CHALLENGE (R460). -/
def execChallenge (fn : FnId) (slot : Nat) (nonce : List Byte) (s : State) : Out := act s (challengeStep fn slot nonce)
/-- GET_MEASUREMENTS (R461). -/
def execGetMeasurements (fn : FnId) (index : Nat) (mailbox : Bool) (s : State) : Out :=
  act s (getMeasurementsStep fn index mailbox)
/-- UPDATE_RESUME (R468). -/
def execUpdateResume (s : State) : Out := act s updateResumeStep
/-- HANDOVER (R469). -/
def execHandover (s : State) : Out := act s handoverStep

end Sys2Proof.Machine
end

