-- ==== Sys2Proof/Machine/Flags.lean ====
section
/-! DEFINITION. The conditions that compare and predicate instructions compute (R115–R117); Falfimi has
no condition flags, so these predicates are its only conditions. -/

namespace Sys2Proof.Machine

open Sys2Proof

def cmpEq (a b : DWord) : Bool := a == b
def cmpNe (a b : DWord) : Bool := a != b
def cmpLt (a b : DWord) : Bool := a.slt b
def cmpLtu (a b : DWord) : Bool := a.ult b
def cmpLe (a b : DWord) : Bool := a.sle b
def cmpLeu (a b : DWord) : Bool := a.ule b
def cmpGt (a b : DWord) : Bool := b.slt a
def cmpGtu (a b : DWord) : Bool := b.ult a
def cmpTst (a b : DWord) : Bool := (a &&& b) != 0
def cmpTstz (a b : DWord) : Bool := (a &&& b) == 0

/-- A CMP instruction: p[PD] written with latency 1 when the guard holds (R112, R115). -/
def compareA (i : Instr) (t : Tid) (pd : BitVec 3) (ra rb : BitVec 5) (gd : Guard)
    (f : DWord → DWord → Bool) (s : State) : State :=
  issue s t i [.p pd, .g ra, .g rb, .p gd.pq] true fun s =>
    let th := thread s t
    resultP s t pd (if guardOf th gd then some (f (gReg th ra) (gReg th rb)) else none) 1

/-- A compare-immediate: p[PD] written with latency 1 (R116). -/
def compareI (i : Instr) (t : Tid) (pd : BitVec 3) (ra : BitVec 5) (imm : Imm) (k : DWord)
    (f : DWord → DWord → Bool) (s : State) : State :=
  issue s t i [.p pd, .g ra] true fun s =>
    resultP s t pd (some (f (gReg (thread s t) ra) k)) (immWords imm)

/-- A predicate function of two predicates (R117). -/
def predicate2 (i : Instr) (t : Tid) (pd pa pb : BitVec 3) (gd : Guard)
    (f : Bool → Bool → Bool) (s : State) : State :=
  issue s t i [.p pd, .p pa, .p pb, .p gd.pq] true fun s =>
    let th := thread s t
    resultP s t pd (if guardOf th gd then some (f (pReg th pa) (pReg th pb)) else none) 1

/-! ### CMP, R115 -/

def execCeq (t : Tid) (pd : BitVec 3) (ra rb : BitVec 5) (gd : Guard) (s : State) : Out :=
  act s (compareA (.ceq t pd ra rb gd) t pd ra rb gd cmpEq)
def execCne (t : Tid) (pd : BitVec 3) (ra rb : BitVec 5) (gd : Guard) (s : State) : Out :=
  act s (compareA (.cne t pd ra rb gd) t pd ra rb gd cmpNe)
def execClt (t : Tid) (pd : BitVec 3) (ra rb : BitVec 5) (gd : Guard) (s : State) : Out :=
  act s (compareA (.clt t pd ra rb gd) t pd ra rb gd cmpLt)
def execCltu (t : Tid) (pd : BitVec 3) (ra rb : BitVec 5) (gd : Guard) (s : State) : Out :=
  act s (compareA (.cltu t pd ra rb gd) t pd ra rb gd cmpLtu)
def execCle (t : Tid) (pd : BitVec 3) (ra rb : BitVec 5) (gd : Guard) (s : State) : Out :=
  act s (compareA (.cle t pd ra rb gd) t pd ra rb gd cmpLe)
def execCleu (t : Tid) (pd : BitVec 3) (ra rb : BitVec 5) (gd : Guard) (s : State) : Out :=
  act s (compareA (.cleu t pd ra rb gd) t pd ra rb gd cmpLeu)
def execTst (t : Tid) (pd : BitVec 3) (ra rb : BitVec 5) (gd : Guard) (s : State) : Out :=
  act s (compareA (.tst t pd ra rb gd) t pd ra rb gd cmpTst)
def execTstz (t : Tid) (pd : BitVec 3) (ra rb : BitVec 5) (gd : Guard) (s : State) : Out :=
  act s (compareA (.tstz t pd ra rb gd) t pd ra rb gd cmpTstz)

/-! ### Compare-immediates, R116 -/

def execCeqi (t : Tid) (pd : BitVec 3) (ra : BitVec 5) (imm : Imm) (s : State) : Out :=
  act s (compareI (.ceqi t pd ra imm) t pd ra imm (immS imm) cmpEq)
def execCnei (t : Tid) (pd : BitVec 3) (ra : BitVec 5) (imm : Imm) (s : State) : Out :=
  act s (compareI (.cnei t pd ra imm) t pd ra imm (immS imm) cmpNe)
def execClti (t : Tid) (pd : BitVec 3) (ra : BitVec 5) (imm : Imm) (s : State) : Out :=
  act s (compareI (.clti t pd ra imm) t pd ra imm (immS imm) cmpLt)
def execCltui (t : Tid) (pd : BitVec 3) (ra : BitVec 5) (imm : Imm) (s : State) : Out :=
  act s (compareI (.cltui t pd ra imm) t pd ra imm (immZ imm) cmpLtu)
def execCgti (t : Tid) (pd : BitVec 3) (ra : BitVec 5) (imm : Imm) (s : State) : Out :=
  act s (compareI (.cgti t pd ra imm) t pd ra imm (immS imm) cmpGt)
def execCgtui (t : Tid) (pd : BitVec 3) (ra : BitVec 5) (imm : Imm) (s : State) : Out :=
  act s (compareI (.cgtui t pd ra imm) t pd ra imm (immZ imm) cmpGtu)

/-! ### PRD, R117 -/

def execPand (t : Tid) (pd pa pb : BitVec 3) (gd : Guard) (s : State) : Out :=
  act s (predicate2 (.pand t pd pa pb gd) t pd pa pb gd fun a b => a && b)
def execPor (t : Tid) (pd pa pb : BitVec 3) (gd : Guard) (s : State) : Out :=
  act s (predicate2 (.por t pd pa pb gd) t pd pa pb gd fun a b => a || b)
def execPxor (t : Tid) (pd pa pb : BitVec 3) (gd : Guard) (s : State) : Out :=
  act s (predicate2 (.pxor t pd pa pb gd) t pd pa pb gd fun a b => a != b)
def execPandn (t : Tid) (pd pa pb : BitVec 3) (gd : Guard) (s : State) : Out :=
  act s (predicate2 (.pandn t pd pa pb gd) t pd pa pb gd fun a b => a && !b)
def execPnot (t : Tid) (pd pa : BitVec 3) (gd : Guard) (s : State) : Out :=
  act s (predicate2 (.pnot t pd pa gd) t pd pa 0 gd fun a _ => !a)

/-- PNZ: p[PD] = g[RA] ≠ 0 (R117). -/
def pnzStep (t : Tid) (pd : BitVec 3) (ra : BitVec 5) (gd : Guard) (s : State) : State :=
  issue s t (.pnz t pd ra gd) [.p pd, .g ra, .p gd.pq] true fun s =>
    let th := thread s t
    resultP s t pd (if guardOf th gd then some (gReg th ra != 0) else none) 1

/-- PGET: g[RD] = the predicates, bit n from pn (R117). -/
def pgetStep (t : Tid) (rd : BitVec 5) (gd : Guard) (s : State) : State :=
  issue s t (.pget t rd gd) (.g rd :: .p gd.pq :: allPreds) true fun s =>
    let th := thread s t
    resultG s t rd
      (if guardOf th gd then some ((th.p ||| 1#8).zeroExtend 64) else none) 1 1

/-- PPUT: pn = g[RA][n] for n = 1–7 (R117). -/
def pputStep (t : Tid) (ra : BitVec 5) (gd : Guard) (s : State) : State :=
  issue s t (.pput t ra gd) (.g ra :: .p gd.pq :: allPreds) true fun s =>
    onThread s t fun th =>
      let put := fun (th' : Thread) (n : BitVec 3) =>
        pendTo th' (.p n)
          (if guardOf th gd then
            some (if (gReg th ra).getLsbD n.toNat then 1 else 0) else none)
          (some (now s + 1))
      [1, 2, 3, 4, 5, 6, 7].foldl put (advance th 1)

def execPnz (t : Tid) (pd : BitVec 3) (ra : BitVec 5) (gd : Guard) (s : State) : Out :=
  act s (pnzStep t pd ra gd)
def execPget (t : Tid) (rd : BitVec 5) (gd : Guard) (s : State) : Out := act s (pgetStep t rd gd)
def execPput (t : Tid) (ra : BitVec 5) (gd : Guard) (s : State) : Out := act s (pputStep t ra gd)

end Sys2Proof.Machine
end

