-- ==== Sys2Proof/Machine/Power.lean ====
section
/-! DEFINITION. Supply rails, clock inputs, temperature, and the management interfaces over NC-SI and SMBus (R487,
R496–R504, R508, R509, R512). -/

namespace Sys2Proof.Machine

open Sys2Proof

/-! ### Rails (R496–R499) -/

/-- RAIL of PWR_RAIL_LAST (R512). -/
def railNum : Rail → Nat
  | .vddCore => 1
  | .vddSram => 2
  | .vddqHbm => 3
  | .vppHbm => 4
  | .vddaNet => 5
  | .vddhNet => 6
  | .vddaPcie => 7
  | .vddhPcie => 8
  | .vddIo => 9

/-- Step of the power-up order (R497); VDD_CORE precedes VDD_SRAM within step 4. -/
def railStep : Rail → Nat
  | .vddIo => 0
  | .vppHbm => 1
  | .vddCore => 2
  | .vddSram => 3
  | .vddqHbm => 4
  | .vddaNet => 5
  | .vddaPcie => 5
  | .vddhNet => 6
  | .vddhPcie => 6

/-- Every rail of R496 but VDD_AON, by number. -/
def allRails : List Rail :=
  [.vddCore, .vddSram, .vddqHbm, .vppHbm, .vddaNet, .vddhNet, .vddaPcie, .vddhPcie, .vddIo]

/-- The rails of the earlier steps are in their ranges. -/
def railInOrder (rails : List Rail) (r : Rail) : Bool :=
  (allRails.filter fun x => decide (railStep x < railStep r)).all rails.contains

/-- RAIL and CAUSE of PWR_RAIL_LAST: 1 undervoltage, 2 SEQUENCE, 3 overvoltage. -/
def railLast (s : State) (r : Rail) (cause : Nat) : State :=
  setWord s 0x500000C (BitVec.ofNat 32 (railNum r + cause * 16))

/-- A cause of ALERT_N set in PWR_STATUS; ALERT_N is counted when it was released before (R508, R512). -/
def raiseAlert (s : State) (bitNum : Nat) : State :=
  let s := if rf s 0x5000008 1 0 = 0 then count s 0x5000018 else s
  setRf s 0x5000008 bitNum bitNum 1

/-- A record of the power source placed at once: a device that stops has no later tick to place it in. -/
def placeNow (s : State) (code detail : Nat) (fatal : Bool := true) : State :=
  let s := count s (0x401000 + srcPower * 4)
  showRecorder (placeRecord s ⟨s.tick, compactNow s, srcPower, s.tbs.midnights.getLsbD 0, fatal,
    s.recorder.lostFlags.contains srcPower, false, 0, code, 0, s.recorder.boot, BitVec.ofNat 64 detail⟩)

/-- RAIL_UNDERVOLTAGE: a rail below its minimum for 10 µs stops a running device at once, as PERST0_N assertion
does; a device in reset stays in reset (R497, R499). -/
def railUndervoltageStep (r : Rail) (s : State) : State :=
  let run := running s
  let s := { s with power := { s.power with rails := s.power.rails.filter fun x => x != r } }
  if !run then s
  else
    let s := raiseAlert (railLast s r 1) 1
    let s := placeNow s evState (detail (railNum r) 1)
    { s with frames := [], power := { s.power with railStop := true } }

/-- RAIL_SEQUENCE: a rail enters its range before one of an earlier step. It does not count as in range, so that
the device does not leave reset until the rail has come up in its order (R497, R499). -/
def railSequenceStep (r : Rail) (s : State) : State :=
  if !s.power.aon || s.power.rails.contains r || railInOrder s.power.rails r then s
  else raiseAlert (railLast s r 2) 1

/-- RAIL_OVERVOLTAGE: an excursion above the operating maximum is recorded, and the device continues (R499). -/
def railOvervoltageStep (r : Rail) (s : State) : State :=
  if !s.power.rails.contains r then s
  else event (railLast s r 3) srcPower evState (detail (railNum r) 3)

/-- RAIL_IN_RANGE: a rail enters its operating range in its order (R497). -/
def railInRangeStep (r : Rail) (s : State) : State :=
  if !s.power.aon || !railInOrder s.power.rails r then s
  else
    let rails := allRails.filter fun x => x == r || s.power.rails.contains x
    { s with power := { s.power with rails := rails } }

/-- VDD_AON_LOSS: a fundamental reset that also clears the recorder's areas, every lock bit and the latch of
THERMTRIP_N (R449, R462, R487, R498, R499, R509). The copy in flash stays. -/
def vddAonLossStep (s : State) : State :=
  let flash := s.recorder.flash
  let s := cleared { s with power := { s.power with clockVoid := false } }
  let s := setWord (setWord64 s 0x5000010 0) 0x500000C 0
  { s with
    power := { s.power with
      perst0 := true, aon := false, thermTrip := false, railStop := false, rails := [], h1Clock := false,
      c0Clock := false }
    recorder := { flash := flash } }

/-- POWER_ON: VDD_AON comes up with PERST0_N asserted; the areas start empty, BOOT is counted from 1 and the
first record is POWER_ON (R33, R485, R487, R497). -/
def powerOnStep (s : State) : State :=
  if s.power.aon then s
  else
    let s := { s with power := { s.power with aon := true, perst0 := true } }
    let s := { s with recorder := { flash := s.recorder.flash, boot := 1 } }
    showRecorder (placeRecord (count s (0x401000 + srcPower * 4)) (powerOnRecord 1))

/-! ### Clocks (R502) -/

/-- REF_CLK_LOSS: while the device runs, every rule is void until a fundamental reset. -/
def refClkLossStep (s : State) : State := { s with power := { s.power with clockVoid := true } }

/-- REFCLK_STABLE: H1_REFCLK or C0_REFCLK becomes stable after PERST0_N deassertion, and the link may train. -/
def refclkStableStep (c : LateClock) (s : State) : State :=
  match c with
  | .h1 => { s with power := { s.power with h1Clock := true } }
  | .c0 => { s with power := { s.power with c0Clock := true } }

/-! ### Temperature (R508, R509) -/

/-- Temperatures of the registers are in 0.125 °C. -/
def tempAlarm : Int := 800
def tempRelease : Int := 776
def tempOver : Int := 840
def tempTrip : Int := 920

/-- Tj: the highest reading, and the sensor of lowest number that gives it. -/
def hottest : List (BitVec 12) → Nat → BitVec 12 × Nat
  | [], k => (0, k)
  | [t], k => (t, k)
  | t :: rest, k =>
    let m := hottest rest (k + 1)
    if m.1.toInt ≤ t.toInt then (t, k) else m

/-- The readings shown in PWR_SENSOR_k, PWR_TEMP and PWR_TEMP_PEAK. -/
def showTemps (s : State) (temps : List (BitVec 12)) : State :=
  let m := hottest temps 0
  let s := temps.zipIdx.foldl (fun s x => setWord s (0x5000020 + 4 * x.2) (x.1.zeroExtend 32)) s
  let s := setWord s 0x5000000 (BitVec.ofNat 32 (m.1.toNat + m.2 * 4096))
  let peak : BitVec 12 := (word s 0x5000004).truncate 12
  if peak.toInt < m.1.toInt then setWord s 0x5000004 (m.1.zeroExtend 32) else s

/-- SENSOR_READ: every 2^10 rounds the sixteen sensors are read; ALERT_N is driven low at 100 °C and released at
97 °C, and at 115 °C the device trips (R508, R509). -/
def sensorReadStep (temps : List (BitVec 12)) (s : State) : State :=
  if temps.length ≠ 16 ∨ now s % (256 * 1024) ≠ 0 then s
  else
    let s := showTemps s temps
    let m := hottest temps 0
    let tj := m.1.toInt
    let d := detail m.2 m.1.toNat
    let alarm := bit (word s 0x5000008) 0
    let trip := decide (tempTrip ≤ tj)
    let s := if !alarm && decide (tempAlarm ≤ tj) then
        let s := raiseAlert s 0
        if trip then placeNow s evThermal d false else event s srcPower evThermal d
      else if alarm && decide (tj ≤ tempRelease) then event (setRf s 0x5000008 0 0 0) srcPower evThermal d
      else s
    if !trip then s
    else
      let s := placeNow s evThermal d
      { s with frames := [], power := { s.power with thermTrip := true } }

/-- TEMP_PEAK_READ: PF0 of H0 reads the highest Tj since its last read and clears it; another function reads 0
(R512). -/
def tempPeakReadStep (fn : FnId) (s : State) : State :=
  if fn ≠ pf0 then { s with reply := [0] }
  else setWord { s with reply := [word s 0x5000004] } 0x5000004 0

/-- PWR_OVERTEMP_ROUNDS counts a round above 105 °C (R508). -/
def overtempRound (s : State) : State :=
  let tj : BitVec 12 := (word s 0x5000000).truncate 12
  if tempOver < tj.toInt then setWord64 s 0x5000010 (word64 s 0x5000010 + 1) else s

/-! ### NC-SI (R504) -/

/-- Payload bytes of the commands of DSP0222 that the device supports; none: not supported. -/
def ncsiLength (command : Nat) : Option Nat :=
  match command with
  | 0x00 | 0x02 | 0x03 | 0x05 | 0x06 | 0x07 | 0x0A | 0x0D | 0x11 | 0x15 | 0x16 | 0x17 => some 0
  | 0x01 | 0x04 | 0x0C | 0x10 => some 4
  | 0x08 | 0x09 | 0x0B | 0x0E => some 8
  | _ => none

/-- The effect of a command on its channel. -/
def ncsiEffect (command : Nat) (payload : List Byte) (c : NcsiChannel) : NcsiChannel :=
  match command with
  | 0x00 => { c with initialised := true }
  | 0x03 => { c with enabled := true }
  | 0x04 => { c with enabled := false }
  | 0x05 => {}
  | 0x06 => { c with txEnabled := true }
  | 0x07 => { c with txEnabled := false }
  | 0x08 => { c with aenMask := beNat (slice payload 4 4) }
  | 0x09 => { c with linkSetting := beNat (slice payload 0 4) }
  | 0x0B | 0x0C | 0x0E | 0x10 => { c with settings := place c.settings command payload }
  | 0x0D => { c with settings := remove c.settings 0x0C }
  | 0x11 => { c with settings := remove c.settings 0x10 }
  | _ => c

/-- NCSI_COMMAND: a command for package 0 is answered; channel 31 takes the package commands. Commands that the
package does not support, that have a wrong length, or that come before Clear Initial State fail. -/
def ncsiCommandStep (channel : Nat) (command : BitVec 8) (payload : List Byte) (s : State) : State :=
  let n := command.toNat
  let answer := fun (s : State) (code reason : Nat) (data : List Byte) =>
    { s with mgmt := s.mgmt ++ [⟨channel, n + 0x80, code, reason, data⟩] }
  if 4 ≤ channel ∧ (channel ≠ 31 ∨ 2 < n ∨ n = 0) then s
  else match ncsiLength n with
    | none => answer s 3 0x7FFF []
    | some len =>
      let c := (look s.ncsi channel).getD {}
      if payload.length ≠ len then answer s 1 5 []
      else if n = 1 ∨ n = 2 then answer s 0 0 []
      else if !c.initialised && n != 0 then answer s 1 1 []
      else
        let c := ncsiEffect n payload c
        answer { s with ncsi := place s.ncsi channel c } 0 0 (match n with
          | 0x0A | 0x15 | 0x16 | 0x17 => Config.ncsiPayload n channel (linkUp s channel) c.settings
          | _ => [])

/-! ### PLDM (R455, R504) -/

/-- GetSensorReading of sensor k: a signed 16-bit reading in 0.125 °C, of an enabled sensor that sends no events. -/
def pldmReading (s : State) (k : Nat) : List Byte :=
  let t : BitVec 12 := (word s (0x5000020 + 4 * k)).truncate 12
  let st : Byte := if tempAlarm ≤ t.toInt then 8 else 1
  [3, 0, 0, st, st, st] ++ le 2 (t.signExtend 16).toNat

/-- Platform monitoring: the temperature sensors. -/
def pldmMonitor (command : Nat) (payload : List Byte) (s : State) : Nat × List Byte :=
  if command ≠ 0x11 then (5, [])
  else if payload.length ≠ 3 then (3, [])
  else if 16 ≤ leAt payload 0 2 then (0x80, [])
  else (0, pldmReading s (leAt payload 0 2))

/-- The device takes an image by PLDM: it waits for one under BOOT_SEL 0b10, or its images were refused (R455,
R456). -/
def pldmOpen (s : State) : Bool :=
  s.boot.bootSel == 2 && (stage s == stageDaybreak || (stage s == stageHeld && rf s 0x100000 15 8 == 4))

/-- Firmware update: the image is transferred in pieces, and staged for the boot ROM when it is activated. -/
def pldmUpdate (command : Nat) (payload : List Byte) (s : State) : State × Nat × List Byte :=
  let put := fun (x : Option (List Byte)) => { s with boot := { s.boot with pldm := x } }
  match command, s.boot.pldm with
  | 0x01, _ | 0x02, _ | 0x1B, _ => (s, 0, Config.pldmPayload 5 command)
  | 0x10, none => if pldmOpen s then (put (some []), 0, Config.pldmPayload 5 command) else (s, 0x8A, [])
  | 0x10, some _ => (s, 0x81, [])
  | 0x13, some _ | 0x14, some _ => (s, 0, Config.pldmPayload 5 command)
  | 0x15, some im => (put (some (im ++ payload)), 0, [])
  | 0x1A, some im =>
    let st := imageStatus s.boot im
    if st ≠ fwDone then (securityEvent s 0x10 st, 0x85, [])
    else ({ s with boot := { s.boot with staged := some im, pldm := none } }, 0, Config.pldmPayload 5 command)
  | 0x1C, some _ | 0x1D, some _ => (put none, 0, Config.pldmPayload 5 command)
  | 0x13, none | 0x14, none | 0x15, none | 0x1A, none | 0x1C, none | 0x1D, none => (s, 0x80, [])
  | _, _ => (s, 5, [])

/-- PLDM_REQUEST: types 2 and 5 are served over MCTP on SMBus. -/
def pldmRequestStep (type : BitVec 6) (command : BitVec 8) (payload : List Byte) (s : State) : State :=
  let r : State × Nat × List Byte := match type.toNat with
    | 2 => (s, pldmMonitor command.toNat payload s)
    | 5 => pldmUpdate command.toNat payload s
    | _ => (s, 0x20, [])
  { r.1 with mgmt := r.1.mgmt ++ [⟨64 + type.toNat, command.toNat, r.2.1, 0, r.2.2⟩] }

/-! ### Meanings -/

/-- RAIL_UNDERVOLTAGE (R499). -/
def execRailUndervoltage (rail : Rail) (s : State) : Out := actAlways s (railUndervoltageStep rail)
/-- RAIL_SEQUENCE (R499). -/
def execRailSequence (rail : Rail) (s : State) : Out := actAlways s (railSequenceStep rail)
/-- RAIL_OVERVOLTAGE (R499). -/
def execRailOvervoltage (rail : Rail) (s : State) : Out := act s (railOvervoltageStep rail)
/-- VDD_AON_LOSS (R499): it acts even when the loss of REF_CLK has voided every other rule (R502). -/
def execVddAonLoss (s : State) : Out := .next (vddAonLossStep s)
/-- SENSOR_READ (R508). -/
def execSensorRead (temps : List (BitVec 12)) (s : State) : Out := act s (sensorReadStep temps)
/-- TEMP_PEAK_READ (R512). -/
def execTempPeakRead (fn : FnId) (s : State) : Out := act s fun s => readAs s fn (tempPeakReadStep fn)
/-- POWER_ON (R487). -/
def execPowerOn (s : State) : Out := actAlways s powerOnStep
/-- RAIL_IN_RANGE (R497). -/
def execRailInRange (rail : Rail) (s : State) : Out := actAlways s (railInRangeStep rail)
/-- REF_CLK_LOSS (R502). -/
def execRefClkLoss (s : State) : Out := act s refClkLossStep
/-- REFCLK_STABLE (R502). -/
def execRefclkStable (clock : LateClock) (s : State) : Out := act s (refclkStableStep clock)
/-- NCSI_COMMAND (R504). -/
def execNcsiCommand (channel : Nat) (command : BitVec 8) (payload : List Byte) (s : State) : Out :=
  act s (ncsiCommandStep channel command payload)
/-- PLDM_REQUEST (R504). -/
def execPldmRequest (type : BitVec 6) (command : BitVec 8) (payload : List Byte) (s : State) : Out :=
  act s (pldmRequestStep type command payload)

end Sys2Proof.Machine
end

