-- ==== Sys2Proof/Machine/Tick.lean ====
section
/-! DEFINITION. The passing of a tick: what falls due at its end, what the next one starts with, and the work of a
round boundary (R33–R35, R85, R88, R110, R121, R135, R148, R149, R152, R156, R258, R516). -/

namespace Sys2Proof.Machine

open Sys2Proof

/-! ### What falls due at the end of a tick -/

/-- Whole granules written by the device take good check bits (R122, R148). -/
def repairRange (s : State) (a n : Nat) : State :=
  { s with errors := { s.errors with
      granules := s.errors.granules.filter fun g => !decide (a ≤ 8 * g ∧ 8 * g + 8 ≤ a + n) } }

/-- The event of an uncorrectable error met in HBM. -/
def hbmError (s : State) (a : Nat) : State := event s srcTables evMemory (6 + a * 256)

/-- FCLD's read: the context goes to the slice and RD says OK, or ERROR and the slice stays (R148). -/
def readContext (s : State) (t : Tid) (rd : BitVec 5) (c off done : Nat) : State :=
  let a := fcAddr c 0
  if memError s a 128 then hbmError (onThread s t fun th => fillPend th (.g rd) 2 done) a
  else
    let s := onThread s t fun th => fillPend th (.g rd) 0 done
    addDue s ⟨done - 1, 5, tidNum t, .sliceWrite t off (readBytes s a 128), some t⟩

/-- FCSTV's compare: equal, the context is written; different, the slice takes it as it stands (R148). -/
def compareContext (s : State) (t : Tid) (rd : BitVec 5) (c off : Nat) (expect data : List Byte) (done : Nat)
    (live : Bool) : State :=
  let a := fcAddr c 0
  let answer := fun (s : State) (v : DWord) =>
    if live then onThread s t fun th => fillPend th (.g rd) v done else s
  if memError s a 128 then hbmError (answer s 2) a
  else if readBytes s a 8 = expect then answer (writeBytes s a data) 0
  else
    let s := answer s 1
    if live then addDue s ⟨done - 1, 5, tidNum t, .sliceWrite t off (readBytes s a 128), some t⟩ else s

/-- CRD's read: one count of the pair, or all ones after an uncorrectable error (R149). -/
def readCounter (s : State) (t : Tid) (rd : BitVec 5) (c : Nat) (bytes : Bool) (ready : Nat) : State :=
  let a := ctrAddr c + (if bytes then 8 else 0)
  if memError s a 8 then
    hbmError (onThread s t fun th => fillPend th (.g rd) (BitVec.allOnes 64) ready) a
  else onThread s t fun th => fillPend th (.g rd) (BitVec.ofNat 64 (leNat (readBytes s a 8))) ready

/-- A field of the live tag of a running thread changed by the device (R516). -/
def changeTag (th : Thread) (w hi lo val : Nat) : Thread :=
  if th.frame.isNone then th
  else
    let old : Word := BitVec.ofNat 32 (leNat (hdrBytes th (4 * w) 4))
    setHdr th (4 * w) (le 4 (setFld old hi lo val).toNat)

/-- The end of a CHKA or CHKV: what later EMITs append or strip, in place of what an earlier one set, and the counts of
a CHKV (R156, R360, R364). -/
def endCheck (s : State) (t : Tid) (append : List Byte) (strip : Nat) (mismatch : Option Bool) : State :=
  let s := onThread s t fun th => { th with append := append, strip := strip }
  match mismatch with
  | none => s
  | some bad =>
    let n := tidTenancy s t
    let s := count s (0x1D01000 + n * 0x10)
    if bad then count (count s (0x1D01004 + n * 0x10)) (0x1D00010 + t.cluster.val * 0x20) else s

/-- The release engine has not handed the frame on. -/
def notHandedOn (f : Frame) : Bool :=
  match f.stage with
  | .thread _ | .emitted | .held | .group _ | .member _ => true
  | _ => false

/-- The association that the flow context selected, for the frame, its thread's live tag, and every copy that has
not been handed on (R354, R516). -/
def takeSa (s : State) (t : Tid) (id sa : Nat) : State :=
  let s := (s.frames.filter fun p => (p.1 == id || p.2.origin == id + 1) && notHandedOn p.2).foldl
    (fun s p => putFrame s (carrySa s p.2 sa)) s
  onThread s t fun th =>
    if th.frame ≠ some id then th
    else
      let g := match th.base with
        | some b => (carrySa s { b with tag := liveTag th } sa).tag
        | none => liveTag th
      let th := { th with base := th.base.map fun b => { carrySa s b sa with tag := b.tag } }
      setHdr th 0 (tagBytes g)

/-- An access of shared memory meets an uncorrectable error: its thread faults, or, when it no longer runs the same
frame, the cluster is fenced (R87, R91, R122). -/
def shmFault (s : State) (by_ : AccessBy) : State :=
  let th := thread s by_.t
  if th.frame.isSome && th.start == by_.start then
    onThread s by_.t fun th => { th with fault := some (match th.fault with
      | some f => { f with place := 3 }
      | none => ⟨faultMemory, by_.pc, by_.word, by_.addr, 3⟩) }
  else fenceCluster s by_.t.cluster.val

/-- SST's write, in the tick of its access (R121, R122). -/
def shmWrite (s : State) (by_ : AccessBy) (a : Nat) (bs : List Byte) : State :=
  let n := bs.length
  if memError s a n && partialStore a n then shmFault s by_
  else writeBytes (repair (correct s a n) a n) a bs

/-- SLD's read, in the tick of its access (R121, R122). -/
def shmRead (s : State) (by_ : AccessBy) (rt : BitVec 5) (a n : Nat) (sx : Bool) (ready : Nat) : State :=
  if memError s a n then shmFault s by_
  else onThread (correct s a n) by_.t fun th => fillPend th (.g rt) (extend n sx (leNat (readBytes s a n))) ready

/-- One effect that falls due. -/
def runEffect (s : State) (d : Due) : State :=
  match d.what with
  | .shmWrite by_ a bs => shmWrite s by_ a bs
  | .shmRead by_ rt a n sx ready => shmRead s by_ rt a n sx ready
  | .sliceWrite t off bs => writeBytes (repairRange s (sliceAddr t off) bs.length) (sliceAddr t off) bs
  | .fcWrite c bs => writeBytes (repairRange s (fcAddr c 0) 128) (fcAddr c 0) bs
  | .fcRead t rd c off done => readContext s t rd c off done
  | .fcCompare t rd c off expect data done live => compareContext s t rd c off expect data done live
  | .counterAdd c n => addCounter s c n.toNat
  | .counterRead t rd c bytes ready => readCounter s t rd c bytes ready
  | .emitTaken _ f => takeEmitted s f
  | .tagField t w hi lo val => onThread s t fun th => changeTag th w hi lo val
  | .checkDone t append strip mismatch => endCheck s t append strip mismatch
  | .fcSelect t f sa => takeSa s t f sa
  | .captureRecord f => recordFrame s f (tagReason f.tag) (compactNow s) 0 true
  | .lockUnit t op => lockUnit s t op
  | .tableUnit t op => tableUnit s t op
  | .connLatch fn n => connLatch s fn n

/-- The effects that fall due by the end of this tick, in phase and slot order. -/
def runDue (s : State) : State :=
  let due := s.due.filter fun d => decide (d.tick ≤ now s)
  due.foldl runEffect { s with due := s.due.filter fun d => !decide (d.tick ≤ now s) }

/-- The budget counters of the threads that hold a frame and were not halted in this tick, or issued in it (R85). -/
def spendBudgets (s : State) : State :=
  { s with threads := s.threads.map fun p =>
      if p.2.frame.isSome && (!p.2.halted || p.2.issued == some (now s))
        then (p.1, { p.2 with budget := p.2.budget - 1 }) else p }

/-- Writes that wait for posted-write credit are counted by the tick (R412). -/
def countStalls (s : State) (e : Endpoint) : State :=
  let mine := fun (r : Nat) => match ringOwner s r with
    | some fn => fn.ep == e
    | none => false
  let waits := s.cplDue.any (fun d => decide (d.tick ≤ now s) && mine d.cq) ||
    s.frames.any fun p => match p.2.stage with
      | .ring r => decide (p.2.due ≤ now s) && mine r
      | _ => false
  if (endpoint s e).noCredit && waits then count s (hlkAddr e 0x24) else s

/-- The end of a tick. -/
def endTick (s : State) : State :=
  let s := ownWrites (spendBudgets (settleStops (runDue (settleSteps s))))
  let s := admitExceptions (applyHalts s)
  let s := countStalls (countStalls s .h0) .h1
  (List.range 16).foldl startChosen s

/-! ### The start of a tick -/

/-- Results whose tick has come are in their registers (R110). -/
def retireAll (s : State) : State :=
  { s with threads := s.threads.map fun p => (p.1, retire p.2 (now s)) }

/-- The work of an endpoint at the start of a tick. -/
def endpointTick (s : State) (e : Endpoint) : State := countTagWaits (issueReads s e) e

/-- An operation that waits for the lock unit; `unlocks`: it is an UNLOCK. -/
def forLockUnit (unlocks : Bool) (d : Due) : Bool :=
  match d.what with
  | .lockUnit _ (.unlock _ _) => unlocks
  | .lockUnit _ _ => !unlocks
  | _ => false

/-- The operations of the last tick that satisfy `p`, taken by the lock unit in slot order. -/
def lockOps (s : State) (p : Due → Bool) : State :=
  let mine := fun (d : Due) => p d && decide (d.tick ≤ now s)
  (s.due.filter mine).foldl runEffect { s with due := s.due.filter fun d => !mine d }

/-- What the lock unit does in this tick for the operations of the last: an UNLOCK's lock is free first, the waiters on
locks whose holder has halted have their status, and the other operations follow (R95, R102). -/
def lockUnitTick (s : State) : State :=
  lockOps (settleHalted (lockOps s (forLockUnit true))) (forLockUnit false)

/-- The start of a tick. -/
def startTick (s : State) : State :=
  let s := groupArrivals (applyMarks (joinRejects (admitSettled (lockUnitTick s))))
  let s := serveOverdue (takeOverdue (drainFns (endHandover (retireAll (latchSnap s)))))
  let s := ringsTick (groupsTick (freeQueueCells s))
  let s := endpointTick (endpointTick s .h0) .h1
  let s := transmitDue (flushSignals (flushCompletions s))
  daybreakFrames (dropCoreless (noticePass s))

/-- TICK: the tick ends, the tick count rises by 1 and the timebase by INCR (R33, R258). -/
def tickStep (s : State) : State :=
  let s := endTick s
  startTick (advanceTime { s with tick := s.tick + 1 })

/-! ### Round boundaries -/

/-- A change of STRICT governs the device's own requests (R399). -/
def strictRound (s : State) (e : Endpoint) : State :=
  putEndpoint s e { endpoint s e with strict := bit (word s (hlkAddr e 4)) 0 }

/-- Rounds of a scrub pass over 48 GB of HBM with 256 slots of 64 bytes in each (R29, R37, R470). -/
def scrubRounds : Nat := 3145728

/-- RST_SCRUB_PASSES counts the passes completed since the memories were trained. -/
def scrubRound (s : State) : State :=
  let st := stage s
  if (st = stageForenoon ∨ st = stageNoon) ∧ round s ≠ 0 ∧ round s % scrubRounds = 0 then count s 0x10003C else s

/-- The pass of a scrub over the cluster memories, made here at the boundaries of every 2^16th round: corrected errors
are written back and counted (R466; the tick of each granule within its pass is the model's, DESIGN CHOICE). -/
def scrubClusters (s : State) : State :=
  if round s % 65536 = 0 then s.errors.corrected.foldl (fun s g => correct s (8 * g) 1) s else s

/-- The marks of LEARNs whose frame and every copy of it are gone (R231). -/
def pruneMarks (s : State) : State :=
  { s with learnMarks := s.learnMarks.filter fun m =>
      s.frames.any (fun p => p.1 == m.1 || p.2.origin == m.1 + 1) || (threadOn s m.1).isSome }

/-- Offsets of boundaries that no frame spans any more are not needed (R259, R266). -/
def pruneSteps (s : State) : State :=
  let r := oldestRound s
  { s with tbs := { s.tbs with stepRounds := s.tbs.stepRounds.filter fun x => decide (r ≤ x) } }

/-- ROUND_BOUNDARY: once in the first tick of each round, before the tick's commits (R33). -/
def roundBoundaryStep (s : State) : State :=
  if now s % 256 ≠ 0 ∨ s.boundary = some (now s) then s
  else
    let s := { s with boundary := some (now s) }
    let s := retireClasses (retireVersions (retireChanges s))
    let s := pruneReadings (pruneSteps (logIncr (freqRound s)))
    let s := capturesGain s
    let s := if s.handover.isSome then holdTimeouts s else s
    let s := strictRound (strictRound s .h0) .h1
    let s := testDrained (testFenced (testAsked (rolesRound s)))
    scrubRound (scrubClusters (pruneMarks (overtempRound (finishUpdate (updateStep s)))))

/-- TICK (R33). -/
def execTick (s : State) : Out := act s tickStep
/-- ROUND_BOUNDARY (R33). -/
def execRoundBoundary (s : State) : Out := act s roundBoundaryStep

end Sys2Proof.Machine
end

