-- ==== Sys2Proof/Machine/Dispatch.lean ====
section
/-! DEFINITION. What each command does: one arm for each row of the opcode table. -/

namespace Sys2Proof.Machine

open Sys2Proof

/-- The effect of a command on everything but the queue. -/
def exec (i : Instr) (s : State) : Host.Outcome State Fault Refusal :=
  match i with
  | .registerWrite fn off wide be val => Sys2Proof.Machine.execRegisterWrite fn off wide be val s
  | .counterLowRead fn off wide => Sys2Proof.Machine.execCounterLowRead fn off wide s
  | .lateMaxRead fn off => Sys2Proof.Machine.execLateMaxRead fn off s
  | .tick => Sys2Proof.Machine.execTick s
  | .roundBoundary => Sys2Proof.Machine.execRoundBoundary s
  | .commitEffect => Sys2Proof.Machine.execCommitEffect s
  | .deferLimitReset => Sys2Proof.Machine.execDeferLimitReset s
  | .frameReceive port bytes codewordBad ingress endTime => Sys2Proof.Machine.execFrameReceive port bytes codewordBad ingress endTime s
  | .pauseResend port prio => Sys2Proof.Machine.execPauseResend port prio s
  | .pauseAct port => Sys2Proof.Machine.execPauseAct port s
  | .pauseExpire port => Sys2Proof.Machine.execPauseExpire port s
  | .linkUp port anDone => Sys2Proof.Machine.execLinkUp port anDone s
  | .linkDown port receiving => Sys2Proof.Machine.execLinkDown port receiving s
  | .parse f => Sys2Proof.Machine.execParse f s
  | .classifierStage f => Sys2Proof.Machine.execClassifierStage f s
  | .dispatch cls => Sys2Proof.Machine.execDispatch cls s
  | .dueTickRelease f => Sys2Proof.Machine.execDueTickRelease f s
  | .lateRelease f => Sys2Proof.Machine.execLateRelease f s
  | .seqAdmit g => Sys2Proof.Machine.execSeqAdmit g s
  | .queueHandover f => Sys2Proof.Machine.execQueueHandover f s
  | .egressChoice port => Sys2Proof.Machine.execEgressChoice port s
  | .doorbell fn page off len val => Sys2Proof.Machine.execDoorbell fn page off len val s
  | .sendDescriptor ring => Sys2Proof.Machine.execSendDescriptor ring s
  | .sendDataArrive ring pos => Sys2Proof.Machine.execSendDataArrive ring pos s
  | .tableInsert ring => Sys2Proof.Machine.execTableInsert ring s
  | .tableUpdate ring => Sys2Proof.Machine.execTableUpdate ring s
  | .tableDelete ring => Sys2Proof.Machine.execTableDelete ring s
  | .meterSet ring => Sys2Proof.Machine.execMeterSet ring s
  | .meterFill ring => Sys2Proof.Machine.execMeterFill ring s
  | .actionSet ring => Sys2Proof.Machine.execActionSet ring s
  | .mark ring => Sys2Proof.Machine.execMark ring s
  | .markComplete ring => Sys2Proof.Machine.execMarkComplete ring s
  | .ringEnable fn ring val => Sys2Proof.Machine.execRingEnable fn ring val s
  | .ringDisable fn ring => Sys2Proof.Machine.execRingDisable fn ring s
  | .rxDescriptor ring => Sys2Proof.Machine.execRxDescriptor ring s
  | .rxFrameStart ring => Sys2Proof.Machine.execRxFrameStart ring s
  | .rxHoldExpire ring => Sys2Proof.Machine.execRxHoldExpire ring s
  | .intTimerExpire cq => Sys2Proof.Machine.execIntTimerExpire cq s
  | .peerSlotWrite ep rid off data => Sys2Proof.Machine.execPeerSlotWrite ep rid off data s
  | .peerPublish ep rid off val => Sys2Proof.Machine.execPeerPublish ep rid off val s
  | .peerDoorbell ep rid off len val => Sys2Proof.Machine.execPeerDoorbell ep rid off len val s
  | .peerUnmatchedWrite ep rid off len => Sys2Proof.Machine.execPeerUnmatchedWrite ep rid off len s
  | .bar4NonPosted ep rid off => Sys2Proof.Machine.execBar4NonPosted ep rid off s
  | .completionTimeout ep tag => Sys2Proof.Machine.execCompletionTimeout ep tag s
  | .rxDescRetry ring => Sys2Proof.Machine.execRxDescRetry ring s
  | .unexpectedCompletion ep tag last => Sys2Proof.Machine.execUnexpectedCompletion ep tag last s
  | .readCompletion ep tag data last poisoned successful => Sys2Proof.Machine.execReadCompletion ep tag data last poisoned successful s
  | .tagQuarantineEnd ep tag => Sys2Proof.Machine.execTagQuarantineEnd ep tag s
  | .poisonedTlp ep kind => Sys2Proof.Machine.execPoisonedTlp ep kind s
  | .ecrcError ep kind => Sys2Proof.Machine.execEcrcError ep kind s
  | .l0pEnter ep utilisationPercent => Sys2Proof.Machine.execL0pEnter ep utilisationPercent s
  | .fullWidthRequest ep writeWaits => Sys2Proof.Machine.execFullWidthRequest ep writeWaits s
  | .hotReset ep cause => Sys2Proof.Machine.execHotReset ep cause s
  | .functionReset by_ target => Sys2Proof.Machine.execFunctionReset by_ target s
  | .duskEnd fn => Sys2Proof.Machine.execDuskEnd fn s
  | .add t rd ra rb gd => Sys2Proof.Machine.execAdd t rd ra rb gd s
  | .sub t rd ra rb gd => Sys2Proof.Machine.execSub t rd ra rb gd s
  | .mul t rd ra rb gd => Sys2Proof.Machine.execMul t rd ra rb gd s
  | .mulhu t rd ra rb gd => Sys2Proof.Machine.execMulhu t rd ra rb gd s
  | .and_ t rd ra rb gd => Sys2Proof.Machine.execAnd t rd ra rb gd s
  | .or_ t rd ra rb gd => Sys2Proof.Machine.execOr t rd ra rb gd s
  | .xor_ t rd ra rb gd => Sys2Proof.Machine.execXor t rd ra rb gd s
  | .andn t rd ra rb gd => Sys2Proof.Machine.execAndn t rd ra rb gd s
  | .shl t rd ra rb gd => Sys2Proof.Machine.execShl t rd ra rb gd s
  | .shr t rd ra rb gd => Sys2Proof.Machine.execShr t rd ra rb gd s
  | .sar t rd ra rb gd => Sys2Proof.Machine.execSar t rd ra rb gd s
  | .rol t rd ra rb gd => Sys2Proof.Machine.execRol t rd ra rb gd s
  | .min_ t rd ra rb gd => Sys2Proof.Machine.execMin t rd ra rb gd s
  | .max_ t rd ra rb gd => Sys2Proof.Machine.execMax t rd ra rb gd s
  | .minu t rd ra rb gd => Sys2Proof.Machine.execMinu t rd ra rb gd s
  | .maxu t rd ra rb gd => Sys2Proof.Machine.execMaxu t rd ra rb gd s
  | .sel t rd ra rb gd => Sys2Proof.Machine.execSel t rd ra rb gd s
  | .clz t rd ra gd => Sys2Proof.Machine.execClz t rd ra gd s
  | .ctz t rd ra gd => Sys2Proof.Machine.execCtz t rd ra gd s
  | .popc t rd ra gd => Sys2Proof.Machine.execPopc t rd ra gd s
  | .bsw16 t rd ra gd => Sys2Proof.Machine.execBsw16 t rd ra gd s
  | .bsw32 t rd ra gd => Sys2Proof.Machine.execBsw32 t rd ra gd s
  | .bsw64 t rd ra gd => Sys2Proof.Machine.execBsw64 t rd ra gd s
  | .addi t rd ra imm => Sys2Proof.Machine.execAddi t rd ra imm s
  | .andi t rd ra imm => Sys2Proof.Machine.execAndi t rd ra imm s
  | .ori t rd ra imm => Sys2Proof.Machine.execOri t rd ra imm s
  | .xori t rd ra imm => Sys2Proof.Machine.execXori t rd ra imm s
  | .shli t rd ra sh => Sys2Proof.Machine.execShli t rd ra sh s
  | .shri t rd ra sh => Sys2Proof.Machine.execShri t rd ra sh s
  | .sari t rd ra sh => Sys2Proof.Machine.execSari t rd ra sh s
  | .movh t rd ra imm => Sys2Proof.Machine.execMovh t rd ra imm s
  | .extf t rd ra pos lenM1 => Sys2Proof.Machine.execExtf t rd ra pos lenM1 s
  | .insf t rd ra pos lenM1 => Sys2Proof.Machine.execInsf t rd ra pos lenM1 s
  | .ceqi t pd ra imm => Sys2Proof.Machine.execCeqi t pd ra imm s
  | .cnei t pd ra imm => Sys2Proof.Machine.execCnei t pd ra imm s
  | .clti t pd ra imm => Sys2Proof.Machine.execClti t pd ra imm s
  | .cltui t pd ra imm => Sys2Proof.Machine.execCltui t pd ra imm s
  | .cgti t pd ra imm => Sys2Proof.Machine.execCgti t pd ra imm s
  | .cgtui t pd ra imm => Sys2Proof.Machine.execCgtui t pd ra imm s
  | .ceq t pd ra rb gd => Sys2Proof.Machine.execCeq t pd ra rb gd s
  | .cne t pd ra rb gd => Sys2Proof.Machine.execCne t pd ra rb gd s
  | .clt t pd ra rb gd => Sys2Proof.Machine.execClt t pd ra rb gd s
  | .cltu t pd ra rb gd => Sys2Proof.Machine.execCltu t pd ra rb gd s
  | .cle t pd ra rb gd => Sys2Proof.Machine.execCle t pd ra rb gd s
  | .cleu t pd ra rb gd => Sys2Proof.Machine.execCleu t pd ra rb gd s
  | .tst t pd ra rb gd => Sys2Proof.Machine.execTst t pd ra rb gd s
  | .tstz t pd ra rb gd => Sys2Proof.Machine.execTstz t pd ra rb gd s
  | .pand t pd pa pb gd => Sys2Proof.Machine.execPand t pd pa pb gd s
  | .por t pd pa pb gd => Sys2Proof.Machine.execPor t pd pa pb gd s
  | .pxor t pd pa pb gd => Sys2Proof.Machine.execPxor t pd pa pb gd s
  | .pandn t pd pa pb gd => Sys2Proof.Machine.execPandn t pd pa pb gd s
  | .pnot t pd pa gd => Sys2Proof.Machine.execPnot t pd pa gd s
  | .pnz t pd ra gd => Sys2Proof.Machine.execPnz t pd ra gd s
  | .pget t rd gd => Sys2Proof.Machine.execPget t rd gd s
  | .pput t ra gd => Sys2Proof.Machine.execPput t ra gd s
  | .hld t rt ra sz le sx off => Sys2Proof.Machine.execHld t rt ra sz le sx off s
  | .hst t rt ra sz le off => Sys2Proof.Machine.execHst t rt ra sz le off s
  | .lld t rt ra sz sx off => Sys2Proof.Machine.execLld t rt ra sz sx off s
  | .lst t rt ra sz off => Sys2Proof.Machine.execLst t rt ra sz off s
  | .sld t rt ra sz sx off => Sys2Proof.Machine.execSld t rt ra sz sx off s
  | .sst t rt ra sz off => Sys2Proof.Machine.execSst t rt ra sz off s
  | .br t cd disp => Sys2Proof.Machine.execBr t cd disp s
  | .loop t gc reg max body => Sys2Proof.Machine.execLoop t gc reg max body s
  | .endl t gc back => Sys2Proof.Machine.execEndl t gc back s
  | .call t cd target => Sys2Proof.Machine.execCall t cd target s
  | .ret t cd => Sys2Proof.Machine.execRet t cd s
  | .done t cd drop => Sys2Proof.Machine.execDone t cd drop s
  | .lookup t rd ra table => Sys2Proof.Machine.execLookup t rd ra table s
  | .insert t rd ra table => Sys2Proof.Machine.execInsert t rd ra table s
  | .delete t rd ra table => Sys2Proof.Machine.execDelete t rd ra table s
  | .learn t rd ra rb => Sys2Proof.Machine.execLearn t rd ra rb s
  | .classify t rd ra ruleSet => Sys2Proof.Machine.execClassify t rd ra ruleSet s
  | .hash t rd ra rb func header => Sys2Proof.Machine.execHash t rd ra rb func header s
  | .fcld t rd ra rb fromTag => Sys2Proof.Machine.execFcld t rd ra rb fromTag s
  | .fcst t rd ra rb fromTag => Sys2Proof.Machine.execFcst t rd ra rb fromTag s
  | .fcstv t rd ra rb fromTag => Sys2Proof.Machine.execFcstv t rd ra rb fromTag s
  | .fetch t rd ra rb blocksM1 => Sys2Proof.Machine.execFetch t rd ra rb blocksM1 s
  | .emit t rd ra rb copy override headLen => Sys2Proof.Machine.execEmit t rd ra rb copy override headLen s
  | .time t rd rb mode => Sys2Proof.Machine.execTime t rd rb mode s
  | .cadd t ra rb => Sys2Proof.Machine.execCadd t ra rb s
  | .crd t rd ra bytes => Sys2Proof.Machine.execCrd t rd ra bytes s
  | .lock t rd ra => Sys2Proof.Machine.execLock t rd ra s
  | .lockw t rd ra rb => Sys2Proof.Machine.execLockw t rd ra rb s
  | .unlock t rd ra => Sys2Proof.Machine.execUnlock t rd ra s
  | .wait t rd ra rb => Sys2Proof.Machine.execWait t rd ra rb s
  | .notify t rd ra => Sys2Proof.Machine.execNotify t rd ra s
  | .cput t rd ra rb => Sys2Proof.Machine.execCput t rd ra rb s
  | .ccommit t rd ra => Sys2Proof.Machine.execCcommit t rd ra s
  | .cget t rd ra rb => Sys2Proof.Machine.execCget t rd ra rb s
  | .lockGrant t => Sys2Proof.Machine.execLockGrant t s
  | .waitLimit t => Sys2Proof.Machine.execWaitLimit t s
  | .mbsend t rd ra => Sys2Proof.Machine.execMbsend t rd ra s
  | .mbrecv t rd ra => Sys2Proof.Machine.execMbrecv t rd ra s
  | .mbwdraw t rd => Sys2Proof.Machine.execMbwdraw t rd s
  | .capture t rd rb now => Sys2Proof.Machine.execCapture t rd rb now s
  | .chks t p rd ra rb header => Sys2Proof.Machine.execChks t p rd ra rb header s
  | .chkc t p rd ra rb header => Sys2Proof.Machine.execChkc t p rd ra rb header s
  | .chka t p rd ra => Sys2Proof.Machine.execChka t p rd ra s
  | .chkv t p rd ra => Sys2Proof.Machine.execChkv t p rd ra s
  | .budgetOverrun t => Sys2Proof.Machine.execBudgetOverrun t s
  | .faultRecord cluster core => Sys2Proof.Machine.execFaultRecord cluster core s
  | .coreRestart cluster core => Sys2Proof.Machine.execCoreRestart cluster core s
  | .coreReset fn cluster core => Sys2Proof.Machine.execCoreReset fn cluster core s
  | .debugHalt t => Sys2Proof.Machine.execDebugHalt t s
  | .debugResume t => Sys2Proof.Machine.execDebugResume t s
  | .debugStep t => Sys2Proof.Machine.execDebugStep t s
  | .cluCommit fn cluster => Sys2Proof.Machine.execCluCommit fn cluster s
  | .load fn cookie addr len cls => Sys2Proof.Machine.execLoad fn cookie addr len cls s
  | .unload fn cookie cls => Sys2Proof.Machine.execUnload fn cookie cls s
  | .classRequest fn cookie p => Sys2Proof.Machine.execClassRequest fn cookie p s
  | .imageReadDone cls image fail => Sys2Proof.Machine.execImageReadDone cls image fail s
  | .clsCommit fn => Sys2Proof.Machine.execClsCommit fn s
  | .tblCommit fn table => Sys2Proof.Machine.execTblCommit fn table s
  | .tblAuxCommit fn => Sys2Proof.Machine.execTblAuxCommit fn s
  | .chainMoveWrite table => Sys2Proof.Machine.execChainMoveWrite table s
  | .learnBatchApply => Sys2Proof.Machine.execLearnBatchApply s
  | .aging => Sys2Proof.Machine.execAging s
  | .bucketInvalidate table bucket => Sys2Proof.Machine.execBucketInvalidate table bucket s
  | .tblDmaGo fn => Sys2Proof.Machine.execTblDmaGo fn s
  | .dmaListFetched fn list fail => Sys2Proof.Machine.execDmaListFetched fn list fail s
  | .dmaInsert fn => Sys2Proof.Machine.execDmaInsert fn s
  | .dmaUpdate fn => Sys2Proof.Machine.execDmaUpdate fn s
  | .dmaDelete fn => Sys2Proof.Machine.execDmaDelete fn s
  | .dmaRead fn => Sys2Proof.Machine.execDmaRead fn s
  | .lockRead fn => Sys2Proof.Machine.execLockRead fn s
  | .writeUnlock fn => Sys2Proof.Machine.execWriteUnlock fn s
  | .dmaUnlock fn => Sys2Proof.Machine.execDmaUnlock fn s
  | .scan fn => Sys2Proof.Machine.execScan fn s
  | .fcRead fn => Sys2Proof.Machine.execFcRead fn s
  | .fcWrite fn => Sys2Proof.Machine.execFcWrite fn s
  | .ctrRead fn => Sys2Proof.Machine.execCtrRead fn s
  | .ctrClear fn => Sys2Proof.Machine.execCtrClear fn s
  | .dmaResultsWrite fn => Sys2Proof.Machine.execDmaResultsWrite fn s
  | .seqGrpCommit fn g => Sys2Proof.Machine.execSeqGrpCommit fn g s
  | .seqFoCommit fn => Sys2Proof.Machine.execSeqFoCommit fn s
  | .tbsAdjGo fn => Sys2Proof.Machine.execTbsAdjGo fn s
  | .slewEnd => Sys2Proof.Machine.execSlewEnd s
  | .midnight => Sys2Proof.Machine.execMidnight s
  | .epochBaseAdvance => Sys2Proof.Machine.execEpochBaseAdvance s
  | .ppsInEdge time => Sys2Proof.Machine.execPpsInEdge time s
  | .ppsOutEdge rise => Sys2Proof.Machine.execPpsOutEdge rise s
  | .servoEstimate offset incr => Sys2Proof.Machine.execServoEstimate offset incr s
  | .referenceLost => Sys2Proof.Machine.execReferenceLost s
  | .healthRecord => Sys2Proof.Machine.execHealthRecord s
  | .tbsSnap fn => Sys2Proof.Machine.execTbsSnap fn s
  | .txtsHeadRead fn port => Sys2Proof.Machine.execTxtsHeadRead fn port s
  | .blockCloseTimeout => Sys2Proof.Machine.execBlockCloseTimeout s
  | .seal => Sys2Proof.Machine.execSeal s
  | .sealComplete => Sys2Proof.Machine.execSealComplete s
  | .driveWriteComplete drive block ok => Sys2Proof.Machine.execDriveWriteComplete drive block ok s
  | .c0CommandTimeout drive block => Sys2Proof.Machine.execC0CommandTimeout drive block s
  | .ledgerEnable fn => Sys2Proof.Machine.execLedgerEnable fn s
  | .ledgerDisable fn => Sys2Proof.Machine.execLedgerDisable fn s
  | .ledgerRead ring => Sys2Proof.Machine.execLedgerRead ring s
  | .macGrpCommit fn group => Sys2Proof.Machine.execMacGrpCommit fn group s
  | .portReset fn port => Sys2Proof.Machine.execPortReset fn port s
  | .pwnCommit fn => Sys2Proof.Machine.execPwnCommit fn s
  | .schCommit fn => Sys2Proof.Machine.execSchCommit fn s
  | .schRead fn => Sys2Proof.Machine.execSchRead fn s
  | .schWrite fn => Sys2Proof.Machine.execSchWrite fn s
  | .cryCommit fn => Sys2Proof.Machine.execCryCommit fn s
  | .cryRead fn => Sys2Proof.Machine.execCryRead fn s
  | .cryWrite fn => Sys2Proof.Machine.execCryWrite fn s
  | .writeKey fn => Sys2Proof.Machine.execWriteKey fn s
  | .counters fn => Sys2Proof.Machine.execCounters fn s
  | .offload fn conn record fail => Sys2Proof.Machine.execOffload fn conn record fail s
  | .tcpRead fn conn => Sys2Proof.Machine.execTcpRead fn conn s
  | .close fn conn => Sys2Proof.Machine.execClose fn conn s
  | .tcpAbort fn conn => Sys2Proof.Machine.execTcpAbort fn conn s
  | .connSel fn conn => Sys2Proof.Machine.execConnSel fn conn s
  | .segmentReceive f => Sys2Proof.Machine.execSegmentReceive f s
  | .segmentSend conn => Sys2Proof.Machine.execSegmentSend conn s
  | .retransmitTimeout conn => Sys2Proof.Machine.execRetransmitTimeout conn s
  | .persistTimeout conn => Sys2Proof.Machine.execPersistTimeout conn s
  | .delayedAck conn => Sys2Proof.Machine.execDelayedAck conn s
  | .stoCommit fn => Sys2Proof.Machine.execStoCommit fn s
  | .targetGo fn target => Sys2Proof.Machine.execTargetGo fn target s
  | .nvmeDoorbell ctrl queue completion val => Sys2Proof.Machine.execNvmeDoorbell ctrl queue completion val s
  | .nvmeCommandFetch ctrl queue cid opcode nsid bytes => Sys2Proof.Machine.execNvmeCommandFetch ctrl queue cid opcode nsid bytes s
  | .deleteIoSubmissionQueue id sq => Sys2Proof.Machine.execDeleteIoSubmissionQueue id sq s
  | .createIoSubmissionQueue id sq size cq contiguous => Sys2Proof.Machine.execCreateIoSubmissionQueue id sq size cq contiguous s
  | .deleteIoCompletionQueue id cq => Sys2Proof.Machine.execDeleteIoCompletionQueue id cq s
  | .createIoCompletionQueue id cq size vector contiguous intEn => Sys2Proof.Machine.execCreateIoCompletionQueue id cq size vector contiguous intEn s
  | .getLogPage id lid retain => Sys2Proof.Machine.execGetLogPage id lid retain s
  | .identify id cns nsid => Sys2Proof.Machine.execIdentify id cns nsid s
  | .abort id sq target => Sys2Proof.Machine.execAbort id sq target s
  | .setFeatures id feature value => Sys2Proof.Machine.execSetFeatures id feature value s
  | .getFeatures id feature => Sys2Proof.Machine.execGetFeatures id feature s
  | .asynchronousEventRequest id => Sys2Proof.Machine.execAsynchronousEventRequest id s
  | .flush id nsid => Sys2Proof.Machine.execFlush id nsid s
  | .write id nsid slba blocks pi data md fail => Sys2Proof.Machine.execWrite id nsid slba blocks pi data md fail s
  | .read id nsid slba blocks pi fail => Sys2Proof.Machine.execRead id nsid slba blocks pi fail s
  | .writeZeroes id nsid slba blocks => Sys2Proof.Machine.execWriteZeroes id nsid slba blocks s
  | .datasetManagement id nsid deallocate ranges => Sys2Proof.Machine.execDatasetManagement id nsid deallocate ranges s
  | .pduReceive target conn pdu headerOk dataOk => Sys2Proof.Machine.execPduReceive target conn pdu headerOk dataOk s
  | .remoteCompletion id status => Sys2Proof.Machine.execRemoteCompletion id status s
  | .commandTimeout id => Sys2Proof.Machine.execCommandTimeout id s
  | .unreachTimeout ctrl queue cid nsid => Sys2Proof.Machine.execUnreachTimeout ctrl queue cid nsid s
  | .connectionClose target conn => Sys2Proof.Machine.execConnectionClose target conn s
  | .send fn => Sys2Proof.Machine.execSend fn s
  | .withdraw fn => Sys2Proof.Machine.execWithdraw fn s
  | .mbxF2hRead fn off wide => Sys2Proof.Machine.execMbxF2hRead fn off wide s
  | .firmwareTake pair => Sys2Proof.Machine.execFirmwareTake pair s
  | .f2hPost pair => Sys2Proof.Machine.execF2hPost pair s
  | .mailboxTimeout pair toHost => Sys2Proof.Machine.execMailboxTimeout pair toHost s
  | .fwStage fn cookie image fail flashOk => Sys2Proof.Machine.execFwStage fn cookie image fail flashOk s
  | .fwActivate fn cookie commitSvn swapOnly => Sys2Proof.Machine.execFwActivate fn cookie commitSvn swapOnly s
  | .cfgWrite fn cookie store fail flashOk => Sys2Proof.Machine.execCfgWrite fn cookie store fail flashOk s
  | .pkeyEnroll fn cookie slot keyHash => Sys2Proof.Machine.execPkeyEnroll fn cookie slot keyHash s
  | .pkeyRevoke fn cookie slot payload => Sys2Proof.Machine.execPkeyRevoke fn cookie slot payload s
  | .evrClear fn cookie token => Sys2Proof.Machine.execEvrClear fn cookie token s
  | .getVersion fn => Sys2Proof.Machine.execGetVersion fn s
  | .getCapabilities fn => Sys2Proof.Machine.execGetCapabilities fn s
  | .negotiateAlgorithms fn p384 sha384 => Sys2Proof.Machine.execNegotiateAlgorithms fn p384 sha384 s
  | .getDigests fn => Sys2Proof.Machine.execGetDigests fn s
  | .getCertificate fn slot offset length => Sys2Proof.Machine.execGetCertificate fn slot offset length s
  | .challenge fn slot nonce => Sys2Proof.Machine.execChallenge fn slot nonce s
  | .getMeasurements fn index mailbox => Sys2Proof.Machine.execGetMeasurements fn index mailbox s
  | .updateResume => Sys2Proof.Machine.execUpdateResume s
  | .handover => Sys2Proof.Machine.execHandover s
  | .lckSet fn bits => Sys2Proof.Machine.execLckSet fn bits s
  | .tenCommit fn => Sys2Proof.Machine.execTenCommit fn s
  | .fundamentalReset bootSel => Sys2Proof.Machine.execFundamentalReset bootSel s
  | .forenoon r => Sys2Proof.Machine.execForenoon r s
  | .noon store => Sys2Proof.Machine.execNoon store s
  | .warmReset fn key => Sys2Proof.Machine.execWarmReset fn key s
  | .fallback cause => Sys2Proof.Machine.execFallback cause s
  | .clusterReset fn cluster => Sys2Proof.Machine.execClusterReset fn cluster s
  | .spareTakeover => Sys2Proof.Machine.execSpareTakeover s
  | .rstSpare fn cluster => Sys2Proof.Machine.execRstSpare fn cluster s
  | .eventPlace => Sys2Proof.Machine.execEventPlace s
  | .copyGo fn => Sys2Proof.Machine.execCopyGo fn s
  | .copyComplete => Sys2Proof.Machine.execCopyComplete s
  | .cursorWrite fn cursor => Sys2Proof.Machine.execCursorWrite fn cursor s
  | .evrViewLostRead fn => Sys2Proof.Machine.execEvrViewLostRead fn s
  | .railUndervoltage rail => Sys2Proof.Machine.execRailUndervoltage rail s
  | .railSequence rail => Sys2Proof.Machine.execRailSequence rail s
  | .railOvervoltage rail => Sys2Proof.Machine.execRailOvervoltage rail s
  | .vddAonLoss => Sys2Proof.Machine.execVddAonLoss s
  | .sensorRead temps => Sys2Proof.Machine.execSensorRead temps s
  | .tempPeakRead fn => Sys2Proof.Machine.execTempPeakRead fn s
  | .registerReadUnaligned fn off wide => Sys2Proof.Machine.execRegisterReadUnaligned fn off wide s
  | .illegalInstruction t => Sys2Proof.Machine.execIllegalInstruction t s
  | .clusterTestsDone cluster pass => Sys2Proof.Machine.execClusterTestsDone cluster pass s
  | .hostLinkTrained ep speed width flit => Sys2Proof.Machine.execHostLinkTrained ep speed width flit s
  | .linkWidthChange ep width => Sys2Proof.Machine.execLinkWidthChange ep width s
  | .aspmL1Transition ep enter => Sys2Proof.Machine.execAspmL1Transition ep enter s
  | .configurationWrite fn change => Sys2Proof.Machine.execConfigurationWrite fn change s
  | .malformedTlp ep => Sys2Proof.Machine.execMalformedTlp ep s
  | .freqInEdge => Sys2Proof.Machine.execFreqInEdge s
  | .ppsPresentExpire => Sys2Proof.Machine.execPpsPresentExpire s
  | .lpiEnter port => Sys2Proof.Machine.execLpiEnter port s
  | .driveReadComplete drive block data fail => Sys2Proof.Machine.execDriveReadComplete drive block data fail s
  | .powerOn => Sys2Proof.Machine.execPowerOn s
  | .railInRange rail => Sys2Proof.Machine.execRailInRange rail s
  | .perst0NAssert => Sys2Proof.Machine.execPerst0NAssert s
  | .refClkLoss => Sys2Proof.Machine.execRefClkLoss s
  | .refclkStable clock => Sys2Proof.Machine.execRefclkStable clock s
  | .ncsiCommand channel command payload => Sys2Proof.Machine.execNcsiCommand channel command payload s
  | .pldmRequest type command payload => Sys2Proof.Machine.execPldmRequest type command payload s

end Sys2Proof.Machine
end

