-- ==== Sys2Proof/Machine/Disasm.lean ====
section
/-! DEFINITION. The Falfimi instruction that the words at a place of the code are, read field by field from the
formats of R106, R108, R109, R113–R117, R131 and R137; the reverse of the encoding. -/

namespace Sys2Proof.Machine

open Sys2Proof

/-- The `n`-bit field of a word from bit `lo` on. -/
def fieldAt (n : Nat) (w : Word) (lo : Nat) : BitVec n := BitVec.ofNat n (w.toNat / 2 ^ lo)

/-- Bit `k` of a word. -/
def flagAt (w : Word) (k : Nat) : Bool := w.getLsbD k

/-- RD, RA and RB. -/
def rdOf (w : Word) : BitVec 5 := fieldAt 5 w 21
def raOf (w : Word) : BitVec 5 := fieldAt 5 w 16
def rbOf (w : Word) : BitVec 5 := fieldAt 5 w 11
/-- PD of a compare or predicate function. -/
def pdOf (w : Word) : BitVec 3 := fieldAt 3 w 23
/-- The guard: PQ and PN. -/
def gdOf (w : Word) : Guard := ⟨fieldAt 3 w 8, flagAt w 7⟩
/-- The condition of format B: PRED and NEG. -/
def cdOf (w : Word) : Cond := ⟨fieldAt 3 w 23, flagAt w 22⟩
/-- SZ of format M. -/
def szOf (w : Word) : MemSize :=
  match (fieldAt 2 w 14).toNat with
  | 0 => .byte
  | 1 => .half
  | 2 => .word
  | _ => .double
/-- The immediate of format I, widened by an X word. -/
def immOf (x : Option Word) (w : Word) : Imm := ⟨fieldAt 16 w 0, x.map fun v => fieldAt 26 v 0⟩
/-- The object number in RB and MOD. -/
def numOf (w : Word) : BitVec 8 := fieldAt 8 w 8
/-- The polynomial in the low two bits of FN. -/
def polyField (w : Word) : CheckPoly :=
  match (fieldAt 2 w 0).toNat with
  | 0 => .crc32
  | 1 => .crc32c
  | 2 => .crc16
  | _ => .crc64

/-- Opcode 0x01. -/
def decodeAlu (t : Tid) (w : Word) : Option Instr :=
  match wfld w 6 0 with
  | 0x00 => some (.add t (rdOf w) (raOf w) (rbOf w) (gdOf w))
  | 0x01 => some (.sub t (rdOf w) (raOf w) (rbOf w) (gdOf w))
  | 0x02 => some (.mul t (rdOf w) (raOf w) (rbOf w) (gdOf w))
  | 0x03 => some (.mulhu t (rdOf w) (raOf w) (rbOf w) (gdOf w))
  | 0x04 => some (.and_ t (rdOf w) (raOf w) (rbOf w) (gdOf w))
  | 0x05 => some (.or_ t (rdOf w) (raOf w) (rbOf w) (gdOf w))
  | 0x06 => some (.xor_ t (rdOf w) (raOf w) (rbOf w) (gdOf w))
  | 0x07 => some (.andn t (rdOf w) (raOf w) (rbOf w) (gdOf w))
  | 0x08 => some (.shl t (rdOf w) (raOf w) (rbOf w) (gdOf w))
  | 0x09 => some (.shr t (rdOf w) (raOf w) (rbOf w) (gdOf w))
  | 0x0A => some (.sar t (rdOf w) (raOf w) (rbOf w) (gdOf w))
  | 0x0B => some (.rol t (rdOf w) (raOf w) (rbOf w) (gdOf w))
  | 0x0C => some (.min_ t (rdOf w) (raOf w) (rbOf w) (gdOf w))
  | 0x0D => some (.max_ t (rdOf w) (raOf w) (rbOf w) (gdOf w))
  | 0x0E => some (.minu t (rdOf w) (raOf w) (rbOf w) (gdOf w))
  | 0x0F => some (.maxu t (rdOf w) (raOf w) (rbOf w) (gdOf w))
  | 0x10 => some (.sel t (rdOf w) (raOf w) (rbOf w) (gdOf w))
  | 0x11 => some (.clz t (rdOf w) (raOf w) (gdOf w))
  | 0x12 => some (.ctz t (rdOf w) (raOf w) (gdOf w))
  | 0x13 => some (.popc t (rdOf w) (raOf w) (gdOf w))
  | 0x14 => some (.bsw16 t (rdOf w) (raOf w) (gdOf w))
  | 0x15 => some (.bsw32 t (rdOf w) (raOf w) (gdOf w))
  | 0x16 => some (.bsw64 t (rdOf w) (raOf w) (gdOf w))
  | _ => none

/-- Opcode 0x02. -/
def decodeCmp (t : Tid) (w : Word) : Option Instr :=
  match wfld w 6 0 with
  | 0x00 => some (.ceq t (pdOf w) (raOf w) (rbOf w) (gdOf w))
  | 0x01 => some (.cne t (pdOf w) (raOf w) (rbOf w) (gdOf w))
  | 0x02 => some (.clt t (pdOf w) (raOf w) (rbOf w) (gdOf w))
  | 0x03 => some (.cltu t (pdOf w) (raOf w) (rbOf w) (gdOf w))
  | 0x04 => some (.cle t (pdOf w) (raOf w) (rbOf w) (gdOf w))
  | 0x05 => some (.cleu t (pdOf w) (raOf w) (rbOf w) (gdOf w))
  | 0x06 => some (.tst t (pdOf w) (raOf w) (rbOf w) (gdOf w))
  | 0x07 => some (.tstz t (pdOf w) (raOf w) (rbOf w) (gdOf w))
  | _ => none

/-- Opcode 0x03. -/
def decodePrd (t : Tid) (w : Word) : Option Instr :=
  let pa : BitVec 3 := fieldAt 3 w 18
  let pb : BitVec 3 := fieldAt 3 w 13
  match wfld w 6 0 with
  | 0x00 => some (.pand t (pdOf w) pa pb (gdOf w))
  | 0x01 => some (.por t (pdOf w) pa pb (gdOf w))
  | 0x02 => some (.pxor t (pdOf w) pa pb (gdOf w))
  | 0x03 => some (.pandn t (pdOf w) pa pb (gdOf w))
  | 0x04 => some (.pnot t (pdOf w) pa (gdOf w))
  | 0x05 => some (.pnz t (pdOf w) (raOf w) (gdOf w))
  | 0x06 => some (.pget t (rdOf w) (gdOf w))
  | 0x07 => some (.pput t (raOf w) (gdOf w))
  | _ => none

/-- Opcode 0x38. -/
def decodeDev (t : Tid) (w : Word) : Option Instr :=
  let rd := rdOf w
  let ra := raOf w
  let rb := rbOf w
  let m0 := flagAt w 8
  let m2 := flagAt w 10
  match wfld w 7 0 with
  | 0x00 => some (.lookup t rd ra (numOf w))
  | 0x01 => some (.insert t rd ra (numOf w))
  | 0x02 => some (.delete t rd ra (numOf w))
  | 0x03 => some (.learn t rd ra rb)
  | 0x04 => some (.classify t rd ra (numOf w))
  | 0x05 => some (.hash t rd ra rb (fieldAt 2 w 8) m2)
  | 0x08 => some (.fcld t rd ra rb m0)
  | 0x09 => some (.fcst t rd ra rb m0)
  | 0x0A => some (.fcstv t rd ra rb m0)
  | 0x0C => some (.fetch t rd ra rb (fieldAt 3 w 8))
  | 0x10 => some (.emit t rd ra rb m0 (flagAt w 9) m2)
  | 0x14 => some (.time t rd rb (fieldAt 3 w 8))
  | 0x18 => some (.cadd t ra rb)
  | 0x19 => some (.crd t rd ra m0)
  | 0x20 => some (.lock t rd ra)
  | 0x21 => some (.lockw t rd ra rb)
  | 0x22 => some (.unlock t rd ra)
  | 0x24 => some (.wait t rd ra rb)
  | 0x25 => some (.notify t rd ra)
  | 0x28 => some (.cput t rd ra rb)
  | 0x29 => some (.ccommit t rd ra)
  | 0x2A => some (.cget t rd ra rb)
  | 0x30 => some (.mbsend t rd ra)
  | 0x31 => some (.mbrecv t rd ra)
  | 0x32 => some (.mbwdraw t rd)
  | 0x38 => some (.capture t rd rb m0)
  | fn =>
    if 0x40 ≤ fn ∧ fn ≤ 0x43 then some (.chks t (polyField w) rd ra rb m2)
    else if 0x44 ≤ fn ∧ fn ≤ 0x47 then some (.chkc t (polyField w) rd ra rb m2)
    else if 0x48 ≤ fn ∧ fn ≤ 0x4B then some (.chka t (polyField w) rd ra)
    else if 0x4C ≤ fn ∧ fn ≤ 0x4F then some (.chkv t (polyField w) rd ra)
    else none

/-- A word of the opcodes that no X word widens. -/
def decodePlain (t : Tid) (w : Word) : Option Instr :=
  match wfld w 31 26 with
  | 0x01 => decodeAlu t w
  | 0x02 => decodeCmp t w
  | 0x03 => decodePrd t w
  | 0x08 => some (.shli t (rdOf w) (raOf w) (fieldAt 6 w 0))
  | 0x09 => some (.shri t (rdOf w) (raOf w) (fieldAt 6 w 0))
  | 0x0A => some (.sari t (rdOf w) (raOf w) (fieldAt 6 w 0))
  | 0x12 => some (.extf t (rdOf w) (raOf w) (fieldAt 6 w 0) (fieldAt 6 w 6))
  | 0x13 => some (.insf t (rdOf w) (raOf w) (fieldAt 6 w 0) (fieldAt 6 w 6))
  | 0x14 => some (.hld t (rdOf w) (raOf w) (szOf w) (flagAt w 13) (flagAt w 12) (fieldAt 12 w 0))
  | 0x15 => some (.hst t (rdOf w) (raOf w) (szOf w) (flagAt w 13) (fieldAt 12 w 0))
  | 0x16 => some (.lld t (rdOf w) (raOf w) (szOf w) (flagAt w 12) (fieldAt 12 w 0))
  | 0x17 => some (.lst t (rdOf w) (raOf w) (szOf w) (fieldAt 12 w 0))
  | 0x18 => some (.sld t (rdOf w) (raOf w) (szOf w) (flagAt w 12) (fieldAt 12 w 0))
  | 0x19 => some (.sst t (rdOf w) (raOf w) (szOf w) (fieldAt 12 w 0))
  | 0x20 => some (.br t (cdOf w) (fieldAt 22 w 0))
  | 0x21 => some (.loop t (rdOf w) (flagAt w 20) (fieldAt 10 w 10) (fieldAt 10 w 0))
  | 0x22 => some (.endl t (rdOf w) (fieldAt 10 w 0))
  | 0x23 => some (.call t (cdOf w) (fieldAt 22 w 0))
  | 0x24 => some (.ret t (cdOf w))
  | 0x25 => some (.done t (cdOf w) (flagAt w 0))
  | 0x38 => decodeDev t w
  | _ => none

/-- A word of an opcode that an X word may widen. -/
def decodeWide (t : Tid) (x : Option Word) (w : Word) : Option Instr :=
  let imm := immOf x w
  match wfld w 31 26 with
  | 0x04 => some (.addi t (rdOf w) (raOf w) imm)
  | 0x05 => some (.andi t (rdOf w) (raOf w) imm)
  | 0x06 => some (.ori t (rdOf w) (raOf w) imm)
  | 0x07 => some (.xori t (rdOf w) (raOf w) imm)
  | 0x0B => some (.ceqi t (pdOf w) (raOf w) imm)
  | 0x0C => some (.cnei t (pdOf w) (raOf w) imm)
  | 0x0D => some (.clti t (pdOf w) (raOf w) imm)
  | 0x0E => some (.cltui t (pdOf w) (raOf w) imm)
  | 0x0F => some (.cgti t (pdOf w) (raOf w) imm)
  | 0x10 => some (.cgtui t (pdOf w) (raOf w) imm)
  | 0x11 => some (.movh t (rdOf w) (raOf w) imm)
  | _ => none

/-- The instruction that stands at the start of a list of code words, as thread `t` issues it; none where the words
raise ILLEGAL_INSTRUCTION (R107, R108). -/
def decodeInstr (t : Tid) (ws : List Word) : Option Instr :=
  match ws with
  | [] => none
  | w :: rest =>
    if illegalAt w rest.head? then none
    else if wfld w 31 26 = 0x3E then rest.head?.bind fun v => decodeWide t (some w) v
    else match decodeWide t none w with
      | some i => some i
      | none => decodePlain t w

end Sys2Proof.Machine
end

