-- ==== Sys2Proof/Safety.lean ====
section
/-! DEFINITION. What a sound state is and what a safe step is, in the terms the claims use. -/

namespace Sys2Proof

open Machine

/-- The keys of a list of pairs rise. -/
abbrev Rising {α : Type} (m : Sparse α) : Prop := m.Pairwise fun p q => p.1 < q.1

/-- The canonical forms of a state: memory, register words, and the general registers and header buffers of threads
are listed with rising keys, and no entry equals what an unlisted one reads as; threads and frames are listed once
each, by rising number. -/
abbrev Canonical (s : State) : Prop :=
  Memory.wf s.mem ∧ sparseWf resetWord s.words ∧ Rising s.threads ∧ Rising s.frames ∧
    ∀ p ∈ s.threads, sparseWf (fun _ => 0) p.2.g ∧ sparseWf (fun _ => 0) p.2.hdr

/-- A device whose clock is in range and that nothing holds in reset or has stopped. -/
abbrev Live (s : State) : Prop := s.power.clockVoid = false ∧ running s = true

/-- A command that answers a next state: no fault and no refusal. -/
def Completes (c : Instr) (s : State) : Prop := ∃ t, exec c s = .next t

/-! ### Falfimi threads -/

/-- The device runs and the thread can issue the instruction in this tick, over words without error (R81, R110,
R111). -/
abbrev Issues (s : State) (t : Tid) (c : Instr) (named : List Dest) (lendable : Bool) : Prop :=
  Live s ∧ canIssue s t (encodeInstr c) named lendable = true ∧ codeError s t (encodeInstr c).length = false

/-- Other threads and cores are as they were, and the thread's core differs in its issue count only. -/
def OthersKept (t : Tid) (s u : State) : Prop :=
  (∀ t', t' ≠ t → thread u t' = thread s t') ∧ (∀ n, n ≠ coreNum t → Machine.core u n = Machine.core s n) ∧
    ∃ n k, Machine.core u (coreNum t) = { Machine.core s (coreNum t) with issueTick := n, issueCount := k }

/-- Nothing but the thread and its core changed. -/
def OnlyThread (t : Tid) (s u : State) : Prop :=
  u = { s with cores := u.cores, threads := u.threads } ∧ OthersKept t s u

/-- Nothing but the thread, its core and the work due changed, and `d` is the work added. -/
def OnlyThreadDue (t : Tid) (d : Due) (s u : State) : Prop :=
  u = { s with cores := u.cores, threads := u.threads, due := (addDue s d).due } ∧ OthersKept t s u

/-- The thread as it stands once the instruction has issued: a step of the debug port ends, and a halt asked
for comes about (R80, R101). -/
def issuedThread (s : State) (t : Tid) : Thread :=
  let th := thread s t
  { th with
    issued := some (now s), halted := haltsNow s t || th.stepping,
    haltFrom := if haltsNow s t then none else th.haltFrom, stepping := false }

/-- The thread moved past `words` words, and nothing else of it changed but what pends. -/
abbrev Advanced (t : Tid) (words : Nat) (s u : State) : Prop :=
  thread u t = { issuedThread s t with
    pc := (thread s t).pc + BitVec.ofNat 32 (4 * words), pend := (thread u t).pend }

/-- The results pending after one more: `d` takes `v` from tick `ready` on; g0 and p0 take nothing (R76, R110). -/
def PendsAfter (th : Thread) (d : Dest) (v : Option DWord) (ready : Nat) : List Pend :=
  if d = .g 0 ∨ d = .p 0 then th.pend else th.pend ++ [⟨d, v, some ready⟩]

/-- The thread moved past `words` words, and `v` pends for `d`, usable `l` ticks on; nothing is written when `v` is
none (R110, R112). -/
abbrev Pends (t : Tid) (d : Dest) (v : Option DWord) (l words : Nat) (s u : State) : Prop :=
  Advanced t words s u ∧ (thread u t).pend = PendsAfter (thread s t) d v (now s + l)

/-- An instruction of one result in the next tick, and nothing else of the machine changed. -/
def OneResult (t : Tid) (d : Dest) (v : Option DWord) (words : Nat) (s u : State) : Prop :=
  OnlyThread t s u ∧ Pends t d v 1 words s u

/-- Every thread but one is as it was. -/
def ThreadsKept (t : Tid) (s u : State) : Prop := ∀ t', t' ≠ t → thread u t' = thread s t'

/-- What a thread awaits after an operation whose result comes later: g0 takes nothing (R76, R95). -/
def Awaiting (th : Thread) (rd : BitVec 5) : List Pend := if rd = 0 then th.pend else th.pend ++ [⟨.g rd, none, none⟩]

/-- The thread with the result that it awaited in RD, usable from tick `ready` on (R95). -/
def Filled (th : Thread) (rd : BitVec 5) (v ready : Nat) : Thread :=
  { th with pend := th.pend.map fun p => if p.dest = .g rd then ⟨.g rd, some (BitVec.ofNat 64 v), some ready⟩ else p }

/-- An operation is on its way to the lock unit, which takes it in the next tick (R95). -/
abbrev ToLockUnit (t : Tid) (phase : Nat) (who : Option Tid) (op : LockOp) (s u : State) : Prop :=
  OnlyThreadDue t ⟨now s + 1, phase, tidNum t, .lockUnit t op, who⟩ s u

/-- The lock unit answered the status and changed nothing else (R94, R95). -/
abbrev Answered (t : Tid) (rd : BitVec 5) (v : Nat) (s u : State) : Prop :=
  u = { s with threads := u.threads } ∧ ThreadsKept t s u ∧ thread u t = Filled (thread s t) rd v (now s + 1)

/-- A device operation's status `v` in RD with latency `l`. -/
abbrev Status (t : Tid) (rd : BitVec 5) (v l : Nat) (s u : State) : Prop :=
  Pends t (.g rd) (some (BitVec.ofNat 64 v)) l 1 s u

/-- The command answers a next state, and that state is as `P` says. -/
def Runs (c : Instr) (s : State) (P : State → Prop) : Prop := ∃ u, exec c s = .next u ∧ P u

/-- The thread raised a fault, for which its core stops at the end of the tick, and did nothing else (R88). -/
def Faults (t : Tid) (code : Nat) (s u : State) : Prop :=
  OnlyThread t s u ∧ ((thread u t).fault.map fun f => f.code) = some code ∧
    thread u t = { issuedThread s t with fault := (thread u t).fault }

/-! ### Registers -/

/-- A register write of a function reaches the register at `off` (R389, R391, R409). -/
abbrev MayWrite (s : State) (fn : FnId) (off : Nat) : Prop :=
  Live s ∧ reachable s fn = true ∧ (fn = pf0h1 → mirror s ≠ 1) ∧ (fn.fn = 0 ∨ tenantView s fn off = true)

/-- A host read of a function is taken (R409). -/
abbrev MayRead (s : State) (fn : FnId) : Prop := Live s ∧ reachable s fn = true

/-- A record of the code and DETAIL joins the queue of its source, when that holds fewer than 16 (R484, R486). -/
def Recorded (source code d : Nat) (s u : State) : Prop :=
  let q := (look s.recorder.queues source).getD []
  q.length < 16 → ∃ e, look u.recorder.queues source = some (q ++ [e]) ∧ e.code = code ∧
    e.detail = BitVec.ofNat 64 d ∧ e.tick = s.tick

/-- One more drop is counted at a place under a reason, and none elsewhere (R25, R31). -/
def Drops (w : DropAt) (reason : Nat) (s u : State) : Prop :=
  dropCount u w reason = dropCount s w reason + 1 ∧
    ∀ k, k ≠ dropKey w reason → look u.drops k = look s.drops k

/-- The 64-bit counter at `a` rose by one. -/
abbrev Counted64 (a : Nat) (s u : State) : Prop := word64 u a = (word64 s a + 1) % 2 ^ 64

/-- The 32-bit counter at `a` rose by one. -/
abbrev Counted (a : Nat) (s u : State) : Prop := word u a = word s a + 1

/-- A device at rest: beside time, memory, registers and threads, everything is as after reset. -/
abbrev Quiet (s : State) : Prop :=
  s = { State.reset with
    tick := s.tick, tbs := s.tbs, words := s.words, mem := s.mem, power := s.power, threads := s.threads }

/-- Register words outside `as` read as before. -/
def WordsKept (as : List Nat) (s u : State) : Prop := ∀ a, a ∉ as → word u a = word s a

/-- The uncommitted values of the function in the block are taken into a commit request of this tick, which takes
effect under R40 (R39, R515). -/
abbrev Requests (b : Blk) (fn : FnId) (s u : State) : Prop :=
  u.shadow = (s.shadow.filter fun x => !(x.blk == b && x.fn == fn)) ∧
    u.commits = s.commits ++ [⟨b, fn, now s, effectRound (now s),
      (s.shadow.filter fun x => x.blk == b && x.fn == fn).map fun x => (x.addr, x.mask, x.val), .regs, 0⟩]

end Sys2Proof
end

