-- ==== Sys2Proof/WellFormed.lean ====
section
/-! DEFINITION. Which commands are well formed: where an operand's Lean type holds more than the field of the
specification does, the operand lies in the field. A meaning is total on ill-formed commands too; nothing on the
links, pins or buses of the device can spell them. -/

namespace Sys2Proof

open Machine (encodeInstr illegalAt)

/-- An offset in Device Control Space (R10). -/
def okOffset (off : Nat) : Bool := decide (off < 2 ^ 28)

/-- An offset in Device Control Space, or 2^32 and more for a byte of the expansion ROM (R392). -/
def okBarOffset (off : Nat) : Bool := okOffset off || decide (2 ^ 32 ≤ off ∧ off < 2 ^ 32 + 2 ^ 20)

/-- Length of a host access to a BAR: 4 or 8 bytes (R13). -/
def okAccess (len : Nat) : Bool := len == 4 || len == 8

/-- Bytes that one memory write of a peer may carry (R405). -/
def okPayload (data : List Byte) : Bool := decide (0 < data.length ∧ data.length ≤ 4096)

/-- A tag of a non-posted request (R386). -/
def okTag (tag : Nat) : Bool := decide (tag < 4096)

/-- The fields of a CLASS payload, each in its width (R170). -/
def okClass (p : ClassPayload) : Bool :=
  decide (p.cls < 2 ^ 8 ∧ p.owner < 2 ^ 16 ∧ p.k < 2 ^ 16 ∧ p.s < 2 ^ 8 ∧ p.a < 2 ^ 16 ∧ p.c < 2 ^ 32 ∧
    p.group < 2 ^ 8 ∧ p.cores.length < 2 ^ 8) &&
    p.cores.all fun c => decide (c.1 < 32 ∧ c.2 < 16)

/-- The numbers of an NVMe command: queue and command identifier of 16 bits. -/
def okNvme (id : NvmeId) : Bool := decide (id.qid < 2 ^ 16 ∧ id.cid < 2 ^ 16)

/-- The first word and, after an X word, the second raise no ILLEGAL_INSTRUCTION (R107, R108). -/
def okWords : List Word → Bool
  | [w] => !illegalAt w none
  | [x, w] => !illegalAt x (some w)
  | _ => true

/-- A well-formed command. -/
def Instr.wf (i : Instr) : Bool :=
  okWords (encodeInstr i) &&
  match i with
  | .registerWrite _ off _ _ _ | .counterLowRead _ off _ | .lateMaxRead _ off | .registerReadUnaligned _ off _ =>
    okBarOffset off
  | .mbxF2hRead _ off _ => okOffset off
  | .frameReceive _ bytes _ _ _ => decide (0 < bytes.length ∧ bytes.length ≤ 2 ^ 16)
  | .doorbell _ page off len _ => decide (page < 65536 ∧ off < 4096) && okAccess len
  | .peerSlotWrite _ _ off data => decide (off < 2 ^ 24) && okPayload data
  | .peerDoorbell _ _ off len _ => decide (off < 2 ^ 24) && decide (0 < len ∧ len ≤ 8)
  | .peerPublish _ _ off _ | .bar4NonPosted _ _ off => decide (off < 2 ^ 24)
  | .peerUnmatchedWrite _ _ off len => decide (off < 2 ^ 24 ∧ len ≤ 4096)
  | .completionTimeout _ tag | .unexpectedCompletion _ tag _ | .tagQuarantineEnd _ tag
  | .readCompletion _ tag _ _ _ _ => okTag tag
  | .l0pEnter _ n => decide (n ≤ 100)
  | .load _ _ _ len cls => decide (len < 2 ^ 32 ∧ cls < 2 ^ 8)
  | .unload _ _ cls => decide (cls < 2 ^ 8)
  | .classRequest _ _ p => okClass p
  | .nvmeDoorbell _ q _ _ => decide (q < 2 ^ 16)
  | .nvmeCommandFetch _ q cid op nsid bytes =>
    decide (q < 2 ^ 16 ∧ cid < 2 ^ 16 ∧ op < 2 ^ 8 ∧ nsid < 2 ^ 32 ∧ bytes < 2 ^ 32)
  | .deleteIoSubmissionQueue id q | .deleteIoCompletionQueue id q => okNvme id && decide (q < 2 ^ 16)
  | .createIoSubmissionQueue id q n cq _ => okNvme id && decide (q < 2 ^ 16 ∧ n ≤ 2 ^ 16 ∧ cq < 2 ^ 16)
  | .createIoCompletionQueue id q n v _ _ => okNvme id && decide (q < 2 ^ 16 ∧ n ≤ 2 ^ 16 ∧ v < 2 ^ 16)
  | .getLogPage id _ _ | .setFeatures id _ _ | .getFeatures id _ | .asynchronousEventRequest id
  | .remoteCompletion id _ | .commandTimeout id => okNvme id
  | .identify id _ nsid | .flush id nsid => okNvme id && decide (nsid < 2 ^ 32)
  | .abort id sq target => okNvme id && decide (sq < 2 ^ 16 ∧ target < 2 ^ 16)
  | .write id nsid lba n _ _ _ _ | .read id nsid lba n _ _ | .writeZeroes id nsid lba n =>
    okNvme id && decide (nsid < 2 ^ 32 ∧ lba < 2 ^ 64 ∧ 0 < n ∧ n ≤ 2 ^ 16)
  | .datasetManagement id nsid _ ranges => okNvme id && decide (nsid < 2 ^ 32 ∧ ranges.length ≤ 256)
  | .unreachTimeout _ q cid nsid => decide (q < 2 ^ 16 ∧ cid < 2 ^ 16 ∧ nsid < 2 ^ 32)
  | .pkeyEnroll _ _ slot kh => decide (slot < 2 ^ 8 ∧ kh.length = 48)
  | .pkeyRevoke _ _ slot payload => decide (slot < 2 ^ 8 ∧ payload.length = 168)
  | .evrClear _ _ token => decide (token.length = 256)
  | .challenge _ slot nonce => decide (slot < 8 ∧ nonce.length = 32)
  | .getCertificate _ slot off len => decide (slot < 8 ∧ off < 2 ^ 16 ∧ len < 2 ^ 16)
  | .getMeasurements _ index _ => decide (index < 2 ^ 8)
  | .clusterReset _ n | .rstSpare _ n => decide (n < 32)
  | .sensorRead temps => temps.length == 16
  | .ncsiCommand ch _ payload => decide (ch < 32 ∧ payload.length < 2 ^ 12)
  | _ => true

end Sys2Proof
end

