-- ==== Sys2Proof/Certificates/Slice0/Obligations.lean ====
section
/-! DEFINITION. The statements about the model. -/

open Sys2Proof Sys2Proof.Machine

/-- A step takes the command at the front of the queue and runs it on the rest. -/
def Obligations.StepRunsFront : Prop :=
  ∀ (c : Instr) (s : State), step { s with pending := c :: s.pending } = exec c s

/-- A device whose clock is in range and that nothing holds in reset or has stopped completes every command. Once
REF_CLK is lost every command but the assertion of PERST0_N and the loss of VDD_AON faults by that name; a device that
is held in reset or has stopped takes no command but those of power, clocks and reset inputs, and the completion of a
copy to flash, and stays as it is. -/
def Obligations.VoidAndStopped : Prop :=
  ∀ (c : Instr) (s : State),
    (Live s → Completes c s) ∧
    (s.power.clockVoid = true → c ≠ .perst0NAssert → c ≠ .vddAonLoss → exec c s = .fault .clockVoid) ∧
    (s.power.clockVoid = false → running s = false →
      (∀ r, c ≠ .railUndervoltage r ∧ c ≠ .railSequence r ∧ c ≠ .railInRange r) → (∀ b, c ≠ .fundamentalReset b) →
      c ∉ [.perst0NAssert, .vddAonLoss, .powerOn, .copyComplete] → exec c s = .next s)

/-- What reset leaves: a running device in Daybreak with the tick count, full time, the epoch base and the Midnight
count at 0 and INCR at 2^42, no lock requested or in force, cluster 16 in the spare role and the others active, both
host links down, nothing in memory, no frame, thread or entry, and BOOT 1 with its first records. -/
def Obligations.ResetValues : Prop :=
  let s := State.reset
  Live s ∧ s.tick = 0 ∧ fullUnits s = 0 ∧ s.tbs.base = 0 ∧ s.tbs.midnights = 0 ∧ s.tbs.incr = 2 ^ 42 ∧
    stage s = 0 ∧ word s 0x200000 = 0 ∧ word s 0x200004 = 0 ∧ clusterRole s 16 = 1 ∧
    (∀ n, n < 16 → clusterRole s n = 0) ∧ (endpoint s .h0).down = true ∧ (endpoint s .h1).down = true ∧
    s.mem = [] ∧ s.frames = [] ∧ s.threads = [] ∧ s.entries = [] ∧ s.pending = [] ∧ s.recorder.boot = 1 ∧
    (s.recorder.morning.map fun e => e.code) = [1]

/-- The reset state is canonical. -/
def Obligations.ResetCanonical : Prop := Canonical State.reset

/-- Every step keeps the canonical forms: memory and register words list rising keys and nothing at its reset value,
and so do every thread's registers and header buffer, and threads and frames stand by rising number. -/
def Obligations.CanonicalKept : Prop := ∀ s t : State, Canonical s → step s = .next t → Canonical t

/-- The words of every well-formed Falfimi instruction decode to it, with every operand at every value that its
encoding admits; and the words that decode to an instruction are that instruction's, so that no bit of a legal word is
dropped. -/
def Obligations.WordsRoundTrip : Prop :=
  (∀ i : Instr, i.wf = true → encodeInstr i ≠ [] → ∃ t, decodeInstr t (encodeInstr i) = some i) ∧
    ∀ (t : Tid) (ws : List Word) (i : Instr), decodeInstr t ws = some i →
      encodeInstr i = ws.take (encodeInstr i).length ∧ encodeInstr i ≠ [] ∧ i.wf = true

/-- Two-operand ALU instructions: g[RD] takes the function of the row of R113 one tick on when the guard holds, and is
not written when it does not. Nothing else of the machine changes. SEL writes g[RA] or g[RB] by the guard; CLZ, CTZ
and POPC count bits, 64 for a zero operand of CLZ and CTZ; the byte swaps reverse the low 2, 4 or 8 bytes. -/
def Obligations.AluResults : Prop :=
  (∀ (t : Tid) (rd ra rb : BitVec 5) (gd : Guard) (s : State),
     let a := gReg (thread s t) ra
     let b := gReg (thread s t) rb
     let gives := fun (c : Instr) (v : DWord) => Issues s t c [.g rd, .g ra, .g rb, .p gd.pq] true →
       Runs c s (OneResult t (.g rd) (if guardOf (thread s t) gd then some v else none) 1 s)
     gives (.add t rd ra rb gd) (a + b) ∧ gives (.sub t rd ra rb gd) (a - b) ∧ gives (.mul t rd ra rb gd) (a * b) ∧
     gives (.mulhu t rd ra rb gd) (BitVec.ofNat 64 (a.toNat * b.toNat / 2 ^ 64)) ∧
     gives (.and_ t rd ra rb gd) (a &&& b) ∧ gives (.or_ t rd ra rb gd) (a ||| b) ∧
     gives (.xor_ t rd ra rb gd) (a ^^^ b) ∧ gives (.andn t rd ra rb gd) (a &&& ~~~b) ∧
     gives (.shl t rd ra rb gd) (a <<< (b.toNat % 64)) ∧ gives (.shr t rd ra rb gd) (a >>> (b.toNat % 64)) ∧
     gives (.sar t rd ra rb gd) (a.sshiftRight (b.toNat % 64)) ∧
     gives (.rol t rd ra rb gd) (a.rotateLeft (b.toNat % 64)) ∧
     gives (.min_ t rd ra rb gd) (if a.toInt < b.toInt then a else b) ∧
     gives (.max_ t rd ra rb gd) (if a.toInt < b.toInt then b else a) ∧
     gives (.minu t rd ra rb gd) (if a.toNat < b.toNat then a else b) ∧
     gives (.maxu t rd ra rb gd) (if a.toNat < b.toNat then b else a)) ∧
  (∀ (t : Tid) (rd ra rb : BitVec 5) (gd : Guard) (s : State),
     let a := gReg (thread s t) ra
     let b := gReg (thread s t) rb
     let gives := fun (c : Instr) (v : DWord) => Issues s t c [.g rd, .g ra, .g 0, .p gd.pq] true →
       Runs c s (OneResult t (.g rd) (if guardOf (thread s t) gd then some v else none) 1 s)
     (Issues s t (.sel t rd ra rb gd) [.g rd, .g ra, .g rb, .p gd.pq] true →
       Runs (.sel t rd ra rb gd) s
         (OneResult t (.g rd) (some (if guardOf (thread s t) gd then a else b)) 1 s)) ∧
     (∃ v : DWord, gives (.clz t rd ra gd) v ∧ (a = 0 → v = 64) ∧
       (a ≠ 0 → v.toNat < 64 ∧ 2 ^ (63 - v.toNat) ≤ a.toNat ∧ a.toNat < 2 ^ (64 - v.toNat))) ∧
     (∃ v : DWord, gives (.ctz t rd ra gd) v ∧ (a = 0 → v = 64) ∧
       (a ≠ 0 → v.toNat < 64 ∧ a.toNat % 2 ^ v.toNat = 0 ∧ a.toNat / 2 ^ v.toNat % 2 = 1)) ∧
     gives (.popc t rd ra gd) (BitVec.ofNat 64 ((List.range 64).countP fun i => a.getLsbD i)) ∧
     (∃ v : DWord, gives (.bsw16 t rd ra gd) v ∧ le 2 v.toNat = be 2 a.toNat ∧ v.toNat < 2 ^ 16) ∧
     (∃ v : DWord, gives (.bsw32 t rd ra gd) v ∧ le 4 v.toNat = be 4 a.toNat ∧ v.toNat < 2 ^ 32) ∧
     (∃ v : DWord, gives (.bsw64 t rd ra gd) v ∧ le 8 v.toNat = be 8 a.toNat))

/-- I-format arithmetic and field instructions: g[RD] takes the function of the row of R114 one tick on. -/
def Obligations.ImmediateResults : Prop :=
  ∀ (t : Tid) (rd ra : BitVec 5) (imm : Imm) (sh pos lenM1 : BitVec 6) (s : State),
    let a := gReg (thread s t) ra
    let gives := fun (c : Instr) (v : DWord) (words : Nat) => Issues s t c [.g rd, .g ra] true →
      Runs c s (OneResult t (.g rd) (some v) words s)
    gives (.addi t rd ra imm) (a + immS imm) (immWords imm) ∧
    gives (.andi t rd ra imm) (a &&& immZ imm) (immWords imm) ∧
    gives (.ori t rd ra imm) (a ||| immZ imm) (immWords imm) ∧
    gives (.xori t rd ra imm) (a ^^^ immZ imm) (immWords imm) ∧
    gives (.shli t rd ra sh) (a <<< sh.toNat) 1 ∧ gives (.shri t rd ra sh) (a >>> sh.toNat) 1 ∧
    gives (.sari t rd ra sh) (a.sshiftRight sh.toNat) 1 ∧
    ((∀ x, imm.high = some x → x.toNat < 2 ^ 16) →
      gives (.movh t rd ra imm) (((immS imm).truncate 32 : BitVec 32) ++ (a.truncate 32 : BitVec 32)) (immWords imm)) ∧
    (pos.toNat + lenM1.toNat + 1 ≤ 64 →
      gives (.extf t rd ra pos lenM1) (BitVec.ofNat 64 (a.toNat / 2 ^ pos.toNat % 2 ^ (lenM1.toNat + 1))) 1 ∧
      ∃ v : DWord, gives (.insf t rd ra pos lenM1) v 1 ∧ ∀ i, i < 64 →
        v.getLsbD i = if pos.toNat ≤ i ∧ i ≤ pos.toNat + lenM1.toNat then a.getLsbD (i - pos.toNat)
          else (gReg (thread s t) rd).getLsbD i)

/-- Compares: p[PD] takes the condition one tick on; a register compare writes nothing when its guard fails. -/
def Obligations.CompareResults : Prop :=
  ∀ (t : Tid) (pd : BitVec 3) (ra rb : BitVec 5) (gd : Guard) (imm : Imm) (s : State),
    let a := gReg (thread s t) ra
    let b := gReg (thread s t) rb
    let bit := fun (v : Bool) => (if v then 1 else 0 : DWord)
    let gives := fun (c : Instr) (v : Bool) => Issues s t c [.p pd, .g ra, .g rb, .p gd.pq] true →
      Runs c s (OneResult t (.p pd) (if guardOf (thread s t) gd then some (bit v) else none) 1 s)
    let givesI := fun (c : Instr) (v : Bool) => Issues s t c [.p pd, .g ra] true →
      Runs c s (OneResult t (.p pd) (some (bit v)) (immWords imm) s)
    gives (.ceq t pd ra rb gd) (decide (a = b)) ∧ gives (.cne t pd ra rb gd) (decide (a ≠ b)) ∧
    gives (.clt t pd ra rb gd) (decide (a.toInt < b.toInt)) ∧ gives (.cltu t pd ra rb gd) (decide (a.toNat < b.toNat)) ∧
    gives (.cle t pd ra rb gd) (decide (a.toInt ≤ b.toInt)) ∧ gives (.cleu t pd ra rb gd) (decide (a.toNat ≤ b.toNat)) ∧
    gives (.tst t pd ra rb gd) (decide (a &&& b ≠ 0)) ∧ gives (.tstz t pd ra rb gd) (decide (a &&& b = 0)) ∧
    givesI (.ceqi t pd ra imm) (decide (a = immS imm)) ∧ givesI (.cnei t pd ra imm) (decide (a ≠ immS imm)) ∧
    givesI (.clti t pd ra imm) (decide (a.toInt < (immS imm).toInt)) ∧
    givesI (.cltui t pd ra imm) (decide (a.toNat < (immZ imm).toNat)) ∧
    givesI (.cgti t pd ra imm) (decide ((immS imm).toInt < a.toInt)) ∧
    givesI (.cgtui t pd ra imm) (decide ((immZ imm).toNat < a.toNat))

/-- Predicate instructions: p[PD] takes the function of its operands, PGET reads all predicates, and PPUT pends bits 1
to 7 of g[RA] for p1 to p7. -/
def Obligations.PredicateResults : Prop :=
  ∀ (t : Tid) (pd pa pb : BitVec 3) (rd ra : BitVec 5) (gd : Guard) (s : State),
    let a := pReg (thread s t) pa
    let b := pReg (thread s t) pb
    let held := guardOf (thread s t) gd
    let bit := fun (v : Bool) => (if v then 1 else 0 : DWord)
    let gives := fun (c : Instr) (named : List Dest) (v : Bool) => Issues s t c named true →
      Runs c s (OneResult t (.p pd) (if held then some (bit v) else none) 1 s)
    gives (.pand t pd pa pb gd) [.p pd, .p pa, .p pb, .p gd.pq] (a && b) ∧
    gives (.por t pd pa pb gd) [.p pd, .p pa, .p pb, .p gd.pq] (a || b) ∧
    gives (.pxor t pd pa pb gd) [.p pd, .p pa, .p pb, .p gd.pq] (xor a b) ∧
    gives (.pandn t pd pa pb gd) [.p pd, .p pa, .p pb, .p gd.pq] (a && !b) ∧
    gives (.pnot t pd pa gd) [.p pd, .p pa, .p 0, .p gd.pq] (!a) ∧
    gives (.pnz t pd ra gd) [.p pd, .g ra, .p gd.pq] (decide (gReg (thread s t) ra ≠ 0)) ∧
    (Issues s t (.pget t rd gd) (.g rd :: .p gd.pq :: allPreds) true → ∃ v : DWord,
      Runs (.pget t rd gd) s (OneResult t (.g rd) (if held then some v else none) 1 s) ∧
      ∀ n : BitVec 3, v.getLsbD n.toNat = pReg (thread s t) n) ∧
    (Issues s t (.pput t ra gd) (.g ra :: .p gd.pq :: allPreds) true →
      Runs (.pput t ra gd) s fun u => OnlyThread t s u ∧ Advanced t 1 s u ∧
        (thread u t).pend = (thread s t).pend ++ [1, 2, 3, 4, 5, 6, 7].map fun n : BitVec 3 =>
          ⟨.p n, if held then some (bit ((gReg (thread s t) ra).getLsbD n.toNat)) else none, some (now s + 1)⟩)

/-- Loads and stores of the header buffer, the local slice and the cluster's shared memory, within bounds and over
memory without error: a load pends the bytes, in wire order or least significant first, with latency 1, 2 or 6; a
store writes the low bytes of g[RT] and nothing else; shared memory is written at the end of the tick after the next
two. -/
def Obligations.LoadsAndStores : Prop :=
  ∀ (t : Tid) (rt ra : BitVec 5) (sz : MemSize) (lsb sx : Bool) (off : BitVec 12) (s : State),
    let ea := (effAddr (thread s t) ra off).toNat
    let n := MemSize.bytes sz
    let here := sliceAddr t ea
    let shared := shmAddr t.cluster.val ((partition s t).1 + ea)
    let by_ := fun (c : Instr) => (⟨t, (thread s t).pc, lastWord c, effAddr (thread s t) ra off,
      (thread s t).start⟩ : AccessBy)
    let noExt := (sx && sz == .double) = false
    (Issues s t (.hld t rt ra sz lsb sx off) [.g rt, .g ra] true → noExt → ea + n ≤ 512 → hdrError s t ea n = false →
      Runs (.hld t rt ra sz lsb sx off) s (OneResult t (.g rt)
        (some (extend n sx (if lsb then leNat (hdrBytes (thread s t) ea n) else beNat (hdrBytes (thread s t) ea n))))
        1 s)) ∧
    (Issues s t (.hst t rt ra sz lsb off) [.g rt, .g ra] true → 64 ≤ ea → ea + n ≤ 512 → hdrError s t ea n = false →
      Canonical s → Runs (.hst t rt ra sz lsb off) s fun u =>
        u = { s with cores := u.cores, threads := u.threads, errors := u.errors } ∧ OthersKept t s u ∧
        thread u t = { issuedThread s t with
          pc := (thread s t).pc + 4, lastOfTick := some (now s), hdr := (thread u t).hdr } ∧
        hdrBytes (thread u t) ea n = (if lsb then le n (gReg (thread s t) rt).toNat
          else be n (gReg (thread s t) rt).toNat) ∧
        ∀ i, i < ea ∨ ea + n ≤ i → hdrByte (thread u t) i = hdrByte (thread s t) i) ∧
    (Issues s t (.lld t rt ra sz sx off) [.g rt, .g ra] true → noExt → ea + n ≤ 0x4000 → ea % n = 0 →
      memError s here n = false →
      Runs (.lld t rt ra sz sx off) s fun u => OnlyThread t s u ∧
        Pends t (.g rt) (some (extend n sx (leNat (readBytes s here n)))) 2 1 s u) ∧
    (Issues s t (.lst t rt ra sz off) [.g rt, .g ra] true → ea + n ≤ 0x4000 → ea % n = 0 → memError s here n = false →
      Canonical s → Runs (.lst t rt ra sz off) s fun u =>
        u = { s with cores := u.cores, threads := u.threads, errors := u.errors, mem := u.mem } ∧ OthersKept t s u ∧
        thread u t = { issuedThread s t with pc := (thread s t).pc + 4, lastOfTick := some (now s) } ∧
        readBytes u here n = le n (gReg (thread s t) rt).toNat ∧
        ∀ x, x < here ∨ here + n ≤ x → readByte u x = readByte s x) ∧
    (Issues s t (.sld t rt ra sz sx off) [.g rt, .g ra] false → noExt → ea + n ≤ (partition s t).2 → ea % n = 0 →
      Runs (.sld t rt ra sz sx off) s fun u => Pends t (.g rt) none 6 1 s u ∧
        OnlyThreadDue t ⟨now s + 3, 1, tidNum t, .shmRead (by_ (.sld t rt ra sz sx off)) rt shared n sx (now s + 6),
          some t⟩ s u) ∧
    (Issues s t (.sst t rt ra sz off) [.g rt, .g ra] false → ea + n ≤ (partition s t).2 → ea % n = 0 →
      Runs (.sst t rt ra sz off) s fun u =>
        u = { s with cores := u.cores, threads := u.threads, errors := u.errors, due := (addDue s
          ⟨now s + 3, 0, tidNum t, .shmWrite (by_ (.sst t rt ra sz off)) shared
            (le n (gReg (thread s t) rt).toNat), none⟩).due } ∧
        OthersKept t s u ∧
        thread u t = { issuedThread s t with pc := (thread s t).pc + 4, lastOfTick := some (now s) })

/-- EXTF and INSF of a field beyond bit 63, and MOVH whose widened immediate has bits 41 to 32 set, raise
ILLEGAL_INSTRUCTION; a load with SX of 8 bytes does too, a loop of no body or counted in g0 or g31, and a CALL at
depth 4 and a RET at depth 0 whose condition holds. A load or store outside its space, or of a slice or shared address
that is not a multiple of its size, raises ACCESS_BOUND. -/
def Obligations.FaultingForms : Prop :=
  (∀ (t : Tid) (rd ra : BitVec 5) (imm : Imm) (pos lenM1 : BitVec 6) (lsb : Bool) (off : BitVec 12)
     (max body : BitVec 10) (reg : Bool) (cd : Cond) (target : BitVec 22) (s : State),
     let th := thread s t
     let faults := fun (c : Instr) (named : List Dest) (lend : Bool) => Issues s t c named lend →
       Runs c s (Faults t faultIllegal s)
     (64 < pos.toNat + lenM1.toNat + 1 →
       faults (.extf t rd ra pos lenM1) [.g rd, .g ra] true ∧ faults (.insf t rd ra pos lenM1) [.g rd, .g ra] true) ∧
     ((∃ x, imm.high = some x ∧ 2 ^ 16 ≤ x.toNat) → faults (.movh t rd ra imm) [.g rd, .g ra] true) ∧
     faults (.hld t rd ra .double lsb true off) [.g rd, .g ra] true ∧
     faults (.lld t rd ra .double true off) [.g rd, .g ra] true ∧
     faults (.sld t rd ra .double true off) [.g rd, .g ra] false ∧
     (ra = 0 ∨ ra = 31 ∨ body = 0 → faults (.loop t ra reg max body) [.g ra] true) ∧
     faults (.endl t ra 0) [.g ra] true ∧
     (condOf th cd = true → (4 ≤ th.depth → faults (.call t cd target) [.p cd.pred, .g 31] true) ∧
       (th.depth = 0 → faults (.ret t cd) [.p cd.pred, .g 31] true))) ∧
  (∀ (t : Tid) (rt ra : BitVec 5) (sz : MemSize) (lsb sx : Bool) (off : BitVec 12) (s : State),
     let ea := (effAddr (thread s t) ra off).toNat
     let n := MemSize.bytes sz
     let noExt := (sx && sz == .double) = false
     let faults := fun (c : Instr) (lend : Bool) => Issues s t c [.g rt, .g ra] lend →
       Runs c s (Faults t faultBound s)
     (512 < ea + n → (noExt → faults (.hld t rt ra sz lsb sx off) true) ∧ faults (.hst t rt ra sz lsb off) true) ∧
     (0x4000 < ea + n ∨ ea % n ≠ 0 →
       (noExt → faults (.lld t rt ra sz sx off) true) ∧ faults (.lst t rt ra sz off) true) ∧
     ((partition s t).2 < ea + n ∨ ea % n ≠ 0 →
       (noExt → faults (.sld t rt ra sz sx off) false) ∧ faults (.sst t rt ra sz off) false))

/-- Control flow: BR by DISP words when its condition holds, LOOP with its count or past its body, ENDL back or out,
CALL with the link in g31 and RET back to it, at most 4 deep; none of them is followed by another instruction of the
thread in its tick. -/
def Obligations.ControlFlow : Prop :=
  ∀ (t : Tid) (cd : Cond) (disp target : BitVec 22) (gc : BitVec 5) (reg : Bool) (max body back : BitVec 10)
    (s : State),
    let th := thread s t
    let holds := condOf th cd
    let n := if reg then min (gReg th gc).toNat max.toNat else max.toNat
    let left := (gReg th gc).toNat
    let goes := fun (c : Instr) (named : List Dest) (pc : Word) (pend : List Pend) (depth : Nat) =>
      Issues s t c named true → Runs c s fun u => OnlyThread t s u ∧ thread u t = { issuedThread s t with
        pc := pc, pend := pend, depth := depth, lastOfTick := some (now s) }
    goes (.br t cd disp) [.p cd.pred]
      (if holds then th.pc + BitVec.ofNat 32 (4 * (1 + disp.toNat)) else th.pc + 4) th.pend th.depth ∧
    (gc ≠ 0 → gc ≠ 31 → body ≠ 0 → goes (.loop t gc reg max body) [.g gc]
      (if n = 0 then th.pc + BitVec.ofNat 32 (4 * (1 + body.toNat)) else th.pc + 4)
      (if n = 0 then th.pend else PendsAfter th (.g gc) (some (BitVec.ofNat 64 n)) (now s + 1)) th.depth) ∧
    (back ≠ 0 → goes (.endl t gc back) [.g gc]
      (if left ≤ 1 then th.pc + 4 else th.pc + 4 - BitVec.ofNat 32 (4 * back.toNat))
      (PendsAfter th (.g gc) (some (if left ≤ 1 then 0 else BitVec.ofNat 64 (left - 1))) (now s + 1)) th.depth) ∧
    (th.depth < 4 ∨ holds = false → goes (.call t cd target) [.p cd.pred, .g 31]
      (if holds then BitVec.ofNat 32 (4 * target.toNat) else th.pc + 4)
      (if holds then PendsAfter th (.g 31) (some ((th.pc + 4).zeroExtend 64)) (now s + 1) else th.pend)
      (if holds then th.depth + 1 else th.depth)) ∧
    (0 < th.depth ∨ holds = false → goes (.ret t cd) [.p cd.pred, .g 31]
      (if holds then (if (gReg th 31).toNat < 2 ^ 32 then (gReg th 31).truncate 32 else 0xFFFFFFFC) else th.pc + 4)
      th.pend
      (if holds then th.depth - 1 else th.depth))

/-- LOOKUP over error-free buckets: MISS, or OK with bit 8 for STATIC and bit 9 for LOCK and the value put into the
slice with the status; the entry found is that of the frame's governing round, with the in-band changes ahead of it.
INSERT and DELETE go to the update engine, which resolves them in the next tick against the table in force and every
accepted change: EXISTS, ABSENT and LOCKED change nothing; OK adds one change with the round in which it takes effect.
-/
def Obligations.TableOperations : Prop :=
  (∀ (t : Tid) (rd ra : BitVec 5) (table : BitVec 8) (s : State),
     let th := thread s t
     let a := gReg th ra
     let n := table.toNat
     let r := threadRound s th
     let part := partOf n (tidTenancy s t)
     let key := readBytes s (sliceAddr t a.toNat) (tblKeyBytes s r n)
     let l := tableLatency s r n
     let found := th.base.bind fun f => lookupFor s f n part key
     Issues s t (.lookup t rd ra table) [.g rd, .g ra] false → n < 72 → a.toNat % 8 = 0 → a.toNat + 128 ≤ 0x4000 →
       tableOpen s r n (tidTenancy s t) = true → memError s (sliceAddr t a.toNat) 128 = false →
       keyBad s n part key = false →
       (found = none → Runs (.lookup t rd ra table) s fun u => OnlyThread t s u ∧ Status t rd 1 l s u) ∧
       ∀ v static lock, found = some (v, static, lock) → Runs (.lookup t rd ra table) s fun u =>
         Status t rd ((if static then 256 else 0) + if lock then 512 else 0) l s u ∧
         OnlyThreadDue t ⟨now s + l - 1, 5, tidNum t,
           .sliceWrite t (a.toNat + 64) (slice v 0 (tblValueBytes s r n)), some t⟩ s u) ∧
  ((∀ (t : Tid) (rd ra : BitVec 5) (table : BitVec 8) (s : State),
     let th := thread s t
     let a := gReg th ra
     let n := table.toNat
     let r := threadRound s th
     let part := partOf n (tidTenancy s t)
     let key := readBytes s (sliceAddr t a.toNat) (tblKeyBytes s r n)
     let value := readBytes s (sliceAddr t (a.toNat + 64)) (tblValueBytes s r n)
     let l := tableLatency s r n
     let goes := fun (c : Instr) (op : TableOp) => Issues s t c [.g rd, .g ra] false → Runs c s fun u =>
       OnlyThreadDue t ⟨now s + 1, 0, tidNum t, .tableUnit t op, none⟩ s u ∧ Status t rd 0 l s u
     n < 72 → a.toNat % 8 = 0 → a.toNat + 128 ≤ 0x4000 → tableOpen s r n (tidTenancy s t) = true →
       memError s (sliceAddr t a.toNat) 128 = false →
       goes (.insert t rd ra table) (.insert rd n part key value l) ∧
       goes (.delete t rd ra table) (.delete rd n part key l)) ∧
   (∀ (t : Tid) (rd : BitVec 5) (n part : Nat) (key value : List Byte) (l : Nat) (s : State),
     let i := now s - 1
     let answers := fun (op : TableOp) (v : Nat) (changes : List Change) =>
       let u := tableUnit s t op
       u = { s with threads := u.threads, changes := changes } ∧ ThreadsKept t s u ∧
         thread u t = Filled (thread s t) rd v (i + l)
     let added := fun (op : ChangeOp) (moves : List (List Byte × Nat × Nat)) =>
       s.changes ++ [⟨n, part, key, op, .thread (tidNum t), i, effectRound i, moves, true, i, false, 0, false⟩]
     keyBad s n part key = false →
       ((pendingView s n part key).isSome = true → answers (.insert rd n part key value l) 2 s.changes) ∧
       (∀ b v moves, pendingView s n part key = none → placement s n part key = some (b, v, moves) →
         answers (.insert rd n part key value l) 0 (added (.insert value false b v) moves)) ∧
       (pendingView s n part key = none → answers (.delete rd n part key l) 3 s.changes) ∧
       ∀ v static lock, pendingView s n part key = some (v, static, lock) →
         answers (.delete rd n part key l) (if lock then 6 else 0) (if lock then s.changes else added .delete [])))

/-- LEARN in a bridge domain of the tenancy goes to the learning engine, but NO_SOURCE for a frame of the device's own
sources; the engine takes it in the next tick into the batch of that round, from a port or function whose limit is not
0 and with learning on, and otherwise records nothing. CLASSIFY answers the matching rule with its set number and the
high half of its action, or the set number alone, 24 ticks on; HASH answers the hash of the bytes 3 ticks on. -/
def Obligations.LearnClassifyHash : Prop :=
  ((∀ (t : Tid) (rd ra rb : BitVec 5) (f : Frame) (s : State),
     let th := thread s t
     let bd := (gReg th ra).toNat
     let mac := gReg th rb
     Issues s t (.learn t rd ra rb) [.g rd, .g ra, .g rb] false → bd < 4096 → mac.toNat < 2 ^ 48 →
       bdTenancy s (threadRound s th) bd = tidTenancy s t → th.base = some f →
       (tagSrcKind f.tag = 3 → Runs (.learn t rd ra rb) s fun u => OnlyThread t s u ∧ Status t rd 7 2 s u) ∧
       (tagSrcKind f.tag ≠ 3 → Runs (.learn t rd ra rb) s fun u => Status t rd 0 2 s u ∧
         OnlyThreadDue t ⟨now s + 1, 0, tidNum t, .tableUnit t (.learn bd (BitVec.ofNat 48 mac.toNat)
           (tagSource f.tag) (tag64 f.tag 1) f.id f.round), none⟩ s u)) ∧
   (∀ (t : Tid) (bd src ingress f r : Nat) (mac : BitVec 48) (s : State),
     let op := TableOp.learn bd mac src ingress f r
     let here := (s.learns.filter fun l => l.round == round s).length
     let on := (learnTable s (round s) bd).isSome = true ∧ word s (srcAddr (sourceNumber src) 0) ≠ 0
     (¬on → tableUnit s t op = s) ∧
     (on → here < 4096 → bit (wordAt s r (srcAddr (sourceNumber src) 4)) 1 = false →
       tableUnit s t op = { s with learns := s.learns ++ [⟨round s, bd, mac, BitVec.ofNat 12 src, ingress, here⟩] }))) ∧
  (∀ (t : Tid) (rd ra rb : BitVec 5) (num : BitVec 8) (func : BitVec 2) (header : Bool) (set : RuleSet) (f : Frame)
     (s : State),
     let th := thread s t
     let a := (gReg th ra).toNat
     let n := (gReg th rb).toNat
     let key := readBytes s (sliceAddr t a) 80
     let gives := fun (c : Instr) (named : List Dest) (v l : Nat) => Issues s t c named false →
       Runs c s fun u => OnlyThread t s u ∧ Status t rd v l s u
     (num.toNat < 64 → a % 8 = 0 → a + 80 ≤ 0x4000 → memError s (sliceAddr t a) 80 = false → th.base = some f →
       ruleSetAt s (threadRound s th) (tidTenancy s t) num.toNat = some set →
       (classifyKey set key = none → gives (.classify t rd ra num) [.g rd, .g ra] (num.toNat * 2 ^ 20) 24) ∧
       ∀ r, classifyKey set key = some r → gives (.classify t rd ra num) [.g rd, .g ra]
         (r.rule + num.toNat * 2 ^ 20 + 2 ^ 31 + leAt (actionFor s f set r) 4 4 * 2 ^ 32) 24) ∧
     (func.toNat < 2 → n ≤ 48 → a + n ≤ (if header then 512 else 0x4000) → spaceError s t header a n = false →
       gives (.hash t rd ra rb func header) [.g rd, .g ra, .g rb]
         (hashOf s (threadRound s th) func.toNat th.cls
           (if header then hdrBytes th a n else readBytes s (sliceAddr t a) n)) 3))

/-- Flow-context operations on a context of the tenancy: FCLD is to read it 24 ticks on, FCST to write the block's 128
bytes then, FCSTV to compare bytes 0 to 7 first; their results come 48 ticks on. CADD adds 24 ticks on, and CRD reads
then with its result 48 ticks on; FETCH copies bytes of the frame as it stood at the thread's start; TIME gives
compact time, the tick count, or full time in two registers. -/
def Obligations.ContextsCountersTime : Prop :=
  (∀ (t : Tid) (rd ra rb : BitVec 5) (fromTag : Bool) (s : State),
     let th := thread s t
     let a := (gReg th ra).toNat
     let c := if fromTag then tagFlow (liveTag th) else (gReg th rb).toNat
     let here := sliceAddr t a
     let ok := (fromTag = true → rb = 0 ∧ hdrError s t 32 4 = false) ∧ c < 2 ^ 24 ∧ a % 8 = 0 ∧
       fcOwned s (threadRound s th) (tidTenancy s t) c = true
     let pends := fun (i : Instr) (d : Due) => Issues s t i [.g rd, .g ra, .g rb] false →
       Runs i s fun u => OnlyThreadDue t d s u ∧ Pends t (.g rd) (some 0) 48 1 s u
     (ok → a + 128 ≤ 0x4000 →
       pends (.fcld t rd ra rb fromTag) ⟨now s + 24, 4, tidNum t, .fcRead t rd c a (now s + 48), some t⟩) ∧
     (ok → a + 128 ≤ 0x4000 → memError s here 128 = false →
       pends (.fcst t rd ra rb fromTag) ⟨now s + 24, 3, tidNum t, .fcWrite c (readBytes s here 128), none⟩) ∧
     (ok → a + 136 ≤ 0x4000 → memError s here 136 = false →
       pends (.fcstv t rd ra rb fromTag) ⟨now s + 24, 3, tidNum t, .fcCompare t rd c a
         ((readBytes s here 136).drop 128) ((readBytes s here 136).take 128) (now s + 48) true, none⟩)) ∧
  (∀ (t : Tid) (rd ra rb : BitVec 5) (bytes : Bool) (blocksM1 : BitVec 3) (s : State),
     let th := thread s t
     let a := (gReg th ra).toNat
     let off := (gReg th rb).toNat
     let n := 64 * (blocksM1.toNat + 1)
     let l := 8 * (blocksM1.toNat + 1)
     (a < 2 ^ 24 → ctrOwned s (threadRound s th) (tidTenancy s t) a = true →
       (Issues s t (.cadd t ra rb) [.g ra, .g rb] false → Runs (.cadd t ra rb) s fun u =>
         OnlyThreadDue t ⟨now s + 24, 3, tidNum t, .counterAdd a (gReg th rb), none⟩ s u ∧
         thread u t = { issuedThread s t with pc := th.pc + 4, lastOfTick := some (now s) }) ∧
       (Issues s t (.crd t rd ra bytes) [.g rd, .g ra] false → Runs (.crd t rd ra bytes) s fun u =>
         OnlyThreadDue t ⟨now s + 24, 4, tidNum t, .counterRead t rd a bytes (now s + 48), some t⟩ s u ∧
         Pends t (.g rd) (some 0) 48 1 s u)) ∧
     (a % 8 = 0 → a + n ≤ 0x4000 → off < th.source.length →
       Issues s t (.fetch t rd ra rb blocksM1) [.g rd, .g ra, .g rb] false → Runs (.fetch t rd ra rb blocksM1) s fun u =>
         OnlyThreadDue t ⟨now s + l - 1, 5, tidNum t, .sliceWrite t a (slice th.source off n), some t⟩ s u ∧
         Status t rd (min n (th.source.length - off)) l s u) ∧
     (Issues s t (.time t rd 0 0) [.g rd, .g 0] false →
       Runs (.time t rd 0 0) s (OneResult t (.g rd) (some (compactNow s)) 1 s)) ∧
     (Issues s t (.time t rd 0 1) [.g rd, .g 0] false →
       Runs (.time t rd 0 1) s (OneResult t (.g rd) (some s.tick) 1 s)) ∧
     (rb ≠ rd ∨ rd = 0 → Issues s t (.time t rd rb 2) [.g rd, .g rb] false → Runs (.time t rd rb 2) s fun u =>
       let p := fullParts (fullUnits s)
       OnlyThread t s u ∧ Advanced t 1 s u ∧ (thread u t).pend = PendsAfter { th with
         pend := PendsAfter th (.g rd) (some (BitVec.ofNat 64 (p.2.1 * 256 + p.2.2))) (now s + 1) } (.g rb)
           (some (BitVec.ofNat 64 (p.1 % 2 ^ 48))) (now s + 1)))

/-- CAPTURE marks the thread's frame for a record at its release, sets the tag's bit at the end of the next tick, and
answers 0; HANDED_ON after the frame has been handed on. At once, a record is written 2 ticks on, at most 4 a frame.
Mailbox operations of a thread: MBSEND posts the area's message, or is BUSY with the reason; MBRECV takes the posted
message of the firmware into the area; MBWDRAW takes back a message that has not been opened. -/
def Obligations.CaptureAndMailbox : Prop :=
  (∀ (t : Tid) (rd rb : BitVec 5) (id : Nat) (f b : Frame) (s : State),
     let th := thread s t
     let snap := (gReg th rb).toNat
     let bytes := assemble th (headPart th)
     snap ≤ 16384 →
       (Issues s t (.capture t rd rb false) [.g rd, .g rb] false →
         (th.handedOn = true → Runs (.capture t rd rb false) s fun u => OnlyThread t s u ∧ Status t rd 1 2 s u) ∧
         (th.handedOn = false → th.frame = some id → frame? s id = some f →
           Runs (.capture t rd rb false) s fun u =>
             u = { s with cores := u.cores, threads := u.threads, frames := u.frames, due := (addDue s
               ⟨now s + 1, 6, tidNum t, .tagField t 7 20 20 1, none⟩).due } ∧ OthersKept t s u ∧
             Status t rd 0 2 s u ∧ frame? u f.id = some { f with snap := some snap } ∧
             ∀ k, k ≠ f.id → frame? u k = frame? s k)) ∧
       (Issues s t (.capture t rd rb true) [.g rd, .g rb] false →
         (4 ≤ th.records → Runs (.capture t rd rb true) s fun u => OnlyThread t s u ∧ Status t rd 2 2 s u) ∧
         (th.records < 4 → hdrError s t 0 (64 + headPart th) = false → th.base = some b →
           Runs (.capture t rd rb true) s fun u =>
           OnlyThreadDue t ⟨now s + 2, 7, tidNum t, .captureRecord { b with
             bytes := bytes, tag := setTag (liveTag th) 7 15 0 bytes.length, snap := some snap }, none⟩ s u ∧
           (thread u t).records = th.records + 1 ∧
           (thread u t).pend = PendsAfter th (.g rd) (some 0) (now s + 2) ∧ (thread u t).pc = th.pc + 4))) ∧
  (∀ (t : Tid) (rd ra : BitVec 5) (msg : Msg) (s : State),
     let a := (gReg (thread s t) ra).toNat
     let area := readBytes s (sliceAddr t a) 520
     let n := leAt area 0 2 % 1024
     let k := pairNum (.ofThread t)
     let m := mailbox s k
     let frame := fun (u : State) (v : Mailbox) =>
       u = { s with cores := u.cores, threads := u.threads, mailboxes := u.mailboxes, due := u.due } ∧
       OthersKept t s u ∧ mailbox u k = v ∧ ∀ j, j ≠ k → mailbox u j = mailbox s j
     (a % 8 = 0 → a + 520 ≤ 0x4000 → memError s (sliceAddr t a) 520 = false → n ≤ 512 →
       Issues s t (.mbsend t rd ra) [.g rd, .g ra] false →
       (m.up.full = true → Runs (.mbsend t rd ra) s fun u =>
         frame u { m with up := { m.up with reason := busyReason m.up } } ∧ u.due = s.due ∧
         Status t rd (1 + busyReason m.up * 256) 13 s u) ∧
       (m.up.full = false → Runs (.mbsend t rd ra) s fun u =>
         frame u { m with up := postMsg s m.up ⟨BitVec.ofNat 32 (leAt area 4 4), slice area 8 n⟩ } ∧ u.due = s.due ∧
         Status t rd 0 13 s u)) ∧
     (a % 8 = 0 → a + 520 ≤ 0x4000 → Issues s t (.mbrecv t rd ra) [.g rd, .g ra] false →
       (m.down.full = false → Runs (.mbrecv t rd ra) s fun u => OnlyThread t s u ∧ Status t rd 2 13 s u) ∧
       (m.down.full = true → m.down.msg = some msg → Runs (.mbrecv t rd ra) s fun u =>
         frame u { m with down := takeMsg m.down } ∧ Status t rd (msg.payload.length * 65536) 13 s u ∧
         u.due = (addDue s ⟨now s + 12, 5, tidNum t,
           .sliceWrite t a ((msgBytes msg).take (8 + msg.payload.length)), some t⟩).due)) ∧
     (Issues s t (.mbwdraw t rd) [.g rd] false →
       (m.up.full = true → m.up.opened = false → Runs (.mbwdraw t rd) s fun u =>
         frame u { m with up := withdrawMsg m.up } ∧ u.due = s.due ∧ Status t rd 0 2 s u) ∧
       ((m.up.full = false ∨ m.up.opened = true) → Runs (.mbwdraw t rd) s fun u =>
         OnlyThread t s u ∧ Status t rd 2 2 s u)))

/-- EMIT of the thread's frame passes it on once: with the assembled bytes, LENGTH and a due tick raised by an
override within the program's bound; ALREADY_EMITTED afterwards. A copy is a new frame, at most 8 of them. DONE of a
frame handed on, and DONE that hands its frame on by the tag as it stands, end the thread: it is free, with its locks,
from the next tick. -/
def Obligations.EmitAndDone : Prop :=
  ∀ (t : Tid) (rd ra rb : BitVec 5) (copy override headLen : Bool) (cd : Cond) (f : Frame) (s : State),
    let th := thread s t
    let g := liveTag th
    let c := Instr.emit t rd ra rb copy override headLen
    let h := if headLen then (gReg th rb).toNat else headPart th
    let bytes := assemble th h
    let r := threadRound s th
    let top := match threadProgram s th with | some p => p.overrideMax | none => 0
    let asked := (gReg th ra).toNat
    let lanes := tagDestKind g = 3 ∨ tagDestKind g = 4
    let d := if override = true ∧ ¬lanes then min asked top else 0
    let handed := fun (u : State) (whole : List Byte) (e : Nat) => frame? u f.id = some { f with
      stage := .emitted, bytes := whole, tag := dueTag (setTag g 7 15 0 whole.length) e, due := f.due + e } ∧
      ⟨now s + 1, 2, tidNum t, .emitTaken t f.id, none⟩ ∈ u.due ∧
      (∀ k, k ≠ f.id → frame? u k = frame? s k) ∧ u.mem = s.mem
    let free : Thread := { freeFrom := now s + 1, lastStart := th.lastStart }
    let ended := fun (u : State) =>
      thread u t = { free with halted := (issuedThread s t).halted, haltFrom := (issuedThread s t).haltFrom } ∧
      (∀ t', t' ≠ t → thread u t' = thread s t') ∧
      (∀ k ∈ th.locks, (lock u k).holder = none ∧ (lock u k).freeAt = now s + 1) ∧
      (∀ k, k ∉ th.locks → lock u k = lock s k) ∧ u.mem = s.mem
    (Issues s t c [.g rd, .g ra, .g rb] false → th.scanUntil ≤ now s → (headLen = true ∨ rb = 0) →
      (override = true ∨ ra = 0) → h ≤ 448 → 60 ≤ bytes.length → bytes.length ≤ maxLength → tagDestKind g ≤ 10 →
      hdrError s t 0 (64 + h) = false → destOk s r g = true → flowCtxOk s r g = true →
      (copy = false → th.handedOn = true → Runs c s fun u => OnlyThread t s u ∧ Status t rd 3 2 s u) ∧
      (copy = false → th.handedOn = false → th.frame = some f.id → frame? s f.id = some f → Runs c s fun u =>
        handed u bytes d ∧ (thread u t).handedOn = true ∧ (thread u t).pc = th.pc + 4 ∧
        (thread u t).pend = PendsAfter th (.g rd) (some (if override = false then 0 else if lanes then 2
          else if top < asked then 1 else 0)) (now s + 2)) ∧
      (copy = true → 8 ≤ th.copies → Runs c s fun u => OnlyThread t s u ∧ Status t rd 4 2 s u) ∧
      (copy = true → th.copies < 8 → th.base = some f → Runs c s fun u =>
        frame? u s.nextFrame = some { f with
          id := s.nextFrame, stage := .emitted, src := .program th.cls, bytes := bytes,
          tag := dueTag (setTag (setTag64 (setTag (setTag (setTag g 0 11 0 (0xE00 + th.cls)) 7 27 27 0)
            7 17 17 0) 13 0) 7 15 0 bytes.length) d,
          due := f.due + d, sendPos := none, buffered := none, origin := f.id + 1 } ∧
        (∀ k, k ≠ s.nextFrame → frame? u k = frame? s k) ∧ (thread u t).copies = th.copies + 1 ∧ u.mem = s.mem)) ∧
    (Issues s t (.done t cd false) [.p cd.pred] false → condOf th cd = true → th.scanUntil ≤ now s → th.cells = none →
      (th.handedOn = true → Runs (.done t cd false) s fun u => ended u ∧ u.frames = s.frames) ∧
      (th.handedOn = false → th.frame = some f.id → frame? s f.id = some f → th.destWritten = false →
        tagDestKind g ≠ 0 → tagDestKind g ≠ 6 → hdrError s t 0 64 = false →
        hdrError s t 64 (headPart th) = false → 60 ≤ (assemble th (headPart th)).length →
        (assemble th (headPart th)).length ≤ maxLength →
        Runs (.done t cd false) s fun u => ended u ∧ handed u (assemble th (headPart th)) 0))

/-- Check operations on a free lane: CHKS and CHKC give the value of the bytes, CHKC from the value in RD, after 4
ticks and one per 64 bytes; CHKA and CHKV act at the end of their latency, CHKV on the frame's last bytes. -/
def Obligations.CheckOperations : Prop :=
  ∀ (t : Tid) (p : CheckPoly) (rd ra rb : BitVec 5) (header : Bool) (s : State),
    let th := thread s t
    let a := (gReg th ra).toNat
    let n := (gReg th rb).toNat
    let bs := if header then hdrBytes th a n else readBytes s (sliceAddr t a) n
    let whole := liveBytes th
    let w := crcWidth p
    let scans := fun (c : Instr) (named : List Dest) (v len : Nat) (P : State → Prop) =>
      Issues s t c named false → Runs c s fun u => OthersKept t s u ∧ u.mem = s.mem ∧
        u = { s with cores := u.cores, threads := u.threads, due := u.due, words := u.words } ∧
        (thread u t).pc = th.pc + 4 ∧ (thread u t).laneUntil = now s + 4 + ceilDiv len 64 ∧
        (thread u t).pend = PendsAfter th (.g rd) (some (BitVec.ofNat 64 v)) (now s + 4 + ceilDiv len 64) ∧ P u
    th.laneUntil ≤ now s →
      (n ≤ 0x4000 → a + n ≤ (if header then 512 else 0x4000) → spaceError s t header a n = false →
        scans (.chks t p rd ra rb header) [.g rd, .g ra, .g rb] (crcFrom p 0 bs) n (fun u => u.due = s.due) ∧
        scans (.chkc t p rd ra rb header) [.g rd, .g ra, .g rb]
          (crcFrom p ((gReg th rd).toNat % 2 ^ (8 * w)) bs) n (fun u => u.due = s.due)) ∧
      (a < whole.length → headScanError s t a (whole.length - a) = false →
        scans (.chka t p rd ra) [.g rd, .g ra] (crc p (whole.drop a)) (whole.length - a) fun u =>
        ⟨now s + 3 + ceilDiv (whole.length - a) 64, 6, tidNum t,
          .checkDone t (crcBytes p (crc p (whole.drop a))) 0 none, some t⟩ ∈ u.due) ∧
      (a + w ≤ whole.length → a < whole.length → headScanError s t a (whole.length - a) = false →
        let len := whole.length - w - a
        let bad := crc p (slice whole a len) ≠ crcOf p (whole.drop (whole.length - w))
        scans (.chkv t p rd ra) [.g rd, .g ra] (if bad then 1 else 0) len fun u =>
          ⟨now s + 3 + ceilDiv len 64, 6, tidNum t, .checkDone t [] w (some (decide bad)), some t⟩ ∈ u.due)

/-- Operations on locks and channels of the thread's tenancy issue: the lock unit takes each in the next tick, the
UNLOCKs ahead of the others, and RD pends until its answer. The words staged for a channel leave with their CCOMMIT;
NOTIFY and CCOMMIT take place although the thread's core stops. What the lock unit does for LOCK and LOCKW:
ALREADY_HELD, TOO_MANY, OK or ABANDONED for a lock that is free with no waiter, HOLDER_HALTED, BUSY without a limit,
and a wait entered when it closes no cycle; for UNLOCK, NOT_HELD, or OK with the lock free from this tick on. Waits
end: LOCK_GRANT gives the first waiter its lock, or an event count or message of its channel, within its limit, with
the status usable in the next tick, or at its resume when it is halted; WAIT_LIMIT ends a wait whose limit has passed
with WAIT_LIMIT, counted for the cluster. -/
def Obligations.LocksAndWaits : Prop :=
  (∀ (t : Tid) (rd ra rb : BitVec 5) (s : State),
     let th := thread s t
     let n := (gReg th ra).toNat
     let limit := (gReg th rb).toNat
     let sender := isSender s (threadRound s th) t.cluster.val th.cls n
     let staged := (th.staged.filter fun w => w.1 == n).map fun w => w.2
     let goes := fun (c : Instr) (named : List Dest) (phase : Nat) (who : Option Tid) (op : LockOp) =>
       Issues s t c named false → Runs c s fun u => ToLockUnit t phase who op s u ∧ Advanced t 1 s u ∧
         (thread u t).pend = Awaiting th rd
     (n < 4096 → lockOwned s t n = true →
       goes (.lock t rd ra) [.g rd, .g ra] 1 (some t) (.lock rd n 0) ∧
       (limit < 65536 → goes (.lockw t rd ra rb) [.g rd, .g ra, .g rb] 1 (some t) (.lock rd n limit)) ∧
       goes (.unlock t rd ra) [.g rd, .g ra] 0 (some t) (.unlock rd n)) ∧
     (n < 1024 → chanOwned s t n = true →
       (limit < 65536 → goes (.wait t rd ra rb) [.g rd, .g ra, .g rb] 1 (some t) (.wait rd n limit)) ∧
       goes (.notify t rd ra) [.g rd, .g ra] 1 none (.notify rd n sender) ∧
       goes (.cput t rd ra rb) [.g rd, .g ra, .g rb] 1 (some t) (.cput rd n (gReg th rb) sender) ∧
       (Issues s t (.ccommit t rd ra) [.g rd, .g ra] false → Runs (.ccommit t rd ra) s fun u =>
         ToLockUnit t 1 none (.ccommit rd n staged) s u ∧ thread u t = { issuedThread s t with
           pc := th.pc + 4, pend := Awaiting th rd, staged := th.staged.filter fun w => w.1 != n }) ∧
       (rd ≠ rb ∨ rd = 0 → Issues s t (.cget t rd ra rb) [.g rd, .g ra, .g rb] false →
         Runs (.cget t rd ra rb) s fun u => ToLockUnit t 1 (some t) (.cget rd rb n) s u ∧ Advanced t 1 s u ∧
           (thread u t).pend = Awaiting { th with pend := Awaiting th rd } rb))) ∧
  (∀ (t : Tid) (rd : BitVec 5) (n limit : Nat) (s : State),
     let th := thread s t
     let k := lockNum t.cluster.val n
     let l := lock s k
     let free := lockFree l (now s) = true ∧ waitersOn s t.cluster.val (.lock n) = []
     let haltedHolder := ∃ h, l.holder = some h ∧ (thread s h).halted = true
     let ask := lockUnit s t (.lock rd n limit)
     let back := lockUnit s t (.unlock rd n)
     let newLock := fun (v : Lock) (u : State) => lock u k = v ∧ ∀ j, j ≠ k → lock u j = lock s j
     Canonical s →
       (k ∈ th.locks → Answered t rd 7 s ask) ∧
       (k ∉ th.locks → 8 ≤ th.locks.length → Answered t rd 8 s ask) ∧
       (k ∉ th.locks → th.locks.length < 8 → free →
         newLock { l with holder := some t, abandoned := false } ask ∧ ThreadsKept t s ask ∧
         ask = { s with threads := ask.threads, locks := ask.locks, words := ask.words } ∧
         thread ask t = Filled { th with locks := th.locks ++ [k] } rd (if l.abandoned then 4 else 0) (now s + 1) ∧
         (l.abandoned = false → ask.words = s.words)) ∧
       (k ∉ th.locks → th.locks.length < 8 → ¬free → ¬haltedHolder →
         (limit = 0 → Answered t rd 1 s ask) ∧
         (0 < limit → cycleSet s t (.lock n) = [] → ThreadsKept t s ask ∧ ask = { s with threads := ask.threads } ∧
           thread ask t = { th with wait := some ⟨.lock n, now s - 1, limit, rd⟩ })) ∧
       (k ∉ th.locks → th.locks.length < 8 → ¬free → haltedHolder →
         ask = { s with threads := ask.threads, words := ask.words, recorder := ask.recorder } ∧
         ThreadsKept t s ask ∧ thread ask t = Filled th rd 5 (now s + 1)) ∧
       (k ∉ th.locks → Answered t rd 6 s back) ∧
       (k ∈ th.locks → newLock { l with holder := none, freeAt := now s } back ∧ ThreadsKept t s back ∧
         back = { s with threads := back.threads, locks := back.locks } ∧
         thread back t = Filled { th with locks := th.locks.filter (· != k) } rd 0 (now s + 1))) ∧
  (∀ (t : Tid) (w : LockWait) (n : Nat) (s : State),
     let th := thread s t
     let k := lockNum t.cluster.val n
     let l := lock s k
     let q := chanNum t.cluster.val n
     let c := chan s q
     let filled := fun (v : Nat) (p : Pend) => if p.dest = .g w.rd then
       (if th.halted then { p with val := some (BitVec.ofNat 64 v) }
         else ⟨.g w.rd, some (BitVec.ofNat 64 v), some (now s + 1)⟩ : Pend) else p
     let ended := fun (locks : List Nat) (v : Nat) (u : State) => ThreadsKept t s u ∧
       thread u t = { th with wait := none, locks := locks, pend := th.pend.map (filled v) }
     let inTime := w.issue < now s ∧ now s ≤ w.issue + 1 + w.limit ∧ firstWaiter s t w.on = true
     Live s → Canonical s → th.wait = some w →
       (w.on = .lock n → inTime → lockFree l (now s) = true → Runs (.lockGrant t) s fun u =>
         lock u k = { l with holder := some t, abandoned := false } ∧ (∀ j, j ≠ k → lock u j = lock s j) ∧
         u = { s with threads := u.threads, locks := u.locks, words := u.words } ∧
         ended (th.locks ++ [k]) (if l.abandoned then 4 else 0) u) ∧
       (w.on = .chan n → inTime → c.messages ≠ [] ∨ 0 < c.events → Runs (.lockGrant t) s fun u =>
         chan u q = (if 0 < c.events then { c with events := c.events - 1 } else c) ∧
         (∀ j, j ≠ q → chan u j = chan s j) ∧ u = { s with threads := u.threads, chans := u.chans } ∧
         ended th.locks (if 0 < c.events then 256 else 0) u) ∧
       (w.issue + 1 + w.limit < now s → Runs (.waitLimit t) s fun u =>
         u = { s with threads := u.threads, words := u.words } ∧
         u.words = (count s (cluAddr t.cluster.val 0x20)).words ∧ ended th.locks 2 u))

/-- What the lock unit does for channel operations: WAIT is granted on a message or an event that is left for it, and
EMPTY without a limit; NOTIFY raises the event count up to 65,535; CPUT stages a word or is FULL, and neither sends
for a class outside the sender set; CCOMMIT makes its words one message; CGET takes the next word of the oldest
message, with bit 8 of its status on the last one. -/
def Obligations.ChannelRequests : Prop :=
  ∀ (t : Tid) (rd rb : BitVec 5) (n limit : Nat) (x : DWord) (words : List DWord) (s : State),
    let th := thread s t
    let k := chanNum t.cluster.val n
    let c := chan s k
    let ahead := (waitersOn s t.cluster.val (.chan n)).length
    let runs := fun (op : LockOp) (P : State → Prop) => P (lockUnit s t op)
    let sets := fun (v : Chan) (th' : Thread) (st : Nat) (u : State) => chan u k = v ∧
      (∀ j, j ≠ k → chan u j = chan s j) ∧ ThreadsKept t s u ∧ thread u t = Filled th' rd st (now s + 1) ∧
      u = { s with threads := u.threads, chans := u.chans }
    let cputs := fun (ok : Bool) => runs (.cput rd n x ok)
    Canonical s →
      (c.messages ≠ [] ∨ ahead < c.events → runs (.wait rd n limit)
        (sets (if ahead < c.events then { c with events := c.events - 1 } else c) th
          (if ahead < c.events then 256 else 0))) ∧
      (c.messages = [] → c.events ≤ ahead → runs (.wait rd n 0) (Answered t rd 9 s)) ∧
      runs (.notify rd n false) (Answered t rd 11 s) ∧
      runs (.notify rd n true) (sets { c with events := min 65535 (c.events + 1) } th 0) ∧
      cputs false (Answered t rd 11 s) ∧
      (64 ≤ chanUsed s t.cluster.val n ∨ 16 ≤ th.staged.length → cputs true (Answered t rd 10 s)) ∧
      (chanUsed s t.cluster.val n < 64 → th.staged.length < 16 → cputs true fun u =>
        u = { s with threads := u.threads } ∧ ThreadsKept t s u ∧
        thread u t = Filled { th with staged := th.staged ++ [(n, x)] } rd 0 (now s + 1)) ∧
      (words ≠ [] → runs (.ccommit rd n words) (sets { c with messages := c.messages ++ [words] } th 0)) ∧
      (c.messages = [] → runs (.cget rd rb n) fun u => u = { s with threads := u.threads } ∧ ThreadsKept t s u ∧
        thread u t = Filled (Filled th rd 0 (now s + 1)) rb 9 (now s + 1)) ∧
      ∀ w ws ms, c.messages = (w :: ws) :: ms → runs (.cget rd rb n) fun u =>
        chan u k = { c with messages := if ws = [] then ms else ws :: ms } ∧ (∀ j, j ≠ k → chan u j = chan s j) ∧
        ThreadsKept t s u ∧ u = { s with threads := u.threads, chans := u.chans } ∧
        thread u t = Filled (Filled th rd w.toNat (now s + 1)) rb (if ws = [] then 256 else 0) (now s + 1)

/-- A thread whose budget has run out faults with BUDGET_OVERRUN, and one whose next word lies outside its code or is
reserved with ILLEGAL_INSTRUCTION; the debug port halts at the thread's next own cycle, steps one instruction and
resumes, and only those threads change. The supervisor writes a stopped core's record into the next of its four slots
in the round after the fault; the core takes frames again from the second round, its threads idle; a core reset of PF0
of H0 stops the core at the end of the tick. -/
def Obligations.ThreadsAndCores : Prop :=
  (∀ (t : Tid) (s : State),
     let th := thread s t
     let k := th.pc.toNat / 4
     let code := threadCode s th
     let c := core s (coreNum t)
     let from_ := if ownPassed s t then now s + 1 else now s
     let delivered := th.pend.map fun p =>
       if p.val.isSome = true ∧ p.ready = none then { p with ready := some (now s + 1) } else p
     let becomes := fun (v : Thread) (u : State) => u = { s with threads := u.threads } ∧ thread u t = v ∧
       ∀ t', t' ≠ t → thread u t' = thread s t'
     Live s →
       (th.frame.isSome = true → th.budget = 0 → th.halted = false → th.fault = none → c.stopped = false →
         c.fenced = false → Runs (.budgetOverrun t) s (becomes { th with
           fault := some ⟨faultBudget, th.pc, faultWord code k, 0, 0⟩ })) ∧
       (threadReady s t = true → slotFree s t false = true →
         th.pc.toNat % 4 ≠ 0 ∨ code.length ≤ k ∨
           (codeError s t 1 = false ∧ illegalAt (code.getD k 0) (code[k + 1]?) = true) →
         Runs (.illegalInstruction t) s (Faults t faultIllegal s)) ∧
       (debugLocked s = false →
         Runs (.debugHalt t) s (becomes (if th.halted = true ∨ th.haltFrom.isSome = true then th
           else { th with haltFrom := some from_ })) ∧
         Runs (.debugResume t) s (becomes { th with
           halted := false, haltFrom := none, stepping := false, pend := delivered }) ∧
         Runs (.debugStep t) s (becomes (if th.halted then { th with
           halted := false, stepping := true, pend := delivered } else th)))) ∧
  (∀ (cl : Fin 17) (c : Fin 16) (bytes : List Byte) (s : State),
     let n := cl.val * 16 + c.val
     let v := core s n
     let head := word s (cluAddr cl.val 0x2C)
     let slot := if fld head 15 8 = 0 then 0 else (fld head 1 0 + 1) % 4
     let coreIs := fun (w : CoreState) (u : State) =>
       core u n = w ∧ (∀ m, m ≠ n → core u m = core s m) ∧ u.mem = s.mem ∧ u.frames = s.frames
     (Live s → v.record = some bytes → v.recordRound ≤ round s → Canonical s → Runs (.faultRecord cl c) s fun u =>
       coreIs { v with record := none } u ∧ u.threads = s.threads ∧
       u = { s with words := u.words, cores := u.cores, recorder := u.recorder } ∧
       (∀ k, k < 576 → word u (cluAddr cl.val (0x2000 + slot * 0x1000 + 4 * k)) =
         BitVec.ofNat 32 (leAt bytes (4 * k) 4)) ∧
       rf u (cluAddr cl.val 0x2C) 1 0 = slot ∧ rf u (cluAddr cl.val 0x2C) 15 8 = min 255 (fld head 15 8 + 1)) ∧
     (Live s → v.stopped = true → v.fenced = false → v.restart ≤ round s →
       (∀ t : Tid, coreNum t = n → (thread s t).cells = none) → Runs (.coreRestart cl c) s fun u =>
       coreIs { v with stopped := false } u ∧
       (∀ t : Tid, coreNum t = n → thread u t = { freeFrom := now s, lastStart := (thread s t).lastStart }) ∧
       ∀ t : Tid, coreNum t ≠ n → thread u t = thread s t) ∧
     (MayWrite s pf0 (cluAddr cl.val 0x38) → v.stopped = false → v.fenced = false →
       Runs (.coreReset pf0 cl c) s fun u => coreIs { v with resetNow := true } u ∧ u = { s with cores := u.cores }))

/-- A GO that its block accepts takes the function's uncommitted values into one commit request and shows REFUSAL 0
where the block has one; a GO that it refuses leaves the uncommitted values and shows the code, or only records an
event where the block has no code. -/
def Obligations.GoRequestsCommit : Prop :=
  ∀ (fn : FnId) (cl : Fin 17) (tb : Fin 72) (grp : Fin 4) (g : Fin 256) (s : State),
    let frame := fun (u : State) => u = { s with shadow := u.shadow, commits := u.commits }
    let plain := fun (i : Instr) (off : Nat) (b : Blk) => MayWrite s fn off →
      Runs i s fun u => frame u ∧ Requests b fn s u
    let either := fun (i : Instr) (off : Nat) (b : Blk) (source : Nat) (accepted : Bool) =>
      (accepted = true → plain i off b) ∧
      (accepted = false → MayWrite s fn off → Runs i s fun u =>
        u = { s with words := u.words, recorder := u.recorder } ∧
        WordsKept [0x401000 + source * 4, 0x400010] s u ∧ Recorded source 0x05 (2 ^ 32) s u)
    let judged := fun (i : Instr) (off : Nat) (b : Blk) (status code : Nat) => MayWrite s fn off →
      (code = 0 → Runs i s fun u => Requests b fn s u ∧
        u = { s with shadow := u.shadow, commits := u.commits, words := (setRf s status 15 8 0).words }) ∧
      (code ≠ 0 → Runs i s fun u => u.shadow = s.shadow ∧ u.commits = s.commits ∧ u.mem = s.mem ∧
        u = { s with words := u.words, recorder := u.recorder } ∧ (Canonical s → code < 256 → rf u status 15 8 = code))
    (fn = pf0 → plain (.cluCommit fn cl) (cluAddr cl.val 0x30) (.clu cl.val)) ∧
    (platform s fn = true → either (.tblAuxCommit fn) 0x1982004 .tblAux 33 (constantsOk (plannedWith s .tblAux fn))) ∧
    either (.cryCommit fn) 0x1C00000 (.cry fn) 36 (calendarFault (plannedWith s (.cry fn) fn)).isNone ∧
    (fn = pf0 → plain (.tenCommit fn) 0x6030000 .ten) ∧
    (fn = pf0 → stagingSum (stoPlanned s fn) ≤ 131072 → plain (.stoCommit fn) 0x1EE0000 .sto) ∧
    judged (.clsCommit fn) 0x16C0004 (.cls fn) (fnWordAddr fn 0x16C0008)
      (if constantsOk (plannedWith s (.cls fn) fn) = true ∧ (calendarFault (plannedWith s (.cls fn) fn)).isNone = true
        then 0 else 1) ∧
    (platform s fn = true → judged (.tblCommit fn tb) (tblAddr tb.val 0x14) (.tbl tb.val) (tblAddr tb.val 0x18)
      (tblRefusal s fn tb.val)) ∧
    (fn = pf0 → judged (.macGrpCommit fn grp) (grpAddr grp.val 4) (.macGrp grp.val) (grpAddr grp.val 8)
      (macRefusal s fn grp.val)) ∧
    (platform s fn = true → judged (.seqGrpCommit fn g) (seqAddr g.val 0x14) (.seqGrp g.val) (seqAddr g.val 0x18)
      (seqRefusal_ s fn g.val)) ∧
    (platform s fn = true → judged (.seqFoCommit fn) 0x1A9000C .seqFo 0x1A90010
      (if constantsOk (plannedWith s .seqFo fn) then 0 else 1)) ∧
    (fn = pf0 → pwnRefusal s = none → MayWrite s fn 0x802000 → Runs (.pwnCommit fn) s fun u =>
      Requests .pwn fn s u ∧ u = { s with shadow := u.shadow, commits := u.commits, words := u.words }) ∧
    (schRefusal s fn = 0 → (∀ x ∈ s.shadow, x.blk = .sch → x.fn = fn → calendarMask x.addr = 0 ∧ x.mask ≠ 0) →
      MayWrite s fn 0x1B00000 → Runs (.schCommit fn) s fun u =>
        u.shadow = (s.shadow.filter fun x => !(x.blk == .sch && x.fn == fn)) ∧
        u.commits = s.commits ++ [⟨.sch, fn, now s, effectRound (now s),
          (s.shadow.filter fun x => x.blk == .sch && x.fn == fn).map fun x => (x.addr, x.mask, x.val), .regs, 0⟩] ∧
        u = { s with shadow := u.shadow, commits := u.commits, words := u.words })

/-- In the first tick of a round the first due commit takes effect: its bits are in force, and frames of earlier
rounds go on reading the value before; a flood list or aging set of the tables refreshes the classes' constants; a
block that holds four versions, none of them of this boundary, defers it by one round, with a count. A deferral of
1,024 rounds that only debug-halted threads cause resets their cores, and no others. -/
def Obligations.CommitsTakeEffect : Prop :=
  ∀ (c : Commit) (rest : List Commit) (n a : Nat) (m v : Word) (s : State),
    let taken := { setWord s a (blend (word s a) m v) with
      commits := s.commits.erase c, undo := s.undo ++ [⟨round s, a, word s a⟩]
      versions := s.versions ++ [(c.blk, round s)] }
    let out := fun (k : Nat) => ∃ b, b ∈ deferredOut s ∧ onlyHalted s b (oldestVersion s b) = true ∧
      k ∈ (threadsOf s b (oldestVersion s b)).map coreNum
    Live s → now s % 256 = 0 →
      (dueCommits s = c :: rest → c.what = .regs → c.writes = [(a, m, v)] → versionsFull s c.blk = false →
        (c.blk = .clu n → Canonical s → Runs .commitEffect s fun u =>
          u = taken ∧ word u a = blend (word s a) m v ∧ WordsKept [a] s u ∧
          ((∀ x ∈ s.undo, x.addr ≠ a) → ∀ r, r < round s → wordAt u r a = word s a)) ∧
        (c.blk = .tblAux → exec .commitEffect s = .next (refreshConstants taken))) ∧
      (dueCommits s = c :: rest → holdsVersions c.blk = true → waitsForDusk s c = false → versionsFull s c.blk = true →
        Canonical s → Runs .commitEffect s fun u =>
          u.commits = (s.commits.map fun x =>
            if x = c then { x with effect := round s + 1, defers := x.defers + 1 } else x) ∧
          u = { s with commits := u.commits, words := u.words, recorder := u.recorder } ∧
          word u 0x1A08014 = word s 0x1A08014 + 1) ∧
      (Canonical s → Runs .deferLimitReset s fun u =>
        u = { s with cores := u.cores } ∧
        ∀ k, (out k → core u k = { core s k with resetNow := true }) ∧ (¬ out k → core u k = core s k))

/-- A loader request that the firmware has taken and that passes its checks sends a path-class commit in its tick; a
LOAD first asks for its image, and is checked when that has arrived; a refused request is answered with its status and
object, and changes no class. A request that was not taken changes nothing. -/
def Obligations.LoaderRequests : Prop :=
  ∀ (fn : FnId) (cookie : BitVec 32) (addr : BitVec 64) (len : Nat) (cls : Fin 64) (p : ClassPayload) (im : List Byte)
    (t : Taken) (j : LoadJob) (fail : ReadFail) (v : State) (s : State),
    let asked := fun (req : Nat) (fits : List Byte → Bool) => takenRequest s fn cookie req fits = some t
    let s' := { s with taken := s.taken.erase t }
    let job := jobOf t
    let new := { newest (planned s') p.cls with
      owner := p.owner, k := p.k, s := p.s, a := p.a, cAsked := p.c, sequenced := p.sequenced,
      group := p.group, cores := p.cores }
    let sent := fun (s : State) (j : LoadJob) (c : PathClass) (sets : List RuleSet) (u : State) =>
      u = { s with
        jobs := (s.jobs.filter fun x => x.cls != j.cls) ++ [{ j with sent := true }],
        commits := s.commits ++ [⟨.loader j.cls, j.fn, now s, effectRound (now s), [],
          .pathClass c sets { j with sent := true }, 0⟩] }
    let refused := fun (j : LoadJob) (status object : Nat) (u : State) =>
      u.classes = s.classes ∧ u.commits = s.commits ∧ u.mem = s.mem ∧ u.frames = s.frames ∧
      (j.discard = false → (mailbox s (fnNum j.fn)).queue.length < 64 →
        (mailbox u (fnNum j.fn)).queue = (mailbox s (fnNum j.fn)).queue ++ [⟨j.cookie,
          le 1 j.req ++ le 1 status ++ le 2 0 ++ le 4 object ++ le 8 0⟩])
    Live s → firmwareWorks s = true →
      (s.taken = [] → exec (.unload fn cookie cls.val) s = .next s ∧
        exec (.load fn cookie addr len cls.val) s = .next s ∧
        exec (.classRequest fn cookie p) s = .next s) ∧
      (asked 2 (fun m => leAt m 16 1 == cls.val) →
        (requestFault s' job = none → Runs (.unload fn cookie cls.val) s
          (sent s' job { newest (planned s') cls.val with program := none } [])) ∧
        ∀ st o, requestFault s' job = some (st, o) → Runs (.unload fn cookie cls.val) s fun u =>
          refused job st o u ∧ u.jobs = s.jobs ∧ u.taken = s.taken.erase t) ∧
      (asked 1 (fun m => leAt m 4 8 == addr.toNat && leAt m 12 4 == len && leAt m 16 1 == cls.val) →
        (requestFault s' job = none → addr.toNat % 64 = 0 → Runs (.load fn cookie addr len cls.val) s fun u =>
          let n := { job with len := len, parts := (readParts s' fn addr.toNat len).length }
          u = askRead { s' with jobs := s.jobs ++ [n] } fn (.image cls.val) addr.toNat len ∧
          u.jobs = s.jobs ++ [n] ∧ u.classes = s.classes ∧ u.commits = s.commits ∧ u.mem = s.mem) ∧
        ∀ st o, requestFault s' job = some (st, o) → Runs (.load fn cookie addr len cls.val) s (refused job st o)) ∧
      (asked 3 (fun m => classPayload m 0 == p) →
        (requestFault s' job = none → payloadFault p = none →
          (p.sequenced = true → groupOpen s' (round s) p.owner p.group = true) → classFault s' new [] 0 = none →
          Runs (.classRequest fn cookie p) s (sent s' job new [])) ∧
        ∀ st o, requestFault s' job = some (st, o) ∨ requestFault s' job = none ∧ payloadFault p = some (st, o) →
          Runs (.classRequest fn cookie p) s (refused job st o)) ∧
      ((s.jobs.find? fun x => x.cls == cls.val && x.req == rqLoad && !x.sent) = some j →
        (j.failed = true → Runs (.imageReadDone cls im (some fail)) s fun u => refused j 19 0 u ∧
          u.jobs = s.jobs.filter fun x => x.cls != j.cls) ∧
        (j.failed = false → deliveredFor s (.image cls.val) j.parts = some im → v = dropDelivered s (.image cls.val) →
          (∀ c sets, imageCheck v j im = .ok (c, sets) → Runs (.imageReadDone cls im none) s (sent v j c sets)) ∧
          ∀ st o, imageCheck v j im = .error (st, o) → Runs (.imageReadDone cls im none) s fun u =>
            refused j st o u ∧ u.jobs = s.jobs.filter fun x => x.cls != j.cls))

/-- The update engine writes its next move: the entry's bucket and slot, its content unchanged. At a boundary the
batch of learns is applied, aged entries and the entries of a bad bucket go out of force; the writes of learned and
aged entries are left to the engine. -/
def Obligations.TableMaintenance : Prop :=
  ∀ (tb : Fin 72) (b v : Nat) (c : Change) (m : List Byte × Nat × Nat) (moves : List (List Byte × Nat × Nat))
    (l : Learn) (e : Entry) (s : State),
    let n := tb.val
    let writes := fun (n part : Nat) (key : List Byte) =>
      (⟨n, part, key, .read, .engine, now s, round s, [], true, now s, false, 0, false⟩ : Change)
    let aged := fun (x : Entry) => inForce x = true ∧ x.static = false ∧ x.lock = false ∧
      rf s (tblAddr x.table 0x10) 15 0 ≠ 0 ∧
      (∀ y ∈ s.changes, y.done = false → y.by_ ≠ .engine → (y.table, y.part, y.key) ≠ (x.table, x.part, x.key)) ∧
      ageLimit (rf s (tblAddr x.table 0x10) 15 0) + 1 ≤ (ageUnit (round s) + 65536 - x.lastSeen % 65536) % 65536
    let src := l.source.toNat
    let part := rfAt s l.round (0x1810000 + l.bd * 0x10) 9 0
    let learnt : Entry :=
      { table := n, part := part, bucket := b, slot := v, key := learnKey l.bd l.mac, value := le 2 src ++ le 6 0,
        lastSeen := ageUnit l.round, since := round s }
    Live s →
      (engineChange s n = some c → c.moves = m :: moves → mayWrite s n = true → Runs (.chainMoveWrite tb) s fun u =>
        u = { s with
          entries := s.entries.map fun x => if x.table = n ∧ x.part = c.part ∧ x.key = m.1 ∧ x.until_ = none then
            { x with bucket := m.2.1, slot := m.2.2 } else x,
          changes := s.changes.map fun x => if x = c then { c with moves := moves, written := now s } else x }) ∧
      (now s % 256 = 0 → s.changes.any (changeDue s) = false → s.learns = [l] → l.round < round s → l.order < 4096 →
        learnTable s l.round l.bd = some n → findNow s n part (learnKey l.bd l.mac) = none →
        word s (srcAddr (sourceNumber src) 0) = 0xFFFFFFFF → bit (word s (srcAddr (sourceNumber src) 4)) 1 = false →
        keyBad s n part (learnKey l.bd l.mac) = false → placement s n part (learnKey l.bd l.mac) = some (b, v, []) →
        Runs .learnBatchApply s fun u =>
          u = { s with learns := [], changes := s.changes ++ [writes n part (learnKey l.bd l.mac)],
                       entries := s.entries ++ [learnt] }) ∧
      (now s % 256 = 0 → round s % 2 ^ 20 = 0 → s.changes.any (changeDue s) = false →
        s.learns.any (fun x => decide (x.round < round s)) = false → Runs .aging s fun u =>
        u = { s with entries := u.entries, words := u.words, changes := u.changes } ∧
        (e ∈ s.entries → aged e →
          { e with until_ := some (round s) } ∈ u.entries ∧ writes e.table e.part e.key ∈ u.changes) ∧
        (∀ y ∈ s.changes, y ∈ u.changes) ∧
        (e ∈ s.entries → (∀ x ∈ s.entries, aged x → (x.table, x.part, x.key) ≠ (e.table, e.part, e.key)) →
          e ∈ u.entries)) ∧
      (now s % 256 = 0 → bucketBad s n b = true → Runs (.bucketInvalidate tb b) s fun u =>
        u.errors.buckets = s.errors.buckets.filter (· != (n, b)) ∧ u.mem = s.mem ∧ u.changes = s.changes ∧
        (e ∈ s.entries → e.table = n → inForce e = true → e.bucket = b →
          { e with until_ := some (round s) } ∈ u.entries) ∧
        (e ∈ s.entries → e.table ≠ n → e ∈ u.entries))

/-- A DMA list: GO makes the block BUSY, the list is fetched or fails with its reason, and the results written make it
DONE with their number. The commands of a DMA list are resolved one a tick, in order, each with its status: inserts,
updates and deletes against the pending view, reads by presence, the lock family by the lock bit, and the others OK;
the last one fixes the list's commit tick and effect round. -/
def Obligations.DmaLists : Prop :=
  (∀ (fn : FnId) (list : List (List Byte × List Byte)) (fail : ReadFail) (s : State),
     let q := dmaQueue s fn
     let status := dmaAddr fn 0x18
     let becomes := fun (v : DmaQueue) (state reason done : Nat) (u : State) =>
       dmaQueue u fn = v ∧ rf u status 1 0 = state ∧ rf u status 15 8 = reason ∧ rf u status 28 16 = done ∧
       WordsKept [status] s u ∧ u.mem = s.mem ∧ u.changes = s.changes ∧ u.entries = s.entries
     Canonical s →
       (MayWrite s fn (dmaAddr fn 0x14) → q.busy = false → rf s (dmaAddr fn 0x10) 12 0 ≠ 0 →
         Runs (.tblDmaGo fn) s fun u => becomes { busy := true } 1 0 0 u ∧
           u = { s with dma := u.dma, words := u.words }) ∧
       (Live s → q.busy = true → q.fetched = false → mayRequest s fn = true →
         (list.length = rf s (dmaAddr fn 0x10) 12 0 → Runs (.dmaListFetched fn list none) s fun u =>
           dmaQueue u fn = { q with list := list, fetched := true, resolved := now s } ∧ u = { s with dma := u.dma }) ∧
         Runs (.dmaListFetched fn list (some fail)) s fun u =>
           becomes {} 3 (failReason fail) 0 u ∧ u = { s with dma := u.dma, words := u.words }) ∧
       (Live s → q.applied = true → mayRequest s fn = true → (endpoint s fn.ep).noCredit = false →
         q.results.length < 8192 → Runs (.dmaResultsWrite fn) s fun u =>
           becomes {} 2 0 q.results.length u ∧ u = { s with dma := u.dma, words := u.words, endpoints := u.endpoints })) ∧
  (∀ (fn : FnId) (c bs : List Byte) (s : State),
     let q := dmaQueue s fn
     let t := fnTenancy s fn
     let n := dmaTarget c
     let part := partOf n t
     let key := slice bs 0 (tblKeyBytes s (round s) n)
     let value := slice bs 64 (tblValueBytes s (round s) n)
     let view := pendingView s n part key
     let last := q.list.length ≤ q.next + 1
     let e := effectRound (now s)
     let change := fun (op : ChangeOp) (moves : List (List Byte × Nat × Nat)) =>
       [(⟨n, part, key, op, .dma fn q.next, now s, noRound, moves, op != .read, now s, false, 0, false⟩ : Change)]
     let resolves := fun (i : Instr) (op st : Nat) (added : List Change) => dmaOp c = op → Runs i s fun u =>
       dmaQueue u fn = { q with
         next := q.next + 1, results := q.results ++ [(st, 0, [])], resolved := now s,
         effect := if last then e else q.effect } ∧
       u.changes = (if last then (s.changes ++ added).map fun x =>
         if (match x.by_ with | .dma f _ => f == fn | _ => false) && x.effect == noRound then
           { x with tick := now s, effect := e } else x else s.changes ++ added) ∧
       u = { s with dma := u.dma, changes := u.changes }
     let locked := fun (b : Bool) => ∃ v st, view = some (v, st, b)
     Live s → q.fetched = true → q.resolved < now s → q.list[q.next]? = some (c, bs) → dmaBad c = false →
       dmaOpen s fn c = true → scanBeyond s part c = false → keyBad s n part key = false →
       (view.isSome = true → resolves (.dmaInsert fn) 1 2 []) ∧
       (∀ b v moves, view = none → placement s n part key = some (b, v, moves) →
         resolves (.dmaInsert fn) 1 0 (change (.insert value (leAt c 1 1 == 1) b v) moves)) ∧
       (view = none → resolves (.dmaUpdate fn) 2 1 [] ∧ resolves (.dmaDelete fn) 3 1 [] ∧ resolves (.dmaRead fn) 4 1 [] ∧
         resolves (.lockRead fn) 5 1 [] ∧ resolves (.writeUnlock fn) 6 1 [] ∧ resolves (.dmaUnlock fn) 7 1 []) ∧
       (view.isSome = true → resolves (.dmaUpdate fn) 2 0 (change (.update value (some (leAt c 1 1 == 1))) []) ∧
         resolves (.dmaDelete fn) 3 0 (change .delete []) ∧ resolves (.dmaRead fn) 4 0 []) ∧
       (locked true → resolves (.lockRead fn) 5 5 [] ∧ resolves (.writeUnlock fn) 6 0 (change (.writeUnlock value) []) ∧
         resolves (.dmaUnlock fn) 7 0 (change .unlock [])) ∧
       (locked false → resolves (.lockRead fn) 5 0 (change .setLock []) ∧ resolves (.writeUnlock fn) 6 6 [] ∧
         resolves (.dmaUnlock fn) 7 6 []) ∧
       resolves (.scan fn) 8 0 [] ∧ resolves (.fcRead fn) 0x10 0 [] ∧ resolves (.fcWrite fn) 0x11 0 [] ∧
       resolves (.ctrRead fn) 0x18 0 [] ∧ resolves (.ctrClear fn) 0x19 0 [])

/-- An accepted control descriptor of a ring joins the ring's overlay with its effect round: a table change resolved
at once, a meter's parameters or its filling, a rule's action. MARK is processed without a change, and completes when
no frame is ahead of it. -/
def Obligations.InBandControls : Prop :=
  ∀ (ring_ : Fin 65536) (i : SendItem) (d key value : List Byte) (set : RuleSet) (s : State),
    let r := ring_.val
    let t := ringTenancy s r
    let n := descFld d 4 23 0
    let part := partOf n t
    let view := pendingView s n part key
    let bs := i.operand.getD []
    let lays := fun (w : OverlayWhat) =>
      (⟨r, t, i.pos, now s, effectRound (now s), i.doorbell, ringCq s r, w, false⟩ : Overlay)
    let accepts := fun (c : Instr) (op : Nat) (w : OverlayWhat) (P : State → Prop) =>
      controlItem s r [op] = some (i, d) → Runs c s fun u => u.overlays = s.overlays ++ [lays w] ∧
        word u (ibAddr t 4) = word s (ibAddr t 4) + 1 ∧ WordsKept [ibAddr t 4] s u ∧ u.mem = s.mem ∧
        u.frames = s.frames ∧ P u
    let adds := fun (op : ChangeOp) (moves : List (List Byte × Nat × Nat)) (u : State) => u.changes = s.changes ++
      [⟨n, part, key, op, .inBand r i.pos, now s, effectRound (now s), moves, true, now s, false, 0, false⟩]
    let same := fun (u : State) => u.changes = s.changes
    Live s → Canonical s → controlFormat d = true → inBandFull s r = false →
      (tableOpen s i.round n t = true → keyBad s n part key = false →
        (∀ x, findNow s n part key = some x → x.lock = false) →
        (∀ static, operandEntry s i.round n bs = some (key, value, static) →
          (∀ b v moves, view = none → placement s n part key = some (b, v, moves) →
            accepts (.tableInsert ring_) opTableInsert .table (adds (.insert value static b v) moves)) ∧
          (view.isSome = true → accepts (.tableInsert ring_) opTableInsert .table (adds (.update value none) []) ∧
            accepts (.tableUpdate ring_) opTableUpdate .table (adds (.update value none) []))) ∧
        (∀ none_, operandKey s i.round n bs = some (key, none_) → view.isSome = true →
          accepts (.tableDelete ring_) opTableDelete .table (adds .delete []))) ∧
      (n < 2 ^ 20 → meterOwned s i.round t n = true →
        (leAt d 16 4 ≤ leAt d 20 4 → accepts (.meterSet ring_) opMeterSet
          (.meter n (leAt d 16 4) (leAt d 20 4) (leAt d 24 4) (leAt d 28 4)) same) ∧
        accepts (.meterFill ring_) opMeterFill (.meterFill n) same) ∧
      (ruleSetAt s i.round t (descFld d 4 23 18) = some set →
        (set.rules.any fun x => x.rule == descFld d 4 17 0) = true →
        bs.length = 64 → actionListed bs = true →
        actionOpen s i.round t (setDestination (setTag newTag 0 21 12 t) bs) bs = true →
        accepts (.actionSet ring_) opActionSet (.action (descFld d 4 23 18) (descFld d 4 17 0) bs) same) ∧
      (controlItem s r [opMark] = some (i, d) → Runs (.mark ring_) s fun u =>
        u = { s with words := u.words, rings := u.rings } ∧ word u (ibAddr t 4) = word s (ibAddr t 4) + 1 ∧
        WordsKept [ibAddr t 4] s u ∧ ∀ j ∈ (ring u r).items, j.pos = i.pos → j.processed = true) ∧
      ((ring s r).items = [i] → i.desc = some d → i.processed = true → controlOp d = opMark → s.cplDue = [] →
        Runs (.markComplete ring_) s fun u => (ring u r).items = [] ∧ u.mem = s.mem ∧ u.frames = s.frames ∧
          (∀ sl, i.slot = some sl → canWrite s (ringCq s r) = false → ∃ bytes,
            u.cplDue = [⟨now s, ringCq s r, sl, bytes, r, 1⟩]))

/-- TBS_ADJ_GO requests a commit of the adjustment block, and refuses a reserved MODE and, while the servo runs, FREQ
and OFFSET. TBS_SNAP latches the readings of the next tick, and the head of a port's timestamp queue is taken by its
read. Happenings of the timebase: the end of a slew, Midnight and the advance of the epoch base after it, edges of
TB_PPS_IN, TB_PPS_OUT and TB_FREQ_IN, and the loss of PPS after 1.5 s. -/
def Obligations.TimebaseWork : Prop :=
  (∀ (fn : FnId) (p : Fin 16) (e : Nat × Nat × Nat × BitVec 64) (rest : List (Nat × Nat × Nat × BitVec 64)) (s : State),
     let c := timebaseBlock s fn
     let servo := bit (word s 0x300000) 0 = true
     platform s fn = true →
       (MayWrite s fn 0x300030 →
         (c.mode < 4 → (2 ≤ c.mode ∨ ¬servo) → Runs (.tbsAdjGo fn) s fun u =>
           u = { s with shadow := u.shadow, commits := u.commits } ∧
           u.shadow = (s.shadow.filter fun x => !(x.blk == .tbs && x.fn == fn)) ∧
           u.commits = s.commits ++ [⟨.tbs, fn, now s, effectRound (now s),
             (s.shadow.filter fun x => x.blk == .tbs && x.fn == fn).map fun x => (x.addr, x.mask, x.val),
             .timebase c, 0⟩]) ∧
         (4 ≤ c.mode ∨ servo ∧ c.mode < 2 → Runs (.tbsAdjGo fn) s fun u =>
           u = { s with words := u.words, recorder := u.recorder } ∧
           (Canonical s → c.mode < 2 → rf u 0x300034 11 8 = 8))) ∧
       (MayWrite s fn 0x300040 → Runs (.tbsSnap fn) s fun u =>
         u = { s with tbs := { s.tbs with snapAt := some (now s + 1) } }) ∧
       (MayRead s fn → look s.tbs.txts p.val = some (e :: rest) → Runs (.txtsHeadRead fn p) s fun u =>
         u.reply = [BitVec.ofNat 32 (e.1 % 65536 + e.2.1 * 65536 + e.2.2.1 * 2 ^ 20 + 2 ^ 31)] ∧
         look u.tbs.txts p.val = some rest ∧ u = { s with reply := u.reply, tbs := u.tbs, words := u.words } ∧
         (Canonical s → word u (0x303004 + p.val * 0x10) = e.2.2.2.truncate 32 ∧
           word u (0x303008 + p.val * 0x10) = (e.2.2.2 >>> 32).truncate 32))) ∧
  (∀ (w : Nat) (time : BitVec 64) (s : State),
     let t := s.tbs
     let off := toSigned 32 (word s 0x30007C).toNat * 256
     let k := fun (u : Nat) => ((u : Int) - 1 - off) / (unitsPerSecond : Int)
     let only := fun (v : Timebase) (u : State) =>
       u = { s with words := u.words, tbs := v } ∧ WordsKept [0x300004] s u
     Live s →
       (t.slewLeft = 0 → bit (word s 0x300004) 5 = true → Runs .slewEnd s fun u =>
         only { t with slewPer := 0, slewRem := 0 } u ∧ (Canonical s → rf u 0x300004 5 5 = 0)) ∧
       (t.wrapAt = none → t.base.toNat + 2 ^ 64 ≤ fullUnits s → Runs .midnight s fun u =>
         only (keepReading { s with tbs := { t with midnights := t.midnights + 1, wrapAt := some (now s) } }).tbs u ∧
         (Canonical s → rf u 0x300004 31 16 = (t.midnights + 1).toNat)) ∧
       (t.wrapAt = some w → now s % 256 = 0 → w < now s → Runs .epochBaseAdvance s fun u =>
         u.tbs = { t with base := t.base + BitVec.ofNat 96 (2 ^ 64), wrapAt := none } ∧ u.mem = s.mem ∧
         u = { s with words := u.words, tbs := u.tbs, ledger := u.ledger, recorder := u.recorder }) ∧
       (Runs (.ppsInEdge time) s fun u =>
         u = { s with words := u.words, tbs := u.tbs, recorder := u.recorder } ∧
         u.tbs.ppsUntil = some (now s + 375000000) ∧
         u.tbs.ppsEdge = some (time - BitVec.ofNat 64 (rf s 0x300078 15 0)) ∧
         (Canonical s → rf u 0x300004 3 3 = 1)) ∧
       (t.ppsUntil = some w → w ≤ now s → Runs .ppsPresentExpire s fun u =>
         only { t with ppsUntil := none } u ∧ (Canonical s → rf u 0x300004 3 3 = 0)) ∧
       (t.ppsOut = none → bit (word s 0x300078) 16 = true → k (fullUnits s) ≠ k (unitsAtEnd s) →
         Runs (.ppsOutEdge true) s fun u => u = { s with tbs := { t with
           ppsOut := some (k (unitsAtEnd s) * (unitsPerSecond : Int) + off).toNat } }) ∧
       (t.ppsOut = some w → w + max 1 (rf s 0x300080 18 0) * 256000 < unitsAtEnd s →
         Runs (.ppsOutEdge false) s fun u => u = { s with tbs := { t with ppsOut := none } }) ∧
       (Runs .freqInEdge s fun u => u = { s with tbs := { t with freqEdge := some (now s) } }))

/-- The servo: an estimate in ACQUIRE within the limit counts towards LOCKED and commits its INCR; one in FREE_RUN or
HOLDOVER enters ACQUIRE, with an OFFSET beyond the slew threshold; a reference lost in LOCKED leads to HOLDOVER with
the mean INCR, and in ACQUIRE to FREE_RUN. A HEALTH record is written every 2^20 rounds. -/
def Obligations.ServoAndHealth : Prop :=
  ∀ (offset : Int) (incr : BitVec 48) (s : State),
    let t := s.tbs
    let commit := fun (mode : Nat) (i : BitVec 48) (o : Int) =>
      (⟨.tbs, pf0, now s, effectRound (now s), [], .timebase ⟨mode, i, o, 0, 0, 0⟩, 0⟩ : Commit)
    let frame := fun (u : State) => u = { s with
      words := u.words, tbs := u.tbs, commits := u.commits, ledger := u.ledger, recorder := u.recorder }
    Live s →
      (servoOn s = true → servoState s = 1 → offset.natAbs ≤ rf s 0x300000 31 16 → t.good < 7 →
        Runs (.servoEstimate offset incr) s fun u => u = { s with
          tbs := { t with offset := offset, refPresent := true, good := t.good + 1 },
          commits := s.commits ++ [commit 0 incr 0] }) ∧
      (servoOn s = true → servoState s ≠ 1 → servoState s ≠ 2 → Canonical s →
        Runs (.servoEstimate offset incr) s fun u => frame u ∧ servoState u = 1 ∧ u.tbs.refPresent = true ∧
          u.commits = s.commits ++ [if (word s 0x300018).toNat < offset.natAbs then commit 1 incr offset
            else commit 0 incr 0]) ∧
      (servoState s = 2 → Canonical s → Runs .referenceLost s fun u => frame u ∧ servoState u = 3 ∧
        u.tbs.refPresent = false ∧ u.tbs.lostSinceHealth = true ∧ u.commits = s.commits ++ [commit 0 (meanIncr s) 0]) ∧
      (servoState s = 1 → Canonical s → Runs .referenceLost s fun u => frame u ∧ servoState u = 0 ∧
        u.commits = s.commits) ∧
      (now s % 256 = 0 → round s % 2 ^ 20 = 0 → t.stepDue = none → Runs .healthRecord s fun u => frame u ∧
        u.tbs = { t with stepsSinceHealth := 0, lostSinceHealth := false } ∧
        u.ledger.lastHealth = timebaseBody s tkHealth (now s) (fullUnits s) t.offset)

/-- The ledger starts a new chain at its enabling and stops at its disabling; an open block is closed 1,024 rounds
after its first record; a seal's place is reserved at its boundary and filled in when the seal is complete. The drives
of C0: a block written is in the journal, in place of the blocks it overtakes; a write that fails or gets no answer in
time is tried again, three times in all. A read descriptor of stored blocks waits for them, and a drive's block is
kept for it. -/
def Obligations.LedgerAndDrives : Prop :=
  (∀ (fn : FnId) (b : Block) (d : SealDue) (s : State),
     let l := s.ledger
     let frame := fun (u : State) => u = { s with words := u.words, ledger := u.ledger }
     (MayWrite s fn 0x4000000 → platform s fn = true →
       (l.enabled = false → bit (word s 0x4000040) 0 = false → Canonical s → Runs (.ledgerEnable fn) s fun u =>
         u.ledger.enabled = true ∧ u.ledger.drives = driveMap s ∧ u.ledger.journal = [] ∧ u.ledger.sealNo = 0 ∧
         u.ledger.spill = [] ∧ rf u 0x4000000 0 0 = 1 ∧ u.mem = s.mem ∧ u.frames = s.frames) ∧
       (l.enabled = true → Canonical s → Runs (.ledgerDisable fn) s fun u => frame u ∧ u.ledger.enabled = false ∧
         u.ledger.open_ = none ∧ u.ledger.spill = [] ∧ u.ledger.stopCause = 3 ∧ rf u 0x4000000 0 0 = 0)) ∧
     (Live s → l.open_ = some b →
       (b.payload ≠ [] → b.opened + 1024 ≤ round s → b.sealing = false → l.spill = [] → l.drives = [] →
         l.inFlight = [] →
         Runs .blockCloseTimeout s fun u => frame u ∧ u.ledger = { l with
           open_ := some {
             num := b.num + 1, last := b.last, opened := round s
             prev := sha384 (blockBytes l { b with closed := true }) } }) ∧
       (b.payload = [] → l.enabled = true → l.sealDue = none → now s % 256 = 0 → round s % 2 ^ 20 = 0 →
         Runs .seal s fun u => frame u ∧
           u.ledger.sealDue = some ⟨now s, compactNow s, l.lastHealth, b.num - 1, b.prev, l.totalRecords, l.totalGaps,
             l.totalLost⟩ ∧
           u.ledger.open_ = some { b with
             payload := List.replicate 352 0, records := 1, sealing := true, reserved := true, last := compactNow s,
             opened := round s } ∧
           u.ledger.totalRecords = l.totalRecords + 1)) ∧
     (Live s → l.sealDue = some d → l.open_ = some b → b.sealing = true → l.spill = [] →
       Runs .sealComplete s fun u => frame u ∧ u.ledger.sealDue = none ∧ u.ledger.sealNo = l.sealNo + 1 ∧
         (u.ledger.open_.map fun x => (x.num, x.sealing, x.payload)) =
           some (b.num, false, patch b.payload 0 (sealRecord s d)))) ∧
  (∀ (dr : Fin 8) (n : Nat) (blk : Block) (c : DriveCmd) (ring_ : Fin 65536) (fn : FnId) (i : SendItem)
     (desc data : List Byte) (q : LedgerRead) (s : State),
     let l := s.ledger
     let retried := fun (u : State) => u = { s with words := u.words, ledger := { l with
       inFlight := l.inFlight.map fun x => if x.drive = dr.val ∧ x.block = n then
         { x with tries := x.tries + 1, sent := now s } else x } } ∧ WordsKept [0x4000118 + dr.val * 0x20] s u
     Live s →
       (l.inFlight.any (fun x => x.drive == dr.val && x.block == n) = true →
         (l.spill.find? fun x => x.num == n) = some blk → Runs (.driveWriteComplete dr n true) s fun u =>
           u = { s with words := u.words, ledger := u.ledger } ∧
           u.ledger.journal = place (l.journal.filter fun x => !decide (x.1 + l.stripes ≤ n)) n
             (blockBytes l blk, blk.last)) ∧
       ((l.inFlight.find? fun x => x.drive == dr.val && x.block == n) = some c → c.tries < 2 →
         Runs (.driveWriteComplete dr n false) s retried ∧
         (c.sent + c0Timeout s ≤ now s → Runs (.c0CommandTimeout dr n) s retried)) ∧
       (ringOwner s ring_.val = some fn → ledgerRing s ring_.val = true → platform s fn = true →
         (ring s ring_.val).items = [i] → i.desc = some desc → i.processed = false → l.spill = [] →
         1 ≤ leAt desc 8 4 → leAt desc 8 4 ≤ 256 → leAt desc 12 4 = 0 → leAt desc 24 8 = 0 →
         leAt desc 16 8 % 4096 = 0 → word64 s 0x4000010 ≤ leAt desc 0 8 → leAt desc 0 8 + leAt desc 8 4 ≤ firstOpen s →
         Runs (.ledgerRead ring_) s fun u => u = { s with rings := u.rings, ledger := { l with
             reads := l.reads ++ [⟨ring_.val, i.pos, leAt desc 0 8, leAt desc 8 4, []⟩] } } ∧
           (ring u ring_.val).items = [{ i with processed := true }]) ∧
       (driveOf s n = dr.val → (l.reads.find? fun x => decide (x.first ≤ n ∧ n < x.first + x.count) &&
         !(x.got.any fun y => y.1 == n)) = some q → q.got.length + 1 < q.count →
         Runs (.driveReadComplete dr n data none) s fun u => u = { s with ledger := { l with
           reads := l.reads.map fun x => if x = q then { q with got := q.got ++ [(n, slice data 0 4096)] } else x } }))

/-- A register write acts when it is aligned and whole: a plain register takes a value of its range and keeps its
other bits, a register of a committed block takes it as an uncommitted value, a 64-bit write is the two writes of its
halves, lower offset first; every other write leaves the registers and records why, and so does one of the expansion
ROM, which has the offsets from `romBase` on (the model's choice, log entry 189). -/
def Obligations.RegisterWrites : Prop :=
  ∀ (fn : FnId) (off o : Nat) (wide : Bool) (be : BitVec 8) (v : BitVec 64) (n : Fin 17) (g : Fin 4) (s : State),
    let log := fun (off cause : Nat) (u : State) => u = { s with words := u.words, recorder := u.recorder } ∧
      WordsKept [0x401000 + sourceOf off * 4, 0x400010] s u ∧
      Recorded (sourceOf off) 0x04 (off % 2 ^ 28 + fn.fn.val * 2 ^ 28 + Endpoint.num fn.ep * 2 ^ 38 + cause * 2 ^ 40) s u
    let temp := 0x502000 + 4 * n.val
    let mode := 0x1410000 + 0x40 * g.val
    (Live s → romOpen s fn o 1 = true → Runs (.registerWrite fn (romBase + o) wide be v) s fun u =>
      u = { s with words := u.words, recorder := u.recorder } ∧
      Recorded (sourceOf (hlkAddr fn.ep 0)) 0x04
        (o + fn.fn.val * 2 ^ 28 + Endpoint.num fn.ep * 2 ^ 38 + 5 * 2 ^ 40) s u) ∧
    (MayRead s fn → off < romBase → off % (if wide then 8 else 4) ≠ 0 →
      Runs (.registerWrite fn off wide be v) s (log off 6)) ∧
    (MayRead s fn → off < romBase → off % 4 = 0 → be.toNat % 16 ≠ 15 →
      Runs (.registerWrite fn off false be v) s (log off 3)) ∧
    (MayRead s fn → off < romBase → off % 8 = 0 → be ≠ 0xFF → Runs (.registerWrite fn off true be v) s (log off 3)) ∧
    (off < romBase → off % 8 = 0 → Live s → (∀ m, exec (.registerWrite fn off false 0xFF v) s = .next m → Live m) →
      Runs (.registerWrite fn off true 0xFF v) s fun u => ∃ m,
        exec (.registerWrite fn off false 0xFF v) s = .next m ∧
        exec (.registerWrite fn (off + 4) false 0xFF (v >>> 32)) m = .next u) ∧
    (platform s fn = true → MayWrite s fn temp →
      (v.toNat % 1024 ≤ 1000 → Runs (.registerWrite fn temp false 0x0F v) s fun u =>
        u = { s with words := u.words } ∧ WordsKept [temp] s u ∧
        (Canonical s → word u temp = (word s temp &&& 0xFFFFFC00) ||| (v.truncate 32 &&& 0x3FF))) ∧
      (1000 < v.toNat % 1024 → Canonical s → Runs (.registerWrite fn temp false 0x0F v) s (log temp 1))) ∧
    (MayWrite s pf0 mode → (∀ x ∈ s.shadow, x.addr ≠ mode) → Runs (.registerWrite pf0 mode false 0x0F v) s fun u =>
      u = { s with shadow := s.shadow ++ [⟨.macGrp g.val, pf0, mode, 7, v.truncate 32 &&& 7⟩] }) ∧
    (MayWrite s pf0h1 mode → Runs (.registerWrite pf0h1 mode false 0x0F v) s fun u =>
      u = { s with words := u.words, recorder := u.recorder } ∧
      Recorded (sourceOf mode) 0x04 (mode % 2 ^ 28 + 1 * 2 ^ 38 + 5 * 2 ^ 40) s u)

/-- Reads that do more than return a word: the low half of a split counter latches the high half, whose read returns
what is latched and ends the latch, the greatest lateness of a class is cleared by its read, a read that is not
aligned returns zeros and is recorded, and one of the expansion ROM returns its bytes. -/
def Obligations.RegisterReads : Prop :=
  ∀ (fn : FnId) (off o : Nat) (k : Fin 64) (wide : Bool) (s : State),
    let value := counterValue s off
    let lo : Word := BitVec.ofNat 32 value
    let hi : Word := BitVec.ofNat 32 (value / 2 ^ 32)
    let late := 0x1A09030 + 0x40 * k.val
    let sees := fun (a : Nat) => fn.fn = 0 ∨ readView s fn a = true
    let at_ := fun (o : Nat) => BitVec.ofNat 32 (leNat (romBytes s fn o 4))
    MayRead s fn →
      (splitCounter off = true → sees off →
        Runs (.counterLowRead fn off false) s (fun u => u = { s with reply := [lo], latch := u.latch } ∧
          look u.latch (off + 4) = some hi ∧ ∀ a, a ≠ off + 4 → look u.latch a = look s.latch a) ∧
        (off % 8 = 0 → Runs (.counterLowRead fn off true) s fun u =>
          u = { s with reply := [lo, hi], latch := u.latch } ∧
          ∀ a, a ≠ off + 4 → look u.latch a = look s.latch a)) ∧
      (splitCounter off = true → splitCounter (off + 4) = false → sees (off + 4) →
        Runs (.counterLowRead fn (off + 4) false) s fun u =>
          u = { s with reply := [(look s.latch (off + 4)).getD hi], latch := remove s.latch (off + 4) }) ∧
      (splitCounter off = true → off % (if wide then 8 else 4) = 0 → ¬sees off →
        Runs (.counterLowRead fn off wide) s fun u =>
          u = { s with reply := List.replicate (if wide then 2 else 1) 0 }) ∧
      (sees late → Runs (.lateMaxRead fn late) s fun u => u = { s with reply := [word s late], words := u.words } ∧
        WordsKept [late] s u ∧ (Canonical s → word u late = 0)) ∧
      (off < romBase → off % (if wide then 8 else 4) ≠ 0 → Runs (.registerReadUnaligned fn off wide) s fun u =>
        u = { s with reply := List.replicate (if wide then 2 else 1) 0, words := u.words, recorder := u.recorder } ∧
        Recorded (sourceOf off) 0x04 (off % 2 ^ 28 + fn.fn.val * 2 ^ 28 + Endpoint.num fn.ep * 2 ^ 38 + 6 * 2 ^ 40) s u) ∧
      (romOpen s fn o (if wide then 8 else 4) = true → Runs (.registerReadUnaligned fn (romBase + o) wide) s fun u =>
        u = { s with reply := if wide then [at_ o, at_ (o + 4)] else [at_ o] })

/-- A tick of a device at rest: the tick count rises by 1 and the timebase by INCR, results of threads whose tick has
come are in their registers, and the budget of a thread with a frame falls by 1. The work of a boundary is done once,
in the first tick of the round. -/
def Obligations.TicksAndRounds : Prop :=
  ∀ s : State, Live s →
    (Quiet s → s.tbs.snapAt = none → s.tbs.slewLeft = 0 →
      (∀ p ∈ s.threads, p.2.fault = none ∧ p.2.haltFrom = none ∧ p.2.wait = none) →
      Runs .tick s fun u => u = { s with
        tick := s.tick + 1
        tbs := { s.tbs with
          last := s.tbs.acc, acc := s.tbs.acc + s.tbs.incr.zeroExtend 128, past := u.tbs.past }
        threads := s.threads.map fun p => (p.1, retire (if p.2.frame.isSome &&
          (!p.2.halted || p.2.issued == some (now s)) then
          { p.2 with budget := p.2.budget - 1 } else p.2) (now u)) } ∧
        (u.tbs.past = s.tbs.past ∨ u.tbs.past =
          ⟨now u, compactFine u, s.tbs.incr.toNat, s.tbs.midnights.getLsbD 0⟩ :: s.tbs.past)) ∧
    (now s % 256 ≠ 0 ∨ s.boundary = some (now s) → Runs .roundBoundary s fun u => u = s) ∧
    (Quiet s → now s % 256 = 0 → s.tbs.stepDue = none → (∀ n, n < 17 → clusterRole s n ≠ 2) →
      Runs .roundBoundary s fun u =>
        u = { s with boundary := some (now s), words := u.words, tbs := u.tbs, endpoints := u.endpoints } ∧
        u.tbs = { s.tbs with stepRounds := u.tbs.stepRounds, incrLog := u.tbs.incrLog, past := u.tbs.past } ∧
        u.tbs.past <+: s.tbs.past ∧
        (∀ e, (endpoint u e).strict = bit (word s (hlkAddr e 4)) 0) ∧
        WordsKept [0x300004, 0x5000010, 0x5000014, 0x10003C] s u)

/-- Reception at a port whose link is up: a frame shorter than 64 bytes is a runt, one above MAX_FRAME oversize, one
with a bad FCS or codeword is dropped as such, a pause frame is kept for its acting tick or counted as not wanted, and
a frame that passes stands whole in the ingress buffer with its tag. -/
def Obligations.FrameReception : Prop :=
  ∀ (p : Fin 16) (bytes : List Byte) (bad : Bool) (ingress endTime : BitVec 64) (s : State),
    let n := bytes.length
    let body := bytes.take (n - 4)
    let max_ := rf s (macAddr p.val 4) 14 0
    let sound := bad = false ∧ bytes.drop (n - 4) = crcBytes .crc32 (crc .crc32 body)
    let ctr := fun (k : Nat) => macAddr p.val (0x400 + 8 * k)
    let control := etherAt body 12 = 0x8808
    let v := port s p.val
    let q := outerPcp body
    let key := bufferKey s p.val q
    let ends := fun (reason k : Nat) => Runs (.frameReceive p bytes bad ingress endTime) s fun u =>
      u = { s with words := u.words, drops := u.drops } ∧ Drops (.port p.val) reason s u ∧
      (Canonical s → Counted64 (ctr k) s u)
    Live s → v.resetAt = none → linkUp s p.val = true →
      (n < 64 → ends 0x02 7) ∧ (64 ≤ n → max_ < n → ends 0x03 8) ∧ (64 ≤ n → n ≤ max_ → ¬sound → ends 0x01 6) ∧
      (64 ≤ n → n ≤ max_ → sound → control → beAt body 14 2 = 1 → rf s (macAddr p.val 0) 9 8 = 1 →
        Runs (.frameReceive p bytes bad ingress endTime) s fun u =>
          u = { s with words := u.words, ports := u.ports } ∧
          port u p.val = { v with pauses := v.pauses ++ [⟨now s + 1, none, beAt body 16 2⟩] } ∧
          (Canonical s → Counted64 (ctr 12) s u)) ∧
      (64 ≤ n → n ≤ max_ → sound → control → beAt body 14 2 ≠ 1 → beAt body 14 2 ≠ 0x101 →
        Runs (.frameReceive p bytes bad ingress endTime) s fun u => u = { s with words := u.words } ∧
          (Canonical s → Counted64 (ctr 15) s u)) ∧
      (64 ≤ n → n ≤ max_ → sound → ¬control →
        macVerify s p.val (roundOf (now s - frx s p.val)) body = (s, .ok (body, false)) →
        bit (word s (macAddr p.val 0)) 1 = true → bit (word s (macAddr p.val 0xC)) 16 = false →
        occupancy s p.val key + cellsOf body.length < bufferLimit s p.val key →
        Runs (.frameReceive p bytes bad ingress endTime) s fun u =>
          u = { s with words := u.words, ports := u.ports, frames := u.frames, nextFrame := s.nextFrame + 1 } ∧
          frame? u s.nextFrame = some
            { id := s.nextFrame, stage := .whole, src := .port p.val
              tag := portTag s p.val body.length ingress endTime false
              bytes := body, endTick := now s - frx s p.val, wholeTick := now s
              round := roundOf (now s - frx s p.val), ingressTick := tickOfTime s ingress
              buffered := some (p.val, q, cellsOf body.length) } ∧
          (∀ k, k ≠ s.nextFrame → frame? u k = frame? s k) ∧
          (port u p.val).cells = v.cells.set q (cellsAt v q + cellsOf body.length))

/-- Pause in both directions and the port's link: a pause that acts holds transmission for its time and one of time 0
resumes it, a time run out is no longer shown, XOFF is sent again every half pause time, and link up, link down,
low-power idle and a port reset leave the port as its status says; a port reset restarts the servo. -/
def Obligations.PortStates : Prop :=
  ∀ (p : Fin 16) (q : Fin 8) (d : PauseDue) (sentAt : Nat) (anDone : Bool) (s : State),
    let a := macAddr p.val
    let v := port s p.val
    let quanta := rf s (a 0x14) 15 0
    let ticks := pauseTicks (portRate s p.val) d.quanta
    let idle := { v with pauses := [], pausedUntil := 0, pfcUntil := List.replicate 8 0, resumed := none }
    let others := fun (u : State) => ∀ k, k ≠ p.val → port u k = port s k
    Live s →
      (v.pauses = [d] → d.act ≤ now s → d.prio = none → Runs (.pauseAct p) s fun u =>
        u = { s with words := u.words, ports := u.ports } ∧ others u ∧ WordsKept [a 8] s u ∧
        port u p.val = { v with
          pauses := [], pausedUntil := d.act + ticks, resumed := if ticks = 0 then some d.act else v.resumed } ∧
        (Canonical s → rf u (a 8) 2 2 = if ticks = 0 then 0 else 1)) ∧
      (v.pauses = [d] → d.act ≤ now s → d.prio = some q → Runs (.pauseAct p) s fun u =>
        u = { s with words := u.words, ports := u.ports } ∧ others u ∧ WordsKept [a 8] s u ∧
        port u p.val = { v with
          pauses := [], pfcUntil := v.pfcUntil.set q.val (d.act + ticks)
          resumed := if ticks = 0 then some d.act else v.resumed } ∧
        (Canonical s → rf u (a 8) (4 + q.val) (4 + q.val) = if ticks = 0 then 0 else 1)) ∧
      (Runs (.pauseExpire p) s fun u => u = { s with words := u.words } ∧ WordsKept [a 8] s u ∧
        (Canonical s → rf u (a 8) 2 2 = (if v.pausedUntil ≤ now s then 0 else rf s (a 8) 2 2) ∧
          rf u (a 8) (4 + q.val) (4 + q.val) =
            if v.pfcUntil.getD q.val 0 ≤ now s then 0 else rf s (a 8) (4 + q.val) (4 + q.val))) ∧
      (v.xoff = [(q.val, sentAt)] → quanta ≠ 0 → sentAt + pauseTicks (portRate s p.val) quanta / 2 ≤ now s →
        Runs (.pauseResend p q) s fun u => u = { s with words := u.words, ports := u.ports } ∧ others u ∧
          (port u p.val).xoff = [(q.val, now s)] ∧
          ∃ m, (port u p.val).sent = v.sent ++ [m] ∧
            m.bytes = pauseFrame s p.val (if rf s (a 0) 11 10 = 2 then some q.val else none) quanta) ∧
      (linkUp s p.val = false → mayLink s p.val = true → Runs (.linkUp p anDone) s fun u =>
        u = { s with words := u.words, recorder := u.recorder, mgmt := u.mgmt } ∧
        WordsKept [a 8, 0x401000 + srcPort p.val * 4, 0x400010] s u ∧
        Recorded (srcPort p.val) 0x09 (detail p.val 1) s u ∧
        (Canonical s → rf u (a 8) 1 0 = if anDone && bit (word s (a 0)) 6 then 3 else 1)) ∧
      (linkUp s p.val = true → Runs (.linkDown p false) s fun u =>
        u = { s with words := u.words, recorder := u.recorder, mgmt := u.mgmt, ports := u.ports } ∧ others u ∧
        port u p.val = idle ∧ Recorded (srcPort p.val) 0x09 (detail p.val 0) s u ∧
        (Canonical s → rf u (a 8) 11 0 = 0 ∧ Counted64 (a (0x400 + 8 * 18)) s u)) ∧
      (linkUp s p.val = true → portLpiEn s p.val = true → lpiType (portMode s p.val) (rf s (a 0) 3 2) = true →
        v.onWay = [] → v.started ≤ bitTime (now s) → Runs (.lpiEnter p) s fun u =>
          u = { s with words := u.words } ∧ WordsKept [a 8] s u ∧ (Canonical s → rf u (a 8) 3 3 = 1)) ∧
      (MayWrite s pf0 0x100018 → (∀ f ∈ s.frames, frameOnPort p.val f.2 = false) →
        Runs (.portReset pf0 p) s fun u =>
          u = { s with
            words := u.words, recorder := u.recorder, ports := u.ports, nodes := u.nodes, cellsDue := u.cellsDue
            tbs := u.tbs, commits := u.commits, ledger := u.ledger } ∧
          (servoState s = 0 → u.tbs = s.tbs ∧ u.commits = s.commits ∧ u.ledger = s.ledger) ∧
          (Canonical s → servoState u = if servoState s = 2 then 3 else 0) ∧ others u ∧ port u p.val = { idle with
            generation := (v.generation + 1) % 16, onWay := [], wireFree := 0, started := 0
            resetAt := some (now s) } ∧
          (∀ n, n < 0x1000000 → n / 32768 = p.val → look u.nodes n = none) ∧
          (Canonical s → rf u (a 8) 15 12 = (v.generation + 1) % 16 ∧ rf u (a 8) 11 0 = 0))

/-- The end of a frame's parse stage: without a parse program, or where the parse fails, the frame carries PARSE_FAIL;
where it is accepted and its class has a token, the frame has its key, its hash and its hint class and is green; where
the class has none it is dropped under PATH_RATE. The classifier stage of a frame from a port, in the tick in which
its rule is known: a frame with PARSE_FAIL is counted and goes to the exception path in the next tick, and so does one
for which no rule set is bound, with MISS. A dispatch gives the frame at the head of its class's queue to the lowest
free thread of a cluster that has a slot left: the thread starts at the program's entry with the frame's length in g1,
the bytes of its header buffer in g2 and the program's budget, and its slice holds the program's initial data. -/
def Obligations.FrameStages : Prop :=
  (∀ (id : Nat) (f : Frame) (prog : Program) (hint : Option Nat) (s m : State),
     let key := startKey f (bindTenancy s f)
     let b := bindAddr (bindingOf f) 0
     let r := runParse prog.parse f.bytes key
     let cls := hint.getD (bindDefault s f)
     let hash := hashOf s f.round (rfAt s f.round b 17 16) cls r.1.input
     let parsed := { f with stage := .parsed, parseTicks := parseTicks s f }
     let others := fun (u : State) => u = { s with frames := u.frames } ∧ ∀ k, k ≠ id → frame? u k = frame? s k
     Live s → rf s 0x100000 2 0 = 2 → frame? s id = some f → f.id = id → f.stage = .whole →
     now s = f.wholeTick + parseTicks s f →
       (parseProgram s f = none → Runs (.parse id) s fun u => others u ∧ frame? u id = some { parsed with
         key := endKey key 0 true 0, hdrs := [], hint := none, tag := (setFlag f.tag 18 true).set 11 0 }) ∧
       (parseProgram s f = some prog → r.2 = .fail → Runs (.parse id) s fun u => others u ∧
         frame? u id = some { parsed with
           key := endKey r.1.key r.1.layer true r.1.last, hdrs := r.1.hdrs, hint := none
           tag := (setFlag f.tag 18 true).set 11 0 }) ∧
       (parseProgram s f = some prog → r.2 = .accept hint → takeClassToken s cls = (m, true) →
         Runs (.parse id) s fun u => u = { m with frames := u.frames } ∧ frame? u id = some { parsed with
           key := endKey r.1.key r.1.layer false r.1.last, hdrs := r.1.hdrs, hint := some cls
           tag := setTag (f.tag.set 11 (BitVec.ofNat 32 hash)) 12 9 8 0 }) ∧
       (parseProgram s f = some prog → r.2 = .accept hint → takeClassToken s cls = (m, false) → f.sendPos = none →
         Canonical s →
         Runs (.parse id) s fun u => frame? u id = none ∧
           dropCount u (atSource f) 0x06 = dropCount m (atSource f) 0x06 + 1)) ∧
  (∀ (id : Nat) (p : Nat) (f : Frame) (s : State),
     let t0 := setTag (setTag f.tag 0 21 12 (bindTenancy s f)) 0 27 22 (bindDefault s f)
     let t := tagTenancy t0
     let g := { f with tag := defaultCtx s f.round t t0 }
     let settles := fun (g : Frame) (reason a : Nat) => Runs (.classifierStage id) s fun u =>
       u = { s with words := u.words, frames := u.frames } ∧ (∀ k, k ≠ id → frame? u k = frame? s k) ∧
       frame? u id = some { g with stage := .settled reason } ∧ WordsKept [a] s u ∧ (Canonical s → Counted a s u)
     Live s → frame? s id = some f → f.id = id → f.src = .port p → f.stage = .parsed → now s = lookupTick s f →
       (tagFlag g.tag 18 = true → settles g 0x10 (excAddr t 0x14)) ∧
       (tagFlag g.tag 18 = false → bit (wordAt s f.round (bindAddr (bindingOf f) 4)) 31 = false → f.hint = none →
         settles { g with tag := setFlag g.tag 19 true } 0x11 (excAddr t 0x18))) ∧
  (∀ (cls : Fin 64) (f : Frame) (p : Program) (t : Tid) (s : State),
     let c := pathAt s f.round cls.val
     let loaded := look s.sliceOf (tidNum t) = some (c.loadedAt * 64 + cls.val)
     let a := sliceAddr t 0
     Live s → queueHead s cls.val = some f → c.program = some p → f.ready ≤ now s →
     ((classThreads c).find? fun t => threadFree s t && decide (startsNow s cls.val t.cluster.val < max 1 c.s)) =
       some t →
     bit (wordAt s f.round (0x1C30000 + tagClass f.tag * 4)) 0 = false → p.data.length ≤ 16384 →
       Runs (.dispatch cls) s fun u =>
         u = { s with threads := u.threads, frames := u.frames, mem := u.mem, sliceOf := u.sliceOf } ∧
         frame? u f.id = some { f with stage := .thread t } ∧ (∀ k, k ≠ f.id → frame? u k = frame? s k) ∧
         (∀ t', t' ≠ t → thread u t' = thread s t') ∧ (thread u t).frame = some f.id ∧
         (thread u t).pc = BitVec.ofNat 32 (p.entries.getD f.entry (0, 0)).1 ∧
         (f.bytes.length < 2 ^ 64 → gReg (thread u t) 1 = BitVec.ofNat 64 f.bytes.length) ∧
         gReg (thread u t) 2 = BitVec.ofNat 64 (min f.bytes.length 448) ∧ (thread u t).budget = p.budget ∧
         hdrBytes (thread u t) 0 512 = padTo 512 (tagBytes f.tag ++ f.bytes.take 448) ∧
         (∀ x, x < a ∨ a + 16384 ≤ x → readByte u x = readByte s x) ∧ (loaded → u.mem = s.mem) ∧
         (¬loaded → Canonical s → ∀ i, i < 16384 → readByte u (a + i) = p.data.getD i 0))

/-- A frame that no group holds and nothing holds back, in its due tick or, LATE, after it: to the ledger it is
recorded and gone; bound for a port it joins its queue node from its hand-over tick on, or is dropped as tail drop; a
group gives an arrived frame its sequence number and its place. -/
def Obligations.HeldFrames : Prop :=
  ∀ (f : Frame) (g : Fin 256) (s : State),
    let late := now s - f.due
    let stamped := { f with tag := setFlag (setFlag f.tag 25 (stepBetween s f)) 16 (decide (f.due < now s)) }
    let n := tagNode f.tag
    let p := n / 32768
    let len := queueLength s f
    let v := node s n
    let full := fld (word s (queueAddr n 3)) 15 0 < v.cells + cellsOf len ∨
      ((tagFld f.tag 12 9 8 = 1 ∨ tagFld f.tag 12 9 8 = 2) ∧ fld (word s (queueAddr n 3)) 31 16 ≤ v.cells)
    let seq := word64 s (seqAddr g.val 0x20)
    Live s → s.frames = [(f.id, f)] → s.learnMarks = [] → f.heldFrom ≤ now s → f.notBefore ≤ now s → f.sa = none →
    f.sendPos = none → f.mirror = none → f.buffered = none →
      (f.stage = .held → tagDestKind f.tag = dkLedger → f.due = now s → Runs (.dueTickRelease f.id) s fun u =>
        u = { recordRelease s stamped (compactNow s) 0 with frames := [] }) ∧
      (f.stage = .held → tagDestKind f.tag = dkLedger → f.due < now s → Runs (.lateRelease f.id) s fun u =>
        u = { recordRelease (countLate s (tagClass f.tag) (tagTenancy f.tag) late) stamped (compactNow s) late with
          frames := [] }) ∧
      (f.stage = .held → tagDestKind f.tag = dkPort → handoverTick s p f.due ≤ now s → ¬full →
        Runs (.queueHandover f.id) s fun u => u = { s with frames := u.frames, nodes := u.nodes } ∧
          frame? u f.id = some { f with
            stage := .queue n, tag := setTag f.tag 7 15 0 len, ready := now s + (ftx s p + 4) } ∧
          node u n = { v with queue := v.queue ++ [f.id], cells := v.cells + cellsOf len } ∧
          ∀ m, m ≠ n → node u m = node s m) ∧
      (f.stage = .held → tagDestKind f.tag = dkPort → handoverTick s p f.due ≤ now s → full → captured f = false →
        Runs (.queueHandover f.id) s fun u =>
          u = { s with frames := [], words := u.words, drops := u.drops } ∧ Drops (.node n) 0x42 s u) ∧
      (f.stage = .group g.val → f.heldFrom ≤ seqTick s g.val f → seqTick s g.val f ≤ now s →
        (group s g.val).positions = [] → (group s g.val).unstored = [] → seqRing s f.round g.val = none →
        seqRefusal s g.val f = none → seqIndex s g.val f ≠ seqSources s f.round g.val →
        Runs (.seqAdmit g) s fun u => u = { s with words := u.words, frames := u.frames, groups := u.groups } ∧
          frame? u f.id = some { f with
            stage := .member g.val, tag := setFlag (setTag64 f.tag 13 seq) 24 false } ∧
          (group u g.val).positions = [{ seq := seq, id := f.id, frame := some f.id, due := f.due, round := f.round }] ∧
          (Canonical s → word64 u (seqAddr g.val 0x20) = (seq + 1) % 2 ^ 64))

/-- A receive ring: descriptors that arrive are on chip; the frame at its head is written when its buffers, a
completion slot and its descriptors are there, and is dropped for want of a buffer once HOLD rounds have passed. -/
def Obligations.ReceiveRings : Prop :=
  ∀ (r : Fin 65536) (fn : FnId) (f : Frame) (p : Nat) (d : List Byte) (descs : List (List Byte)) (s : State),
    let v := ring s r.val
    let cq := ringCq s r.val
    let bytes := (stripTags (stripCount s r.val f) f.bytes).1
    let n := buffersFor s r.val bytes.length
    let slot := (ring s cq).reserved
    let head := s.frames = [(f.id, f)] ∧ v.waiting = [f.id] ∧ v.bad = [] ∧ f.sendPos = none ∧ f.mirror = none ∧
      f.buffered = none ∧ captured f = false
    Live s → ringOwner s r.val = some fn → ringOn s r.val 2 = true → cq ≠ r.val →
      (s.delivered = [(.rxDesc r.val p false, 0, d)] → d.length = 32 → p < 2 ^ 32 → v.waiting = [] → v.bad = [] →
        sub32 p v.taken < sub32 v.asked v.taken → leAt d 0 8 % 64 = 0 → leAt d 8 1 < 2 → leAt d 9 23 = 0 →
        Runs (.rxDescriptor r) s fun u => u = { s with delivered := [], rings := u.rings } ∧
          ring u r.val = { v with onChip := v.onChip ++ [(p, d)] }) ∧
      (head → f.due = now s → f.notBefore ≤ now s → n ≤ freeBuffers s r.val → cqFree s cq ≠ 0 →
        canWrite s r.val = true → chipDescs s r.val v.taken n = some descs → f.copyOf = none →
        Runs (.rxFrameStart r) s fun u =>
          u = { s with frames := [], rings := u.rings, endpoints := u.endpoints, cplDue := u.cplDue } ∧
          (ring u r.val).waiting = [] ∧ (ring u r.val).taken = (v.taken + n) % 2 ^ 32 ∧
          ring u cq = { ring s cq with reserved := slot + 1 } ∧
          ∃ c, u.cplDue = s.cplDue ++
              [⟨now s + 1, cq, slot, completionBytes c (slot / max 1 (ringSize s cq) % 2 == 0), r.val, n⟩] ∧
            c.length = bytes.length ∧ c.bufs = n ∧ c.status = 0 ∧ c.kind = 1 ∧ c.lateness = 0 ∧
            c.ingress = tag64 f.tag 1 ∧ c.release = (compactNow s).toNat ∧ c.reason = tagReason f.tag) ∧
      (head → freeBuffers s r.val < n → f.due + 256 * rf s (rngAddr r.val 0x14) 15 8 ≤ now s →
        Runs (.rxHoldExpire r) s fun u =>
          u = { s with frames := [], rings := u.rings, words := u.words, drops := u.drops } ∧
          ring u r.val = { v with waiting := [] } ∧ Drops (.ring r.val) 0x50 s u ∧
          (Canonical s → Counted (rngAddr r.val 0x30) s u))

/-- Doorbells move the P of a function's own enabled ring and publish the send descriptors that they name; a doorbell
of a ring of another function is counted and recorded. A ring is enabled in the next tick, stopped at once, and
signals when its interrupt timer has run out. -/
def Obligations.RingCommands : Prop :=
  ∀ (fn : FnId) (page off : Nat) (v : BitVec 64) (val : BitVec 32) (r : Fin 65536) (s : State),
    let n := v.toNat % 65536
    let cnt := v.toNat / 2 ^ 32
    let p := ringProd s n
    let delta := sub32 cnt p
    let room := if ringKind s n = 3 then sub32 (ringDone s n) p else ringSize s n - sub32 p (ringDone s n)
    let plain := off % 8 = 0 ∧ v.toNat / 65536 % 65536 = 0
    let good := plain ∧ ringOwner s n = some fn ∧ ringEnabled s n = true ∧ ringSize s n ≠ 0 ∧ ringPage s n = page ∧
      0 < delta ∧ delta ≤ room
    let a := rngAddr r.val 4
    let k := ring s r.val
    let w := word s (rngAddr r.val 0x20)
    let mine := platform s fn = true ∨ ringOwner s r.val = some fn
    (MayRead s fn → good → ringKind s n = 1 → Runs (.doorbell fn page off 8 v) s fun u =>
      u = { s with words := u.words, rings := u.rings } ∧ WordsKept [rngAddr n 0x24] s u ∧
      ((ring u n).items.map fun i => i.pos) =
        ((ring s n).items.map fun i => i.pos) ++ ((List.range delta).map fun i => (p + i) % 2 ^ 32) ∧
      (Canonical s → ringProd u n = cnt)) ∧
    (MayRead s fn → good → ringKind s n ≠ 1 → Runs (.doorbell fn page off 8 v) s fun u =>
      u = { s with words := u.words } ∧ WordsKept [rngAddr n 0x24] s u ∧ (Canonical s → ringProd u n = cnt)) ∧
    (MayRead s fn → plain → ringOwner s n ≠ some fn → Runs (.doorbell fn page off 8 v) s fun u =>
      u = { s with words := u.words, recorder := u.recorder, drops := u.drops } ∧
      Drops (.tenancy (fnTenancy s fn)) 0x59 s u) ∧
    (MayWrite s fn a → mine → bit (word s a) 3 = false → fld val 2 0 ≤ 4 →
      (fld val 8 4 = 0 ∨ (6 ≤ fld val 8 4 ∧ fld val 8 4 ≤ 16)) →
      canEnable s r.val (blend (word s a) 0xFFFDF7 val) = true → Runs (.ringEnable fn r val) s fun u =>
        u = { s with words := u.words, rings := u.rings } ∧ WordsKept [a] s u ∧
        ring u r.val = { k with enabling := some (now s + 1) } ∧
        (Canonical s → word u a = blend (word s a) 0xFFFDF7 val)) ∧
    (MayWrite s fn a → mine → bit (word s a) 3 = true → ringKind s r.val ≠ 3 → k.waiting = [] →
      Runs (.ringDisable fn r) s fun u =>
        u = { s with words := u.words, rings := u.rings, groups := u.groups } ∧
        WordsKept [a, rngAddr r.val 0x2C] s u ∧
        u.groups = s.groups.map (fun g => (g.1, { g.2 with
          positions := g.2.positions.map fun p => if p.ring = some r.val then { p with lost := true, bufs := 0 }
            else p })) ∧
        ring u r.val = { k with
          items := k.items.filter (fun i => i.desc.isSome), onChip := [], bad := [], asked := ringProd s r.val
          taken := ringProd s r.val, enabling := none, retry := [] } ∧
        (Canonical s → ringEnabled u r.val = false ∧ rf u (rngAddr r.val 0x2C) 0 0 = 0)) ∧
    (Live s → now s % 256 = 0 → rf s (rngAddr r.val 0x1C) 23 16 ≠ 0 → 0 < k.pendingInts →
      rf s (rngAddr r.val 0x1C) 23 16 ≤ round s - k.firstRound → ringOwner s r.val = some fn →
      (bit w 15 = false → Runs (.intTimerExpire r) s fun u =>
        u = { s with rings := u.rings } ∧ ring u r.val = { k with pendingInts := 0 }) ∧
      (bit w 15 = true → fld w 10 0 < (fnState s fn).vecCount → (fnState s fn).msix = true →
        mayRequest s fn = true → fld w 10 0 ∉ (fnState s fn).masked → Runs (.intTimerExpire r) s fun u =>
          u = { putTlp s fn.ep (.msix fn (fld w 10 0)) with rings := u.rings } ∧
          ring u r.val = { k with pendingInts := 0 }))

/-- Send descriptors: one in its format has its data read, one of no bytes completes as EMPTY; the last byte of its
data makes the frame whole, padded to 60 bytes, in the round of its doorbell. -/
def Obligations.SendDescriptors : Prop :=
  ∀ (r : Fin 65536) (fn : FnId) (i : SendItem) (d bs : List Byte) (s : State),
    let v := ring s r.val
    let l := descFld d 0 15 0
    let parts := (readParts s fn (leAt d 8 8) l).length
    let plain := descFld d 0 31 31 = 0 ∧ descFld d 0 16 16 = 0 ∧ sendFormatOk d = true
    let cq := ringCq s r.val
    Live s → ringOwner s r.val = some fn → ledgerRing s r.val = false → v.items = [i] → i.pos < 2 ^ 32 →
    i.ready = none → i.stageAt = none →
      (s.delivered = [(.sendDesc r.val i.pos, 0, d)] → d.length = 32 → plain → 0 < l → lengthOk d l = true →
        Runs (.sendDescriptor r) s fun u =>
          u = { s with delivered := [], rings := u.rings, endpoints := u.endpoints } ∧
          (∀ e, e ≠ fn.ep → endpoint u e = endpoint s e) ∧
          ring u r.val = { v with items := [{ i with desc := some d, parts := parts }] }) ∧
      (∀ slot, s.delivered = [(.sendDesc r.val i.pos, 0, d)] → d.length = 32 → plain → l = 0 → i.slot = some slot →
        Runs (.sendDescriptor r) s fun u => u = { s with delivered := [], rings := u.rings, cplDue := u.cplDue } ∧
          ring u r.val = { v with items := [] } ∧
          (u.cplDue.map fun c => (c.tick, c.cq, c.slot, c.ring, c.entries)) =
            (s.cplDue.map fun c => (c.tick, c.cq, c.slot, c.ring, c.entries)) ++ [(now s + 1, cq, slot, r.val, 1)]) ∧
      (s.delivered = [(.sendData r.val i.pos, 0, bs)] → i.parts = 1 → i.desc = some d → descFld d 0 18 18 = 0 →
        descFld d 0 19 19 = 0 → descFld d 0 22 22 = 0 → descFld d 0 23 23 = 0 →
          Runs (.sendDataArrive r i.pos) s fun u =>
          u = { s with delivered := [], rings := u.rings, frames := u.frames, nextFrame := s.nextFrame + 1 } ∧
          frame? u s.nextFrame = some
            { id := s.nextFrame, stage := .whole, src := .ring r.val
              tag := hostTag s fn i (max 60 bs.length), bytes := padTo 60 bs, sendPos := some (r.val, i.pos)
              endTick := i.doorbell, ingressTick := i.doorbell, wholeTick := now s, round := i.round
              relaxed := descFld d 0 17 17 == 1 } ∧
          ((ring u r.val).items.map fun j => (j.pos, j.frame, j.ready, j.stageAt)) =
            [(i.pos, some s.nextFrame, some (now s + ringParse s fn i.round),
              some (max (now s + ringParse s fn i.round + 1) (v.lastStage + 1)))])

/-- Egress choice of a port whose link is up: the head of the only busy queue that is eligible leaves its queue for
the wire at the next free bit time, f_tx + 4 ticks on. A scheduler window's read shows the selected object, and its
write joins the function's uncommitted values. -/
def Obligations.EgressAndWindow : Prop :=
  ∀ (p : Fin 16) (n : Nat) (f : Frame) (x : Pick) (fn : FnId) (s : State),
    let v := port s p.val
    let t := now s + ftx s p.val + 4
    let b := max (bitTime t) v.wireFree
    let o := schSel s fn
    let data := fun (w : Nat) => word s (schWin fn (0x10 + 4 * w))
    (Live s → linkUp s p.val = true → v.resumed = none → calMode s p.val = 0 → busyQueues s p.val = [n] →
      (node s n).queue = [f.id] → frame? s f.id = some f → eligible s p.val b n = some x → x.frame.id = f.id →
      b < bitTime (t + 1) → Runs (.egressChoice p) s fun u =>
        u = { s with words := u.words, frames := u.frames, nodes := u.nodes, ports := u.ports } ∧
        (node u n).queue = [] ∧ frame? u f.id = some { f with stage := .wire p.val } ∧
        (port u p.val).onWay = v.onWay ++ [⟨b, false, f.id⟩] ∧
        (port u p.val).wireFree = b + wireTime s p.val x.lw) ∧
    (MayWrite s fn 0x1B0000C → schOpen s fn o.1 o.2 false = true → o.1 ≠ 3 → Runs (.schRead fn) s fun u =>
      u = { s with words := u.words } ∧
      WordsKept ((List.range 4).map fun w => schWin fn (0x10 + 4 * w)) s u ∧
      (Canonical s → ∀ w, w < 4 → word u (schWin fn (0x10 + 4 * w)) = shadowWord s .sch fn (schObject o.1 o.2 w))) ∧
    (MayWrite s fn 0x1B0000C → schOpen s fn o.1 o.2 false = false → Runs (.schRead fn) s fun u =>
      u = { s with words := u.words, recorder := u.recorder } ∧ (Canonical s → rf u (schWin fn 4) 1 1 = 1)) ∧
    (MayWrite s fn 0x1B0000C → o.1 = 5 → schOpen s fn 5 o.2 true = true →
      (∀ y ∈ s.shadow, ∀ w, w < 4 → y.addr ≠ meterAddr o.2 w) → Runs (.schWrite fn) s fun u =>
        u = { s with shadow := s.shadow ++ (List.range 4).map fun w =>
          (⟨.sch, fn, meterAddr o.2 w, 0xFFFFFFFF, data w⟩ : Shadow) })

/-- Writes to BAR4: into a LANDING or SEQUENCE slot, its publication as a frame, a DOORBELL window's write as a
doorbell of its function, and the counts and answers of a write that matches no window and of a read. -/
def Obligations.PeerWindows : Prop :=
  ∀ (e : Endpoint) (rid : BitVec 16) (off w len : Nat) (data : List Byte) (val : BitVec 64) (s : State),
    let x := off - pwnBase s e w
    let kind := rf s (pwnAddr e w 0) 2 1
    let k := slotKey e w (x / 32768)
    let o := x % 32768
    let n := val.toNat
    let fn := fnOf (Endpoint.num e * 1024 + rf s (pwnAddr e w 0xC) 9 0)
    let answered := fun (kind' : Nat) (u : State) =>
      u = { s with words := u.words, functions := u.functions, endpoints := u.endpoints, recorder := u.recorder } ∧
      Recorded (srcHost e) 0x0B (rid.toNat % 65536 + kind' * 65536) s u ∧
      (Canonical s → Counted (hlkAddr e 0x18) s u ∧ rf u (hlkAddr e 0x50) 23 0 = rid.toNat + kind' * 65536)
    Live s → (endpoint s e).down = false →
      (peerWindow s e rid off data.length = some w → (kind = 1 ∨ kind = 2) → o + data.length ≤ 16380 → data ≠ [] →
        peerSlot s k = {} → Runs (.peerSlotWrite e rid off data) s fun u =>
          u = { s with peerSlots := u.peerSlots } ∧ (∀ j, j ≠ k → peerSlot u j = peerSlot s j) ∧
          (∀ i, i < data.length → sparseGet (fun _ => 0) (peerSlot u k).data (o + i) = data.getD i 0) ∧
          (∀ g, g ∈ (peerSlot u k).marks ↔ o / 64 ≤ g ∧ g * 64 < o + data.length)) ∧
      (peerWindow s e rid off 8 = some w → (kind = 1 ∨ kind = 2) → o = 0x7FF8 → 60 ≤ n → n ≤ 16380 →
        (∀ g, g * 64 < n → g ∈ (peerSlot s k).marks) → Runs (.peerPublish e rid off val) s fun u =>
          u = { s with
            words := u.words, peerSlots := u.peerSlots, frames := u.frames, nextFrame := s.nextFrame + 1 } ∧
          peerSlot u k = { peerSlot s k with marks := [] } ∧
          frame? u s.nextFrame = some
            { id := s.nextFrame, stage := .whole, src := .peer e w, tag := peerTag s e w n
              bytes := (List.range n).map fun i => sparseGet (fun _ => 0) (peerSlot s k).data i
              endTick := now s, ingressTick := now s, wholeTick := now s, round := round s } ∧
          (Canonical s → Counted (pwnAddr e w 0x14) s u)) ∧
      (peerWindow s e rid off 8 = some w → (kind = 1 ∨ kind = 2) → o = 0x7FF8 → (n < 60 ∨ 16380 < n) → n < 65536 →
        Runs (.peerPublish e rid off val) s fun u =>
          u = { s with words := u.words, peerSlots := u.peerSlots, drops := u.drops } ∧
          (peerSlot u k).marks = [] ∧ Drops (.tenancy (rf s (pwnAddr e w 0) 25 16)) 0x58 s u ∧
          (Canonical s → Counted (pwnAddr e w 0x18) s u)) ∧
      (peerWindow s e rid off 8 = some w → kind = 0 → reachable s fn = true →
        Runs (.peerDoorbell e rid off 8 val) s fun u =>
          exec (.doorbell fn (x / 4096) (x % 4096) 8 val) s = .next u) ∧
      (peerWindow s e rid off len = none → Runs (.peerUnmatchedWrite e rid off len) s fun u => answered 1 u ∧
        (Canonical s → Counted (0x802008 + 4 * Endpoint.num e) s u)) ∧
      Runs (.bar4NonPosted e rid off) s fun u => answered 2 u ∧
        (endpoint u e).path = (endpoint s e).path ++ [(now s, .unsupported rid)]

/-- Requests to a host and their completions: the last bytes of a request deliver its data and free its tag, a request
out for its timeout fails and its tag is kept in quarantine for twice the timeout, a failed descriptor read of a
receive ring is sent once more, and completions that nothing expects are counted and reported. Errors of a host link:
a poisoned doorbell is dropped and counted, a TLP with a bad ECRC is discarded and a non-posted one answered with UR
when the check is on, a malformed TLP is reported in PF0. -/
def Obligations.HostLinkErrors : Prop :=
  (∀ (e : Endpoint) (tag : Nat) (q : Request) (data : List Byte) (r : Fin 65536) (fn : FnId) (p n t : Nat) (s : State),
     let v := endpoint s e
     let live := requestLive s q = true
     let logged := fun (rid kind tag : Nat) (u : State) =>
       Recorded (srcHost e) 0x0B (rid % 65536 + kind * 65536 + tag % 16384 * 2 ^ 24) s u
     let late := q.quarantined = false ∧ now s % 256 = 0 ∧ roundAfter q.sent q.timeout ≤ round s
     Live s → v.down = false → v.waiting = [] →
       (v.requests = [(tag, q)] → q.quarantined = false → live →
         Runs (.readCompletion e tag data true false true) s fun u =>
           u = { s with delivered := u.delivered, endpoints := u.endpoints } ∧
           u.delivered = s.delivered ++ [(q.op, q.part, slice (q.got ++ data) 0 q.len)] ∧
           endpoint u e = { v with requests := [] }) ∧
       (v.requests = [(tag, q)] → q.quarantined = false → Runs (.readCompletion e tag data false false true) s fun u =>
         u = { s with endpoints := u.endpoints } ∧
         endpoint u e = { v with requests := [(tag, { q with got := q.got ++ data })] }) ∧
       (v.requests = [(tag, q)] → late → ¬live → Runs (.completionTimeout e tag) s fun u =>
         u = { s with words := u.words, functions := u.functions, endpoints := u.endpoints, recorder := u.recorder } ∧
         (endpoint u e).requests = [(tag, { q with quarantined := true })] ∧ logged (routingId q.fn) 6 tag u ∧
         (Canonical s → Counted (hlkAddr e 0x10) s u)) ∧
       (v.requests = [(tag, q)] → late → live → q.op = .rxDesc r.val p false → Runs (.completionTimeout e tag) s fun u =>
         (endpoint u e).requests = [(tag, { q with quarantined := true })] ∧ logged (routingId q.fn) 6 tag u ∧
         (ring u r.val).retry = (ring s r.val).retry ++ [(p, q.len / 32, some (now s + 256))]) ∧
       (v.requests = [(tag, q)] → q.quarantined = true → q.sent + 1 + 2 * q.timeout ≤ now s →
         Runs (.tagQuarantineEnd e tag) s fun u =>
           u = { s with endpoints := u.endpoints } ∧ endpoint u e = { v with requests := [] }) ∧
       (v.requests = [(tag, q)] → q.quarantined = true → ¬live → Runs (.unexpectedCompletion e tag true) s fun u =>
         u = { s with words := u.words, endpoints := u.endpoints } ∧ endpoint u e = { v with requests := [] } ∧
         (Canonical s → Counted 0x100030 s u)) ∧
       (look v.requests tag = none → Runs (.unexpectedCompletion e tag false) s fun u =>
         u = { s with words := u.words, functions := u.functions, recorder := u.recorder } ∧
         logged (routingId (pf0Of e)) 5 tag u ∧ (Canonical s → Counted (hlkAddr e 0x14) s u)) ∧
       (ringOwner s r.val = some fn → (ring s r.val).retry = [(p, n, some t)] → t ≤ now s →
         Runs (.rxDescRetry r) s fun u => u = { s with rings := u.rings, endpoints := u.endpoints } ∧
           ring u r.val = { ring s r.val with retry := [(p, n, none)] })) ∧
  (∀ (e : Endpoint) (fn : FnId) (off : Nat) (addr : BitVec 64) (rid : BitVec 16) (s : State),
     let frame := fun (u : State) => u = { s with
       words := u.words, functions := u.functions, endpoints := u.endpoints, recorder := u.recorder, drops := u.drops }
     let on := (endpoint s e).ecrcCheck = true
     Live s →
       (Runs (.poisonedTlp e (.doorbell fn off)) s fun u => frame u ∧ Drops (.tenancy (fnTenancy s fn)) 0x57 s u ∧
         Recorded (srcHost e) 0x0B (routingId fn % 65536 + 3 * 65536) s u ∧
         (Canonical s → Counted (hlkAddr e 0x1C) s u)) ∧
       (¬on → Runs (.ecrcError e (.posted addr rid)) s fun u => u = s) ∧
       (on → Runs (.ecrcError e (.posted addr rid)) s fun u => frame u ∧ u.drops = s.drops ∧
         u.endpoints = s.endpoints ∧ Recorded (srcHost e) 0x0B (rid.toNat + 4 * 65536) s u ∧
         (Canonical s → Counted (hlkAddr e 0x20) s u ∧ word64 u (hlkAddr e 0x54) = addr.toNat)) ∧
       (on → Runs (.ecrcError e (.nonPosted addr rid)) s fun u => frame u ∧ u.drops = s.drops ∧
         (endpoint u e).path = (endpoint s e).path ++ [(now s, .unsupported rid)]) ∧
       (Runs (.malformedTlp e) s fun u => frame u ∧ u.drops = s.drops ∧ u.endpoints = s.endpoints ∧
         6 ∈ (fnState u (pf0Of e)).aer ∧ Recorded (srcHost e) 0x0B 0 s u))

/-- Link power and training, and configuration writes: a trained link shows its speed and width and is up; L0p asks
for half the width in force, and a waiting write for the trained width; the width that was asked for comes into force;
L1 is entered when the host allows it; a configuration write changes the field of its function that it names. -/
def Obligations.LinkStates : Prop :=
  ∀ (e : Endpoint) (speed : BitVec 3) (width : BitVec 5) (flit : Bool) (util : Nat) (fn : FnId) (on : Bool) (k : Nat)
      (s : State),
    let a := hlkAddr e 0
    let v := endpoint s e
    let f := fnState s fn
    let is := fun (g : FnState) (u : State) => fnState u fn = g ∧ ∀ h, h ≠ fn → fnState u h = fnState s h
    let writes := fun (c : CfgChange) (g : FnState) => Runs (.configurationWrite fn c) s fun u =>
      u = { s with functions := u.functions } ∧ is g u
    Live s →
      (width.toNat ∈ [1, 2, 4, 8, 16] → speed ≠ 0 → (e = .h1 → s.power.h1Clock = true) →
        Runs (.hostLinkTrained e speed width flit) s fun u =>
          u = { s with words := u.words, endpoints := u.endpoints, recorder := u.recorder } ∧
          endpoint u e = { v with down := false, askedWidth := 0 } ∧
          (Canonical s → rf u a 0 0 = 1 ∧ rf u a 3 1 = speed.toNat ∧ rf u a 8 4 = width.toNat ∧
            rf u a 9 9 = flit.toNat ∧ rf u a 10 10 = 0 ∧ rf u a 15 11 = width.toNat ∧ rf u a 16 16 = 0)) ∧
      (v.down = false → bit (word s (hlkAddr e 4)) 1 = true → v.strict = false → v.strictShown = false → util ≤ 25 →
        4 < widthNow s e → Runs (.l0pEnter e util) s fun u =>
          u = { s with words := u.words, endpoints := u.endpoints } ∧
          endpoint u e = { v with askedWidth := widthNow s e / 2 } ∧ (Canonical s → Counted (hlkAddr e 0x2C) s u)) ∧
      (widthNow s e < linkWidth s e → Runs (.fullWidthRequest e true) s fun u =>
        u = { s with endpoints := u.endpoints } ∧ endpoint u e = { v with askedWidth := linkWidth s e }) ∧
      (v.down = false → v.askedWidth = width.toNat → width ≠ 0 → Runs (.linkWidthChange e width) s fun u =>
        u = { s with words := u.words, endpoints := u.endpoints, recorder := u.recorder } ∧
        endpoint u e = { v with askedWidth := 0 } ∧ (Canonical s → rf u a 15 11 = width.toNat ∧
          rf u a 10 10 = if width.toNat < linkWidth s e then 1 else 0)) ∧
      (v.down = false → (fnState s (pf0Of e)).aspm ≠ 0 → v.strictShown = false →
        Runs (.aspmL1Transition e true) s fun u => u = { s with words := u.words } ∧ WordsKept [a] s u ∧
          (Canonical s → rf u a 16 16 = 1)) ∧
      ((endpoint s fn.ep).down = false → fnExists s fn = true → f.dusk = none →
        writes (.relaxedOrdering on) { f with relaxed := on } ∧ writes (.idoRequest on) { f with ido := on } ∧
        writes (.memorySpace on) { f with memorySpace := on } ∧
        writes (.maxPayload 256) { f with maxPayload := 256 } ∧
        writes (.maxReadRequest 4096) { f with maxRead := 4096 } ∧
        writes (.aspm on flit true) { f with aspm := on.toNat + 2 * flit.toNat + 4 } ∧
        (fn.fn ≠ 0 → writes (.completionTimeout k) { f with timeout := k }) ∧
        (f.pendingVectors = [] → writes (.msixEnable on) { f with msix := on } ∧
          writes (.vectorMask k on) { f with
            masked := f.masked.filter (· != k) ++ if on then [k] else [] }) ∧
        (f.pendingVectors = [] → (endpoint s fn.ep).waiting = [] →
          Runs (.configurationWrite fn (.busMaster on)) s fun u =>
            u = { s with functions := u.functions, endpoints := u.endpoints } ∧
            (∀ e', endpoint u e' = endpoint s e') ∧ is { f with busMaster := on } u) ∧
        (f.pendingVectors = [] → (endpoint s fn.ep).waiting = [] →
          Runs (.configurationWrite fn (.d3hot on)) s fun u =>
            u = { s with functions := u.functions, endpoints := u.endpoints } ∧
            (∀ e', endpoint u e' = endpoint s e') ∧ is { f with d3 := on } u))

/-- The encryption window: READ shows the record of the selected association without its salt and key, WRITE and
WRITE_KEY join the function's uncommitted values, COUNTERS shows its counts; a command on an association of another
tenancy only raises IND_DENIED, with an event. Commands of the TCP window: OFFLOAD hands a connection to the engine,
READ writes its record with the live values, CLOSE asks for a FIN, ABORT of a closed connection releases it, and a
command on a connection of another tenancy answers NOT_OPEN. -/
def Obligations.CryptoAndTcpCommands : Prop :=
  (∀ (fn : FnId) (s : State),
     let sa := crySel s fn
     let win := fun (k : Nat) => cryAddr fn (0x10 + 4 * k)
     let data := fun (k : Nat) => word s (win k)
     let kind := fld (data 0) 2 0
     let mine := fn = pf0 ∨ saTenancy s (round s) sa = fnTenancy s fn
     let v := saState s sa
     MayWrite s fn 0x1C0000C →
       (mine → Runs (.cryRead fn) s fun u => u = { s with words := u.words } ∧
         WordsKept ((List.range 16).map win) s u ∧
         (Canonical s → ∀ k, k < 16 → word u (win k) = if k < 8 then word s (saAddr sa k) else 0)) ∧
       (mine → (∀ k, k < 11 → saReserved kind k (data k) = 0) →
         (∀ x ∈ s.shadow, ∀ k, k < 11 → x.addr ≠ saAddr sa k) → Runs (.cryWrite fn) s fun u =>
           u = { s with shadow := s.shadow ++ (List.range 11).map fun k =>
             (⟨.cry fn, fn, saAddr sa k, saWordMask kind k, data k &&& saWordMask kind k⟩ : Shadow) }) ∧
       (mine → (∀ x ∈ s.shadow, ∀ k, k < 8 → x.addr ≠ saKeyAddr sa k) → Runs (.writeKey fn) s fun u =>
         u = { s with shadow := s.shadow ++ (List.range 8).map fun k =>
           (⟨.cry fn, fn, saKeyAddr sa k, 0xFFFFFFFF, data k⟩ : Shadow) }) ∧
       (mine → Runs (.counters fn) s fun u => u = { s with words := u.words } ∧
         WordsKept ((List.range 4).map win) s u ∧
         (Canonical s → word64 u (win 0) = v.frames % 2 ^ 64 ∧ word u (win 2) = BitVec.ofNat 32 v.authFail ∧
           word u (win 3) = BitVec.ofNat 32 v.replay)) ∧
       (¬mine → ∀ c ∈ [Instr.cryRead fn, .cryWrite fn, .writeKey fn, .counters fn], Runs c s fun u =>
         u = { s with words := u.words, recorder := u.recorder } ∧ (Canonical s → rf u (cryAddr fn 4) 1 1 = 1))) ∧
  (∀ (fn : FnId) (n : Fin 262144) (r : List Byte) (c : Conn) (s : State),
     let mine := connOwned s (round s) (fnTenancy s fn) n.val = true
     let status := fun (v : Nat) (u : State) =>
       WordsKept [tcpWin fn 0xC] s u ∧ (Canonical s → word u (tcpWin fn 0xC) = BitVec.ofNat 32 v)
     let answers := fun (cmd : Instr) (v : Nat) => Runs cmd s fun u => u = { s with words := u.words } ∧ status v u
     (MayWrite s fn 0x1EF0008 →
       (mayRequest s fn = true → badRecord r n.val = false → recordOpen s fn r n.val = true →
         look s.conns n.val = none → Runs (.offload fn n r none) s fun u =>
           u = { s with words := u.words, conns := u.conns } ∧ status 0 u ∧
           look u.conns n.val = some (offloaded s fn r) ∧ ∀ k, k ≠ n.val → look u.conns k = look s.conns k) ∧
       (mayRequest s fn = true → badRecord r n.val = true → answers (.offload fn n r none) 2) ∧
       (¬mine → answers (.tcpRead fn n) 3 ∧ answers (.close fn n) 3 ∧ answers (.tcpAbort fn n) 3) ∧
       (mine → look s.conns n.val = none → answers (.tcpRead fn n) 5) ∧
       (mine → look s.conns n.val = some c → Runs (.tcpRead fn n) s fun u => status 0 u ∧
         u = { hostWrite s fn (word64 s (tcpWin fn 0) / 64 * 64) (liveRecord c) false with words := u.words }) ∧
       (mine → look s.conns n.val = some c → c.state < 3 → Runs (.close fn n) s fun u => status 0 u ∧
         u = { s with words := u.words, conns := u.conns } ∧
         look u.conns n.val = some { c with state := 2, finAsked := true }) ∧
       (mine → s.conns = [(n.val, c)] → 3 ≤ c.state → Runs (.tcpAbort fn n) s fun u =>
         u = { s with words := u.words, conns := [], recorder := u.recorder } ∧
         Recorded 39 0x13 (detail n.val 0) s u ∧ (Canonical s → word u (tcpWin fn 0xC) = 0))) ∧
     (MayWrite s fn 0x1EF0014 → Runs (.connSel fn n) s fun u =>
       u = { s with words := u.words, due := (addDue s ⟨now s, 8, fnNum fn, .connLatch fn n.val, none⟩).due } ∧
       WordsKept [tcpWin fn 0x14] s u ∧ (Canonical s → word u (tcpWin fn 0x14) = BitVec.ofNat 32 n.val)))

/-- Segments and timers of an open connection: the next bytes go out as the windows allow, a timeout sends the first
unacknowledged bytes again with twice the time, a probe of one byte goes into a zero window, a delayed acknowledgment
goes when its delay has ended; a received segment with a bad checksum is counted, and a RST in the window closes. -/
def Obligations.TcpSegments : Prop :=
  ∀ (n : Fin 262144) (c : Conn) (bs : List Byte) (t : Nat) (f : Frame) (g : Segment) (p : Nat) (s : State),
    let q := recFld c.rec_ 44 4 % 2 ^ 19
    let v := node s q
    let seg := fun (seq : BitVec 32) (flags : Nat) (data : List Byte) => segmentBytes s c seq flags data
    let room := fun (b : List Byte) => v.cells + cellsOf b.length ≤ fld (word s (queueAddr q 3)) 15 0
    let sends := fun (cmd : Instr) (b : List Byte) (k : Conn → Prop) => room b → Runs cmd s fun u =>
      u = { s with frames := u.frames, nextFrame := s.nextFrame + 1, conns := u.conns, nodes := u.nodes } ∧
      (∃ f, frame? u s.nextFrame = some f ∧ f.bytes = b ∧ f.stage = .queue q ∧ f.src = .tcp n.val) ∧
      (node u q).queue = v.queue ++ [s.nextFrame] ∧ ∃ d, look u.conns n.val = some d ∧ k d
    let rto := boundRto s c.fn (2 * c.rto)
    Live s → look s.conns n.val = some c → c.state < 3 →
      (c.finSent = false → c.finAsked = false → c.sendFrom ≤ now s → nextSegment c = some bs →
        sends (.segmentSend n) (seg c.sndNxt (if bs.length = unsent c then 24 else 16) bs) fun d =>
          d.sndNxt = c.sndNxt + BitVec.ofNat 32 bs.length ∧ d.sndUna = c.sndUna ∧ d.sndBuf = c.sndBuf ∧
          d.ackAt = none) ∧
      (c.rtxAt = some t → t ≤ round s → c.retries < retryLimit c → c.finSent = false →
        sends (.retransmitTimeout n) (segmentBytes s { c with sacked := [] } c.sndUna 24
            (resendBytes { c with sacked := [] })) fun d =>
          d.retries = c.retries + 1 ∧ d.rto = rto ∧ d.rtxAt = some (round s + rto) ∧ d.sndNxt = c.sndNxt ∧
          d.cwnd = if ccFixed c then c.cwnd else connMss c) ∧
      (c.persistAt = some t → t ≤ round s → outstanding c ≠ 0 →
        sends (.persistTimeout n) (seg c.sndUna 24 (c.sndBuf.take 1)) fun d =>
          d = { c with rto := rto, persistAt := some (round s + rto), ackAt := none, timed := none }) ∧
      (c.ackAt = some t → t ≤ round s → sends (.delayedAck n) (seg c.sndNxt 16 []) fun d =>
        d = { c with ackAt := none }) ∧
      (s.frames = [(f.id, f)] → f.src = .port p → f.conn = some n.val → f.stage = .engine → f.heldFrom = now s →
        c.opened ≤ f.due → f.buffered = none →
        (segmentOf f.bytes = none → Runs (.segmentReceive f.id) s fun u =>
          u = { s with frames := [], conns := u.conns } ∧ look u.conns n.val = some (connCount c 1)) ∧
        (segmentOf f.bytes = some g → g.flags = 4 → g.seq = c.rcvNxt → g.data = [] → g.ts = none →
          0 < connRcvWnd c → connGateway c = false → Runs (.segmentReceive f.id) s fun u =>
            u = { s with frames := [], conns := u.conns, words := u.words, recorder := u.recorder } ∧
            look u.conns n.val = some { c with
              state := 3, sndBuf := [], ooo := [], tls := [], rtxAt := none, persistAt := none, ackAt := none
              timed := none } ∧ Recorded 39 0x13 (detail n.val 3) s u))

/-- Queues of an emulated controller and its admin commands: a doorbell publishes entries, the head entry is fetched,
and each admin command completes with the status, result and data that its row gives. -/
def Obligations.StorageAdmin : Prop :=
  ∀ (id : NvmeId) (x : NvmeCmd) (y : SubQueue) (q n size vector opcode nsid bytes : Nat) (val : BitVec 32)
      (retain : Bool) (e : CplQueue) (s : State),
    let c := id.ctrl.val
    let v := ctrl s c
    let frame := fun (u : State) => u = { s with
      words := u.words, ctrls := u.ctrls, functions := u.functions, endpoints := u.endpoints }
    let free := v.held = [] ∧ ∃ k, cqOf v (match sqOf v 0 with | some z => z.cq | none => 0) = some k ∧
      (k.tail + 1) % k.size ≠ k.head
    let ready := fun (op : Nat) => Live s ∧ id.qid = 0 ∧ fetched? s id op = some x ∧ x.qid = 0 ∧ free
    let ends := fun (cmd : Instr) (sct sc result : Nat) (data : List Byte) (more : Ctrl → Prop) =>
      Runs cmd s fun u => frame u ∧ (ctrl u c).cmds = v.cmds.filter (· != x) ∧
        (ctrl u c).done = v.done ++ [⟨0, x.cid, sct, sc, false, result, data, []⟩] ∧ more (ctrl u c)
    (Live s → reachable s (ctrlVf s c) = true → ctrlOn s c = true → sqOf v q = some y → val.toNat < y.size →
      Runs (.nvmeDoorbell id.ctrl q false val) s fun u => u = { s with ctrls := u.ctrls } ∧
        look (ctrl u c).sqs q = some { y with
          tail := val.toNat
          published := y.published ++ List.replicate ((val.toNat + y.size - y.tail) % y.size) (now s) }) ∧
    (Live s → ctrlOn s c = true → mayRequest s (ctrlVf s c) = true → sqOf v 0 = some y → y.published ≠ [] →
      v.cmds.length < 4096 → allOutstanding s < 262144 → stagedBytes v + bytes ≤ rf s (stoAddr c 4) 12 0 * 1048576 →
      (∀ z ∈ v.cmds, z.qid ≠ 0 ∨ z.cid ≠ id.cid) → opcode ∈ [0, 1, 2, 4, 5, 6, 8, 9, 0xA, 0xC] →
      Runs (.nvmeCommandFetch id.ctrl 0 id.cid opcode nsid bytes) s fun u =>
        u = { s with words := u.words, ctrls := u.ctrls } ∧
        (ctrl u c).cmds = v.cmds ++
          [{ qid := 0, cid := id.cid, opcode := opcode, nsid := nsid, bytes := bytes, fetched := now s }] ∧
        look (ctrl u c).sqs 0 = some { y with
          head := (y.head + 1) % y.size, published := y.published.drop 1 } ∧
        (Canonical s → Counted (stoAddr c 0xC) s u ∧
          word u (stoAddr c 0x1C) = BitVec.ofNat 32 (v.cmds.length + 1))) ∧
    (ready 5 → 1 ≤ q → q ≤ 64 → 2 ≤ size → size ≤ 4096 → vector < 64 → look v.cqs q = none →
      ends (.createIoCompletionQueue id q size vector true true) 0 0 0 [] fun w =>
        look w.cqs q = some { size := size, vector := vector, intEn := true }) ∧
    (ready 1 → 1 ≤ q → q ≤ 64 → 2 ≤ size → size ≤ 4096 → n ≠ 0 → look v.cqs n ≠ none → look v.sqs q = none →
      ends (.createIoSubmissionQueue id q size n true) 0 0 0 [] fun w =>
        look w.sqs q = some { size := size, cq := n }) ∧
    (ready 0 → q ≠ 0 → v.sqs = [(q, y)] → (∀ z ∈ v.cmds, z.qid ≠ q) →
      ends (.deleteIoSubmissionQueue id q) 0 0 0 [] fun w => w.sqs = []) ∧
    (ready 4 → q ≠ 0 → v.cqs = [(q, e)] → v.sqs = [] →
      ends (.deleteIoCompletionQueue id q) 0 0 0 [] fun w => look w.cqs q = none) ∧
    (ready 2 → ends (.getLogPage id 1 retain) 0 0 0 (Config.logPage 1 c) fun w => w.sqs = v.sqs) ∧
    (ready 2 → ends (.getLogPage id 4 retain) 0 0x02 0 [] fun w => w.sqs = v.sqs) ∧
    (ready 6 → x.nsid = nsid → ends (.identify id 2 nsid) 0 0 0 (namespaceList s c nsid) fun w => w.sqs = v.sqs) ∧
    (ready 8 → (v.cmds.filter fun z => z.qid == 0 && z.opcode == 8).length ≤ 4 →
      (∀ z ∈ v.cmds, z.qid ≠ q ∨ z.cid ≠ n) → ends (.abort id q n) 0 0 1 [] fun w => w.sqs = v.sqs) ∧
    (ready 9 → val.toNat % 65536 ≠ 65535 → val.toNat / 65536 ≠ 65535 →
      let r := min (val.toNat % 65536) 63 + min (val.toNat / 65536) 63 * 65536
      ends (.setFeatures id 7 val) 0 0 r [] fun w => look w.features 7 = some r) ∧
    (ready 0xA → ends (.getFeatures id 7) 0 0 ((look v.features 7).getD (63 + 63 * 65536)) [] fun w =>
      w.features = v.features) ∧
    (ready 0xC → x.cid ∉ v.aers → v.aers.length < 4 → (look s.notices c).getD [] = [] →
      Runs (.asynchronousEventRequest id) s fun u => u = { s with ctrls := u.ctrls } ∧
        ctrl u c = { v with aers := v.aers ++ [x.cid] })

/-- I/O commands: one whose namespace is ready goes as a capsule to its target on the connection of its queue, with
remote LBAs, its data and protection; one beyond the namespace ends with LBA Out of Range, one of an unknown namespace
with Invalid Namespace. -/
def Obligations.StorageCommands : Prop :=
  ∀ (id : NvmeId) (x : NvmeCmd) (slba blocks : Nat) (pi : ProtInfo) (data md : List Byte)
      (ranges : List (Nat × Nat)) (s : State),
    let c := id.ctrl.val
    let v := ctrl s c
    let n := x.nsid
    let t := nsTarget s c n
    let k := x.qid % max 1 (rf s (tgtAddr t 0) 15 12)
    let size := nsLba s c n
    let base := word64 s (nsAddr c n 8)
    let limit := rf s (tgtAddr t 0) 21 18 * 1024
    let staged := slice data 0 (blocks * size)
    let list := ranges.flatMap fun r => le 4 0 ++ le 4 r.2 ++ le 8 ((base + r.1) % 2 ^ 64)
    let inline := fun (bs : List Byte) => if bs.length ≤ limit then bs else []
    let fetched := fun (op : Nat) => Live s ∧ id.qid ≠ 0 ∧ fetched? s id op = some x
    let sends := fun (cmd : Instr) (op remote blocks : Nat) (bs : List Byte) =>
      bit (word s (tgtAddr t 0x28)) k = true → Runs cmd s fun u =>
        u = { s with ctrls := u.ctrls, targets := u.targets } ∧
        (target u t).sent = (target s t).sent ++ [(k, .capsule (freeRcid s t) x.opcode (word s (nsAddr c n 4)).toNat
          (remote % 2 ^ 64) blocks (inline bs))] ∧ x.opcode = op ∧
        (∀ z, z ∈ (ctrl u c).cmds → z ∈ v.cmds ∧ z ≠ x ∨
          z.sent = some (now s) ∧ z.target = t ∧ z.conn = k ∧ z.rcid = freeRcid s t ∧ z.cid = x.cid ∧ z.data = bs)
    let free := v.held = [] ∧ ∃ q w, sqOf v x.qid = some q ∧ cqOf v q.cq = some w ∧ (w.tail + 1) % w.size ≠ w.head
    let ends := fun (cmd : Instr) (sc : Nat) => free → Runs cmd s fun u =>
      u = { s with words := u.words, ctrls := u.ctrls, functions := u.functions, endpoints := u.endpoints } ∧
      (ctrl u c).cmds = v.cmds.filter (· != x) ∧
      (ctrl u c).done = v.done ++ [⟨x.qid, x.cid, 0, sc, false, 0, [], []⟩]
    (fetched 0 → ioFault s c n 0 0 = none → sends (.flush id n) 0 base 0 []) ∧
    (fetched 0 → ioFault s c n 0 0 = none → bit (word s (tgtAddr t 0x28)) k = false → ends (.flush id n) 0x22) ∧
    (fetched 0 → nsValid s c n = false → ends (.flush id n) 0x0B) ∧
    (fetched 1 → ioFault s c n slba blocks = none → blocks * size ≤ 131072 → nsFormat s c n = 0 →
      sends (.write id n slba blocks pi data md none) 1 (base + slba) blocks (withProt 0 size blocks staged [])) ∧
    (fetched 1 → ioFault s c n slba blocks = none → blocks * size ≤ 131072 → nsFormat s c n = 1 → pi.pract = true →
      sends (.write id n slba blocks pi data md none) 1 (base + slba) blocks
        ((List.range blocks).flatMap fun i => blockAt staged size i ++
          blockAt ((List.range blocks).flatMap fun i =>
            be 2 (crc .crc16 (blockAt staged size i)) ++ be 2 pi.lbat.toNat ++ be 4 (pi.ilbrt + i)) 8 i)) ∧
    (fetched 2 → ioFault s c n slba blocks = none → blocks * size ≤ 131072 →
      sends (.read id n slba blocks pi none) 2 (base + slba) blocks []) ∧
    (fetched 2 → nsValid s c n = true → word64 s (nsAddr c n 0x10) < slba + blocks →
      ends (.read id n slba blocks pi none) 0x80) ∧
    (fetched 8 → ioFault s c n slba blocks = none → blocks ≤ 65536 →
      sends (.writeZeroes id n slba blocks) 8 (base + slba) blocks []) ∧
    (fetched 9 → ioFault s c n 0 0 = none → ranges.length ≤ 256 →
      (∀ r ∈ ranges, r.1 + r.2 ≤ word64 s (nsAddr c n 0x10)) →
      sends (.datasetManagement id n true ranges) 9 base ranges.length list)

/-- Targets: GO sends ICReq on every usable connection; an ICResp is answered with Connect; a failed remote status
passes to the host; a command without an answer in time is aborted at its target and ends with a transport error; one
that waited for a closed target ends NOT_READY; a connection that the TCP engine no longer holds is not open. -/
def Obligations.StorageTargets : Prop :=
  ∀ (id : NvmeId) (x : NvmeCmd) (status : BitVec 16) (t : Fin 4096) (k : Fin 8) (l : TgtLink) (max_ p t0 q nsid : Nat)
      (y : SubQueue) (s : State),
    let c := id.ctrl.val
    let v := ctrl s c
    let w := word s (tgtAddr t.val 0)
    let g := target s t.val
    let usable := (targetLinks s t.val).filter (linkUsable s t.val)
    let held := (v.cmds.find? fun z => z.qid == id.qid && z.cid == id.cid) = some x
    let free := fun (q : Nat) => v.held = [] ∧
      ∃ z w, sqOf v q = some z ∧ cqOf v z.cq = some w ∧ (w.tail + 1) % w.size ≠ w.head
    let done := fun (u : State) (q cid sct sc : Nat) (dnr : Bool) =>
      (ctrl u c).done = v.done ++ [⟨q, cid, sct, sc, dnr, 0, [], []⟩]
    let limit := rf s (stoAddr c 8) 15 0
    let wait := rf s (stoAddr c 8) 31 16
    let n := nsTarget s c nsid
    let open_ := rf s (tgtAddr t.val 0x28) 7 0
    (MayWrite s pf0 (tgtAddr t.val 0) → Runs (.targetGo pf0 t) s fun u =>
      u = { s with words := u.words, targets := u.targets } ∧ WordsKept [tgtAddr t.val 0, tgtAddr t.val 0x28] s u ∧
      (target u t.val).sent = g.sent ++ usable.map (fun k => (k, .icReq (bit w 16) (bit w 17))) ∧
      (target u t.val).idents = [] ∧ (Canonical s → rf u (tgtAddr t.val 0x28) 8 0 = 0 ∧
        rf u (tgtAddr t.val 0) 31 31 = if usable = [] then 0 else 1)) ∧
    (Live s → look g.links k.val = some l → l.stage = 0 → l.hdgst = false → l.ddgst = false →
      linkUsable s t.val k.val = true → 4096 ≤ max_ → Runs (.pduReceive t (some k) (.icResp max_ true true) true true) s
        fun u => u = { s with targets := u.targets } ∧ (target u t.val).sent = g.sent ++ [(k.val, .connect)] ∧
          look (target u t.val).links k.val =
            some { l with stage := 1, maxH2c := max_, hdgst := bit w 16, ddgst := bit w 17 }) ∧
    (Live s → held → x.answer = some status → status.toNat % 2048 ≠ 0 → free x.qid →
      Runs (.remoteCompletion id status) s fun u => (ctrl u c).cmds = v.cmds.filter (· != x) ∧
        done u x.qid x.cid (status.toNat / 256 % 8) (status.toNat % 256) (status.getLsbD 14) ∧
        u = { s with words := u.words, ctrls := u.ctrls, functions := u.functions, endpoints := u.endpoints }) ∧
    (Live s → held → x.sent = some t0 → limit ≠ 0 → roundOf t0 + limit * 1024 ≤ round s → free x.qid →
      Runs (.commandTimeout id) s fun u => done u x.qid x.cid 0 0x22 false ∧
        (ctrl u c).cmds = v.cmds.filter (· != x) ∧
        (target u x.target).sent = (target s x.target).sent ++ [(x.conn, .abort x.rcid)] ∧
        (Canonical s → Counted (stoAddr c 0x14) s u)) ∧
    (Live s → sqOf v q = some y → y.published = p :: y.published.drop 1 → q ≠ 0 → wait ≠ 0 → nsValid s c nsid = true →
      targetOpen s n = false → ctrlOn s c = true → roundOf (max p (target s n).closedAt) + wait * 1024 ≤ round s →
      free q → Runs (.unreachTimeout id.ctrl q id.cid nsid) s fun u => done u q id.cid 0 0x82 false ∧
        Recorded 38 0x13 (detail n c) s u ∧ (Canonical s → Counted (tgtAddr n 0x30) s u)) ∧
    (Live s → linkUsable s t.val k.val = false → bit (word s (tgtAddr t.val 0x28)) k.val = true →
      open_ ≠ 2 ^ k.val → Runs (.connectionClose t k) s fun u =>
        u = { s with words := u.words, targets := u.targets } ∧ WordsKept [tgtAddr t.val 0x28] s u ∧
        look (target u t.val).links k.val = some { (look g.links k.val).getD {} with stage := 3 } ∧
        (Canonical s → bit (word u (tgtAddr t.val 0x28)) k.val = false))

/-- Mailbox channels: SEND posts the message of a free channel, and leaves a reason where the channel holds one or the
length is beyond 512; WITHDRAW discards a message not yet opened; the last word that a host reads frees its channel,
as does the firmware's taking of a message, which raises the function's interrupt. A request that the firmware knows
then waits to be served; another is answered NOT_OPEN, and outside Noon all but FW_STAGE and SPDM are answered BUSY.
The firmware posts the next message of a queue in a free channel; and a message neither taken nor withdrawn in its
time sets TIMEOUT with the receiver's reason and is recorded. -/
def Obligations.Mailboxes : Prop :=
  ∀ (fn : FnId) (p : Pair) (m : Msg) (rest : List Msg) (off : Nat) (s : State),
    let n := fnNum fn
    let v := mailbox s n
    let k := pairNum p
    let w := mailbox s k
    let only := fun (j : Nat) (x : Mailbox) (u : State) => mailbox u j = x ∧ ∀ i, i ≠ j → mailbox u i = mailbox s i
    let posted := fun (c : Channel) (m : Msg) => { c with
      msg := some m, full := true, opened := false, timeout := false, reason := 0, post := now s, held := 0 }
    let taken := fun (c : Channel) => { c with
      msg := none, last := c.msg, full := false, opened := false, timeout := false, reason := 0 }
    let interrupt := match p with
      | .ofFn f => [(now s + 1, 65536 + fnNum f)]
      | .ofThread _ => []
    let answered := fun (m : Msg) (req status len : Nat) (u : State) =>
      u = { s with
        words := u.words, mailboxes := u.mailboxes, recorder := u.recorder, signals := s.signals ++ interrupt } ∧
      only k { w with up := taken w.up, queue := w.queue ++ [⟨m.cookie, slice (le 1 req ++ le 1 status) 0 len⟩] } u
    let len := rf s (mbxAddr fn 0) 9 0
    let run := fun (c : Instr) (a : Nat) (x : Channel) => Runs c s fun u =>
      u = { s with words := u.words, mailboxes := u.mailboxes } ∧ only n { v with up := x } u ∧ WordsKept [a] s u ∧
        (Canonical s → Counted a s u)
    let quiet := fun (c : Instr) (x : Channel) => Runs c s fun u =>
      u = { s with mailboxes := u.mailboxes } ∧ only n { v with up := x } u
    let late := fun (c : Channel) =>
      c.full = true ∧ c.timeout = false ∧ s.handover = none ∧ roundAfter c.post (pairTimeout s p) + c.held ≤ round s
    (MayWrite s fn (mbxAddr fn 0x700) →
      (v.up.full = false → len ≤ 512 → run (.send fn) (mbxAddr fn 0x714) (posted v.up (h2fMsg s fn))) ∧
      (v.up.full = true → run (.send fn) (mbxAddr fn 0x71C)
        { v.up with reason := if v.up.timeout then v.up.reason else 0x90 }) ∧
      (v.up.full = false → 512 < len → quiet (.send fn) { v.up with reason := rsBadDescriptor }) ∧
      (v.up.full = true → v.up.opened = false →
        quiet (.withdraw fn) { v.up with full := false, timeout := false, msg := none })) ∧
    (MayRead s fn → v.down.full = true → v.down.msg = some m →
      (off = lastWordOff m → Runs (.mbxF2hRead fn off false) s fun u =>
        u = { s with mailboxes := u.mailboxes, reply := u.reply } ∧ u.reply = [f2hWord s fn off] ∧
        only n { v with down := taken v.down } u) ∧
      (off = 0x400 → off ≠ lastWordOff m → Runs (.mbxF2hRead fn off false) s fun u =>
        u = { s with mailboxes := u.mailboxes, reply := u.reply } ∧ u.reply = [f2hWord s fn off] ∧
        only n { v with down := { v.down with opened := true } } u)) ∧
    (Live s →
      (w.up.full = true → firmwareServes s p = true → w.up.msg = some m →
        (p = .ofFn fn → stage s = 2 → knownRequests.contains (leAt m.payload 0 1) = true →
          Runs (.firmwareTake p) s fun u =>
            u = { s with
              mailboxes := u.mailboxes, signals := s.signals ++ interrupt
              taken := s.taken ++ if leAt m.payload 0 1 = 0x20 then [] else [⟨fn, m, now s, false⟩] } ∧
            only k { w with up := taken w.up } u) ∧
        (p = .ofFn fn → stage s = 2 → knownRequests.contains (leAt m.payload 0 1) = false → w.queue.length < 64 →
          Runs (.firmwareTake p) s fun u => answered m (leAt m.payload 0 1) 12 16 u) ∧
        (p = .ofFn fn → stage s ≠ 2 → leAt m.payload 0 1 ∉ [0x10, 0x20] → w.queue.length < 64 →
          Runs (.firmwareTake p) s fun u => answered m (leAt m.payload 0 1) 1 16 u) ∧
        (∀ t, p = .ofThread t → Runs (.firmwareTake p) s fun u =>
          u = { s with mailboxes := u.mailboxes } ∧ only k { w with up := taken w.up } u)) ∧
      (w.queue = m :: rest → w.down.full = false → Runs (.f2hPost p) s fun u =>
        u = { s with mailboxes := u.mailboxes, signals := s.signals ++ interrupt } ∧
        only k { w with queue := rest, down := posted w.down m } u) ∧
      (late w.down → Runs (.mailboxTimeout p true) s fun u =>
        let r := timeoutReason s p true
        u = { s with words := u.words, mailboxes := u.mailboxes, recorder := u.recorder } ∧
        only k { w with down := { w.down with timeout := true, reason := r } } u ∧
        Recorded 4 0x0E (pairDetail p true r) s u) ∧
      (late w.up → Runs (.mailboxTimeout p false) s fun u =>
        let r := timeoutReason s p false
        u = { s with
          words := u.words, mailboxes := u.mailboxes, recorder := u.recorder, signals := s.signals ++ interrupt } ∧
        only k { w with up := { w.up with timeout := true, reason := r } } u ∧
        Recorded 4 0x0E (pairDetail p false r) s u))

/-- Requests of PF0 of H0 that the management firmware has taken and serves in Noon: an image that passes its checks
is staged and written to the inactive bank, and one that does not is answered with what it failed; the banks are
swapped, or an update to the staged image begins; a valid store becomes the active one; a key slot is enrolled, and
revoked by another's signature; an accepted token clears the Morning area. Any other function is answered NOT_OPEN and
changes nothing; a request that was not taken changes nothing; and an update that waits for a spare goes on once there
is one. -/
def Obligations.FirmwareRequests : Prop :=
  ∀ (fn : FnId) (cookie : BitVec 32) (image hash payload token : List Byte) (store : StoredConfig) (slot : Nat)
      (commitSvn swap : Bool) (t : Taken) (s : State),
    let b := s.boot
    let v := mailbox s (fnNum fn)
    let rest := s.taken.erase t
    let asked := fun (req : Nat) (fits : List Byte → Bool) => takenRequest s fn cookie req fits = some t
    let flagged := fun (m : List Byte) => bits (leAt m 16 1) 0 0 == flagBit commitSvn 0 &&
      bits (leAt m 16 1) 1 1 == flagBit swap 0
    let answers := fun (req st : Nat) (u : State) =>
      mailbox u (fnNum fn) = { v with
        queue := v.queue ++ [⟨cookie, le 1 req ++ le 1 st ++ List.replicate 14 0⟩] } ∧
      ∀ i, i ≠ fnNum fn → mailbox u i = mailbox s i
    let does := fun (c : Instr) (req st : Nat) (b' : Boot) => Runs c s fun u =>
      u = { s with words := u.words, mailboxes := u.mailboxes, recorder := u.recorder, boot := b', taken := rest } ∧
        answers req st u
    let stages := asked 0x10 fun m => leAt m 12 4 == image.length
    let activates := asked 0x11 flagged
    let stores := asked 0x12 fun m => leAt m 12 4 == store.signed.length + store.signature.length
    let enrols := asked 0x13 fun m => leAt m 16 1 == slot && slice m 24 48 == hash
    let revokes := asked 0x14 fun m => leAt m 16 1 == slot && slice m 0 168 == payload
    let clears := asked 0x15 fun m => slice m 4 256 == token
    Live s →
      (rf s 0x100028 2 0 = 4 → (spareCluster s).isSome → Runs .updateResume s fun u =>
        u = { s with words := u.words } ∧ WordsKept [0x100028] s u ∧ (Canonical s → rf u 0x100028 2 0 = 3)) ∧
      ((stage s ≠ 0 ∨ b.bootSel ≠ 2) → s.taken = [] → exec (.fwStage fn cookie image none true) s = .next s ∧
        exec (.fwActivate fn cookie commitSvn swap) s = .next s ∧
          exec (.cfgWrite fn cookie store none true) s = .next s ∧
        exec (.pkeyEnroll fn cookie slot hash) s = .next s ∧ exec (.pkeyRevoke fn cookie slot payload) s = .next s ∧
        exec (.evrClear fn cookie token) s = .next s) ∧
      (s.handover = none → v.queue.length < 64 → t.discard = false → leAt t.msg.payload 4 8 % 64 = 0 →
        (fn ≠ pf0 →
          ((stage s ≠ 0 ∨ b.bootSel ≠ 2) → stages → does (.fwStage fn cookie image none true) 0x10 6 b) ∧
          (activates → does (.fwActivate fn cookie commitSvn swap) 0x11 6 b) ∧
          (stores → does (.cfgWrite fn cookie store none true) 0x12 6 b) ∧
          (enrols → does (.pkeyEnroll fn cookie slot hash) 0x13 6 b) ∧
          (revokes → does (.pkeyRevoke fn cookie slot payload) 0x14 6 b)) ∧
        (fn = pf0 → stage s = 2 → b.update = none →
          (stages → b.bootSel = 0 → does (.fwStage fn cookie image none true) 0x10 (imageStatus b image)
            (if imageStatus b image = 0 then
              { b with staged := some image, banks := place b.banks (1 - b.activeBank % 2) image } else b)) ∧
          (stages → imageStatus b image ≠ 0 →
            does (.fwStage fn cookie image none true) 0x10 (imageStatus b image) b) ∧
          (activates → swap = true →
            does (.fwActivate fn cookie commitSvn swap) 0x11 0 { b with activeBank := 1 - b.activeBank % 2 }) ∧
          (activates → swap = false → b.staged = some image → (spareCluster s).isSome →
            Runs (.fwActivate fn cookie commitSvn swap) s fun u =>
              (imageStatus b image = 0 → u = { s with words := u.words, taken := rest, boot := { b with update := some {
                fn := fn, cookie := cookie, commitSvn := commitSvn
                left := (List.range 17).filter fun n => clusterRole s n == 0 } } } ∧
                (Canonical s → word u 0x100028 = 1)) ∧
              (imageStatus b image ≠ 0 → answers 0x11 (imageStatus b image) u ∧
                u = { s with words := u.words, mailboxes := u.mailboxes, recorder := u.recorder, taken := rest })) ∧
          (stores → storeValid b store = true → does (.cfgWrite fn cookie store none true) 0x12 0
            { b with stores := place b.stores (1 - b.activeStore % 2) store, activeStore := 1 - b.activeStore % 2 }) ∧
          (enrols → slot < 4 → hash.length = 48 → look b.slots slot = none →
            does (.pkeyEnroll fn cookie slot hash) 0x13 0 { b with slots := place b.slots slot (hash, false) }) ∧
          (revokes → look b.slots slot = some (hash, false) →
            let signed := slotSigned b (slice payload 0 72) (slice payload 72 96) (some slot)
            does (.pkeyRevoke fn cookie slot payload) 0x14 (if signed then 0 else 3)
              (if signed then { b with slots := place b.slots slot (hash, true) } else b)) ∧
          (clears → Runs (.evrClear fn cookie token) s fun u =>
            u = { s with
              words := u.words, mailboxes := u.mailboxes, recorder := u.recorder, draws := s.draws + 4
              taken := rest } ∧ answers 0x15 (tokenStatus s token) u ∧
            (tokenStatus s token = 0 → u.recorder.morning.drop 1 = s.recorder.morning.drop (leAt token 48 4) ∧
              (u.recorder.morning.head?.map fun e => e.code) = some 0x12) ∧
            (tokenStatus s token ≠ 0 → u.recorder.morning = s.recorder.morning))))

/-- The SPDM responder, from Forenoon on and outside a handover, for a function that exists: version 1.3, its
capabilities and algorithms, the digest of the chain in slot 0 and portions of it, a signed answer to a challenge with
a nonce of its own, and signed measurements, one block or all seven; other slots and blocks are errors. -/
def Obligations.Attestation : Prop :=
  ∀ (fn : FnId) (p384 sha mbx : Bool) (slot off len k : Nat) (nonce : List Byte) (s : State),
    let tells := fun (c : Instr) (a : SpdmAnswer) => Runs c s fun u => u = { s with spdm := s.spdm ++ [(fn, a)] }
    let chain := Config.identityCerts
    let own := if mbx = true ∧ fnTenancy s fn ≠ 0 then some (fnTenancy s fn) else none
    let signed := fun (bs : List Measurement) => Config.identitySign (bs.flatMap fun b => le 1 b.index ++ b.value)
    Live s → s.handover = none → (stage s = 1 ∨ stage s = 2) → fnExists s fn = true →
      tells (.getVersion fn) (.version 0x13) ∧ tells (.getCapabilities fn) (.capabilities true true true) ∧
      tells (.negotiateAlgorithms fn p384 sha) (.algorithms p384 sha) ∧
      tells (.getDigests fn) (.digests 1 (sha384 chain)) ∧
      (off < chain.length → tells (.getCertificate fn 0 off len)
        (.certificate 0 ((chain.drop off).take len) (chain.length - off - ((chain.drop off).take len).length))) ∧
      (slot ≠ 0 → tells (.getCertificate fn slot off len) (.error 1) ∧ tells (.challenge fn slot nonce) (.error 1)) ∧
      (Runs (.challenge fn 0 nonce) s fun u => u = { s with spdm := u.spdm, draws := s.draws + 4 } ∧
        ∃ mine ms sig, u.spdm = s.spdm ++ [(fn, .challengeAuth 0 (sha384 chain) mine ms sig)] ∧
          mine.length = 32 ∧ sig = Config.identitySign (nonce ++ sha384 chain ++ mine ++ ms)) ∧
      tells (.getMeasurements fn 0 mbx) (.measurements 7 [] (signed [])) ∧
      (1 ≤ k → k ≤ 7 → tells (.getMeasurements fn k mbx)
        (.measurements 1 [measurement s own k] (signed [measurement s own k]))) ∧
      (let bs := (List.range 7).map fun j => measurement s own (j + 1)
       tells (.getMeasurements fn 255 mbx) (.measurements 7 bs (signed bs))) ∧
      (7 < k → k ≠ 255 → tells (.getMeasurements fn k mbx) (.error 1))

/-- Daybreak to Noon: with an accepted image, trained memories and no failed test the device enters Forenoon and runs
that image; a refused image, a failed training and two failed clusters hold it with their causes; without a stored
configuration it enters Noon, and the host is told; and at a round boundary the standby pair takes over for 2 ms. -/
def Obligations.BootStages : Prop :=
  ∀ (r : ForenoonResult) (s : State),
    let st := imageStatus s.boot r.image
    let enters := fun (k : Nat) (u : State) => Canonical s → rf u 0x100000 2 0 = k
    let held := fun (cause : Nat) (u : State) =>
      enters 3 u ∧ (Canonical s → rf u 0x100000 15 8 = cause) ∧ Recorded 0 0x03 3 s u
    let q := mailbox s (fnNum pf0)
    Live s →
      (stage s = 0 → s.boot.bootSel = 0 → s.boot.banks = [] → r.fromMailbox = false →
        (r.hbmTrained = true → r.failedClusters = [] → Runs (.forenoon r) s fun u => st = 0 →
          u = { s with words := u.words, recorder := u.recorder, boot := { s.boot with running := r.image } } ∧
          enters 1 u ∧ (Canonical s → word u 0x100008 = BitVec.ofNat 32 (imageVersion r.image)) ∧
          Recorded 0 0x03 1 s u) ∧
        (st ≠ 0 → Runs (.forenoon r) s (held 4)) ∧
        (r.hbmTrained = false → Runs (.forenoon r) s (held (if st = 0 then 5 else 4))) ∧
        (r.hbmTrained = true → 2 ≤ r.failedClusters.eraseDups.length →
          Runs (.forenoon r) s (held (if st = 0 then 6 else 4)))) ∧
      (stage s = 1 → s.boot.stores = [] → q.queue.length < 64 → Runs (.noon none) s fun u =>
        u = { s with
          words := u.words, recorder := u.recorder, mailboxes := u.mailboxes, boot := { s.boot with applied := none }
          buckets := [], buckets2 := [], undo := [], ledger := { s.ledger with credit := [] } } ∧
        enters 2 u ∧ mailbox u (fnNum pf0) = { q with queue := q.queue ++ [⟨0, [0x18]⟩] } ∧
        (Canonical s → word u 0x100004 = BitVec.ofNat 32 ((now s - s.boot.entered) / 250000 % 65536))) ∧
      (now s % 256 = 0 → s.handover = none → (stage s = 1 ∨ stage s = 2) → Runs .handover s fun u =>
        u = { s with words := u.words, recorder := u.recorder, handover := some (now s + 500000) } ∧
        (Canonical s → rf s 0x100028 2 0 = 1 → rf u 0x100028 2 0 = 2) ∧
        (rf s 0x100028 2 0 ≠ 1 → Recorded 0 0x13 0 s u))

/-- Resets of functions and endpoints: a reset puts its function in Dusk and disables its rings in the tick of its
arrival, by RST_FUNC_CTRL without and by PCIe with a clearing of configuration space; PF0 of H0 is not reset so; Dusk
ends at the first boundary after the drain; and a hot reset takes every function of its endpoint through Dusk, raises
the endpoint's generation and puts its link down. Each restarts the servo: in HOLDOVER with the mean INCR when it was
LOCKED, and in FREE_RUN otherwise. -/
def Obligations.FunctionResets : Prop :=
  ∀ (fn : FnId) (e : Endpoint) (cause : HotCause) (t : Nat) (s : State),
    let f := fnState s fn
    let is := fun (g : FnState) (u : State) => fnState u fn = g ∧ ∀ h, h ≠ fn → fnState u h = fnState s h
    let loses := fun (hit : FnId → Bool) (u : State) =>
      let hits := fun (r : Nat) => decide (r < 65536) && (ringOwner s r).any hit
      Canonical s → u.groups = s.groups.map fun g => (g.1, { g.2 with
        positions := g.2.positions.map fun p => if p.ring.any hits then { p with lost := true, bufs := 0 } else p })
    let arrives := fun (flr : Bool) (u : State) => loses (fun h => h == fn) u ∧
      is { f with dusk := some (now s), flr := flr, drained := false, held := false } u ∧
      (Canonical s → ∀ r ∈ ringsOf s fn, rf u (rngAddr r 4) 3 3 = 0 ∧ rf u (rngAddr r 0x2C) 0 0 = 0)
    let v := endpoint s e
    let a := hlkAddr e 0
    let mean : Commit := ⟨.tbs, pf0, now s, effectRound (now s), [], .timebase ⟨0, meanIncr s, 0, 0, 0, 0⟩, 0⟩
    let servo := fun (u : State) =>
      (servoState s = 0 → u.tbs = s.tbs ∧ u.ledger = s.ledger) ∧
      u.commits = s.commits ++ (if servoState s = 2 then [mean] else []) ∧
      (Canonical s → servoState u = if servoState s = 2 then 3 else 0)
    (Live s → (endpoint s fn.ep).down = false → fnExists s fn = true → f.dusk = none →
      Runs (.functionReset none fn) s fun u =>
        u = { s with
          words := u.words, rings := u.rings, groups := u.groups, functions := u.functions, tbs := u.tbs
          commits := u.commits, ledger := u.ledger, recorder := u.recorder } ∧
        (servoState s = 0 → u.recorder = s.recorder) ∧ servo u ∧ arrives true u) ∧
    (MayWrite s pf0 0x100010 → fn ≠ pf0 → fnExists s fn = true → f.dusk = none →
      Runs (.functionReset (some pf0) fn) s fun u =>
        u = { s with
          words := u.words, rings := u.rings, groups := u.groups, functions := u.functions
          boot := { s.boot with named := some fn }, tbs := u.tbs, commits := u.commits, ledger := u.ledger
          recorder := u.recorder } ∧
        (servoState s = 0 → u.recorder = s.recorder) ∧ servo u ∧ arrives false u ∧
          (Canonical s → rf u 0x100014 0 0 = 1)) ∧
    (MayWrite s pf0 0x100010 → Runs (.functionReset (some pf0) pf0) s fun u =>
      u = { s with words := u.words, recorder := u.recorder } ∧ Recorded 0 0x04 (0x100010 + 5 * 2 ^ 40) s u) ∧
    (Live s → f.dusk = some t → f.drained = true → now s % 256 = 0 → Runs (.duskEnd fn) s fun u =>
      u = { s with words := u.words, functions := u.functions } ∧ is { f with dusk := none, drained := false } u ∧
      WordsKept [0x100014] s u ∧ (Canonical s → s.boot.named = some fn → rf u 0x100014 0 0 = 0)) ∧
    (Live s → ¬(cause = .perst1 ∧ e = .h0) → Runs (.hotReset e cause) s fun u =>
      u = { s with
        words := u.words, rings := u.rings, groups := u.groups, functions := u.functions, endpoints := u.endpoints
        recorder := u.recorder, tbs := u.tbs, commits := u.commits, ledger := u.ledger } ∧ servo u ∧
      loses (fun h => h.ep == e && fnExists s h && (fnState s h).dusk.isNone) u ∧
      (∀ g, g.ep = e → fnExists s g = true → (fnState u g).flr = true ∧
        (fnState u g).dusk = some ((fnState s g).dusk.getD (now s))) ∧
      (∀ g, g.ep ≠ e → fnState u g = fnState s g) ∧ (∀ e', e' ≠ e → endpoint u e' = endpoint s e') ∧
      (endpoint u e).down = true ∧ (endpoint u e).path = [] ∧ (endpoint u e).generation = (v.generation + 1) % 16 ∧
      (endpoint u e).requests = v.requests ∧
      (Canonical s → rf u a 0 0 = 0 ∧ rf u a 23 20 = (v.generation + 1) % 16) ∧
      (bit (word s a) 0 = true → Recorded (srcHost e) 0x09 (Endpoint.num e) s u))

/-- Resets of clusters: a reset of a spare or fenced cluster begins at the next round boundary, where the cluster is
cleared and goes into its tests; an active one has its work moved to the spare at the boundary of R40 and goes into
Dusk, and without a spare the write is ignored; RST_SPARE moves the spare role; at a round boundary the spare takes
over the path classes of a fenced cluster; and a cluster whose tests have ended becomes the spare, or active where a
spare is in force, and one that failed is fenced. -/
def Obligations.ClusterResets : Prop :=
  ∀ (c : Fin 17) (sp : Nat) (pass dusk : Bool) (s : State),
    let n := c.val
    let role := clusterRole s n
    let move := fun (dusk : Bool) => (⟨.spare, pf0, now s, effectRound (now s), [], .spare n dusk, 0⟩ : Commit)
    let mine := fun (a : Nat) => n * 128 * 16384 ≤ a ∧ a < (n + 1) * 128 * 16384 ∨ shmAddr n 0 ≤ a ∧
      a < shmAddr (n + 1) 0
    let spare := if pass = false then 3 else if (spareCluster s).isSome then 0 else 1
    let clusterIs := fun (v : Cluster) (u : State) => cluster u n = v ∧ ∀ k, k ≠ n → cluster u k = cluster s k
    (MayWrite s pf0 0x10001C →
      (role = 1 ∨ role = 3 → (cluster s n).resetAsked = false → Runs (.clusterReset pf0 n) s fun u =>
        u = { s with clusters := u.clusters } ∧ clusterIs { cluster s n with resetAsked := true } u) ∧
      (role = 0 → (spareCluster s).isSome → movePending s n = false → Runs (.clusterReset pf0 n) s fun u =>
        u = { s with commits := s.commits ++ [move true] }) ∧
      (role = 0 → spareCluster s = none → Runs (.clusterReset pf0 n) s fun u =>
        u = { s with words := u.words, recorder := u.recorder } ∧ Recorded 0 0x04 (0x10001C + 5 * 2 ^ 40) s u)) ∧
    (MayWrite s pf0 0x100020 → role = 0 → (spareCluster s).isSome → Runs (.rstSpare pf0 n) s fun u =>
      u = { s with commits := s.commits ++ [move false] }) ∧
    (Canonical s → role = 0 → spareCluster s = some sp → sp ≠ n →
      clusterRole (spareEffect s n dusk) n = (if dusk then 2 else 1) ∧ clusterRole (spareEffect s n dusk) sp = 0) ∧
    (Canonical s → (∀ p ∈ s.frames, p.2.stage ≠ .emitted ∧ ∀ t : Tid, t.cluster = c → p.2.stage ≠ .thread t) →
      (∀ t : Tid, t.cluster = c → (thread s t).cells = none) →
      let u := testCluster s n
      (∀ t : Tid, t.cluster = c → look u.threads (tidNum t) = none) ∧
      (∀ t : Tid, t.cluster ≠ c → thread u t = thread s t) ∧ (∀ a, mine a → readByte u a = 0) ∧
      (∀ a, ¬mine a → readByte u a = readByte s a) ∧ u.frames = s.frames ∧ u.classes = s.classes ∧
      (cluster u n).testing = true ∧ clusterRole u n = 4) ∧
    (Live s → now s % 256 = 0 → spareCluster s = some sp → sp ≠ n → s.frames = [] →
      ((List.range 17).find? fun k => (cluster s k).moving) = some n → Runs .spareTakeover s fun u =>
        u = { s with
          words := u.words, undo := u.undo, sliceOf := u.sliceOf, classes := u.classes, commits := u.commits
          clusters := u.clusters, recorder := u.recorder } ∧
        u.classes = s.classes ++ (((List.range 64).map (newest s)).filter fun p => p.cores.any fun k => k.1 == n).map
          (fun p => assignCores p { p with round := round s, cores := moveCores n sp p.cores }) ∧
        cluster u n = { cluster s n with moving := false, unplaced := false } ∧
        (∀ k, k ≠ n → cluster u k = cluster s k ∨ cluster u k = { cluster s k with unplaced := true }) ∧
        (Canonical s → clusterRole u sp = 0) ∧ Recorded (64 + sp) 0x07 sp s u) ∧
    (Live s → role = 4 → (cluster s n).testing = true → Canonical s → Runs (.clusterTestsDone c pass) s fun u =>
      u = { s with words := u.words, clusters := u.clusters } ∧
      clusterIs { cluster s n with testing := false, tested := some pass } u ∧
      word u (0x1D00004 + n * 0x20) = (if pass then 3 else 2) ∧ WordsKept [0x1D00004 + n * 0x20] s u) ∧
    (Canonical s → s.boot.update = none → Recorded (64 + n) 0x07 (n + spare * 2 ^ 32) s (takeRole s n pass) ∧
      clusterRole (takeRole s n pass) n = spare ∧ (spare = 1 → rf (takeRole s n pass) 0x100020 4 0 = n))

/-- Restarts: PERST0_N asserted, even under a void clock, leaves only OTP, flash, the stored blocks, the recorder's
areas and the last rail failure, counts BOOT and holds the device; deasserted with every rail in range the device
enters Daybreak, and BOOT_SEL 3 holds it; VDD_AON coming up starts the recorder anew. A warm reset and a fallback
return to Daybreak with their causes, and the third fallback in 2^32 rounds leaves the device held. -/
def Obligations.Restarts : Prop :=
  ∀ (sel : BitVec 2) (key : BitVec 32) (cause : FallbackCause) (s : State),
    let p := s.power
    let r := s.recorder
    let fundamental := p.clockVoid = false ∧ p.perst0 = true ∧ p.aon = true ∧ p.thermTrip = false ∧
      p.railStop = false ∧ 9 ≤ p.rails.length
    let recent := s.boot.fallbacks.filter fun k => decide (round s < k + 2 ^ 32)
    let daybreak := fun (k : Nat) (u : State) =>
      u.power = p ∧ u.tick = s.tick ∧ u.frames = [] ∧ u.threads = [] ∧ u.mem = [] ∧ u.classes = [] ∧ u.entries = [] ∧
      u.rings = [] ∧ u.boot.entered = now s ∧
      (Canonical s → word u 0x100000 = BitVec.ofNat 32 (k * 256) ∧ word u 0x200000 = word s 0x200000)
    (p.perst0 = false → p.aon = true → Runs .perst0NAssert s fun u =>
      u = { ({} : State) with
        power := { p with perst0 := true, clockVoid := false, railStop := false }
        boot := bootKept s.boot
        recorder := { evening := r.evening, morning := r.morning, next := r.next, viewNext := r.viewNext
                      boot := r.boot + 1, copying := r.copying, copyAgain := r.copyAgain, flash := r.flash }
        ledger := { journal := s.ledger.journal, drives := s.ledger.drives, stripes := s.ledger.stripes }
        freeReads := s.freeReads, draws := s.draws, pending := s.pending, words := u.words } ∧
      (∀ a, a ∉ [0x400000, 0x400004, 0x400008, 0x40000C, 0x500000C, 0x5000010, 0x5000014] →
        word u a = resetWord a) ∧
      word u 0x500000C = word s 0x500000C ∧ word64 u 0x5000010 = word64 s 0x5000010) ∧
    (fundamental → sel ≠ 3 → Runs (.fundamentalReset sel) s fun u =>
      u = { s with
        power := { p with perst0 := false }, boot := { s.boot with bootSel := sel }, draws := s.draws + 4
        words := u.words, recorder := u.recorder, endpoints := u.endpoints } ∧
      Live u ∧ (endpoint u .h0).down = true ∧ (endpoint u .h1).down = true ∧ Recorded 0 0x02 0 s u ∧
      (Canonical s → rf u 0x5000008 1 1 = 0)) ∧
    (fundamental → Runs (.fundamentalReset 3) s fun u => Live u ∧
      (Canonical s → rf u 0x100000 2 0 = 3 ∧ rf u 0x100000 15 8 = 7)) ∧
    (p.clockVoid = false → p.aon = false → Runs .powerOn s fun u =>
      u = { s with
        power := { p with aon := true, perst0 := true }, words := u.words
        recorder := { evening := [⟨0, powerOnRecord 1⟩], morning := [powerOnRecord 1], next := 1, viewNext := [(0, 1)]
                      boot := 1, flash := r.flash } }) ∧
    (MayWrite s pf0 0x100024 → Runs (.warmReset (some pf0) 0x5741524D) s fun u =>
      daybreak 1 u ∧ u.boot.fallbacks = [] ∧ Recorded 0 0x02 1 s u) ∧
    (MayWrite s pf0 0x100024 → key ≠ 0x5741524D → Runs (.warmReset (some pf0) key) s fun u =>
      u = { s with words := u.words, recorder := u.recorder } ∧ Recorded 0 0x04 (0x100024 + 5 * 2 ^ 40) s u) ∧
    (Live s → Runs (.warmReset none key) s fun u =>
      daybreak 2 u ∧ u.boot.fallbacks = [] ∧ Recorded 0 0x02 2 s u) ∧
    (Live s → recent.length < 2 → Runs (.fallback cause) s fun u =>
      daybreak 3 u ∧ u.boot.fallbacks = recent ++ [round s] ∧ (Canonical s → Counted 0x10002C s u) ∧
      (cause = .bothPairs → Recorded 0 0x02 3 s u)) ∧
    (Live s → 2 ≤ recent.length → Runs (.fallback cause) s fun u =>
      u.tick = s.tick ∧ u.frames = [] ∧ u.threads = [] ∧ u.mem = [] ∧
      (Canonical s → rf u 0x100000 2 0 = 3 ∧ rf u 0x100000 15 8 = 8))

/-- The recorder and the locks: a record placed joins the Evening area, and the Morning area while that has room; PF0
of H0 starts a copy to flash, which its completion makes whole; a cursor written within the records held refreshes the
view's window, and one before them counts the records lost; EVR_VIEW_LOST is cleared by its read; and a lock requested
by PF0 of H0 shows in LCK_SET at once and comes into force under R40, while any other function's request is turned
away. -/
def Obligations.RecorderAndLocks : Prop :=
  ∀ (fn : FnId) (k : Nat) (ev : EvRec) (c : FlashCopy) (cursor : BitVec 64) (req : BitVec 32) (s : State),
    let r := s.recorder
    let inMorning := decide (r.morning.length < 16384)
    let placed := { ev with morning := inMorning }
    let new := req &&& 0x7F &&& ~~~(word s 0x200000)
    let oldest := viewOldest s fn
    let window := fun (c : Nat) (u : State) => look u.recorder.views (fnNum fn) =
        some ⟨((viewRecords s fn).filter fun x => decide (c ≤ x.2)).take 64⟩ ∧
      (Canonical s → word64 u (viewAddr fn 0) = c % 2 ^ 64)
    let lost := (word s (viewAddr fn 0xC)).toNat + (oldest - cursor.toNat)
    let byIndex := platformView s fn = true ∧ bit (word s (viewAddr fn 0x10)) 0 = true
    (Live s → r.placedAt ≠ some (now s) → r.queues = [(k, [ev])] → ev.fatal = false → r.morning.length ≠ 16383 →
      Runs .eventPlace s fun u => u = { s with words := u.words, recorder := { r with
        queues := [], placedAt := some (now s), next := r.next + 1, viewNext := u.recorder.viewNext
        evening := (⟨(look r.viewNext ev.tenancy).getD 0, placed⟩ :: r.evening).take 65536
        morning := if inMorning then r.morning ++ [placed] else r.morning } }) ∧
    (MayWrite s pf0 0x40001C →
      (r.copying = none → Runs (.copyGo pf0) s fun u =>
        u = { s with words := u.words, recorder := { r with flash := none, copying := u.recorder.copying } } ∧
        (u.recorder.copying.map fun c => (c.cause, c.morning, c.next)) = some (3, r.morning, r.next)) ∧
      (r.copying = some c → r.copyAgain = none → Runs (.copyGo pf0) s fun u =>
        u = { s with words := u.words, recorder := { r with copyAgain := some 3 } })) ∧
    (s.power.clockVoid = false → s.power.aon = true → .vddIo ∈ s.power.rails → r.copying = some c → r.copyAgain = none →
      Runs .copyComplete s fun u =>
        u = { s with words := u.words, recorder := { r with copying := none, flash := some c } } ∧
        (Canonical s → Counted 0x400018 s u)) ∧
    (MayWrite s fn 0x410004 → ¬byIndex →
      (oldest ≤ cursor.toNat → cursor.toNat ≤ viewNextOf s fn → Runs (.cursorWrite fn cursor) s fun u =>
        u = { s with words := u.words, recorder := { r with views := u.recorder.views } } ∧ window cursor.toNat u) ∧
      (cursor.toNat < oldest → lost < 2 ^ 32 → oldest ≤ viewNextOf s fn → Runs (.cursorWrite fn cursor) s fun u =>
        u = { s with words := u.words, recorder := { r with views := u.recorder.views } } ∧ window oldest u ∧
        (Canonical s → (word u (viewAddr fn 0xC)).toNat = lost))) ∧
    (MayRead s fn → Runs (.evrViewLostRead fn) s fun u =>
      u = { s with words := u.words, reply := [word s (viewAddr fn 0xC)] } ∧ WordsKept [viewAddr fn 0xC] s u ∧
      (Canonical s → word u (viewAddr fn 0xC) = 0)) ∧
    (MayWrite s pf0 0x200000 → new ≠ 0 → s.shadow = [] → Runs (.lckSet pf0 req) s fun u =>
      u = { s with words := u.words
                   commits := s.commits ++ [⟨.lck, pf0, now s, effectRound (now s), [], .locks new, 0⟩] } ∧
      WordsKept [0x200000, 0x200010] s u ∧ (Canonical s → word u 0x200000 = word s 0x200000 ||| new)) ∧
    (Live s → reachable s fn = true → fn.fn ≠ 0 → Runs (.lckSet fn req) s fun u =>
      u = { s with drops := u.drops, words := u.words } ∧ u.commits = s.commits ∧
      Drops (.tenancy (fnTenancy s fn)) 0x59 s u)

/-- Supply rails and clocks: undervoltage of a running device stops it, with its record and ALERT_N; a rail out of its
order is latched and does not count as in range, and one in its order counts; an overvoltage is recorded and the
device goes on; the loss of VDD_AON leaves OTP, flash and the stored blocks only; the loss of REF_CLK voids every
rule; and a host or control clock that is stable is noted. -/
def Obligations.RailsAndClocks : Prop :=
  ∀ (r : Rail) (s : State),
    let p := s.power
    let latched := fun (cause : Nat) (u : State) =>
      Canonical s → word u 0x500000C = BitVec.ofNat 32 (railNum r + cause * 16)
    let inOrder := railInOrder p.rails r = true
    (p.clockVoid = false →
      (running s = true → Runs (.railUndervoltage r) s fun u =>
        u = { s with
          words := u.words, recorder := u.recorder, frames := []
          power := { p with rails := p.rails.filter (· != r), railStop := true } } ∧ running u = false ∧
        u.recorder.queues = s.recorder.queues ∧ u.recorder.next = s.recorder.next + 1 ∧
        latched 1 u ∧ (Canonical s → rf u 0x5000008 1 1 = 1)) ∧
      (running s = false → Runs (.railUndervoltage r) s fun u =>
        u = { s with power := { p with rails := p.rails.filter (· != r) } }) ∧
      (p.aon = true → r ∉ p.rails → ¬inOrder → Runs (.railSequence r) s fun u =>
        u = { s with words := u.words } ∧ latched 2 u ∧ (Canonical s → rf u 0x5000008 1 1 = 1)) ∧
      (p.aon = true → inOrder → Runs (.railInRange r) s fun u =>
        u = { s with power := { p with rails := u.power.rails } } ∧
        ∀ x, x ∈ u.power.rails ↔ x = r ∨ x ∈ p.rails)) ∧
    (Live s → r ∈ p.rails → Runs (.railOvervoltage r) s fun u =>
      u = { s with words := u.words, recorder := u.recorder } ∧ latched 3 u ∧
      Recorded 6 0x13 (railNum r + 3 * 2 ^ 32) s u) ∧
    (Runs .vddAonLoss s fun u =>
      u.power = { p with
        clockVoid := false, perst0 := true, aon := false, thermTrip := false, railStop := false, rails := []
        h1Clock := false, c0Clock := false } ∧
      u.recorder = { flash := s.recorder.flash } ∧ u.boot = bootKept s.boot ∧
      u.ledger.journal = s.ledger.journal ∧ u.mem = [] ∧ u.threads = [] ∧ u.frames = [] ∧ word u 0x500000C = 0 ∧
      word64 u 0x5000010 = 0 ∧ word u 0x200000 = 0) ∧
    (Live s →
      (Runs .refClkLoss s fun u => u = { s with power := { p with clockVoid := true } }) ∧
      (Runs (.refclkStable .h1) s fun u => u = { s with power := { p with h1Clock := true } }) ∧
      (Runs (.refclkStable .c0) s fun u => u = { s with power := { p with c0Clock := true } }))

/-- Temperature and the management interfaces: the readings of every 2^10 rounds show in the registers; ALERT_N is
driven at 100 °C and released at 97 °C, and at 115 °C the device stops; PF0's read of the peak clears it. Each command
of NC-SI and each request of PLDM that is served is answered once; the enabling of a channel, and its return to its
initial state, take effect. -/
def Obligations.Monitoring : Prop :=
  ∀ (temps : List (BitVec 12)) (fn : FnId) (ch : Nat) (cmd : BitVec 8) (type : BitVec 6) (k : BitVec 8)
      (payload : List Byte) (s : State),
    let m := hottest temps 0
    let tj := m.1.toInt
    let d := m.2 + m.1.toNat * 2 ^ 32
    let alarm := bit (word s 0x5000008) 0
    let shown := fun (u : State) => Canonical s →
      word u 0x5000000 = BitVec.ofNat 32 (m.1.toNat + m.2 * 4096) ∧
      ∀ j, j < 16 → word u (0x5000020 + 4 * j) = (temps.getD j 0).zeroExtend 32
    let reads := fun (P : State → Prop) => Runs (.sensorRead temps) s fun u =>
      u = { s with words := u.words, recorder := u.recorder } ∧ shown u ∧ P u
    let c := (look s.ncsi ch).getD {}
    let answered := fun (cmd code reason : Nat) (data : List Byte) =>
      s.mgmt ++ [⟨ch, cmd + 0x80, code, reason, data⟩]
    let ncsi := fun (cmd : BitVec 8) (c' : NcsiChannel) => Runs (.ncsiCommand ch cmd []) s fun u =>
      u = { s with ncsi := place s.ncsi ch c', mgmt := answered cmd.toNat 0 0 [] }
    (Live s → temps.length = 16 → now s % (256 * 1024) = 0 →
      (tj < 800 → alarm = false → reads fun u => u.recorder = s.recorder) ∧
      (800 ≤ tj → tj < 920 → alarm = false → reads fun u =>
        Recorded 6 0x11 d s u ∧ (Canonical s → rf u 0x5000008 0 0 = 1)) ∧
      (776 < tj → tj < 920 → alarm = true → reads fun u => u.recorder = s.recorder) ∧
      (tj ≤ 776 → alarm = true → reads fun u => Recorded 6 0x11 d s u ∧ (Canonical s → rf u 0x5000008 0 0 = 0)) ∧
      (920 ≤ tj → Runs (.sensorRead temps) s fun u =>
        u = { s with
          words := u.words, recorder := u.recorder, frames := [], power := { s.power with thermTrip := true } } ∧
        shown u ∧ running u = false)) ∧
    (MayRead s pf0 → Runs (.tempPeakRead pf0) s fun u =>
      u = { s with words := u.words, reply := [word s 0x5000004] } ∧ WordsKept [0x5000004] s u ∧
      (Canonical s → word u 0x5000004 = 0)) ∧
    (MayRead s fn → fn ≠ pf0 → Runs (.tempPeakRead fn) s fun u => u = { s with reply := [0] }) ∧
    (Live s → ch < 4 →
      ncsi 0 { c with initialised := true } ∧
      (c.initialised = true → ncsi 3 { c with enabled := true } ∧ ncsi 6 { c with txEnabled := true } ∧
        ncsi 7 { c with txEnabled := false } ∧ ncsi 5 {}) ∧
      (ncsiLength cmd.toNat = none → Runs (.ncsiCommand ch cmd payload) s fun u =>
        u = { s with mgmt := answered cmd.toNat 3 0x7FFF [] })) ∧
    (Live s →
      (k.toNat < 16 → Runs (.pldmRequest 2 0x11 [k, 0, 0]) s fun u =>
        u = { s with mgmt := s.mgmt ++ [⟨66, 0x11, 0, 0, pldmReading s k.toNat⟩] }) ∧
      (type ≠ 2 → type ≠ 5 → Runs (.pldmRequest type cmd payload) s fun u =>
        u = { s with mgmt := s.mgmt ++ [⟨64 + type.toNat, cmd.toNat, 0x20, 0, []⟩] }))
end

