-- ==== Sys2Proof/Laws/Sparse.lean ====
section
/-! SUPPORT. Sparse stores: reading after writing, and the canonical form. -/

namespace Sys2Proof.Machine

variable {α : Type}

/-- Reading after putting a pair in place, in any list. -/
theorem sparseGet_insert (d : Nat → α) (m : Sparse α) (k : Nat) (v : α) (j : Nat) :
    sparseGet d (sparseInsert m k v) j = if j = k then v else sparseGet d m j := by
  induction m with
  | nil =>
    simp only [sparseInsert, sparseGet]
    by_cases h : j = k
    · simp [h]
    · simp [h, Ne.symm h]
  | cons p m ih =>
    obtain ⟨i, w⟩ := p
    simp only [sparseInsert]
    split
    · simp only [sparseGet]
      by_cases h : j = k
      · simp [h]
      · simp [h, Ne.symm h]
    · split
      · rename_i h2
        subst h2
        simp only [sparseGet]
        by_cases h : j = i
        · simp [h]
        · simp [h, Ne.symm h]
      · rename_i h2
        simp only [sparseGet, ih]
        by_cases h : i = j
        · subst h; simp [h2]
        · simp [h]

/-- Removing a pair leaves every other index as it reads. -/
theorem sparseGet_erase_ne (d : Nat → α) (m : Sparse α) (k j : Nat) (h : j ≠ k) :
    sparseGet d (sparseErase m k) j = sparseGet d m j := by
  induction m with
  | nil => rfl
  | cons p m ih =>
    obtain ⟨i, w⟩ := p
    by_cases h2 : i = k <;> by_cases h3 : i = j <;> simp_all [sparseErase, sparseGet]

/-- An index that no pair lists reads as the default. -/
theorem sparseGet_of_not_mem (d : Nat → α) (m : Sparse α) (k : Nat) (h : ∀ p ∈ m, p.1 ≠ k) :
    sparseGet d m k = d k := by
  induction m with
  | nil => rfl
  | cons p m ih =>
    obtain ⟨i, w⟩ := p
    have := h (i, w) (by simp)
    simp_all [sparseGet]

/-- In a canonical store a removed index reads as the default. -/
theorem sparseGet_erase_self (d : Nat → α) (m : Sparse α) (k : Nat) (h : sparseWf d m) :
    sparseGet d (sparseErase m k) k = d k := by
  induction m with
  | nil => rfl
  | cons p m ih =>
    obtain ⟨i, w⟩ := p
    obtain ⟨hp, hd⟩ := h
    have hw : sparseWf d m := ⟨(List.pairwise_cons.1 hp).2, fun q hq => hd q (by simp [hq])⟩
    by_cases h2 : i = k
    · subst h2
      simp only [sparseErase, if_pos]
      exact sparseGet_of_not_mem d m i fun q hq => by
        have := (List.pairwise_cons.1 hp).1 q hq
        simp only at this
        omega
    · simp [sparseErase, sparseGet, h2, ih hw]

/-- Reading after writing a canonical store. -/
theorem sparseGet_set [DecidableEq α] (d : Nat → α) (m : Sparse α) (k : Nat) (v : α) (j : Nat)
    (h : sparseWf d m) : sparseGet d (sparseSet d m k v) j = if j = k then v else sparseGet d m j := by
  unfold sparseSet
  by_cases hv : v = d k
  · by_cases hj : j = k
    · subst hj; simp [hv, sparseGet_erase_self d m j h]
    · simp [hv, hj, sparseGet_erase_ne d m k j hj]
  · simp [hv, sparseGet_insert]

/-- Writing one index leaves every other as it reads, in any list. -/
theorem sparseGet_set_ne [DecidableEq α] (d : Nat → α) (m : Sparse α) (k : Nat) (v : α) (j : Nat)
    (h : j ≠ k) : sparseGet d (sparseSet d m k v) j = sparseGet d m j := by
  unfold sparseSet
  by_cases hv : v = d k
  · simp [hv, sparseGet_erase_ne d m k j h]
  · simp [hv, sparseGet_insert, h]

/-! ### The canonical form -/

theorem mem_sparseErase (m : Sparse α) (k : Nat) : ∀ p ∈ sparseErase m k, p ∈ m := by
  induction m with
  | nil => simp [sparseErase]
  | cons q m ih =>
    intro p hp
    by_cases h : q.1 = k
    · simp only [sparseErase, h, if_pos] at hp; simp [hp]
    · simp only [sparseErase, h, if_false, List.mem_cons] at hp
      rcases hp with rfl | hp
      · simp
      · simp [ih p hp]

theorem mem_sparseInsert (m : Sparse α) (k : Nat) (v : α) : ∀ p ∈ sparseInsert m k v, p = (k, v) ∨ p ∈ m := by
  induction m with
  | nil => simp [sparseInsert]
  | cons q m ih =>
    obtain ⟨i, w⟩ := q
    intro p hp
    simp only [sparseInsert] at hp
    split at hp
    · simpa using hp
    · split at hp
      · rcases List.mem_cons.1 hp with h | h
        · exact Or.inl h
        · exact Or.inr (List.mem_cons_of_mem _ h)
      · rcases List.mem_cons.1 hp with h | h
        · exact Or.inr (List.mem_cons.2 (Or.inl h))
        · rcases ih p h with h | h
          · exact Or.inl h
          · exact Or.inr (List.mem_cons_of_mem _ h)

theorem sparseErase_wf (d : Nat → α) (m : Sparse α) (k : Nat) (h : sparseWf d m) : sparseWf d (sparseErase m k) := by
  refine ⟨?_, fun p hp => h.2 p (mem_sparseErase m k p hp)⟩
  have hp := h.1
  clear h
  induction m with
  | nil => exact hp
  | cons q m ih =>
    obtain ⟨h1, h2⟩ := List.pairwise_cons.1 hp
    by_cases hq : q.1 = k
    · simpa [sparseErase, hq] using h2
    · simp only [sparseErase, hq, if_false]
      exact List.pairwise_cons.2 ⟨fun p hp' => h1 p (mem_sparseErase m k p hp'), ih h2⟩

theorem sparseInsert_wf (d : Nat → α) (m : Sparse α) (k : Nat) (v : α) (h : sparseWf d m) (hv : v ≠ d k) :
    sparseWf d (sparseInsert m k v) := by
  refine ⟨?_, fun p hp => ?_⟩
  · have hp := h.1
    clear h
    induction m with
    | nil => simp [sparseInsert]
    | cons q m ih =>
      obtain ⟨i, w⟩ := q
      obtain ⟨h1, h2⟩ := List.pairwise_cons.1 hp
      simp only [sparseInsert]
      split
      · rename_i hk
        refine List.pairwise_cons.2 ⟨fun p hp' => ?_, hp⟩
        rcases List.mem_cons.1 hp' with rfl | hm
        · exact hk
        · exact Nat.lt_trans hk (h1 p hm)
      · split
        · rename_i hik
          subst hik
          exact List.pairwise_cons.2 ⟨fun p hp' => h1 p hp', h2⟩
        · refine List.pairwise_cons.2 ⟨fun p hp' => ?_, ih h2⟩
          rcases mem_sparseInsert m k v p hp' with rfl | hm
          · simp only; omega
          · exact h1 p hm
  · rcases mem_sparseInsert m k v p hp with rfl | hm
    · exact hv
    · exact h.2 p hm

/-- Writing keeps the canonical form. -/
theorem sparseSet_wf [DecidableEq α] (d : Nat → α) (m : Sparse α) (k : Nat) (v : α) (h : sparseWf d m) :
    sparseWf d (sparseSet d m k v) := by
  unfold sparseSet
  split
  · exact sparseErase_wf d m k h
  · exact sparseInsert_wf d m k v h ‹_›

/-- Dropping pairs keeps the canonical form. -/
theorem filter_wf (d : Nat → α) (m : Sparse α) (q : Nat × α → Bool) (h : sparseWf d m) : sparseWf d (m.filter q) :=
  ⟨h.1.filter q, fun p hp => h.2 p ((List.mem_filter.1 hp).1)⟩

theorem nil_wf (d : Nat → α) : sparseWf d ([] : Sparse α) := ⟨List.Pairwise.nil, by simp⟩

/-! ### Stores of things that may be absent -/

theorem map_insert (m : Sparse α) (k : Nat) (v : α) :
    (sparseInsert m k v).map (fun p => (p.1, some p.2)) = sparseInsert (m.map fun p => (p.1, some p.2)) k (some v) := by
  induction m with
  | nil => rfl
  | cons q m ih =>
    obtain ⟨i, w⟩ := q
    simp only [sparseInsert, List.map_cons]
    split
    · rfl
    · split
      · rfl
      · simp only [List.map_cons, ih]

theorem map_erase (m : Sparse α) (k : Nat) :
    (sparseErase m k).map (fun p => (p.1, some p.2)) = sparseErase (m.map fun p => (p.1, some p.2)) k := by
  induction m with
  | nil => rfl
  | cons q m ih =>
    obtain ⟨i, w⟩ := q
    by_cases h2 : i = k <;> simp_all [sparseErase]

/-- Looking up after placing. -/
theorem look_place (m : Sparse α) (k : Nat) (v : α) (j : Nat) :
    look (place m k v) j = if j = k then some v else look m j := by
  simp only [look, place, map_insert, sparseGet_insert]

@[simp] theorem look_place_self (m : Sparse α) (k : Nat) (v : α) : look (place m k v) k = some v := by
  simp [look_place]

theorem look_place_ne (m : Sparse α) (k : Nat) (v : α) (j : Nat) (h : j ≠ k) : look (place m k v) j = look m j := by
  simp [look_place, h]

/-- Looking up another index after removing. -/
theorem look_remove_ne (m : Sparse α) (k j : Nat) (h : j ≠ k) : look (remove m k) j = look m j := by
  simp only [look, remove, map_erase, sparseGet_erase_ne _ _ _ _ h]

@[simp] theorem look_nil (k : Nat) : look ([] : Sparse α) k = none := rfl

end Sys2Proof.Machine
end

