-- ==== Sys2Proof/Laws/State.lean ====
section
/-! SUPPORT. What each basic update of the state leaves as it is: one lemma per field and update, so that no proof
unfolds a record update. -/

namespace Sys2Proof.Machine

open Sys2Proof

/-! ### setWord -/

@[simp] theorem setWord_power (s : State) (a : Nat) (w : Word) : (setWord s a w).power = s.power := rfl
@[simp] theorem setWord_tick (s : State) (a : Nat) (w : Word) : (setWord s a w).tick = s.tick := rfl
@[simp] theorem setWord_tbs (s : State) (a : Nat) (w : Word) : (setWord s a w).tbs = s.tbs := rfl
@[simp] theorem setWord_boundary (s : State) (a : Nat) (w : Word) : (setWord s a w).boundary = s.boundary := rfl
@[simp] theorem setWord_undo (s : State) (a : Nat) (w : Word) : (setWord s a w).undo = s.undo := rfl
@[simp] theorem setWord_versions (s : State) (a : Nat) (w : Word) : (setWord s a w).versions = s.versions := rfl
@[simp] theorem setWord_shadow (s : State) (a : Nat) (w : Word) : (setWord s a w).shadow = s.shadow := rfl
@[simp] theorem setWord_commits (s : State) (a : Nat) (w : Word) : (setWord s a w).commits = s.commits := rfl
@[simp] theorem setWord_latch (s : State) (a : Nat) (w : Word) : (setWord s a w).latch = s.latch := rfl
@[simp] theorem setWord_reply (s : State) (a : Nat) (w : Word) : (setWord s a w).reply = s.reply := rfl
@[simp] theorem setWord_mem (s : State) (a : Nat) (w : Word) : (setWord s a w).mem = s.mem := rfl
@[simp] theorem setWord_frames (s : State) (a : Nat) (w : Word) : (setWord s a w).frames = s.frames := rfl
@[simp] theorem setWord_nextFrame (s : State) (a : Nat) (w : Word) : (setWord s a w).nextFrame = s.nextFrame := rfl
@[simp] theorem setWord_admissions (s : State) (a : Nat) (w : Word) : (setWord s a w).admissions = s.admissions := rfl
@[simp] theorem setWord_threads (s : State) (a : Nat) (w : Word) : (setWord s a w).threads = s.threads := rfl
@[simp] theorem setWord_cores (s : State) (a : Nat) (w : Word) : (setWord s a w).cores = s.cores := rfl
@[simp] theorem setWord_clusters (s : State) (a : Nat) (w : Word) : (setWord s a w).clusters = s.clusters := rfl
@[simp] theorem setWord_locks (s : State) (a : Nat) (w : Word) : (setWord s a w).locks = s.locks := rfl
@[simp] theorem setWord_chans (s : State) (a : Nat) (w : Word) : (setWord s a w).chans = s.chans := rfl
@[simp] theorem setWord_due (s : State) (a : Nat) (w : Word) : (setWord s a w).due = s.due := rfl
@[simp] theorem setWord_classes (s : State) (a : Nat) (w : Word) : (setWord s a w).classes = s.classes := rfl
@[simp] theorem setWord_sliceOf (s : State) (a : Nat) (w : Word) : (setWord s a w).sliceOf = s.sliceOf := rfl
@[simp] theorem setWord_taken (s : State) (a : Nat) (w : Word) : (setWord s a w).taken = s.taken := rfl
@[simp] theorem setWord_jobs (s : State) (a : Nat) (w : Word) : (setWord s a w).jobs = s.jobs := rfl
@[simp] theorem setWord_ruleSets (s : State) (a : Nat) (w : Word) : (setWord s a w).ruleSets = s.ruleSets := rfl
@[simp] theorem setWord_entries (s : State) (a : Nat) (w : Word) : (setWord s a w).entries = s.entries := rfl
@[simp] theorem setWord_changes (s : State) (a : Nat) (w : Word) : (setWord s a w).changes = s.changes := rfl
@[simp] theorem setWord_learns (s : State) (a : Nat) (w : Word) : (setWord s a w).learns = s.learns := rfl
@[simp] theorem setWord_learnMarks (s : State) (a : Nat) (w : Word) : (setWord s a w).learnMarks = s.learnMarks := rfl
@[simp] theorem setWord_overlays (s : State) (a : Nat) (w : Word) : (setWord s a w).overlays = s.overlays := rfl
@[simp] theorem setWord_dma (s : State) (a : Nat) (w : Word) : (setWord s a w).dma = s.dma := rfl
@[simp] theorem setWord_groups (s : State) (a : Nat) (w : Word) : (setWord s a w).groups = s.groups := rfl
@[simp] theorem setWord_conns (s : State) (a : Nat) (w : Word) : (setWord s a w).conns = s.conns := rfl
@[simp] theorem setWord_targets (s : State) (a : Nat) (w : Word) : (setWord s a w).targets = s.targets := rfl
@[simp] theorem setWord_ctrls (s : State) (a : Nat) (w : Word) : (setWord s a w).ctrls = s.ctrls := rfl
@[simp] theorem setWord_notices (s : State) (a : Nat) (w : Word) : (setWord s a w).notices = s.notices := rfl
@[simp] theorem setWord_recorder (s : State) (a : Nat) (w : Word) : (setWord s a w).recorder = s.recorder := rfl
@[simp] theorem setWord_mailboxes (s : State) (a : Nat) (w : Word) : (setWord s a w).mailboxes = s.mailboxes := rfl
@[simp] theorem setWord_endpoints (s : State) (a : Nat) (w : Word) : (setWord s a w).endpoints = s.endpoints := rfl
@[simp] theorem setWord_functions (s : State) (a : Nat) (w : Word) : (setWord s a w).functions = s.functions := rfl
@[simp] theorem setWord_rings (s : State) (a : Nat) (w : Word) : (setWord s a w).rings = s.rings := rfl
@[simp] theorem setWord_cplDue (s : State) (a : Nat) (w : Word) : (setWord s a w).cplDue = s.cplDue := rfl
@[simp] theorem setWord_signals (s : State) (a : Nat) (w : Word) : (setWord s a w).signals = s.signals := rfl
@[simp] theorem setWord_peerSlots (s : State) (a : Nat) (w : Word) : (setWord s a w).peerSlots = s.peerSlots := rfl
@[simp] theorem setWord_delivered (s : State) (a : Nat) (w : Word) : (setWord s a w).delivered = s.delivered := rfl
@[simp] theorem setWord_ledger (s : State) (a : Nat) (w : Word) : (setWord s a w).ledger = s.ledger := rfl
@[simp] theorem setWord_ports (s : State) (a : Nat) (w : Word) : (setWord s a w).ports = s.ports := rfl
@[simp] theorem setWord_nodes (s : State) (a : Nat) (w : Word) : (setWord s a w).nodes = s.nodes := rfl
@[simp] theorem setWord_cellsDue (s : State) (a : Nat) (w : Word) : (setWord s a w).cellsDue = s.cellsDue := rfl
@[simp] theorem setWord_buckets (s : State) (a : Nat) (w : Word) : (setWord s a w).buckets = s.buckets := rfl
@[simp] theorem setWord_buckets2 (s : State) (a : Nat) (w : Word) : (setWord s a w).buckets2 = s.buckets2 := rfl
@[simp] theorem setWord_drops (s : State) (a : Nat) (w : Word) : (setWord s a w).drops = s.drops := rfl
@[simp] theorem setWord_sas (s : State) (a : Nat) (w : Word) : (setWord s a w).sas = s.sas := rfl
@[simp] theorem setWord_errors (s : State) (a : Nat) (w : Word) : (setWord s a w).errors = s.errors := rfl
@[simp] theorem setWord_handover (s : State) (a : Nat) (w : Word) : (setWord s a w).handover = s.handover := rfl
@[simp] theorem setWord_boot (s : State) (a : Nat) (w : Word) : (setWord s a w).boot = s.boot := rfl
@[simp] theorem setWord_spdm (s : State) (a : Nat) (w : Word) : (setWord s a w).spdm = s.spdm := rfl
@[simp] theorem setWord_ncsi (s : State) (a : Nat) (w : Word) : (setWord s a w).ncsi = s.ncsi := rfl
@[simp] theorem setWord_mgmt (s : State) (a : Nat) (w : Word) : (setWord s a w).mgmt = s.mgmt := rfl
@[simp] theorem setWord_freeReads (s : State) (a : Nat) (w : Word) : (setWord s a w).freeReads = s.freeReads := rfl
@[simp] theorem setWord_draws (s : State) (a : Nat) (w : Word) : (setWord s a w).draws = s.draws := rfl
@[simp] theorem setWord_pending (s : State) (a : Nat) (w : Word) : (setWord s a w).pending = s.pending := rfl

/-! ### setRf -/

@[simp] theorem setRf_power (s : State) (a hi lo v : Nat) : (setRf s a hi lo v).power = s.power := rfl
@[simp] theorem setRf_tick (s : State) (a hi lo v : Nat) : (setRf s a hi lo v).tick = s.tick := rfl
@[simp] theorem setRf_tbs (s : State) (a hi lo v : Nat) : (setRf s a hi lo v).tbs = s.tbs := rfl
@[simp] theorem setRf_boundary (s : State) (a hi lo v : Nat) : (setRf s a hi lo v).boundary = s.boundary := rfl
@[simp] theorem setRf_undo (s : State) (a hi lo v : Nat) : (setRf s a hi lo v).undo = s.undo := rfl
@[simp] theorem setRf_versions (s : State) (a hi lo v : Nat) : (setRf s a hi lo v).versions = s.versions := rfl
@[simp] theorem setRf_shadow (s : State) (a hi lo v : Nat) : (setRf s a hi lo v).shadow = s.shadow := rfl
@[simp] theorem setRf_commits (s : State) (a hi lo v : Nat) : (setRf s a hi lo v).commits = s.commits := rfl
@[simp] theorem setRf_latch (s : State) (a hi lo v : Nat) : (setRf s a hi lo v).latch = s.latch := rfl
@[simp] theorem setRf_reply (s : State) (a hi lo v : Nat) : (setRf s a hi lo v).reply = s.reply := rfl
@[simp] theorem setRf_mem (s : State) (a hi lo v : Nat) : (setRf s a hi lo v).mem = s.mem := rfl
@[simp] theorem setRf_frames (s : State) (a hi lo v : Nat) : (setRf s a hi lo v).frames = s.frames := rfl
@[simp] theorem setRf_nextFrame (s : State) (a hi lo v : Nat) : (setRf s a hi lo v).nextFrame = s.nextFrame := rfl
@[simp] theorem setRf_admissions (s : State) (a hi lo v : Nat) : (setRf s a hi lo v).admissions = s.admissions := rfl
@[simp] theorem setRf_threads (s : State) (a hi lo v : Nat) : (setRf s a hi lo v).threads = s.threads := rfl
@[simp] theorem setRf_cores (s : State) (a hi lo v : Nat) : (setRf s a hi lo v).cores = s.cores := rfl
@[simp] theorem setRf_clusters (s : State) (a hi lo v : Nat) : (setRf s a hi lo v).clusters = s.clusters := rfl
@[simp] theorem setRf_locks (s : State) (a hi lo v : Nat) : (setRf s a hi lo v).locks = s.locks := rfl
@[simp] theorem setRf_chans (s : State) (a hi lo v : Nat) : (setRf s a hi lo v).chans = s.chans := rfl
@[simp] theorem setRf_due (s : State) (a hi lo v : Nat) : (setRf s a hi lo v).due = s.due := rfl
@[simp] theorem setRf_classes (s : State) (a hi lo v : Nat) : (setRf s a hi lo v).classes = s.classes := rfl
@[simp] theorem setRf_sliceOf (s : State) (a hi lo v : Nat) : (setRf s a hi lo v).sliceOf = s.sliceOf := rfl
@[simp] theorem setRf_taken (s : State) (a hi lo v : Nat) : (setRf s a hi lo v).taken = s.taken := rfl
@[simp] theorem setRf_jobs (s : State) (a hi lo v : Nat) : (setRf s a hi lo v).jobs = s.jobs := rfl
@[simp] theorem setRf_ruleSets (s : State) (a hi lo v : Nat) : (setRf s a hi lo v).ruleSets = s.ruleSets := rfl
@[simp] theorem setRf_entries (s : State) (a hi lo v : Nat) : (setRf s a hi lo v).entries = s.entries := rfl
@[simp] theorem setRf_changes (s : State) (a hi lo v : Nat) : (setRf s a hi lo v).changes = s.changes := rfl
@[simp] theorem setRf_learns (s : State) (a hi lo v : Nat) : (setRf s a hi lo v).learns = s.learns := rfl
@[simp] theorem setRf_learnMarks (s : State) (a hi lo v : Nat) : (setRf s a hi lo v).learnMarks = s.learnMarks := rfl
@[simp] theorem setRf_overlays (s : State) (a hi lo v : Nat) : (setRf s a hi lo v).overlays = s.overlays := rfl
@[simp] theorem setRf_dma (s : State) (a hi lo v : Nat) : (setRf s a hi lo v).dma = s.dma := rfl
@[simp] theorem setRf_groups (s : State) (a hi lo v : Nat) : (setRf s a hi lo v).groups = s.groups := rfl
@[simp] theorem setRf_conns (s : State) (a hi lo v : Nat) : (setRf s a hi lo v).conns = s.conns := rfl
@[simp] theorem setRf_targets (s : State) (a hi lo v : Nat) : (setRf s a hi lo v).targets = s.targets := rfl
@[simp] theorem setRf_ctrls (s : State) (a hi lo v : Nat) : (setRf s a hi lo v).ctrls = s.ctrls := rfl
@[simp] theorem setRf_notices (s : State) (a hi lo v : Nat) : (setRf s a hi lo v).notices = s.notices := rfl
@[simp] theorem setRf_recorder (s : State) (a hi lo v : Nat) : (setRf s a hi lo v).recorder = s.recorder := rfl
@[simp] theorem setRf_mailboxes (s : State) (a hi lo v : Nat) : (setRf s a hi lo v).mailboxes = s.mailboxes := rfl
@[simp] theorem setRf_endpoints (s : State) (a hi lo v : Nat) : (setRf s a hi lo v).endpoints = s.endpoints := rfl
@[simp] theorem setRf_functions (s : State) (a hi lo v : Nat) : (setRf s a hi lo v).functions = s.functions := rfl
@[simp] theorem setRf_rings (s : State) (a hi lo v : Nat) : (setRf s a hi lo v).rings = s.rings := rfl
@[simp] theorem setRf_cplDue (s : State) (a hi lo v : Nat) : (setRf s a hi lo v).cplDue = s.cplDue := rfl
@[simp] theorem setRf_signals (s : State) (a hi lo v : Nat) : (setRf s a hi lo v).signals = s.signals := rfl
@[simp] theorem setRf_peerSlots (s : State) (a hi lo v : Nat) : (setRf s a hi lo v).peerSlots = s.peerSlots := rfl
@[simp] theorem setRf_delivered (s : State) (a hi lo v : Nat) : (setRf s a hi lo v).delivered = s.delivered := rfl
@[simp] theorem setRf_ledger (s : State) (a hi lo v : Nat) : (setRf s a hi lo v).ledger = s.ledger := rfl
@[simp] theorem setRf_ports (s : State) (a hi lo v : Nat) : (setRf s a hi lo v).ports = s.ports := rfl
@[simp] theorem setRf_nodes (s : State) (a hi lo v : Nat) : (setRf s a hi lo v).nodes = s.nodes := rfl
@[simp] theorem setRf_cellsDue (s : State) (a hi lo v : Nat) : (setRf s a hi lo v).cellsDue = s.cellsDue := rfl
@[simp] theorem setRf_buckets (s : State) (a hi lo v : Nat) : (setRf s a hi lo v).buckets = s.buckets := rfl
@[simp] theorem setRf_buckets2 (s : State) (a hi lo v : Nat) : (setRf s a hi lo v).buckets2 = s.buckets2 := rfl
@[simp] theorem setRf_drops (s : State) (a hi lo v : Nat) : (setRf s a hi lo v).drops = s.drops := rfl
@[simp] theorem setRf_sas (s : State) (a hi lo v : Nat) : (setRf s a hi lo v).sas = s.sas := rfl
@[simp] theorem setRf_errors (s : State) (a hi lo v : Nat) : (setRf s a hi lo v).errors = s.errors := rfl
@[simp] theorem setRf_handover (s : State) (a hi lo v : Nat) : (setRf s a hi lo v).handover = s.handover := rfl
@[simp] theorem setRf_boot (s : State) (a hi lo v : Nat) : (setRf s a hi lo v).boot = s.boot := rfl
@[simp] theorem setRf_spdm (s : State) (a hi lo v : Nat) : (setRf s a hi lo v).spdm = s.spdm := rfl
@[simp] theorem setRf_ncsi (s : State) (a hi lo v : Nat) : (setRf s a hi lo v).ncsi = s.ncsi := rfl
@[simp] theorem setRf_mgmt (s : State) (a hi lo v : Nat) : (setRf s a hi lo v).mgmt = s.mgmt := rfl
@[simp] theorem setRf_freeReads (s : State) (a hi lo v : Nat) : (setRf s a hi lo v).freeReads = s.freeReads := rfl
@[simp] theorem setRf_draws (s : State) (a hi lo v : Nat) : (setRf s a hi lo v).draws = s.draws := rfl
@[simp] theorem setRf_pending (s : State) (a hi lo v : Nat) : (setRf s a hi lo v).pending = s.pending := rfl

/-! ### count -/

@[simp] theorem count_power (s : State) (a n : Nat) : (count s a n).power = s.power := rfl
@[simp] theorem count_tick (s : State) (a n : Nat) : (count s a n).tick = s.tick := rfl
@[simp] theorem count_tbs (s : State) (a n : Nat) : (count s a n).tbs = s.tbs := rfl
@[simp] theorem count_boundary (s : State) (a n : Nat) : (count s a n).boundary = s.boundary := rfl
@[simp] theorem count_undo (s : State) (a n : Nat) : (count s a n).undo = s.undo := rfl
@[simp] theorem count_versions (s : State) (a n : Nat) : (count s a n).versions = s.versions := rfl
@[simp] theorem count_shadow (s : State) (a n : Nat) : (count s a n).shadow = s.shadow := rfl
@[simp] theorem count_commits (s : State) (a n : Nat) : (count s a n).commits = s.commits := rfl
@[simp] theorem count_latch (s : State) (a n : Nat) : (count s a n).latch = s.latch := rfl
@[simp] theorem count_reply (s : State) (a n : Nat) : (count s a n).reply = s.reply := rfl
@[simp] theorem count_mem (s : State) (a n : Nat) : (count s a n).mem = s.mem := rfl
@[simp] theorem count_frames (s : State) (a n : Nat) : (count s a n).frames = s.frames := rfl
@[simp] theorem count_nextFrame (s : State) (a n : Nat) : (count s a n).nextFrame = s.nextFrame := rfl
@[simp] theorem count_admissions (s : State) (a n : Nat) : (count s a n).admissions = s.admissions := rfl
@[simp] theorem count_threads (s : State) (a n : Nat) : (count s a n).threads = s.threads := rfl
@[simp] theorem count_cores (s : State) (a n : Nat) : (count s a n).cores = s.cores := rfl
@[simp] theorem count_clusters (s : State) (a n : Nat) : (count s a n).clusters = s.clusters := rfl
@[simp] theorem count_locks (s : State) (a n : Nat) : (count s a n).locks = s.locks := rfl
@[simp] theorem count_chans (s : State) (a n : Nat) : (count s a n).chans = s.chans := rfl
@[simp] theorem count_due (s : State) (a n : Nat) : (count s a n).due = s.due := rfl
@[simp] theorem count_classes (s : State) (a n : Nat) : (count s a n).classes = s.classes := rfl
@[simp] theorem count_sliceOf (s : State) (a n : Nat) : (count s a n).sliceOf = s.sliceOf := rfl
@[simp] theorem count_taken (s : State) (a n : Nat) : (count s a n).taken = s.taken := rfl
@[simp] theorem count_jobs (s : State) (a n : Nat) : (count s a n).jobs = s.jobs := rfl
@[simp] theorem count_ruleSets (s : State) (a n : Nat) : (count s a n).ruleSets = s.ruleSets := rfl
@[simp] theorem count_entries (s : State) (a n : Nat) : (count s a n).entries = s.entries := rfl
@[simp] theorem count_changes (s : State) (a n : Nat) : (count s a n).changes = s.changes := rfl
@[simp] theorem count_learns (s : State) (a n : Nat) : (count s a n).learns = s.learns := rfl
@[simp] theorem count_learnMarks (s : State) (a n : Nat) : (count s a n).learnMarks = s.learnMarks := rfl
@[simp] theorem count_overlays (s : State) (a n : Nat) : (count s a n).overlays = s.overlays := rfl
@[simp] theorem count_dma (s : State) (a n : Nat) : (count s a n).dma = s.dma := rfl
@[simp] theorem count_groups (s : State) (a n : Nat) : (count s a n).groups = s.groups := rfl
@[simp] theorem count_conns (s : State) (a n : Nat) : (count s a n).conns = s.conns := rfl
@[simp] theorem count_targets (s : State) (a n : Nat) : (count s a n).targets = s.targets := rfl
@[simp] theorem count_ctrls (s : State) (a n : Nat) : (count s a n).ctrls = s.ctrls := rfl
@[simp] theorem count_notices (s : State) (a n : Nat) : (count s a n).notices = s.notices := rfl
@[simp] theorem count_recorder (s : State) (a n : Nat) : (count s a n).recorder = s.recorder := rfl
@[simp] theorem count_mailboxes (s : State) (a n : Nat) : (count s a n).mailboxes = s.mailboxes := rfl
@[simp] theorem count_endpoints (s : State) (a n : Nat) : (count s a n).endpoints = s.endpoints := rfl
@[simp] theorem count_functions (s : State) (a n : Nat) : (count s a n).functions = s.functions := rfl
@[simp] theorem count_rings (s : State) (a n : Nat) : (count s a n).rings = s.rings := rfl
@[simp] theorem count_cplDue (s : State) (a n : Nat) : (count s a n).cplDue = s.cplDue := rfl
@[simp] theorem count_signals (s : State) (a n : Nat) : (count s a n).signals = s.signals := rfl
@[simp] theorem count_peerSlots (s : State) (a n : Nat) : (count s a n).peerSlots = s.peerSlots := rfl
@[simp] theorem count_delivered (s : State) (a n : Nat) : (count s a n).delivered = s.delivered := rfl
@[simp] theorem count_ledger (s : State) (a n : Nat) : (count s a n).ledger = s.ledger := rfl
@[simp] theorem count_ports (s : State) (a n : Nat) : (count s a n).ports = s.ports := rfl
@[simp] theorem count_nodes (s : State) (a n : Nat) : (count s a n).nodes = s.nodes := rfl
@[simp] theorem count_cellsDue (s : State) (a n : Nat) : (count s a n).cellsDue = s.cellsDue := rfl
@[simp] theorem count_buckets (s : State) (a n : Nat) : (count s a n).buckets = s.buckets := rfl
@[simp] theorem count_buckets2 (s : State) (a n : Nat) : (count s a n).buckets2 = s.buckets2 := rfl
@[simp] theorem count_drops (s : State) (a n : Nat) : (count s a n).drops = s.drops := rfl
@[simp] theorem count_sas (s : State) (a n : Nat) : (count s a n).sas = s.sas := rfl
@[simp] theorem count_errors (s : State) (a n : Nat) : (count s a n).errors = s.errors := rfl
@[simp] theorem count_handover (s : State) (a n : Nat) : (count s a n).handover = s.handover := rfl
@[simp] theorem count_boot (s : State) (a n : Nat) : (count s a n).boot = s.boot := rfl
@[simp] theorem count_spdm (s : State) (a n : Nat) : (count s a n).spdm = s.spdm := rfl
@[simp] theorem count_ncsi (s : State) (a n : Nat) : (count s a n).ncsi = s.ncsi := rfl
@[simp] theorem count_mgmt (s : State) (a n : Nat) : (count s a n).mgmt = s.mgmt := rfl
@[simp] theorem count_freeReads (s : State) (a n : Nat) : (count s a n).freeReads = s.freeReads := rfl
@[simp] theorem count_draws (s : State) (a n : Nat) : (count s a n).draws = s.draws := rfl
@[simp] theorem count_pending (s : State) (a n : Nat) : (count s a n).pending = s.pending := rfl

/-! ### setWord64 -/

@[simp] theorem setWord64_power (s : State) (a v : Nat) : (setWord64 s a v).power = s.power := rfl
@[simp] theorem setWord64_tick (s : State) (a v : Nat) : (setWord64 s a v).tick = s.tick := rfl
@[simp] theorem setWord64_tbs (s : State) (a v : Nat) : (setWord64 s a v).tbs = s.tbs := rfl
@[simp] theorem setWord64_boundary (s : State) (a v : Nat) : (setWord64 s a v).boundary = s.boundary := rfl
@[simp] theorem setWord64_undo (s : State) (a v : Nat) : (setWord64 s a v).undo = s.undo := rfl
@[simp] theorem setWord64_versions (s : State) (a v : Nat) : (setWord64 s a v).versions = s.versions := rfl
@[simp] theorem setWord64_shadow (s : State) (a v : Nat) : (setWord64 s a v).shadow = s.shadow := rfl
@[simp] theorem setWord64_commits (s : State) (a v : Nat) : (setWord64 s a v).commits = s.commits := rfl
@[simp] theorem setWord64_latch (s : State) (a v : Nat) : (setWord64 s a v).latch = s.latch := rfl
@[simp] theorem setWord64_reply (s : State) (a v : Nat) : (setWord64 s a v).reply = s.reply := rfl
@[simp] theorem setWord64_mem (s : State) (a v : Nat) : (setWord64 s a v).mem = s.mem := rfl
@[simp] theorem setWord64_frames (s : State) (a v : Nat) : (setWord64 s a v).frames = s.frames := rfl
@[simp] theorem setWord64_nextFrame (s : State) (a v : Nat) : (setWord64 s a v).nextFrame = s.nextFrame := rfl
@[simp] theorem setWord64_admissions (s : State) (a v : Nat) : (setWord64 s a v).admissions = s.admissions := rfl
@[simp] theorem setWord64_threads (s : State) (a v : Nat) : (setWord64 s a v).threads = s.threads := rfl
@[simp] theorem setWord64_cores (s : State) (a v : Nat) : (setWord64 s a v).cores = s.cores := rfl
@[simp] theorem setWord64_clusters (s : State) (a v : Nat) : (setWord64 s a v).clusters = s.clusters := rfl
@[simp] theorem setWord64_locks (s : State) (a v : Nat) : (setWord64 s a v).locks = s.locks := rfl
@[simp] theorem setWord64_chans (s : State) (a v : Nat) : (setWord64 s a v).chans = s.chans := rfl
@[simp] theorem setWord64_due (s : State) (a v : Nat) : (setWord64 s a v).due = s.due := rfl
@[simp] theorem setWord64_classes (s : State) (a v : Nat) : (setWord64 s a v).classes = s.classes := rfl
@[simp] theorem setWord64_sliceOf (s : State) (a v : Nat) : (setWord64 s a v).sliceOf = s.sliceOf := rfl
@[simp] theorem setWord64_taken (s : State) (a v : Nat) : (setWord64 s a v).taken = s.taken := rfl
@[simp] theorem setWord64_jobs (s : State) (a v : Nat) : (setWord64 s a v).jobs = s.jobs := rfl
@[simp] theorem setWord64_ruleSets (s : State) (a v : Nat) : (setWord64 s a v).ruleSets = s.ruleSets := rfl
@[simp] theorem setWord64_entries (s : State) (a v : Nat) : (setWord64 s a v).entries = s.entries := rfl
@[simp] theorem setWord64_changes (s : State) (a v : Nat) : (setWord64 s a v).changes = s.changes := rfl
@[simp] theorem setWord64_learns (s : State) (a v : Nat) : (setWord64 s a v).learns = s.learns := rfl
@[simp] theorem setWord64_learnMarks (s : State) (a v : Nat) : (setWord64 s a v).learnMarks = s.learnMarks := rfl
@[simp] theorem setWord64_overlays (s : State) (a v : Nat) : (setWord64 s a v).overlays = s.overlays := rfl
@[simp] theorem setWord64_dma (s : State) (a v : Nat) : (setWord64 s a v).dma = s.dma := rfl
@[simp] theorem setWord64_groups (s : State) (a v : Nat) : (setWord64 s a v).groups = s.groups := rfl
@[simp] theorem setWord64_conns (s : State) (a v : Nat) : (setWord64 s a v).conns = s.conns := rfl
@[simp] theorem setWord64_targets (s : State) (a v : Nat) : (setWord64 s a v).targets = s.targets := rfl
@[simp] theorem setWord64_ctrls (s : State) (a v : Nat) : (setWord64 s a v).ctrls = s.ctrls := rfl
@[simp] theorem setWord64_notices (s : State) (a v : Nat) : (setWord64 s a v).notices = s.notices := rfl
@[simp] theorem setWord64_recorder (s : State) (a v : Nat) : (setWord64 s a v).recorder = s.recorder := rfl
@[simp] theorem setWord64_mailboxes (s : State) (a v : Nat) : (setWord64 s a v).mailboxes = s.mailboxes := rfl
@[simp] theorem setWord64_endpoints (s : State) (a v : Nat) : (setWord64 s a v).endpoints = s.endpoints := rfl
@[simp] theorem setWord64_functions (s : State) (a v : Nat) : (setWord64 s a v).functions = s.functions := rfl
@[simp] theorem setWord64_rings (s : State) (a v : Nat) : (setWord64 s a v).rings = s.rings := rfl
@[simp] theorem setWord64_cplDue (s : State) (a v : Nat) : (setWord64 s a v).cplDue = s.cplDue := rfl
@[simp] theorem setWord64_signals (s : State) (a v : Nat) : (setWord64 s a v).signals = s.signals := rfl
@[simp] theorem setWord64_peerSlots (s : State) (a v : Nat) : (setWord64 s a v).peerSlots = s.peerSlots := rfl
@[simp] theorem setWord64_delivered (s : State) (a v : Nat) : (setWord64 s a v).delivered = s.delivered := rfl
@[simp] theorem setWord64_ledger (s : State) (a v : Nat) : (setWord64 s a v).ledger = s.ledger := rfl
@[simp] theorem setWord64_ports (s : State) (a v : Nat) : (setWord64 s a v).ports = s.ports := rfl
@[simp] theorem setWord64_nodes (s : State) (a v : Nat) : (setWord64 s a v).nodes = s.nodes := rfl
@[simp] theorem setWord64_cellsDue (s : State) (a v : Nat) : (setWord64 s a v).cellsDue = s.cellsDue := rfl
@[simp] theorem setWord64_buckets (s : State) (a v : Nat) : (setWord64 s a v).buckets = s.buckets := rfl
@[simp] theorem setWord64_buckets2 (s : State) (a v : Nat) : (setWord64 s a v).buckets2 = s.buckets2 := rfl
@[simp] theorem setWord64_drops (s : State) (a v : Nat) : (setWord64 s a v).drops = s.drops := rfl
@[simp] theorem setWord64_sas (s : State) (a v : Nat) : (setWord64 s a v).sas = s.sas := rfl
@[simp] theorem setWord64_errors (s : State) (a v : Nat) : (setWord64 s a v).errors = s.errors := rfl
@[simp] theorem setWord64_handover (s : State) (a v : Nat) : (setWord64 s a v).handover = s.handover := rfl
@[simp] theorem setWord64_boot (s : State) (a v : Nat) : (setWord64 s a v).boot = s.boot := rfl
@[simp] theorem setWord64_spdm (s : State) (a v : Nat) : (setWord64 s a v).spdm = s.spdm := rfl
@[simp] theorem setWord64_ncsi (s : State) (a v : Nat) : (setWord64 s a v).ncsi = s.ncsi := rfl
@[simp] theorem setWord64_mgmt (s : State) (a v : Nat) : (setWord64 s a v).mgmt = s.mgmt := rfl
@[simp] theorem setWord64_freeReads (s : State) (a v : Nat) : (setWord64 s a v).freeReads = s.freeReads := rfl
@[simp] theorem setWord64_draws (s : State) (a v : Nat) : (setWord64 s a v).draws = s.draws := rfl
@[simp] theorem setWord64_pending (s : State) (a v : Nat) : (setWord64 s a v).pending = s.pending := rfl

/-! ### writeByte -/

@[simp] theorem writeByte_power (s : State) (a : Nat) (b : Byte) : (writeByte s a b).power = s.power := rfl
@[simp] theorem writeByte_tick (s : State) (a : Nat) (b : Byte) : (writeByte s a b).tick = s.tick := rfl
@[simp] theorem writeByte_tbs (s : State) (a : Nat) (b : Byte) : (writeByte s a b).tbs = s.tbs := rfl
@[simp] theorem writeByte_words (s : State) (a : Nat) (b : Byte) : (writeByte s a b).words = s.words := rfl
@[simp] theorem writeByte_boundary (s : State) (a : Nat) (b : Byte) : (writeByte s a b).boundary = s.boundary := rfl
@[simp] theorem writeByte_undo (s : State) (a : Nat) (b : Byte) : (writeByte s a b).undo = s.undo := rfl
@[simp] theorem writeByte_versions (s : State) (a : Nat) (b : Byte) : (writeByte s a b).versions = s.versions := rfl
@[simp] theorem writeByte_shadow (s : State) (a : Nat) (b : Byte) : (writeByte s a b).shadow = s.shadow := rfl
@[simp] theorem writeByte_commits (s : State) (a : Nat) (b : Byte) : (writeByte s a b).commits = s.commits := rfl
@[simp] theorem writeByte_latch (s : State) (a : Nat) (b : Byte) : (writeByte s a b).latch = s.latch := rfl
@[simp] theorem writeByte_reply (s : State) (a : Nat) (b : Byte) : (writeByte s a b).reply = s.reply := rfl
@[simp] theorem writeByte_frames (s : State) (a : Nat) (b : Byte) : (writeByte s a b).frames = s.frames := rfl
@[simp] theorem writeByte_nextFrame (s : State) (a : Nat) (b : Byte) : (writeByte s a b).nextFrame = s.nextFrame := rfl
@[simp] theorem writeByte_admissions (s : State) (a : Nat) (b : Byte) : (writeByte s a b).admissions = s.admissions := rfl
@[simp] theorem writeByte_threads (s : State) (a : Nat) (b : Byte) : (writeByte s a b).threads = s.threads := rfl
@[simp] theorem writeByte_cores (s : State) (a : Nat) (b : Byte) : (writeByte s a b).cores = s.cores := rfl
@[simp] theorem writeByte_clusters (s : State) (a : Nat) (b : Byte) : (writeByte s a b).clusters = s.clusters := rfl
@[simp] theorem writeByte_locks (s : State) (a : Nat) (b : Byte) : (writeByte s a b).locks = s.locks := rfl
@[simp] theorem writeByte_chans (s : State) (a : Nat) (b : Byte) : (writeByte s a b).chans = s.chans := rfl
@[simp] theorem writeByte_due (s : State) (a : Nat) (b : Byte) : (writeByte s a b).due = s.due := rfl
@[simp] theorem writeByte_classes (s : State) (a : Nat) (b : Byte) : (writeByte s a b).classes = s.classes := rfl
@[simp] theorem writeByte_sliceOf (s : State) (a : Nat) (b : Byte) : (writeByte s a b).sliceOf = s.sliceOf := rfl
@[simp] theorem writeByte_taken (s : State) (a : Nat) (b : Byte) : (writeByte s a b).taken = s.taken := rfl
@[simp] theorem writeByte_jobs (s : State) (a : Nat) (b : Byte) : (writeByte s a b).jobs = s.jobs := rfl
@[simp] theorem writeByte_ruleSets (s : State) (a : Nat) (b : Byte) : (writeByte s a b).ruleSets = s.ruleSets := rfl
@[simp] theorem writeByte_entries (s : State) (a : Nat) (b : Byte) : (writeByte s a b).entries = s.entries := rfl
@[simp] theorem writeByte_changes (s : State) (a : Nat) (b : Byte) : (writeByte s a b).changes = s.changes := rfl
@[simp] theorem writeByte_learns (s : State) (a : Nat) (b : Byte) : (writeByte s a b).learns = s.learns := rfl
@[simp] theorem writeByte_learnMarks (s : State) (a : Nat) (b : Byte) : (writeByte s a b).learnMarks = s.learnMarks := rfl
@[simp] theorem writeByte_overlays (s : State) (a : Nat) (b : Byte) : (writeByte s a b).overlays = s.overlays := rfl
@[simp] theorem writeByte_dma (s : State) (a : Nat) (b : Byte) : (writeByte s a b).dma = s.dma := rfl
@[simp] theorem writeByte_groups (s : State) (a : Nat) (b : Byte) : (writeByte s a b).groups = s.groups := rfl
@[simp] theorem writeByte_conns (s : State) (a : Nat) (b : Byte) : (writeByte s a b).conns = s.conns := rfl
@[simp] theorem writeByte_targets (s : State) (a : Nat) (b : Byte) : (writeByte s a b).targets = s.targets := rfl
@[simp] theorem writeByte_ctrls (s : State) (a : Nat) (b : Byte) : (writeByte s a b).ctrls = s.ctrls := rfl
@[simp] theorem writeByte_notices (s : State) (a : Nat) (b : Byte) : (writeByte s a b).notices = s.notices := rfl
@[simp] theorem writeByte_recorder (s : State) (a : Nat) (b : Byte) : (writeByte s a b).recorder = s.recorder := rfl
@[simp] theorem writeByte_mailboxes (s : State) (a : Nat) (b : Byte) : (writeByte s a b).mailboxes = s.mailboxes := rfl
@[simp] theorem writeByte_endpoints (s : State) (a : Nat) (b : Byte) : (writeByte s a b).endpoints = s.endpoints := rfl
@[simp] theorem writeByte_functions (s : State) (a : Nat) (b : Byte) : (writeByte s a b).functions = s.functions := rfl
@[simp] theorem writeByte_rings (s : State) (a : Nat) (b : Byte) : (writeByte s a b).rings = s.rings := rfl
@[simp] theorem writeByte_cplDue (s : State) (a : Nat) (b : Byte) : (writeByte s a b).cplDue = s.cplDue := rfl
@[simp] theorem writeByte_signals (s : State) (a : Nat) (b : Byte) : (writeByte s a b).signals = s.signals := rfl
@[simp] theorem writeByte_peerSlots (s : State) (a : Nat) (b : Byte) : (writeByte s a b).peerSlots = s.peerSlots := rfl
@[simp] theorem writeByte_delivered (s : State) (a : Nat) (b : Byte) : (writeByte s a b).delivered = s.delivered := rfl
@[simp] theorem writeByte_ledger (s : State) (a : Nat) (b : Byte) : (writeByte s a b).ledger = s.ledger := rfl
@[simp] theorem writeByte_ports (s : State) (a : Nat) (b : Byte) : (writeByte s a b).ports = s.ports := rfl
@[simp] theorem writeByte_nodes (s : State) (a : Nat) (b : Byte) : (writeByte s a b).nodes = s.nodes := rfl
@[simp] theorem writeByte_cellsDue (s : State) (a : Nat) (b : Byte) : (writeByte s a b).cellsDue = s.cellsDue := rfl
@[simp] theorem writeByte_buckets (s : State) (a : Nat) (b : Byte) : (writeByte s a b).buckets = s.buckets := rfl
@[simp] theorem writeByte_buckets2 (s : State) (a : Nat) (b : Byte) : (writeByte s a b).buckets2 = s.buckets2 := rfl
@[simp] theorem writeByte_drops (s : State) (a : Nat) (b : Byte) : (writeByte s a b).drops = s.drops := rfl
@[simp] theorem writeByte_sas (s : State) (a : Nat) (b : Byte) : (writeByte s a b).sas = s.sas := rfl
@[simp] theorem writeByte_errors (s : State) (a : Nat) (b : Byte) : (writeByte s a b).errors = s.errors := rfl
@[simp] theorem writeByte_handover (s : State) (a : Nat) (b : Byte) : (writeByte s a b).handover = s.handover := rfl
@[simp] theorem writeByte_boot (s : State) (a : Nat) (b : Byte) : (writeByte s a b).boot = s.boot := rfl
@[simp] theorem writeByte_spdm (s : State) (a : Nat) (b : Byte) : (writeByte s a b).spdm = s.spdm := rfl
@[simp] theorem writeByte_ncsi (s : State) (a : Nat) (b : Byte) : (writeByte s a b).ncsi = s.ncsi := rfl
@[simp] theorem writeByte_mgmt (s : State) (a : Nat) (b : Byte) : (writeByte s a b).mgmt = s.mgmt := rfl
@[simp] theorem writeByte_freeReads (s : State) (a : Nat) (b : Byte) : (writeByte s a b).freeReads = s.freeReads := rfl
@[simp] theorem writeByte_draws (s : State) (a : Nat) (b : Byte) : (writeByte s a b).draws = s.draws := rfl
@[simp] theorem writeByte_pending (s : State) (a : Nat) (b : Byte) : (writeByte s a b).pending = s.pending := rfl

/-! ### putFrame -/

@[simp] theorem putFrame_power (s : State) (f : Frame) : (putFrame s f).power = s.power := rfl
@[simp] theorem putFrame_tick (s : State) (f : Frame) : (putFrame s f).tick = s.tick := rfl
@[simp] theorem putFrame_tbs (s : State) (f : Frame) : (putFrame s f).tbs = s.tbs := rfl
@[simp] theorem putFrame_words (s : State) (f : Frame) : (putFrame s f).words = s.words := rfl
@[simp] theorem putFrame_boundary (s : State) (f : Frame) : (putFrame s f).boundary = s.boundary := rfl
@[simp] theorem putFrame_undo (s : State) (f : Frame) : (putFrame s f).undo = s.undo := rfl
@[simp] theorem putFrame_versions (s : State) (f : Frame) : (putFrame s f).versions = s.versions := rfl
@[simp] theorem putFrame_shadow (s : State) (f : Frame) : (putFrame s f).shadow = s.shadow := rfl
@[simp] theorem putFrame_commits (s : State) (f : Frame) : (putFrame s f).commits = s.commits := rfl
@[simp] theorem putFrame_latch (s : State) (f : Frame) : (putFrame s f).latch = s.latch := rfl
@[simp] theorem putFrame_reply (s : State) (f : Frame) : (putFrame s f).reply = s.reply := rfl
@[simp] theorem putFrame_mem (s : State) (f : Frame) : (putFrame s f).mem = s.mem := rfl
@[simp] theorem putFrame_nextFrame (s : State) (f : Frame) : (putFrame s f).nextFrame = s.nextFrame := rfl
@[simp] theorem putFrame_admissions (s : State) (f : Frame) : (putFrame s f).admissions = s.admissions := rfl
@[simp] theorem putFrame_threads (s : State) (f : Frame) : (putFrame s f).threads = s.threads := rfl
@[simp] theorem putFrame_cores (s : State) (f : Frame) : (putFrame s f).cores = s.cores := rfl
@[simp] theorem putFrame_clusters (s : State) (f : Frame) : (putFrame s f).clusters = s.clusters := rfl
@[simp] theorem putFrame_locks (s : State) (f : Frame) : (putFrame s f).locks = s.locks := rfl
@[simp] theorem putFrame_chans (s : State) (f : Frame) : (putFrame s f).chans = s.chans := rfl
@[simp] theorem putFrame_due (s : State) (f : Frame) : (putFrame s f).due = s.due := rfl
@[simp] theorem putFrame_classes (s : State) (f : Frame) : (putFrame s f).classes = s.classes := rfl
@[simp] theorem putFrame_sliceOf (s : State) (f : Frame) : (putFrame s f).sliceOf = s.sliceOf := rfl
@[simp] theorem putFrame_taken (s : State) (f : Frame) : (putFrame s f).taken = s.taken := rfl
@[simp] theorem putFrame_jobs (s : State) (f : Frame) : (putFrame s f).jobs = s.jobs := rfl
@[simp] theorem putFrame_ruleSets (s : State) (f : Frame) : (putFrame s f).ruleSets = s.ruleSets := rfl
@[simp] theorem putFrame_entries (s : State) (f : Frame) : (putFrame s f).entries = s.entries := rfl
@[simp] theorem putFrame_changes (s : State) (f : Frame) : (putFrame s f).changes = s.changes := rfl
@[simp] theorem putFrame_learns (s : State) (f : Frame) : (putFrame s f).learns = s.learns := rfl
@[simp] theorem putFrame_learnMarks (s : State) (f : Frame) : (putFrame s f).learnMarks = s.learnMarks := rfl
@[simp] theorem putFrame_overlays (s : State) (f : Frame) : (putFrame s f).overlays = s.overlays := rfl
@[simp] theorem putFrame_dma (s : State) (f : Frame) : (putFrame s f).dma = s.dma := rfl
@[simp] theorem putFrame_groups (s : State) (f : Frame) : (putFrame s f).groups = s.groups := rfl
@[simp] theorem putFrame_conns (s : State) (f : Frame) : (putFrame s f).conns = s.conns := rfl
@[simp] theorem putFrame_targets (s : State) (f : Frame) : (putFrame s f).targets = s.targets := rfl
@[simp] theorem putFrame_ctrls (s : State) (f : Frame) : (putFrame s f).ctrls = s.ctrls := rfl
@[simp] theorem putFrame_notices (s : State) (f : Frame) : (putFrame s f).notices = s.notices := rfl
@[simp] theorem putFrame_recorder (s : State) (f : Frame) : (putFrame s f).recorder = s.recorder := rfl
@[simp] theorem putFrame_mailboxes (s : State) (f : Frame) : (putFrame s f).mailboxes = s.mailboxes := rfl
@[simp] theorem putFrame_endpoints (s : State) (f : Frame) : (putFrame s f).endpoints = s.endpoints := rfl
@[simp] theorem putFrame_functions (s : State) (f : Frame) : (putFrame s f).functions = s.functions := rfl
@[simp] theorem putFrame_rings (s : State) (f : Frame) : (putFrame s f).rings = s.rings := rfl
@[simp] theorem putFrame_cplDue (s : State) (f : Frame) : (putFrame s f).cplDue = s.cplDue := rfl
@[simp] theorem putFrame_signals (s : State) (f : Frame) : (putFrame s f).signals = s.signals := rfl
@[simp] theorem putFrame_peerSlots (s : State) (f : Frame) : (putFrame s f).peerSlots = s.peerSlots := rfl
@[simp] theorem putFrame_delivered (s : State) (f : Frame) : (putFrame s f).delivered = s.delivered := rfl
@[simp] theorem putFrame_ledger (s : State) (f : Frame) : (putFrame s f).ledger = s.ledger := rfl
@[simp] theorem putFrame_ports (s : State) (f : Frame) : (putFrame s f).ports = s.ports := rfl
@[simp] theorem putFrame_nodes (s : State) (f : Frame) : (putFrame s f).nodes = s.nodes := rfl
@[simp] theorem putFrame_cellsDue (s : State) (f : Frame) : (putFrame s f).cellsDue = s.cellsDue := rfl
@[simp] theorem putFrame_buckets (s : State) (f : Frame) : (putFrame s f).buckets = s.buckets := rfl
@[simp] theorem putFrame_buckets2 (s : State) (f : Frame) : (putFrame s f).buckets2 = s.buckets2 := rfl
@[simp] theorem putFrame_drops (s : State) (f : Frame) : (putFrame s f).drops = s.drops := rfl
@[simp] theorem putFrame_sas (s : State) (f : Frame) : (putFrame s f).sas = s.sas := rfl
@[simp] theorem putFrame_errors (s : State) (f : Frame) : (putFrame s f).errors = s.errors := rfl
@[simp] theorem putFrame_handover (s : State) (f : Frame) : (putFrame s f).handover = s.handover := rfl
@[simp] theorem putFrame_boot (s : State) (f : Frame) : (putFrame s f).boot = s.boot := rfl
@[simp] theorem putFrame_spdm (s : State) (f : Frame) : (putFrame s f).spdm = s.spdm := rfl
@[simp] theorem putFrame_ncsi (s : State) (f : Frame) : (putFrame s f).ncsi = s.ncsi := rfl
@[simp] theorem putFrame_mgmt (s : State) (f : Frame) : (putFrame s f).mgmt = s.mgmt := rfl
@[simp] theorem putFrame_freeReads (s : State) (f : Frame) : (putFrame s f).freeReads = s.freeReads := rfl
@[simp] theorem putFrame_draws (s : State) (f : Frame) : (putFrame s f).draws = s.draws := rfl
@[simp] theorem putFrame_pending (s : State) (f : Frame) : (putFrame s f).pending = s.pending := rfl

/-! ### dropFrameRec -/

@[simp] theorem dropFrameRec_power (s : State) (f : Nat) : (dropFrameRec s f).power = s.power := rfl
@[simp] theorem dropFrameRec_tick (s : State) (f : Nat) : (dropFrameRec s f).tick = s.tick := rfl
@[simp] theorem dropFrameRec_tbs (s : State) (f : Nat) : (dropFrameRec s f).tbs = s.tbs := rfl
@[simp] theorem dropFrameRec_words (s : State) (f : Nat) : (dropFrameRec s f).words = s.words := rfl
@[simp] theorem dropFrameRec_boundary (s : State) (f : Nat) : (dropFrameRec s f).boundary = s.boundary := rfl
@[simp] theorem dropFrameRec_undo (s : State) (f : Nat) : (dropFrameRec s f).undo = s.undo := rfl
@[simp] theorem dropFrameRec_versions (s : State) (f : Nat) : (dropFrameRec s f).versions = s.versions := rfl
@[simp] theorem dropFrameRec_shadow (s : State) (f : Nat) : (dropFrameRec s f).shadow = s.shadow := rfl
@[simp] theorem dropFrameRec_commits (s : State) (f : Nat) : (dropFrameRec s f).commits = s.commits := rfl
@[simp] theorem dropFrameRec_latch (s : State) (f : Nat) : (dropFrameRec s f).latch = s.latch := rfl
@[simp] theorem dropFrameRec_reply (s : State) (f : Nat) : (dropFrameRec s f).reply = s.reply := rfl
@[simp] theorem dropFrameRec_mem (s : State) (f : Nat) : (dropFrameRec s f).mem = s.mem := rfl
@[simp] theorem dropFrameRec_nextFrame (s : State) (f : Nat) : (dropFrameRec s f).nextFrame = s.nextFrame := rfl
@[simp] theorem dropFrameRec_admissions (s : State) (f : Nat) : (dropFrameRec s f).admissions = s.admissions := rfl
@[simp] theorem dropFrameRec_threads (s : State) (f : Nat) : (dropFrameRec s f).threads = s.threads := rfl
@[simp] theorem dropFrameRec_cores (s : State) (f : Nat) : (dropFrameRec s f).cores = s.cores := rfl
@[simp] theorem dropFrameRec_clusters (s : State) (f : Nat) : (dropFrameRec s f).clusters = s.clusters := rfl
@[simp] theorem dropFrameRec_locks (s : State) (f : Nat) : (dropFrameRec s f).locks = s.locks := rfl
@[simp] theorem dropFrameRec_chans (s : State) (f : Nat) : (dropFrameRec s f).chans = s.chans := rfl
@[simp] theorem dropFrameRec_due (s : State) (f : Nat) : (dropFrameRec s f).due = s.due := rfl
@[simp] theorem dropFrameRec_classes (s : State) (f : Nat) : (dropFrameRec s f).classes = s.classes := rfl
@[simp] theorem dropFrameRec_sliceOf (s : State) (f : Nat) : (dropFrameRec s f).sliceOf = s.sliceOf := rfl
@[simp] theorem dropFrameRec_taken (s : State) (f : Nat) : (dropFrameRec s f).taken = s.taken := rfl
@[simp] theorem dropFrameRec_jobs (s : State) (f : Nat) : (dropFrameRec s f).jobs = s.jobs := rfl
@[simp] theorem dropFrameRec_ruleSets (s : State) (f : Nat) : (dropFrameRec s f).ruleSets = s.ruleSets := rfl
@[simp] theorem dropFrameRec_entries (s : State) (f : Nat) : (dropFrameRec s f).entries = s.entries := rfl
@[simp] theorem dropFrameRec_changes (s : State) (f : Nat) : (dropFrameRec s f).changes = s.changes := rfl
@[simp] theorem dropFrameRec_learns (s : State) (f : Nat) : (dropFrameRec s f).learns = s.learns := rfl
@[simp] theorem dropFrameRec_learnMarks (s : State) (f : Nat) : (dropFrameRec s f).learnMarks = s.learnMarks := rfl
@[simp] theorem dropFrameRec_overlays (s : State) (f : Nat) : (dropFrameRec s f).overlays = s.overlays := rfl
@[simp] theorem dropFrameRec_dma (s : State) (f : Nat) : (dropFrameRec s f).dma = s.dma := rfl
@[simp] theorem dropFrameRec_groups (s : State) (f : Nat) : (dropFrameRec s f).groups = s.groups := rfl
@[simp] theorem dropFrameRec_conns (s : State) (f : Nat) : (dropFrameRec s f).conns = s.conns := rfl
@[simp] theorem dropFrameRec_targets (s : State) (f : Nat) : (dropFrameRec s f).targets = s.targets := rfl
@[simp] theorem dropFrameRec_ctrls (s : State) (f : Nat) : (dropFrameRec s f).ctrls = s.ctrls := rfl
@[simp] theorem dropFrameRec_notices (s : State) (f : Nat) : (dropFrameRec s f).notices = s.notices := rfl
@[simp] theorem dropFrameRec_recorder (s : State) (f : Nat) : (dropFrameRec s f).recorder = s.recorder := rfl
@[simp] theorem dropFrameRec_mailboxes (s : State) (f : Nat) : (dropFrameRec s f).mailboxes = s.mailboxes := rfl
@[simp] theorem dropFrameRec_endpoints (s : State) (f : Nat) : (dropFrameRec s f).endpoints = s.endpoints := rfl
@[simp] theorem dropFrameRec_functions (s : State) (f : Nat) : (dropFrameRec s f).functions = s.functions := rfl
@[simp] theorem dropFrameRec_rings (s : State) (f : Nat) : (dropFrameRec s f).rings = s.rings := rfl
@[simp] theorem dropFrameRec_cplDue (s : State) (f : Nat) : (dropFrameRec s f).cplDue = s.cplDue := rfl
@[simp] theorem dropFrameRec_signals (s : State) (f : Nat) : (dropFrameRec s f).signals = s.signals := rfl
@[simp] theorem dropFrameRec_peerSlots (s : State) (f : Nat) : (dropFrameRec s f).peerSlots = s.peerSlots := rfl
@[simp] theorem dropFrameRec_delivered (s : State) (f : Nat) : (dropFrameRec s f).delivered = s.delivered := rfl
@[simp] theorem dropFrameRec_ledger (s : State) (f : Nat) : (dropFrameRec s f).ledger = s.ledger := rfl
@[simp] theorem dropFrameRec_ports (s : State) (f : Nat) : (dropFrameRec s f).ports = s.ports := rfl
@[simp] theorem dropFrameRec_nodes (s : State) (f : Nat) : (dropFrameRec s f).nodes = s.nodes := rfl
@[simp] theorem dropFrameRec_cellsDue (s : State) (f : Nat) : (dropFrameRec s f).cellsDue = s.cellsDue := rfl
@[simp] theorem dropFrameRec_buckets (s : State) (f : Nat) : (dropFrameRec s f).buckets = s.buckets := rfl
@[simp] theorem dropFrameRec_buckets2 (s : State) (f : Nat) : (dropFrameRec s f).buckets2 = s.buckets2 := rfl
@[simp] theorem dropFrameRec_drops (s : State) (f : Nat) : (dropFrameRec s f).drops = s.drops := rfl
@[simp] theorem dropFrameRec_sas (s : State) (f : Nat) : (dropFrameRec s f).sas = s.sas := rfl
@[simp] theorem dropFrameRec_errors (s : State) (f : Nat) : (dropFrameRec s f).errors = s.errors := rfl
@[simp] theorem dropFrameRec_handover (s : State) (f : Nat) : (dropFrameRec s f).handover = s.handover := rfl
@[simp] theorem dropFrameRec_boot (s : State) (f : Nat) : (dropFrameRec s f).boot = s.boot := rfl
@[simp] theorem dropFrameRec_spdm (s : State) (f : Nat) : (dropFrameRec s f).spdm = s.spdm := rfl
@[simp] theorem dropFrameRec_ncsi (s : State) (f : Nat) : (dropFrameRec s f).ncsi = s.ncsi := rfl
@[simp] theorem dropFrameRec_mgmt (s : State) (f : Nat) : (dropFrameRec s f).mgmt = s.mgmt := rfl
@[simp] theorem dropFrameRec_freeReads (s : State) (f : Nat) : (dropFrameRec s f).freeReads = s.freeReads := rfl
@[simp] theorem dropFrameRec_draws (s : State) (f : Nat) : (dropFrameRec s f).draws = s.draws := rfl
@[simp] theorem dropFrameRec_pending (s : State) (f : Nat) : (dropFrameRec s f).pending = s.pending := rfl

/-! ### newFrame -/

@[simp] theorem newFrame_power (s : State) (f : Frame) : (newFrame s f).power = s.power := rfl
@[simp] theorem newFrame_tick (s : State) (f : Frame) : (newFrame s f).tick = s.tick := rfl
@[simp] theorem newFrame_tbs (s : State) (f : Frame) : (newFrame s f).tbs = s.tbs := rfl
@[simp] theorem newFrame_words (s : State) (f : Frame) : (newFrame s f).words = s.words := rfl
@[simp] theorem newFrame_boundary (s : State) (f : Frame) : (newFrame s f).boundary = s.boundary := rfl
@[simp] theorem newFrame_undo (s : State) (f : Frame) : (newFrame s f).undo = s.undo := rfl
@[simp] theorem newFrame_versions (s : State) (f : Frame) : (newFrame s f).versions = s.versions := rfl
@[simp] theorem newFrame_shadow (s : State) (f : Frame) : (newFrame s f).shadow = s.shadow := rfl
@[simp] theorem newFrame_commits (s : State) (f : Frame) : (newFrame s f).commits = s.commits := rfl
@[simp] theorem newFrame_latch (s : State) (f : Frame) : (newFrame s f).latch = s.latch := rfl
@[simp] theorem newFrame_reply (s : State) (f : Frame) : (newFrame s f).reply = s.reply := rfl
@[simp] theorem newFrame_mem (s : State) (f : Frame) : (newFrame s f).mem = s.mem := rfl
@[simp] theorem newFrame_admissions (s : State) (f : Frame) : (newFrame s f).admissions = s.admissions := rfl
@[simp] theorem newFrame_threads (s : State) (f : Frame) : (newFrame s f).threads = s.threads := rfl
@[simp] theorem newFrame_cores (s : State) (f : Frame) : (newFrame s f).cores = s.cores := rfl
@[simp] theorem newFrame_clusters (s : State) (f : Frame) : (newFrame s f).clusters = s.clusters := rfl
@[simp] theorem newFrame_locks (s : State) (f : Frame) : (newFrame s f).locks = s.locks := rfl
@[simp] theorem newFrame_chans (s : State) (f : Frame) : (newFrame s f).chans = s.chans := rfl
@[simp] theorem newFrame_due (s : State) (f : Frame) : (newFrame s f).due = s.due := rfl
@[simp] theorem newFrame_classes (s : State) (f : Frame) : (newFrame s f).classes = s.classes := rfl
@[simp] theorem newFrame_sliceOf (s : State) (f : Frame) : (newFrame s f).sliceOf = s.sliceOf := rfl
@[simp] theorem newFrame_taken (s : State) (f : Frame) : (newFrame s f).taken = s.taken := rfl
@[simp] theorem newFrame_jobs (s : State) (f : Frame) : (newFrame s f).jobs = s.jobs := rfl
@[simp] theorem newFrame_ruleSets (s : State) (f : Frame) : (newFrame s f).ruleSets = s.ruleSets := rfl
@[simp] theorem newFrame_entries (s : State) (f : Frame) : (newFrame s f).entries = s.entries := rfl
@[simp] theorem newFrame_changes (s : State) (f : Frame) : (newFrame s f).changes = s.changes := rfl
@[simp] theorem newFrame_learns (s : State) (f : Frame) : (newFrame s f).learns = s.learns := rfl
@[simp] theorem newFrame_learnMarks (s : State) (f : Frame) : (newFrame s f).learnMarks = s.learnMarks := rfl
@[simp] theorem newFrame_overlays (s : State) (f : Frame) : (newFrame s f).overlays = s.overlays := rfl
@[simp] theorem newFrame_dma (s : State) (f : Frame) : (newFrame s f).dma = s.dma := rfl
@[simp] theorem newFrame_groups (s : State) (f : Frame) : (newFrame s f).groups = s.groups := rfl
@[simp] theorem newFrame_conns (s : State) (f : Frame) : (newFrame s f).conns = s.conns := rfl
@[simp] theorem newFrame_targets (s : State) (f : Frame) : (newFrame s f).targets = s.targets := rfl
@[simp] theorem newFrame_ctrls (s : State) (f : Frame) : (newFrame s f).ctrls = s.ctrls := rfl
@[simp] theorem newFrame_notices (s : State) (f : Frame) : (newFrame s f).notices = s.notices := rfl
@[simp] theorem newFrame_recorder (s : State) (f : Frame) : (newFrame s f).recorder = s.recorder := rfl
@[simp] theorem newFrame_mailboxes (s : State) (f : Frame) : (newFrame s f).mailboxes = s.mailboxes := rfl
@[simp] theorem newFrame_endpoints (s : State) (f : Frame) : (newFrame s f).endpoints = s.endpoints := rfl
@[simp] theorem newFrame_functions (s : State) (f : Frame) : (newFrame s f).functions = s.functions := rfl
@[simp] theorem newFrame_rings (s : State) (f : Frame) : (newFrame s f).rings = s.rings := rfl
@[simp] theorem newFrame_cplDue (s : State) (f : Frame) : (newFrame s f).cplDue = s.cplDue := rfl
@[simp] theorem newFrame_signals (s : State) (f : Frame) : (newFrame s f).signals = s.signals := rfl
@[simp] theorem newFrame_peerSlots (s : State) (f : Frame) : (newFrame s f).peerSlots = s.peerSlots := rfl
@[simp] theorem newFrame_delivered (s : State) (f : Frame) : (newFrame s f).delivered = s.delivered := rfl
@[simp] theorem newFrame_ledger (s : State) (f : Frame) : (newFrame s f).ledger = s.ledger := rfl
@[simp] theorem newFrame_ports (s : State) (f : Frame) : (newFrame s f).ports = s.ports := rfl
@[simp] theorem newFrame_nodes (s : State) (f : Frame) : (newFrame s f).nodes = s.nodes := rfl
@[simp] theorem newFrame_cellsDue (s : State) (f : Frame) : (newFrame s f).cellsDue = s.cellsDue := rfl
@[simp] theorem newFrame_buckets (s : State) (f : Frame) : (newFrame s f).buckets = s.buckets := rfl
@[simp] theorem newFrame_buckets2 (s : State) (f : Frame) : (newFrame s f).buckets2 = s.buckets2 := rfl
@[simp] theorem newFrame_drops (s : State) (f : Frame) : (newFrame s f).drops = s.drops := rfl
@[simp] theorem newFrame_sas (s : State) (f : Frame) : (newFrame s f).sas = s.sas := rfl
@[simp] theorem newFrame_errors (s : State) (f : Frame) : (newFrame s f).errors = s.errors := rfl
@[simp] theorem newFrame_handover (s : State) (f : Frame) : (newFrame s f).handover = s.handover := rfl
@[simp] theorem newFrame_boot (s : State) (f : Frame) : (newFrame s f).boot = s.boot := rfl
@[simp] theorem newFrame_spdm (s : State) (f : Frame) : (newFrame s f).spdm = s.spdm := rfl
@[simp] theorem newFrame_ncsi (s : State) (f : Frame) : (newFrame s f).ncsi = s.ncsi := rfl
@[simp] theorem newFrame_mgmt (s : State) (f : Frame) : (newFrame s f).mgmt = s.mgmt := rfl
@[simp] theorem newFrame_freeReads (s : State) (f : Frame) : (newFrame s f).freeReads = s.freeReads := rfl
@[simp] theorem newFrame_draws (s : State) (f : Frame) : (newFrame s f).draws = s.draws := rfl
@[simp] theorem newFrame_pending (s : State) (f : Frame) : (newFrame s f).pending = s.pending := rfl

/-! ### putThread -/

@[simp] theorem putThread_power (s : State) (t : Tid) (v : Thread) : (putThread s t v).power = s.power := rfl
@[simp] theorem putThread_tick (s : State) (t : Tid) (v : Thread) : (putThread s t v).tick = s.tick := rfl
@[simp] theorem putThread_tbs (s : State) (t : Tid) (v : Thread) : (putThread s t v).tbs = s.tbs := rfl
@[simp] theorem putThread_words (s : State) (t : Tid) (v : Thread) : (putThread s t v).words = s.words := rfl
@[simp] theorem putThread_boundary (s : State) (t : Tid) (v : Thread) : (putThread s t v).boundary = s.boundary := rfl
@[simp] theorem putThread_undo (s : State) (t : Tid) (v : Thread) : (putThread s t v).undo = s.undo := rfl
@[simp] theorem putThread_versions (s : State) (t : Tid) (v : Thread) : (putThread s t v).versions = s.versions := rfl
@[simp] theorem putThread_shadow (s : State) (t : Tid) (v : Thread) : (putThread s t v).shadow = s.shadow := rfl
@[simp] theorem putThread_commits (s : State) (t : Tid) (v : Thread) : (putThread s t v).commits = s.commits := rfl
@[simp] theorem putThread_latch (s : State) (t : Tid) (v : Thread) : (putThread s t v).latch = s.latch := rfl
@[simp] theorem putThread_reply (s : State) (t : Tid) (v : Thread) : (putThread s t v).reply = s.reply := rfl
@[simp] theorem putThread_mem (s : State) (t : Tid) (v : Thread) : (putThread s t v).mem = s.mem := rfl
@[simp] theorem putThread_frames (s : State) (t : Tid) (v : Thread) : (putThread s t v).frames = s.frames := rfl
@[simp] theorem putThread_nextFrame (s : State) (t : Tid) (v : Thread) : (putThread s t v).nextFrame = s.nextFrame := rfl
@[simp] theorem putThread_admissions (s : State) (t : Tid) (v : Thread) : (putThread s t v).admissions = s.admissions := rfl
@[simp] theorem putThread_cores (s : State) (t : Tid) (v : Thread) : (putThread s t v).cores = s.cores := rfl
@[simp] theorem putThread_clusters (s : State) (t : Tid) (v : Thread) : (putThread s t v).clusters = s.clusters := rfl
@[simp] theorem putThread_locks (s : State) (t : Tid) (v : Thread) : (putThread s t v).locks = s.locks := rfl
@[simp] theorem putThread_chans (s : State) (t : Tid) (v : Thread) : (putThread s t v).chans = s.chans := rfl
@[simp] theorem putThread_due (s : State) (t : Tid) (v : Thread) : (putThread s t v).due = s.due := rfl
@[simp] theorem putThread_classes (s : State) (t : Tid) (v : Thread) : (putThread s t v).classes = s.classes := rfl
@[simp] theorem putThread_sliceOf (s : State) (t : Tid) (v : Thread) : (putThread s t v).sliceOf = s.sliceOf := rfl
@[simp] theorem putThread_taken (s : State) (t : Tid) (v : Thread) : (putThread s t v).taken = s.taken := rfl
@[simp] theorem putThread_jobs (s : State) (t : Tid) (v : Thread) : (putThread s t v).jobs = s.jobs := rfl
@[simp] theorem putThread_ruleSets (s : State) (t : Tid) (v : Thread) : (putThread s t v).ruleSets = s.ruleSets := rfl
@[simp] theorem putThread_entries (s : State) (t : Tid) (v : Thread) : (putThread s t v).entries = s.entries := rfl
@[simp] theorem putThread_changes (s : State) (t : Tid) (v : Thread) : (putThread s t v).changes = s.changes := rfl
@[simp] theorem putThread_learns (s : State) (t : Tid) (v : Thread) : (putThread s t v).learns = s.learns := rfl
@[simp] theorem putThread_learnMarks (s : State) (t : Tid) (v : Thread) : (putThread s t v).learnMarks = s.learnMarks := rfl
@[simp] theorem putThread_overlays (s : State) (t : Tid) (v : Thread) : (putThread s t v).overlays = s.overlays := rfl
@[simp] theorem putThread_dma (s : State) (t : Tid) (v : Thread) : (putThread s t v).dma = s.dma := rfl
@[simp] theorem putThread_groups (s : State) (t : Tid) (v : Thread) : (putThread s t v).groups = s.groups := rfl
@[simp] theorem putThread_conns (s : State) (t : Tid) (v : Thread) : (putThread s t v).conns = s.conns := rfl
@[simp] theorem putThread_targets (s : State) (t : Tid) (v : Thread) : (putThread s t v).targets = s.targets := rfl
@[simp] theorem putThread_ctrls (s : State) (t : Tid) (v : Thread) : (putThread s t v).ctrls = s.ctrls := rfl
@[simp] theorem putThread_notices (s : State) (t : Tid) (v : Thread) : (putThread s t v).notices = s.notices := rfl
@[simp] theorem putThread_recorder (s : State) (t : Tid) (v : Thread) : (putThread s t v).recorder = s.recorder := rfl
@[simp] theorem putThread_mailboxes (s : State) (t : Tid) (v : Thread) : (putThread s t v).mailboxes = s.mailboxes := rfl
@[simp] theorem putThread_endpoints (s : State) (t : Tid) (v : Thread) : (putThread s t v).endpoints = s.endpoints := rfl
@[simp] theorem putThread_functions (s : State) (t : Tid) (v : Thread) : (putThread s t v).functions = s.functions := rfl
@[simp] theorem putThread_rings (s : State) (t : Tid) (v : Thread) : (putThread s t v).rings = s.rings := rfl
@[simp] theorem putThread_cplDue (s : State) (t : Tid) (v : Thread) : (putThread s t v).cplDue = s.cplDue := rfl
@[simp] theorem putThread_signals (s : State) (t : Tid) (v : Thread) : (putThread s t v).signals = s.signals := rfl
@[simp] theorem putThread_peerSlots (s : State) (t : Tid) (v : Thread) : (putThread s t v).peerSlots = s.peerSlots := rfl
@[simp] theorem putThread_delivered (s : State) (t : Tid) (v : Thread) : (putThread s t v).delivered = s.delivered := rfl
@[simp] theorem putThread_ledger (s : State) (t : Tid) (v : Thread) : (putThread s t v).ledger = s.ledger := rfl
@[simp] theorem putThread_ports (s : State) (t : Tid) (v : Thread) : (putThread s t v).ports = s.ports := rfl
@[simp] theorem putThread_nodes (s : State) (t : Tid) (v : Thread) : (putThread s t v).nodes = s.nodes := rfl
@[simp] theorem putThread_cellsDue (s : State) (t : Tid) (v : Thread) : (putThread s t v).cellsDue = s.cellsDue := rfl
@[simp] theorem putThread_buckets (s : State) (t : Tid) (v : Thread) : (putThread s t v).buckets = s.buckets := rfl
@[simp] theorem putThread_buckets2 (s : State) (t : Tid) (v : Thread) : (putThread s t v).buckets2 = s.buckets2 := rfl
@[simp] theorem putThread_drops (s : State) (t : Tid) (v : Thread) : (putThread s t v).drops = s.drops := rfl
@[simp] theorem putThread_sas (s : State) (t : Tid) (v : Thread) : (putThread s t v).sas = s.sas := rfl
@[simp] theorem putThread_errors (s : State) (t : Tid) (v : Thread) : (putThread s t v).errors = s.errors := rfl
@[simp] theorem putThread_handover (s : State) (t : Tid) (v : Thread) : (putThread s t v).handover = s.handover := rfl
@[simp] theorem putThread_boot (s : State) (t : Tid) (v : Thread) : (putThread s t v).boot = s.boot := rfl
@[simp] theorem putThread_spdm (s : State) (t : Tid) (v : Thread) : (putThread s t v).spdm = s.spdm := rfl
@[simp] theorem putThread_ncsi (s : State) (t : Tid) (v : Thread) : (putThread s t v).ncsi = s.ncsi := rfl
@[simp] theorem putThread_mgmt (s : State) (t : Tid) (v : Thread) : (putThread s t v).mgmt = s.mgmt := rfl
@[simp] theorem putThread_freeReads (s : State) (t : Tid) (v : Thread) : (putThread s t v).freeReads = s.freeReads := rfl
@[simp] theorem putThread_draws (s : State) (t : Tid) (v : Thread) : (putThread s t v).draws = s.draws := rfl
@[simp] theorem putThread_pending (s : State) (t : Tid) (v : Thread) : (putThread s t v).pending = s.pending := rfl

/-! ### onThread -/

@[simp] theorem onThread_power (s : State) (t : Tid) (f : Thread → Thread) : (onThread s t f).power = s.power := rfl
@[simp] theorem onThread_tick (s : State) (t : Tid) (f : Thread → Thread) : (onThread s t f).tick = s.tick := rfl
@[simp] theorem onThread_tbs (s : State) (t : Tid) (f : Thread → Thread) : (onThread s t f).tbs = s.tbs := rfl
@[simp] theorem onThread_words (s : State) (t : Tid) (f : Thread → Thread) : (onThread s t f).words = s.words := rfl
@[simp] theorem onThread_boundary (s : State) (t : Tid) (f : Thread → Thread) : (onThread s t f).boundary = s.boundary := rfl
@[simp] theorem onThread_undo (s : State) (t : Tid) (f : Thread → Thread) : (onThread s t f).undo = s.undo := rfl
@[simp] theorem onThread_versions (s : State) (t : Tid) (f : Thread → Thread) : (onThread s t f).versions = s.versions := rfl
@[simp] theorem onThread_shadow (s : State) (t : Tid) (f : Thread → Thread) : (onThread s t f).shadow = s.shadow := rfl
@[simp] theorem onThread_commits (s : State) (t : Tid) (f : Thread → Thread) : (onThread s t f).commits = s.commits := rfl
@[simp] theorem onThread_latch (s : State) (t : Tid) (f : Thread → Thread) : (onThread s t f).latch = s.latch := rfl
@[simp] theorem onThread_reply (s : State) (t : Tid) (f : Thread → Thread) : (onThread s t f).reply = s.reply := rfl
@[simp] theorem onThread_mem (s : State) (t : Tid) (f : Thread → Thread) : (onThread s t f).mem = s.mem := rfl
@[simp] theorem onThread_frames (s : State) (t : Tid) (f : Thread → Thread) : (onThread s t f).frames = s.frames := rfl
@[simp] theorem onThread_nextFrame (s : State) (t : Tid) (f : Thread → Thread) : (onThread s t f).nextFrame = s.nextFrame := rfl
@[simp] theorem onThread_admissions (s : State) (t : Tid) (f : Thread → Thread) : (onThread s t f).admissions = s.admissions := rfl
@[simp] theorem onThread_cores (s : State) (t : Tid) (f : Thread → Thread) : (onThread s t f).cores = s.cores := rfl
@[simp] theorem onThread_clusters (s : State) (t : Tid) (f : Thread → Thread) : (onThread s t f).clusters = s.clusters := rfl
@[simp] theorem onThread_locks (s : State) (t : Tid) (f : Thread → Thread) : (onThread s t f).locks = s.locks := rfl
@[simp] theorem onThread_chans (s : State) (t : Tid) (f : Thread → Thread) : (onThread s t f).chans = s.chans := rfl
@[simp] theorem onThread_due (s : State) (t : Tid) (f : Thread → Thread) : (onThread s t f).due = s.due := rfl
@[simp] theorem onThread_classes (s : State) (t : Tid) (f : Thread → Thread) : (onThread s t f).classes = s.classes := rfl
@[simp] theorem onThread_sliceOf (s : State) (t : Tid) (f : Thread → Thread) : (onThread s t f).sliceOf = s.sliceOf := rfl
@[simp] theorem onThread_taken (s : State) (t : Tid) (f : Thread → Thread) : (onThread s t f).taken = s.taken := rfl
@[simp] theorem onThread_jobs (s : State) (t : Tid) (f : Thread → Thread) : (onThread s t f).jobs = s.jobs := rfl
@[simp] theorem onThread_ruleSets (s : State) (t : Tid) (f : Thread → Thread) : (onThread s t f).ruleSets = s.ruleSets := rfl
@[simp] theorem onThread_entries (s : State) (t : Tid) (f : Thread → Thread) : (onThread s t f).entries = s.entries := rfl
@[simp] theorem onThread_changes (s : State) (t : Tid) (f : Thread → Thread) : (onThread s t f).changes = s.changes := rfl
@[simp] theorem onThread_learns (s : State) (t : Tid) (f : Thread → Thread) : (onThread s t f).learns = s.learns := rfl
@[simp] theorem onThread_learnMarks (s : State) (t : Tid) (f : Thread → Thread) : (onThread s t f).learnMarks = s.learnMarks := rfl
@[simp] theorem onThread_overlays (s : State) (t : Tid) (f : Thread → Thread) : (onThread s t f).overlays = s.overlays := rfl
@[simp] theorem onThread_dma (s : State) (t : Tid) (f : Thread → Thread) : (onThread s t f).dma = s.dma := rfl
@[simp] theorem onThread_groups (s : State) (t : Tid) (f : Thread → Thread) : (onThread s t f).groups = s.groups := rfl
@[simp] theorem onThread_conns (s : State) (t : Tid) (f : Thread → Thread) : (onThread s t f).conns = s.conns := rfl
@[simp] theorem onThread_targets (s : State) (t : Tid) (f : Thread → Thread) : (onThread s t f).targets = s.targets := rfl
@[simp] theorem onThread_ctrls (s : State) (t : Tid) (f : Thread → Thread) : (onThread s t f).ctrls = s.ctrls := rfl
@[simp] theorem onThread_notices (s : State) (t : Tid) (f : Thread → Thread) : (onThread s t f).notices = s.notices := rfl
@[simp] theorem onThread_recorder (s : State) (t : Tid) (f : Thread → Thread) : (onThread s t f).recorder = s.recorder := rfl
@[simp] theorem onThread_mailboxes (s : State) (t : Tid) (f : Thread → Thread) : (onThread s t f).mailboxes = s.mailboxes := rfl
@[simp] theorem onThread_endpoints (s : State) (t : Tid) (f : Thread → Thread) : (onThread s t f).endpoints = s.endpoints := rfl
@[simp] theorem onThread_functions (s : State) (t : Tid) (f : Thread → Thread) : (onThread s t f).functions = s.functions := rfl
@[simp] theorem onThread_rings (s : State) (t : Tid) (f : Thread → Thread) : (onThread s t f).rings = s.rings := rfl
@[simp] theorem onThread_cplDue (s : State) (t : Tid) (f : Thread → Thread) : (onThread s t f).cplDue = s.cplDue := rfl
@[simp] theorem onThread_signals (s : State) (t : Tid) (f : Thread → Thread) : (onThread s t f).signals = s.signals := rfl
@[simp] theorem onThread_peerSlots (s : State) (t : Tid) (f : Thread → Thread) : (onThread s t f).peerSlots = s.peerSlots := rfl
@[simp] theorem onThread_delivered (s : State) (t : Tid) (f : Thread → Thread) : (onThread s t f).delivered = s.delivered := rfl
@[simp] theorem onThread_ledger (s : State) (t : Tid) (f : Thread → Thread) : (onThread s t f).ledger = s.ledger := rfl
@[simp] theorem onThread_ports (s : State) (t : Tid) (f : Thread → Thread) : (onThread s t f).ports = s.ports := rfl
@[simp] theorem onThread_nodes (s : State) (t : Tid) (f : Thread → Thread) : (onThread s t f).nodes = s.nodes := rfl
@[simp] theorem onThread_cellsDue (s : State) (t : Tid) (f : Thread → Thread) : (onThread s t f).cellsDue = s.cellsDue := rfl
@[simp] theorem onThread_buckets (s : State) (t : Tid) (f : Thread → Thread) : (onThread s t f).buckets = s.buckets := rfl
@[simp] theorem onThread_buckets2 (s : State) (t : Tid) (f : Thread → Thread) : (onThread s t f).buckets2 = s.buckets2 := rfl
@[simp] theorem onThread_drops (s : State) (t : Tid) (f : Thread → Thread) : (onThread s t f).drops = s.drops := rfl
@[simp] theorem onThread_sas (s : State) (t : Tid) (f : Thread → Thread) : (onThread s t f).sas = s.sas := rfl
@[simp] theorem onThread_errors (s : State) (t : Tid) (f : Thread → Thread) : (onThread s t f).errors = s.errors := rfl
@[simp] theorem onThread_handover (s : State) (t : Tid) (f : Thread → Thread) : (onThread s t f).handover = s.handover := rfl
@[simp] theorem onThread_boot (s : State) (t : Tid) (f : Thread → Thread) : (onThread s t f).boot = s.boot := rfl
@[simp] theorem onThread_spdm (s : State) (t : Tid) (f : Thread → Thread) : (onThread s t f).spdm = s.spdm := rfl
@[simp] theorem onThread_ncsi (s : State) (t : Tid) (f : Thread → Thread) : (onThread s t f).ncsi = s.ncsi := rfl
@[simp] theorem onThread_mgmt (s : State) (t : Tid) (f : Thread → Thread) : (onThread s t f).mgmt = s.mgmt := rfl
@[simp] theorem onThread_freeReads (s : State) (t : Tid) (f : Thread → Thread) : (onThread s t f).freeReads = s.freeReads := rfl
@[simp] theorem onThread_draws (s : State) (t : Tid) (f : Thread → Thread) : (onThread s t f).draws = s.draws := rfl
@[simp] theorem onThread_pending (s : State) (t : Tid) (f : Thread → Thread) : (onThread s t f).pending = s.pending := rfl

/-! ### raise -/

@[simp] theorem raise_power (s : State) (t : Tid) (code : Nat) (w : Word) (addr : DWord) (pl : Nat) : (raise s t code w addr pl).power = s.power := rfl
@[simp] theorem raise_tick (s : State) (t : Tid) (code : Nat) (w : Word) (addr : DWord) (pl : Nat) : (raise s t code w addr pl).tick = s.tick := rfl
@[simp] theorem raise_tbs (s : State) (t : Tid) (code : Nat) (w : Word) (addr : DWord) (pl : Nat) : (raise s t code w addr pl).tbs = s.tbs := rfl
@[simp] theorem raise_words (s : State) (t : Tid) (code : Nat) (w : Word) (addr : DWord) (pl : Nat) : (raise s t code w addr pl).words = s.words := rfl
@[simp] theorem raise_boundary (s : State) (t : Tid) (code : Nat) (w : Word) (addr : DWord) (pl : Nat) : (raise s t code w addr pl).boundary = s.boundary := rfl
@[simp] theorem raise_undo (s : State) (t : Tid) (code : Nat) (w : Word) (addr : DWord) (pl : Nat) : (raise s t code w addr pl).undo = s.undo := rfl
@[simp] theorem raise_versions (s : State) (t : Tid) (code : Nat) (w : Word) (addr : DWord) (pl : Nat) : (raise s t code w addr pl).versions = s.versions := rfl
@[simp] theorem raise_shadow (s : State) (t : Tid) (code : Nat) (w : Word) (addr : DWord) (pl : Nat) : (raise s t code w addr pl).shadow = s.shadow := rfl
@[simp] theorem raise_commits (s : State) (t : Tid) (code : Nat) (w : Word) (addr : DWord) (pl : Nat) : (raise s t code w addr pl).commits = s.commits := rfl
@[simp] theorem raise_latch (s : State) (t : Tid) (code : Nat) (w : Word) (addr : DWord) (pl : Nat) : (raise s t code w addr pl).latch = s.latch := rfl
@[simp] theorem raise_reply (s : State) (t : Tid) (code : Nat) (w : Word) (addr : DWord) (pl : Nat) : (raise s t code w addr pl).reply = s.reply := rfl
@[simp] theorem raise_mem (s : State) (t : Tid) (code : Nat) (w : Word) (addr : DWord) (pl : Nat) : (raise s t code w addr pl).mem = s.mem := rfl
@[simp] theorem raise_frames (s : State) (t : Tid) (code : Nat) (w : Word) (addr : DWord) (pl : Nat) : (raise s t code w addr pl).frames = s.frames := rfl
@[simp] theorem raise_nextFrame (s : State) (t : Tid) (code : Nat) (w : Word) (addr : DWord) (pl : Nat) : (raise s t code w addr pl).nextFrame = s.nextFrame := rfl
@[simp] theorem raise_admissions (s : State) (t : Tid) (code : Nat) (w : Word) (addr : DWord) (pl : Nat) : (raise s t code w addr pl).admissions = s.admissions := rfl
@[simp] theorem raise_cores (s : State) (t : Tid) (code : Nat) (w : Word) (addr : DWord) (pl : Nat) : (raise s t code w addr pl).cores = s.cores := rfl
@[simp] theorem raise_clusters (s : State) (t : Tid) (code : Nat) (w : Word) (addr : DWord) (pl : Nat) : (raise s t code w addr pl).clusters = s.clusters := rfl
@[simp] theorem raise_locks (s : State) (t : Tid) (code : Nat) (w : Word) (addr : DWord) (pl : Nat) : (raise s t code w addr pl).locks = s.locks := rfl
@[simp] theorem raise_chans (s : State) (t : Tid) (code : Nat) (w : Word) (addr : DWord) (pl : Nat) : (raise s t code w addr pl).chans = s.chans := rfl
@[simp] theorem raise_due (s : State) (t : Tid) (code : Nat) (w : Word) (addr : DWord) (pl : Nat) : (raise s t code w addr pl).due = s.due := rfl
@[simp] theorem raise_classes (s : State) (t : Tid) (code : Nat) (w : Word) (addr : DWord) (pl : Nat) : (raise s t code w addr pl).classes = s.classes := rfl
@[simp] theorem raise_sliceOf (s : State) (t : Tid) (code : Nat) (w : Word) (addr : DWord) (pl : Nat) : (raise s t code w addr pl).sliceOf = s.sliceOf := rfl
@[simp] theorem raise_taken (s : State) (t : Tid) (code : Nat) (w : Word) (addr : DWord) (pl : Nat) : (raise s t code w addr pl).taken = s.taken := rfl
@[simp] theorem raise_jobs (s : State) (t : Tid) (code : Nat) (w : Word) (addr : DWord) (pl : Nat) : (raise s t code w addr pl).jobs = s.jobs := rfl
@[simp] theorem raise_ruleSets (s : State) (t : Tid) (code : Nat) (w : Word) (addr : DWord) (pl : Nat) : (raise s t code w addr pl).ruleSets = s.ruleSets := rfl
@[simp] theorem raise_entries (s : State) (t : Tid) (code : Nat) (w : Word) (addr : DWord) (pl : Nat) : (raise s t code w addr pl).entries = s.entries := rfl
@[simp] theorem raise_changes (s : State) (t : Tid) (code : Nat) (w : Word) (addr : DWord) (pl : Nat) : (raise s t code w addr pl).changes = s.changes := rfl
@[simp] theorem raise_learns (s : State) (t : Tid) (code : Nat) (w : Word) (addr : DWord) (pl : Nat) : (raise s t code w addr pl).learns = s.learns := rfl
@[simp] theorem raise_learnMarks (s : State) (t : Tid) (code : Nat) (w : Word) (addr : DWord) (pl : Nat) : (raise s t code w addr pl).learnMarks = s.learnMarks := rfl
@[simp] theorem raise_overlays (s : State) (t : Tid) (code : Nat) (w : Word) (addr : DWord) (pl : Nat) : (raise s t code w addr pl).overlays = s.overlays := rfl
@[simp] theorem raise_dma (s : State) (t : Tid) (code : Nat) (w : Word) (addr : DWord) (pl : Nat) : (raise s t code w addr pl).dma = s.dma := rfl
@[simp] theorem raise_groups (s : State) (t : Tid) (code : Nat) (w : Word) (addr : DWord) (pl : Nat) : (raise s t code w addr pl).groups = s.groups := rfl
@[simp] theorem raise_conns (s : State) (t : Tid) (code : Nat) (w : Word) (addr : DWord) (pl : Nat) : (raise s t code w addr pl).conns = s.conns := rfl
@[simp] theorem raise_targets (s : State) (t : Tid) (code : Nat) (w : Word) (addr : DWord) (pl : Nat) : (raise s t code w addr pl).targets = s.targets := rfl
@[simp] theorem raise_ctrls (s : State) (t : Tid) (code : Nat) (w : Word) (addr : DWord) (pl : Nat) : (raise s t code w addr pl).ctrls = s.ctrls := rfl
@[simp] theorem raise_notices (s : State) (t : Tid) (code : Nat) (w : Word) (addr : DWord) (pl : Nat) : (raise s t code w addr pl).notices = s.notices := rfl
@[simp] theorem raise_recorder (s : State) (t : Tid) (code : Nat) (w : Word) (addr : DWord) (pl : Nat) : (raise s t code w addr pl).recorder = s.recorder := rfl
@[simp] theorem raise_mailboxes (s : State) (t : Tid) (code : Nat) (w : Word) (addr : DWord) (pl : Nat) : (raise s t code w addr pl).mailboxes = s.mailboxes := rfl
@[simp] theorem raise_endpoints (s : State) (t : Tid) (code : Nat) (w : Word) (addr : DWord) (pl : Nat) : (raise s t code w addr pl).endpoints = s.endpoints := rfl
@[simp] theorem raise_functions (s : State) (t : Tid) (code : Nat) (w : Word) (addr : DWord) (pl : Nat) : (raise s t code w addr pl).functions = s.functions := rfl
@[simp] theorem raise_rings (s : State) (t : Tid) (code : Nat) (w : Word) (addr : DWord) (pl : Nat) : (raise s t code w addr pl).rings = s.rings := rfl
@[simp] theorem raise_cplDue (s : State) (t : Tid) (code : Nat) (w : Word) (addr : DWord) (pl : Nat) : (raise s t code w addr pl).cplDue = s.cplDue := rfl
@[simp] theorem raise_signals (s : State) (t : Tid) (code : Nat) (w : Word) (addr : DWord) (pl : Nat) : (raise s t code w addr pl).signals = s.signals := rfl
@[simp] theorem raise_peerSlots (s : State) (t : Tid) (code : Nat) (w : Word) (addr : DWord) (pl : Nat) : (raise s t code w addr pl).peerSlots = s.peerSlots := rfl
@[simp] theorem raise_delivered (s : State) (t : Tid) (code : Nat) (w : Word) (addr : DWord) (pl : Nat) : (raise s t code w addr pl).delivered = s.delivered := rfl
@[simp] theorem raise_ledger (s : State) (t : Tid) (code : Nat) (w : Word) (addr : DWord) (pl : Nat) : (raise s t code w addr pl).ledger = s.ledger := rfl
@[simp] theorem raise_ports (s : State) (t : Tid) (code : Nat) (w : Word) (addr : DWord) (pl : Nat) : (raise s t code w addr pl).ports = s.ports := rfl
@[simp] theorem raise_nodes (s : State) (t : Tid) (code : Nat) (w : Word) (addr : DWord) (pl : Nat) : (raise s t code w addr pl).nodes = s.nodes := rfl
@[simp] theorem raise_cellsDue (s : State) (t : Tid) (code : Nat) (w : Word) (addr : DWord) (pl : Nat) : (raise s t code w addr pl).cellsDue = s.cellsDue := rfl
@[simp] theorem raise_buckets (s : State) (t : Tid) (code : Nat) (w : Word) (addr : DWord) (pl : Nat) : (raise s t code w addr pl).buckets = s.buckets := rfl
@[simp] theorem raise_buckets2 (s : State) (t : Tid) (code : Nat) (w : Word) (addr : DWord) (pl : Nat) : (raise s t code w addr pl).buckets2 = s.buckets2 := rfl
@[simp] theorem raise_drops (s : State) (t : Tid) (code : Nat) (w : Word) (addr : DWord) (pl : Nat) : (raise s t code w addr pl).drops = s.drops := rfl
@[simp] theorem raise_sas (s : State) (t : Tid) (code : Nat) (w : Word) (addr : DWord) (pl : Nat) : (raise s t code w addr pl).sas = s.sas := rfl
@[simp] theorem raise_errors (s : State) (t : Tid) (code : Nat) (w : Word) (addr : DWord) (pl : Nat) : (raise s t code w addr pl).errors = s.errors := rfl
@[simp] theorem raise_handover (s : State) (t : Tid) (code : Nat) (w : Word) (addr : DWord) (pl : Nat) : (raise s t code w addr pl).handover = s.handover := rfl
@[simp] theorem raise_boot (s : State) (t : Tid) (code : Nat) (w : Word) (addr : DWord) (pl : Nat) : (raise s t code w addr pl).boot = s.boot := rfl
@[simp] theorem raise_spdm (s : State) (t : Tid) (code : Nat) (w : Word) (addr : DWord) (pl : Nat) : (raise s t code w addr pl).spdm = s.spdm := rfl
@[simp] theorem raise_ncsi (s : State) (t : Tid) (code : Nat) (w : Word) (addr : DWord) (pl : Nat) : (raise s t code w addr pl).ncsi = s.ncsi := rfl
@[simp] theorem raise_mgmt (s : State) (t : Tid) (code : Nat) (w : Word) (addr : DWord) (pl : Nat) : (raise s t code w addr pl).mgmt = s.mgmt := rfl
@[simp] theorem raise_freeReads (s : State) (t : Tid) (code : Nat) (w : Word) (addr : DWord) (pl : Nat) : (raise s t code w addr pl).freeReads = s.freeReads := rfl
@[simp] theorem raise_draws (s : State) (t : Tid) (code : Nat) (w : Word) (addr : DWord) (pl : Nat) : (raise s t code w addr pl).draws = s.draws := rfl
@[simp] theorem raise_pending (s : State) (t : Tid) (code : Nat) (w : Word) (addr : DWord) (pl : Nat) : (raise s t code w addr pl).pending = s.pending := rfl

/-! ### putCore -/

@[simp] theorem putCore_power (s : State) (n : Nat) (v : CoreState) : (putCore s n v).power = s.power := rfl
@[simp] theorem putCore_tick (s : State) (n : Nat) (v : CoreState) : (putCore s n v).tick = s.tick := rfl
@[simp] theorem putCore_tbs (s : State) (n : Nat) (v : CoreState) : (putCore s n v).tbs = s.tbs := rfl
@[simp] theorem putCore_words (s : State) (n : Nat) (v : CoreState) : (putCore s n v).words = s.words := rfl
@[simp] theorem putCore_boundary (s : State) (n : Nat) (v : CoreState) : (putCore s n v).boundary = s.boundary := rfl
@[simp] theorem putCore_undo (s : State) (n : Nat) (v : CoreState) : (putCore s n v).undo = s.undo := rfl
@[simp] theorem putCore_versions (s : State) (n : Nat) (v : CoreState) : (putCore s n v).versions = s.versions := rfl
@[simp] theorem putCore_shadow (s : State) (n : Nat) (v : CoreState) : (putCore s n v).shadow = s.shadow := rfl
@[simp] theorem putCore_commits (s : State) (n : Nat) (v : CoreState) : (putCore s n v).commits = s.commits := rfl
@[simp] theorem putCore_latch (s : State) (n : Nat) (v : CoreState) : (putCore s n v).latch = s.latch := rfl
@[simp] theorem putCore_reply (s : State) (n : Nat) (v : CoreState) : (putCore s n v).reply = s.reply := rfl
@[simp] theorem putCore_mem (s : State) (n : Nat) (v : CoreState) : (putCore s n v).mem = s.mem := rfl
@[simp] theorem putCore_frames (s : State) (n : Nat) (v : CoreState) : (putCore s n v).frames = s.frames := rfl
@[simp] theorem putCore_nextFrame (s : State) (n : Nat) (v : CoreState) : (putCore s n v).nextFrame = s.nextFrame := rfl
@[simp] theorem putCore_admissions (s : State) (n : Nat) (v : CoreState) : (putCore s n v).admissions = s.admissions := rfl
@[simp] theorem putCore_threads (s : State) (n : Nat) (v : CoreState) : (putCore s n v).threads = s.threads := rfl
@[simp] theorem putCore_clusters (s : State) (n : Nat) (v : CoreState) : (putCore s n v).clusters = s.clusters := rfl
@[simp] theorem putCore_locks (s : State) (n : Nat) (v : CoreState) : (putCore s n v).locks = s.locks := rfl
@[simp] theorem putCore_chans (s : State) (n : Nat) (v : CoreState) : (putCore s n v).chans = s.chans := rfl
@[simp] theorem putCore_due (s : State) (n : Nat) (v : CoreState) : (putCore s n v).due = s.due := rfl
@[simp] theorem putCore_classes (s : State) (n : Nat) (v : CoreState) : (putCore s n v).classes = s.classes := rfl
@[simp] theorem putCore_sliceOf (s : State) (n : Nat) (v : CoreState) : (putCore s n v).sliceOf = s.sliceOf := rfl
@[simp] theorem putCore_taken (s : State) (n : Nat) (v : CoreState) : (putCore s n v).taken = s.taken := rfl
@[simp] theorem putCore_jobs (s : State) (n : Nat) (v : CoreState) : (putCore s n v).jobs = s.jobs := rfl
@[simp] theorem putCore_ruleSets (s : State) (n : Nat) (v : CoreState) : (putCore s n v).ruleSets = s.ruleSets := rfl
@[simp] theorem putCore_entries (s : State) (n : Nat) (v : CoreState) : (putCore s n v).entries = s.entries := rfl
@[simp] theorem putCore_changes (s : State) (n : Nat) (v : CoreState) : (putCore s n v).changes = s.changes := rfl
@[simp] theorem putCore_learns (s : State) (n : Nat) (v : CoreState) : (putCore s n v).learns = s.learns := rfl
@[simp] theorem putCore_learnMarks (s : State) (n : Nat) (v : CoreState) : (putCore s n v).learnMarks = s.learnMarks := rfl
@[simp] theorem putCore_overlays (s : State) (n : Nat) (v : CoreState) : (putCore s n v).overlays = s.overlays := rfl
@[simp] theorem putCore_dma (s : State) (n : Nat) (v : CoreState) : (putCore s n v).dma = s.dma := rfl
@[simp] theorem putCore_groups (s : State) (n : Nat) (v : CoreState) : (putCore s n v).groups = s.groups := rfl
@[simp] theorem putCore_conns (s : State) (n : Nat) (v : CoreState) : (putCore s n v).conns = s.conns := rfl
@[simp] theorem putCore_targets (s : State) (n : Nat) (v : CoreState) : (putCore s n v).targets = s.targets := rfl
@[simp] theorem putCore_ctrls (s : State) (n : Nat) (v : CoreState) : (putCore s n v).ctrls = s.ctrls := rfl
@[simp] theorem putCore_notices (s : State) (n : Nat) (v : CoreState) : (putCore s n v).notices = s.notices := rfl
@[simp] theorem putCore_recorder (s : State) (n : Nat) (v : CoreState) : (putCore s n v).recorder = s.recorder := rfl
@[simp] theorem putCore_mailboxes (s : State) (n : Nat) (v : CoreState) : (putCore s n v).mailboxes = s.mailboxes := rfl
@[simp] theorem putCore_endpoints (s : State) (n : Nat) (v : CoreState) : (putCore s n v).endpoints = s.endpoints := rfl
@[simp] theorem putCore_functions (s : State) (n : Nat) (v : CoreState) : (putCore s n v).functions = s.functions := rfl
@[simp] theorem putCore_rings (s : State) (n : Nat) (v : CoreState) : (putCore s n v).rings = s.rings := rfl
@[simp] theorem putCore_cplDue (s : State) (n : Nat) (v : CoreState) : (putCore s n v).cplDue = s.cplDue := rfl
@[simp] theorem putCore_signals (s : State) (n : Nat) (v : CoreState) : (putCore s n v).signals = s.signals := rfl
@[simp] theorem putCore_peerSlots (s : State) (n : Nat) (v : CoreState) : (putCore s n v).peerSlots = s.peerSlots := rfl
@[simp] theorem putCore_delivered (s : State) (n : Nat) (v : CoreState) : (putCore s n v).delivered = s.delivered := rfl
@[simp] theorem putCore_ledger (s : State) (n : Nat) (v : CoreState) : (putCore s n v).ledger = s.ledger := rfl
@[simp] theorem putCore_ports (s : State) (n : Nat) (v : CoreState) : (putCore s n v).ports = s.ports := rfl
@[simp] theorem putCore_nodes (s : State) (n : Nat) (v : CoreState) : (putCore s n v).nodes = s.nodes := rfl
@[simp] theorem putCore_cellsDue (s : State) (n : Nat) (v : CoreState) : (putCore s n v).cellsDue = s.cellsDue := rfl
@[simp] theorem putCore_buckets (s : State) (n : Nat) (v : CoreState) : (putCore s n v).buckets = s.buckets := rfl
@[simp] theorem putCore_buckets2 (s : State) (n : Nat) (v : CoreState) : (putCore s n v).buckets2 = s.buckets2 := rfl
@[simp] theorem putCore_drops (s : State) (n : Nat) (v : CoreState) : (putCore s n v).drops = s.drops := rfl
@[simp] theorem putCore_sas (s : State) (n : Nat) (v : CoreState) : (putCore s n v).sas = s.sas := rfl
@[simp] theorem putCore_errors (s : State) (n : Nat) (v : CoreState) : (putCore s n v).errors = s.errors := rfl
@[simp] theorem putCore_handover (s : State) (n : Nat) (v : CoreState) : (putCore s n v).handover = s.handover := rfl
@[simp] theorem putCore_boot (s : State) (n : Nat) (v : CoreState) : (putCore s n v).boot = s.boot := rfl
@[simp] theorem putCore_spdm (s : State) (n : Nat) (v : CoreState) : (putCore s n v).spdm = s.spdm := rfl
@[simp] theorem putCore_ncsi (s : State) (n : Nat) (v : CoreState) : (putCore s n v).ncsi = s.ncsi := rfl
@[simp] theorem putCore_mgmt (s : State) (n : Nat) (v : CoreState) : (putCore s n v).mgmt = s.mgmt := rfl
@[simp] theorem putCore_freeReads (s : State) (n : Nat) (v : CoreState) : (putCore s n v).freeReads = s.freeReads := rfl
@[simp] theorem putCore_draws (s : State) (n : Nat) (v : CoreState) : (putCore s n v).draws = s.draws := rfl
@[simp] theorem putCore_pending (s : State) (n : Nat) (v : CoreState) : (putCore s n v).pending = s.pending := rfl

/-! ### putCluster -/

@[simp] theorem putCluster_power (s : State) (n : Nat) (v : Cluster) : (putCluster s n v).power = s.power := rfl
@[simp] theorem putCluster_tick (s : State) (n : Nat) (v : Cluster) : (putCluster s n v).tick = s.tick := rfl
@[simp] theorem putCluster_tbs (s : State) (n : Nat) (v : Cluster) : (putCluster s n v).tbs = s.tbs := rfl
@[simp] theorem putCluster_words (s : State) (n : Nat) (v : Cluster) : (putCluster s n v).words = s.words := rfl
@[simp] theorem putCluster_boundary (s : State) (n : Nat) (v : Cluster) : (putCluster s n v).boundary = s.boundary := rfl
@[simp] theorem putCluster_undo (s : State) (n : Nat) (v : Cluster) : (putCluster s n v).undo = s.undo := rfl
@[simp] theorem putCluster_versions (s : State) (n : Nat) (v : Cluster) : (putCluster s n v).versions = s.versions := rfl
@[simp] theorem putCluster_shadow (s : State) (n : Nat) (v : Cluster) : (putCluster s n v).shadow = s.shadow := rfl
@[simp] theorem putCluster_commits (s : State) (n : Nat) (v : Cluster) : (putCluster s n v).commits = s.commits := rfl
@[simp] theorem putCluster_latch (s : State) (n : Nat) (v : Cluster) : (putCluster s n v).latch = s.latch := rfl
@[simp] theorem putCluster_reply (s : State) (n : Nat) (v : Cluster) : (putCluster s n v).reply = s.reply := rfl
@[simp] theorem putCluster_mem (s : State) (n : Nat) (v : Cluster) : (putCluster s n v).mem = s.mem := rfl
@[simp] theorem putCluster_frames (s : State) (n : Nat) (v : Cluster) : (putCluster s n v).frames = s.frames := rfl
@[simp] theorem putCluster_nextFrame (s : State) (n : Nat) (v : Cluster) : (putCluster s n v).nextFrame = s.nextFrame := rfl
@[simp] theorem putCluster_admissions (s : State) (n : Nat) (v : Cluster) : (putCluster s n v).admissions = s.admissions := rfl
@[simp] theorem putCluster_threads (s : State) (n : Nat) (v : Cluster) : (putCluster s n v).threads = s.threads := rfl
@[simp] theorem putCluster_cores (s : State) (n : Nat) (v : Cluster) : (putCluster s n v).cores = s.cores := rfl
@[simp] theorem putCluster_locks (s : State) (n : Nat) (v : Cluster) : (putCluster s n v).locks = s.locks := rfl
@[simp] theorem putCluster_chans (s : State) (n : Nat) (v : Cluster) : (putCluster s n v).chans = s.chans := rfl
@[simp] theorem putCluster_due (s : State) (n : Nat) (v : Cluster) : (putCluster s n v).due = s.due := rfl
@[simp] theorem putCluster_classes (s : State) (n : Nat) (v : Cluster) : (putCluster s n v).classes = s.classes := rfl
@[simp] theorem putCluster_sliceOf (s : State) (n : Nat) (v : Cluster) : (putCluster s n v).sliceOf = s.sliceOf := rfl
@[simp] theorem putCluster_taken (s : State) (n : Nat) (v : Cluster) : (putCluster s n v).taken = s.taken := rfl
@[simp] theorem putCluster_jobs (s : State) (n : Nat) (v : Cluster) : (putCluster s n v).jobs = s.jobs := rfl
@[simp] theorem putCluster_ruleSets (s : State) (n : Nat) (v : Cluster) : (putCluster s n v).ruleSets = s.ruleSets := rfl
@[simp] theorem putCluster_entries (s : State) (n : Nat) (v : Cluster) : (putCluster s n v).entries = s.entries := rfl
@[simp] theorem putCluster_changes (s : State) (n : Nat) (v : Cluster) : (putCluster s n v).changes = s.changes := rfl
@[simp] theorem putCluster_learns (s : State) (n : Nat) (v : Cluster) : (putCluster s n v).learns = s.learns := rfl
@[simp] theorem putCluster_learnMarks (s : State) (n : Nat) (v : Cluster) : (putCluster s n v).learnMarks = s.learnMarks := rfl
@[simp] theorem putCluster_overlays (s : State) (n : Nat) (v : Cluster) : (putCluster s n v).overlays = s.overlays := rfl
@[simp] theorem putCluster_dma (s : State) (n : Nat) (v : Cluster) : (putCluster s n v).dma = s.dma := rfl
@[simp] theorem putCluster_groups (s : State) (n : Nat) (v : Cluster) : (putCluster s n v).groups = s.groups := rfl
@[simp] theorem putCluster_conns (s : State) (n : Nat) (v : Cluster) : (putCluster s n v).conns = s.conns := rfl
@[simp] theorem putCluster_targets (s : State) (n : Nat) (v : Cluster) : (putCluster s n v).targets = s.targets := rfl
@[simp] theorem putCluster_ctrls (s : State) (n : Nat) (v : Cluster) : (putCluster s n v).ctrls = s.ctrls := rfl
@[simp] theorem putCluster_notices (s : State) (n : Nat) (v : Cluster) : (putCluster s n v).notices = s.notices := rfl
@[simp] theorem putCluster_recorder (s : State) (n : Nat) (v : Cluster) : (putCluster s n v).recorder = s.recorder := rfl
@[simp] theorem putCluster_mailboxes (s : State) (n : Nat) (v : Cluster) : (putCluster s n v).mailboxes = s.mailboxes := rfl
@[simp] theorem putCluster_endpoints (s : State) (n : Nat) (v : Cluster) : (putCluster s n v).endpoints = s.endpoints := rfl
@[simp] theorem putCluster_functions (s : State) (n : Nat) (v : Cluster) : (putCluster s n v).functions = s.functions := rfl
@[simp] theorem putCluster_rings (s : State) (n : Nat) (v : Cluster) : (putCluster s n v).rings = s.rings := rfl
@[simp] theorem putCluster_cplDue (s : State) (n : Nat) (v : Cluster) : (putCluster s n v).cplDue = s.cplDue := rfl
@[simp] theorem putCluster_signals (s : State) (n : Nat) (v : Cluster) : (putCluster s n v).signals = s.signals := rfl
@[simp] theorem putCluster_peerSlots (s : State) (n : Nat) (v : Cluster) : (putCluster s n v).peerSlots = s.peerSlots := rfl
@[simp] theorem putCluster_delivered (s : State) (n : Nat) (v : Cluster) : (putCluster s n v).delivered = s.delivered := rfl
@[simp] theorem putCluster_ledger (s : State) (n : Nat) (v : Cluster) : (putCluster s n v).ledger = s.ledger := rfl
@[simp] theorem putCluster_ports (s : State) (n : Nat) (v : Cluster) : (putCluster s n v).ports = s.ports := rfl
@[simp] theorem putCluster_nodes (s : State) (n : Nat) (v : Cluster) : (putCluster s n v).nodes = s.nodes := rfl
@[simp] theorem putCluster_cellsDue (s : State) (n : Nat) (v : Cluster) : (putCluster s n v).cellsDue = s.cellsDue := rfl
@[simp] theorem putCluster_buckets (s : State) (n : Nat) (v : Cluster) : (putCluster s n v).buckets = s.buckets := rfl
@[simp] theorem putCluster_buckets2 (s : State) (n : Nat) (v : Cluster) : (putCluster s n v).buckets2 = s.buckets2 := rfl
@[simp] theorem putCluster_drops (s : State) (n : Nat) (v : Cluster) : (putCluster s n v).drops = s.drops := rfl
@[simp] theorem putCluster_sas (s : State) (n : Nat) (v : Cluster) : (putCluster s n v).sas = s.sas := rfl
@[simp] theorem putCluster_errors (s : State) (n : Nat) (v : Cluster) : (putCluster s n v).errors = s.errors := rfl
@[simp] theorem putCluster_handover (s : State) (n : Nat) (v : Cluster) : (putCluster s n v).handover = s.handover := rfl
@[simp] theorem putCluster_boot (s : State) (n : Nat) (v : Cluster) : (putCluster s n v).boot = s.boot := rfl
@[simp] theorem putCluster_spdm (s : State) (n : Nat) (v : Cluster) : (putCluster s n v).spdm = s.spdm := rfl
@[simp] theorem putCluster_ncsi (s : State) (n : Nat) (v : Cluster) : (putCluster s n v).ncsi = s.ncsi := rfl
@[simp] theorem putCluster_mgmt (s : State) (n : Nat) (v : Cluster) : (putCluster s n v).mgmt = s.mgmt := rfl
@[simp] theorem putCluster_freeReads (s : State) (n : Nat) (v : Cluster) : (putCluster s n v).freeReads = s.freeReads := rfl
@[simp] theorem putCluster_draws (s : State) (n : Nat) (v : Cluster) : (putCluster s n v).draws = s.draws := rfl
@[simp] theorem putCluster_pending (s : State) (n : Nat) (v : Cluster) : (putCluster s n v).pending = s.pending := rfl

/-! ### putLock -/

@[simp] theorem putLock_power (s : State) (n : Nat) (v : Lock) : (putLock s n v).power = s.power := rfl
@[simp] theorem putLock_tick (s : State) (n : Nat) (v : Lock) : (putLock s n v).tick = s.tick := rfl
@[simp] theorem putLock_tbs (s : State) (n : Nat) (v : Lock) : (putLock s n v).tbs = s.tbs := rfl
@[simp] theorem putLock_words (s : State) (n : Nat) (v : Lock) : (putLock s n v).words = s.words := rfl
@[simp] theorem putLock_boundary (s : State) (n : Nat) (v : Lock) : (putLock s n v).boundary = s.boundary := rfl
@[simp] theorem putLock_undo (s : State) (n : Nat) (v : Lock) : (putLock s n v).undo = s.undo := rfl
@[simp] theorem putLock_versions (s : State) (n : Nat) (v : Lock) : (putLock s n v).versions = s.versions := rfl
@[simp] theorem putLock_shadow (s : State) (n : Nat) (v : Lock) : (putLock s n v).shadow = s.shadow := rfl
@[simp] theorem putLock_commits (s : State) (n : Nat) (v : Lock) : (putLock s n v).commits = s.commits := rfl
@[simp] theorem putLock_latch (s : State) (n : Nat) (v : Lock) : (putLock s n v).latch = s.latch := rfl
@[simp] theorem putLock_reply (s : State) (n : Nat) (v : Lock) : (putLock s n v).reply = s.reply := rfl
@[simp] theorem putLock_mem (s : State) (n : Nat) (v : Lock) : (putLock s n v).mem = s.mem := rfl
@[simp] theorem putLock_frames (s : State) (n : Nat) (v : Lock) : (putLock s n v).frames = s.frames := rfl
@[simp] theorem putLock_nextFrame (s : State) (n : Nat) (v : Lock) : (putLock s n v).nextFrame = s.nextFrame := rfl
@[simp] theorem putLock_admissions (s : State) (n : Nat) (v : Lock) : (putLock s n v).admissions = s.admissions := rfl
@[simp] theorem putLock_threads (s : State) (n : Nat) (v : Lock) : (putLock s n v).threads = s.threads := rfl
@[simp] theorem putLock_cores (s : State) (n : Nat) (v : Lock) : (putLock s n v).cores = s.cores := rfl
@[simp] theorem putLock_clusters (s : State) (n : Nat) (v : Lock) : (putLock s n v).clusters = s.clusters := rfl
@[simp] theorem putLock_chans (s : State) (n : Nat) (v : Lock) : (putLock s n v).chans = s.chans := rfl
@[simp] theorem putLock_due (s : State) (n : Nat) (v : Lock) : (putLock s n v).due = s.due := rfl
@[simp] theorem putLock_classes (s : State) (n : Nat) (v : Lock) : (putLock s n v).classes = s.classes := rfl
@[simp] theorem putLock_sliceOf (s : State) (n : Nat) (v : Lock) : (putLock s n v).sliceOf = s.sliceOf := rfl
@[simp] theorem putLock_taken (s : State) (n : Nat) (v : Lock) : (putLock s n v).taken = s.taken := rfl
@[simp] theorem putLock_jobs (s : State) (n : Nat) (v : Lock) : (putLock s n v).jobs = s.jobs := rfl
@[simp] theorem putLock_ruleSets (s : State) (n : Nat) (v : Lock) : (putLock s n v).ruleSets = s.ruleSets := rfl
@[simp] theorem putLock_entries (s : State) (n : Nat) (v : Lock) : (putLock s n v).entries = s.entries := rfl
@[simp] theorem putLock_changes (s : State) (n : Nat) (v : Lock) : (putLock s n v).changes = s.changes := rfl
@[simp] theorem putLock_learns (s : State) (n : Nat) (v : Lock) : (putLock s n v).learns = s.learns := rfl
@[simp] theorem putLock_learnMarks (s : State) (n : Nat) (v : Lock) : (putLock s n v).learnMarks = s.learnMarks := rfl
@[simp] theorem putLock_overlays (s : State) (n : Nat) (v : Lock) : (putLock s n v).overlays = s.overlays := rfl
@[simp] theorem putLock_dma (s : State) (n : Nat) (v : Lock) : (putLock s n v).dma = s.dma := rfl
@[simp] theorem putLock_groups (s : State) (n : Nat) (v : Lock) : (putLock s n v).groups = s.groups := rfl
@[simp] theorem putLock_conns (s : State) (n : Nat) (v : Lock) : (putLock s n v).conns = s.conns := rfl
@[simp] theorem putLock_targets (s : State) (n : Nat) (v : Lock) : (putLock s n v).targets = s.targets := rfl
@[simp] theorem putLock_ctrls (s : State) (n : Nat) (v : Lock) : (putLock s n v).ctrls = s.ctrls := rfl
@[simp] theorem putLock_notices (s : State) (n : Nat) (v : Lock) : (putLock s n v).notices = s.notices := rfl
@[simp] theorem putLock_recorder (s : State) (n : Nat) (v : Lock) : (putLock s n v).recorder = s.recorder := rfl
@[simp] theorem putLock_mailboxes (s : State) (n : Nat) (v : Lock) : (putLock s n v).mailboxes = s.mailboxes := rfl
@[simp] theorem putLock_endpoints (s : State) (n : Nat) (v : Lock) : (putLock s n v).endpoints = s.endpoints := rfl
@[simp] theorem putLock_functions (s : State) (n : Nat) (v : Lock) : (putLock s n v).functions = s.functions := rfl
@[simp] theorem putLock_rings (s : State) (n : Nat) (v : Lock) : (putLock s n v).rings = s.rings := rfl
@[simp] theorem putLock_cplDue (s : State) (n : Nat) (v : Lock) : (putLock s n v).cplDue = s.cplDue := rfl
@[simp] theorem putLock_signals (s : State) (n : Nat) (v : Lock) : (putLock s n v).signals = s.signals := rfl
@[simp] theorem putLock_peerSlots (s : State) (n : Nat) (v : Lock) : (putLock s n v).peerSlots = s.peerSlots := rfl
@[simp] theorem putLock_delivered (s : State) (n : Nat) (v : Lock) : (putLock s n v).delivered = s.delivered := rfl
@[simp] theorem putLock_ledger (s : State) (n : Nat) (v : Lock) : (putLock s n v).ledger = s.ledger := rfl
@[simp] theorem putLock_ports (s : State) (n : Nat) (v : Lock) : (putLock s n v).ports = s.ports := rfl
@[simp] theorem putLock_nodes (s : State) (n : Nat) (v : Lock) : (putLock s n v).nodes = s.nodes := rfl
@[simp] theorem putLock_cellsDue (s : State) (n : Nat) (v : Lock) : (putLock s n v).cellsDue = s.cellsDue := rfl
@[simp] theorem putLock_buckets (s : State) (n : Nat) (v : Lock) : (putLock s n v).buckets = s.buckets := rfl
@[simp] theorem putLock_buckets2 (s : State) (n : Nat) (v : Lock) : (putLock s n v).buckets2 = s.buckets2 := rfl
@[simp] theorem putLock_drops (s : State) (n : Nat) (v : Lock) : (putLock s n v).drops = s.drops := rfl
@[simp] theorem putLock_sas (s : State) (n : Nat) (v : Lock) : (putLock s n v).sas = s.sas := rfl
@[simp] theorem putLock_errors (s : State) (n : Nat) (v : Lock) : (putLock s n v).errors = s.errors := rfl
@[simp] theorem putLock_handover (s : State) (n : Nat) (v : Lock) : (putLock s n v).handover = s.handover := rfl
@[simp] theorem putLock_boot (s : State) (n : Nat) (v : Lock) : (putLock s n v).boot = s.boot := rfl
@[simp] theorem putLock_spdm (s : State) (n : Nat) (v : Lock) : (putLock s n v).spdm = s.spdm := rfl
@[simp] theorem putLock_ncsi (s : State) (n : Nat) (v : Lock) : (putLock s n v).ncsi = s.ncsi := rfl
@[simp] theorem putLock_mgmt (s : State) (n : Nat) (v : Lock) : (putLock s n v).mgmt = s.mgmt := rfl
@[simp] theorem putLock_freeReads (s : State) (n : Nat) (v : Lock) : (putLock s n v).freeReads = s.freeReads := rfl
@[simp] theorem putLock_draws (s : State) (n : Nat) (v : Lock) : (putLock s n v).draws = s.draws := rfl
@[simp] theorem putLock_pending (s : State) (n : Nat) (v : Lock) : (putLock s n v).pending = s.pending := rfl

/-! ### putChan -/

@[simp] theorem putChan_power (s : State) (n : Nat) (v : Chan) : (putChan s n v).power = s.power := rfl
@[simp] theorem putChan_tick (s : State) (n : Nat) (v : Chan) : (putChan s n v).tick = s.tick := rfl
@[simp] theorem putChan_tbs (s : State) (n : Nat) (v : Chan) : (putChan s n v).tbs = s.tbs := rfl
@[simp] theorem putChan_words (s : State) (n : Nat) (v : Chan) : (putChan s n v).words = s.words := rfl
@[simp] theorem putChan_boundary (s : State) (n : Nat) (v : Chan) : (putChan s n v).boundary = s.boundary := rfl
@[simp] theorem putChan_undo (s : State) (n : Nat) (v : Chan) : (putChan s n v).undo = s.undo := rfl
@[simp] theorem putChan_versions (s : State) (n : Nat) (v : Chan) : (putChan s n v).versions = s.versions := rfl
@[simp] theorem putChan_shadow (s : State) (n : Nat) (v : Chan) : (putChan s n v).shadow = s.shadow := rfl
@[simp] theorem putChan_commits (s : State) (n : Nat) (v : Chan) : (putChan s n v).commits = s.commits := rfl
@[simp] theorem putChan_latch (s : State) (n : Nat) (v : Chan) : (putChan s n v).latch = s.latch := rfl
@[simp] theorem putChan_reply (s : State) (n : Nat) (v : Chan) : (putChan s n v).reply = s.reply := rfl
@[simp] theorem putChan_mem (s : State) (n : Nat) (v : Chan) : (putChan s n v).mem = s.mem := rfl
@[simp] theorem putChan_frames (s : State) (n : Nat) (v : Chan) : (putChan s n v).frames = s.frames := rfl
@[simp] theorem putChan_nextFrame (s : State) (n : Nat) (v : Chan) : (putChan s n v).nextFrame = s.nextFrame := rfl
@[simp] theorem putChan_admissions (s : State) (n : Nat) (v : Chan) : (putChan s n v).admissions = s.admissions := rfl
@[simp] theorem putChan_threads (s : State) (n : Nat) (v : Chan) : (putChan s n v).threads = s.threads := rfl
@[simp] theorem putChan_cores (s : State) (n : Nat) (v : Chan) : (putChan s n v).cores = s.cores := rfl
@[simp] theorem putChan_clusters (s : State) (n : Nat) (v : Chan) : (putChan s n v).clusters = s.clusters := rfl
@[simp] theorem putChan_locks (s : State) (n : Nat) (v : Chan) : (putChan s n v).locks = s.locks := rfl
@[simp] theorem putChan_due (s : State) (n : Nat) (v : Chan) : (putChan s n v).due = s.due := rfl
@[simp] theorem putChan_classes (s : State) (n : Nat) (v : Chan) : (putChan s n v).classes = s.classes := rfl
@[simp] theorem putChan_sliceOf (s : State) (n : Nat) (v : Chan) : (putChan s n v).sliceOf = s.sliceOf := rfl
@[simp] theorem putChan_taken (s : State) (n : Nat) (v : Chan) : (putChan s n v).taken = s.taken := rfl
@[simp] theorem putChan_jobs (s : State) (n : Nat) (v : Chan) : (putChan s n v).jobs = s.jobs := rfl
@[simp] theorem putChan_ruleSets (s : State) (n : Nat) (v : Chan) : (putChan s n v).ruleSets = s.ruleSets := rfl
@[simp] theorem putChan_entries (s : State) (n : Nat) (v : Chan) : (putChan s n v).entries = s.entries := rfl
@[simp] theorem putChan_changes (s : State) (n : Nat) (v : Chan) : (putChan s n v).changes = s.changes := rfl
@[simp] theorem putChan_learns (s : State) (n : Nat) (v : Chan) : (putChan s n v).learns = s.learns := rfl
@[simp] theorem putChan_learnMarks (s : State) (n : Nat) (v : Chan) : (putChan s n v).learnMarks = s.learnMarks := rfl
@[simp] theorem putChan_overlays (s : State) (n : Nat) (v : Chan) : (putChan s n v).overlays = s.overlays := rfl
@[simp] theorem putChan_dma (s : State) (n : Nat) (v : Chan) : (putChan s n v).dma = s.dma := rfl
@[simp] theorem putChan_groups (s : State) (n : Nat) (v : Chan) : (putChan s n v).groups = s.groups := rfl
@[simp] theorem putChan_conns (s : State) (n : Nat) (v : Chan) : (putChan s n v).conns = s.conns := rfl
@[simp] theorem putChan_targets (s : State) (n : Nat) (v : Chan) : (putChan s n v).targets = s.targets := rfl
@[simp] theorem putChan_ctrls (s : State) (n : Nat) (v : Chan) : (putChan s n v).ctrls = s.ctrls := rfl
@[simp] theorem putChan_notices (s : State) (n : Nat) (v : Chan) : (putChan s n v).notices = s.notices := rfl
@[simp] theorem putChan_recorder (s : State) (n : Nat) (v : Chan) : (putChan s n v).recorder = s.recorder := rfl
@[simp] theorem putChan_mailboxes (s : State) (n : Nat) (v : Chan) : (putChan s n v).mailboxes = s.mailboxes := rfl
@[simp] theorem putChan_endpoints (s : State) (n : Nat) (v : Chan) : (putChan s n v).endpoints = s.endpoints := rfl
@[simp] theorem putChan_functions (s : State) (n : Nat) (v : Chan) : (putChan s n v).functions = s.functions := rfl
@[simp] theorem putChan_rings (s : State) (n : Nat) (v : Chan) : (putChan s n v).rings = s.rings := rfl
@[simp] theorem putChan_cplDue (s : State) (n : Nat) (v : Chan) : (putChan s n v).cplDue = s.cplDue := rfl
@[simp] theorem putChan_signals (s : State) (n : Nat) (v : Chan) : (putChan s n v).signals = s.signals := rfl
@[simp] theorem putChan_peerSlots (s : State) (n : Nat) (v : Chan) : (putChan s n v).peerSlots = s.peerSlots := rfl
@[simp] theorem putChan_delivered (s : State) (n : Nat) (v : Chan) : (putChan s n v).delivered = s.delivered := rfl
@[simp] theorem putChan_ledger (s : State) (n : Nat) (v : Chan) : (putChan s n v).ledger = s.ledger := rfl
@[simp] theorem putChan_ports (s : State) (n : Nat) (v : Chan) : (putChan s n v).ports = s.ports := rfl
@[simp] theorem putChan_nodes (s : State) (n : Nat) (v : Chan) : (putChan s n v).nodes = s.nodes := rfl
@[simp] theorem putChan_cellsDue (s : State) (n : Nat) (v : Chan) : (putChan s n v).cellsDue = s.cellsDue := rfl
@[simp] theorem putChan_buckets (s : State) (n : Nat) (v : Chan) : (putChan s n v).buckets = s.buckets := rfl
@[simp] theorem putChan_buckets2 (s : State) (n : Nat) (v : Chan) : (putChan s n v).buckets2 = s.buckets2 := rfl
@[simp] theorem putChan_drops (s : State) (n : Nat) (v : Chan) : (putChan s n v).drops = s.drops := rfl
@[simp] theorem putChan_sas (s : State) (n : Nat) (v : Chan) : (putChan s n v).sas = s.sas := rfl
@[simp] theorem putChan_errors (s : State) (n : Nat) (v : Chan) : (putChan s n v).errors = s.errors := rfl
@[simp] theorem putChan_handover (s : State) (n : Nat) (v : Chan) : (putChan s n v).handover = s.handover := rfl
@[simp] theorem putChan_boot (s : State) (n : Nat) (v : Chan) : (putChan s n v).boot = s.boot := rfl
@[simp] theorem putChan_spdm (s : State) (n : Nat) (v : Chan) : (putChan s n v).spdm = s.spdm := rfl
@[simp] theorem putChan_ncsi (s : State) (n : Nat) (v : Chan) : (putChan s n v).ncsi = s.ncsi := rfl
@[simp] theorem putChan_mgmt (s : State) (n : Nat) (v : Chan) : (putChan s n v).mgmt = s.mgmt := rfl
@[simp] theorem putChan_freeReads (s : State) (n : Nat) (v : Chan) : (putChan s n v).freeReads = s.freeReads := rfl
@[simp] theorem putChan_draws (s : State) (n : Nat) (v : Chan) : (putChan s n v).draws = s.draws := rfl
@[simp] theorem putChan_pending (s : State) (n : Nat) (v : Chan) : (putChan s n v).pending = s.pending := rfl

/-! ### putGroup -/

@[simp] theorem putGroup_power (s : State) (n : Nat) (v : Group) : (putGroup s n v).power = s.power := rfl
@[simp] theorem putGroup_tick (s : State) (n : Nat) (v : Group) : (putGroup s n v).tick = s.tick := rfl
@[simp] theorem putGroup_tbs (s : State) (n : Nat) (v : Group) : (putGroup s n v).tbs = s.tbs := rfl
@[simp] theorem putGroup_words (s : State) (n : Nat) (v : Group) : (putGroup s n v).words = s.words := rfl
@[simp] theorem putGroup_boundary (s : State) (n : Nat) (v : Group) : (putGroup s n v).boundary = s.boundary := rfl
@[simp] theorem putGroup_undo (s : State) (n : Nat) (v : Group) : (putGroup s n v).undo = s.undo := rfl
@[simp] theorem putGroup_versions (s : State) (n : Nat) (v : Group) : (putGroup s n v).versions = s.versions := rfl
@[simp] theorem putGroup_shadow (s : State) (n : Nat) (v : Group) : (putGroup s n v).shadow = s.shadow := rfl
@[simp] theorem putGroup_commits (s : State) (n : Nat) (v : Group) : (putGroup s n v).commits = s.commits := rfl
@[simp] theorem putGroup_latch (s : State) (n : Nat) (v : Group) : (putGroup s n v).latch = s.latch := rfl
@[simp] theorem putGroup_reply (s : State) (n : Nat) (v : Group) : (putGroup s n v).reply = s.reply := rfl
@[simp] theorem putGroup_mem (s : State) (n : Nat) (v : Group) : (putGroup s n v).mem = s.mem := rfl
@[simp] theorem putGroup_frames (s : State) (n : Nat) (v : Group) : (putGroup s n v).frames = s.frames := rfl
@[simp] theorem putGroup_nextFrame (s : State) (n : Nat) (v : Group) : (putGroup s n v).nextFrame = s.nextFrame := rfl
@[simp] theorem putGroup_admissions (s : State) (n : Nat) (v : Group) : (putGroup s n v).admissions = s.admissions := rfl
@[simp] theorem putGroup_threads (s : State) (n : Nat) (v : Group) : (putGroup s n v).threads = s.threads := rfl
@[simp] theorem putGroup_cores (s : State) (n : Nat) (v : Group) : (putGroup s n v).cores = s.cores := rfl
@[simp] theorem putGroup_clusters (s : State) (n : Nat) (v : Group) : (putGroup s n v).clusters = s.clusters := rfl
@[simp] theorem putGroup_locks (s : State) (n : Nat) (v : Group) : (putGroup s n v).locks = s.locks := rfl
@[simp] theorem putGroup_chans (s : State) (n : Nat) (v : Group) : (putGroup s n v).chans = s.chans := rfl
@[simp] theorem putGroup_due (s : State) (n : Nat) (v : Group) : (putGroup s n v).due = s.due := rfl
@[simp] theorem putGroup_classes (s : State) (n : Nat) (v : Group) : (putGroup s n v).classes = s.classes := rfl
@[simp] theorem putGroup_sliceOf (s : State) (n : Nat) (v : Group) : (putGroup s n v).sliceOf = s.sliceOf := rfl
@[simp] theorem putGroup_taken (s : State) (n : Nat) (v : Group) : (putGroup s n v).taken = s.taken := rfl
@[simp] theorem putGroup_jobs (s : State) (n : Nat) (v : Group) : (putGroup s n v).jobs = s.jobs := rfl
@[simp] theorem putGroup_ruleSets (s : State) (n : Nat) (v : Group) : (putGroup s n v).ruleSets = s.ruleSets := rfl
@[simp] theorem putGroup_entries (s : State) (n : Nat) (v : Group) : (putGroup s n v).entries = s.entries := rfl
@[simp] theorem putGroup_changes (s : State) (n : Nat) (v : Group) : (putGroup s n v).changes = s.changes := rfl
@[simp] theorem putGroup_learns (s : State) (n : Nat) (v : Group) : (putGroup s n v).learns = s.learns := rfl
@[simp] theorem putGroup_learnMarks (s : State) (n : Nat) (v : Group) : (putGroup s n v).learnMarks = s.learnMarks := rfl
@[simp] theorem putGroup_overlays (s : State) (n : Nat) (v : Group) : (putGroup s n v).overlays = s.overlays := rfl
@[simp] theorem putGroup_dma (s : State) (n : Nat) (v : Group) : (putGroup s n v).dma = s.dma := rfl
@[simp] theorem putGroup_conns (s : State) (n : Nat) (v : Group) : (putGroup s n v).conns = s.conns := rfl
@[simp] theorem putGroup_targets (s : State) (n : Nat) (v : Group) : (putGroup s n v).targets = s.targets := rfl
@[simp] theorem putGroup_ctrls (s : State) (n : Nat) (v : Group) : (putGroup s n v).ctrls = s.ctrls := rfl
@[simp] theorem putGroup_notices (s : State) (n : Nat) (v : Group) : (putGroup s n v).notices = s.notices := rfl
@[simp] theorem putGroup_recorder (s : State) (n : Nat) (v : Group) : (putGroup s n v).recorder = s.recorder := rfl
@[simp] theorem putGroup_mailboxes (s : State) (n : Nat) (v : Group) : (putGroup s n v).mailboxes = s.mailboxes := rfl
@[simp] theorem putGroup_endpoints (s : State) (n : Nat) (v : Group) : (putGroup s n v).endpoints = s.endpoints := rfl
@[simp] theorem putGroup_functions (s : State) (n : Nat) (v : Group) : (putGroup s n v).functions = s.functions := rfl
@[simp] theorem putGroup_rings (s : State) (n : Nat) (v : Group) : (putGroup s n v).rings = s.rings := rfl
@[simp] theorem putGroup_cplDue (s : State) (n : Nat) (v : Group) : (putGroup s n v).cplDue = s.cplDue := rfl
@[simp] theorem putGroup_signals (s : State) (n : Nat) (v : Group) : (putGroup s n v).signals = s.signals := rfl
@[simp] theorem putGroup_peerSlots (s : State) (n : Nat) (v : Group) : (putGroup s n v).peerSlots = s.peerSlots := rfl
@[simp] theorem putGroup_delivered (s : State) (n : Nat) (v : Group) : (putGroup s n v).delivered = s.delivered := rfl
@[simp] theorem putGroup_ledger (s : State) (n : Nat) (v : Group) : (putGroup s n v).ledger = s.ledger := rfl
@[simp] theorem putGroup_ports (s : State) (n : Nat) (v : Group) : (putGroup s n v).ports = s.ports := rfl
@[simp] theorem putGroup_nodes (s : State) (n : Nat) (v : Group) : (putGroup s n v).nodes = s.nodes := rfl
@[simp] theorem putGroup_cellsDue (s : State) (n : Nat) (v : Group) : (putGroup s n v).cellsDue = s.cellsDue := rfl
@[simp] theorem putGroup_buckets (s : State) (n : Nat) (v : Group) : (putGroup s n v).buckets = s.buckets := rfl
@[simp] theorem putGroup_buckets2 (s : State) (n : Nat) (v : Group) : (putGroup s n v).buckets2 = s.buckets2 := rfl
@[simp] theorem putGroup_drops (s : State) (n : Nat) (v : Group) : (putGroup s n v).drops = s.drops := rfl
@[simp] theorem putGroup_sas (s : State) (n : Nat) (v : Group) : (putGroup s n v).sas = s.sas := rfl
@[simp] theorem putGroup_errors (s : State) (n : Nat) (v : Group) : (putGroup s n v).errors = s.errors := rfl
@[simp] theorem putGroup_handover (s : State) (n : Nat) (v : Group) : (putGroup s n v).handover = s.handover := rfl
@[simp] theorem putGroup_boot (s : State) (n : Nat) (v : Group) : (putGroup s n v).boot = s.boot := rfl
@[simp] theorem putGroup_spdm (s : State) (n : Nat) (v : Group) : (putGroup s n v).spdm = s.spdm := rfl
@[simp] theorem putGroup_ncsi (s : State) (n : Nat) (v : Group) : (putGroup s n v).ncsi = s.ncsi := rfl
@[simp] theorem putGroup_mgmt (s : State) (n : Nat) (v : Group) : (putGroup s n v).mgmt = s.mgmt := rfl
@[simp] theorem putGroup_freeReads (s : State) (n : Nat) (v : Group) : (putGroup s n v).freeReads = s.freeReads := rfl
@[simp] theorem putGroup_draws (s : State) (n : Nat) (v : Group) : (putGroup s n v).draws = s.draws := rfl
@[simp] theorem putGroup_pending (s : State) (n : Nat) (v : Group) : (putGroup s n v).pending = s.pending := rfl

/-! ### putRing -/

@[simp] theorem putRing_power (s : State) (n : Nat) (v : RingState) : (putRing s n v).power = s.power := rfl
@[simp] theorem putRing_tick (s : State) (n : Nat) (v : RingState) : (putRing s n v).tick = s.tick := rfl
@[simp] theorem putRing_tbs (s : State) (n : Nat) (v : RingState) : (putRing s n v).tbs = s.tbs := rfl
@[simp] theorem putRing_words (s : State) (n : Nat) (v : RingState) : (putRing s n v).words = s.words := rfl
@[simp] theorem putRing_boundary (s : State) (n : Nat) (v : RingState) : (putRing s n v).boundary = s.boundary := rfl
@[simp] theorem putRing_undo (s : State) (n : Nat) (v : RingState) : (putRing s n v).undo = s.undo := rfl
@[simp] theorem putRing_versions (s : State) (n : Nat) (v : RingState) : (putRing s n v).versions = s.versions := rfl
@[simp] theorem putRing_shadow (s : State) (n : Nat) (v : RingState) : (putRing s n v).shadow = s.shadow := rfl
@[simp] theorem putRing_commits (s : State) (n : Nat) (v : RingState) : (putRing s n v).commits = s.commits := rfl
@[simp] theorem putRing_latch (s : State) (n : Nat) (v : RingState) : (putRing s n v).latch = s.latch := rfl
@[simp] theorem putRing_reply (s : State) (n : Nat) (v : RingState) : (putRing s n v).reply = s.reply := rfl
@[simp] theorem putRing_mem (s : State) (n : Nat) (v : RingState) : (putRing s n v).mem = s.mem := rfl
@[simp] theorem putRing_frames (s : State) (n : Nat) (v : RingState) : (putRing s n v).frames = s.frames := rfl
@[simp] theorem putRing_nextFrame (s : State) (n : Nat) (v : RingState) : (putRing s n v).nextFrame = s.nextFrame := rfl
@[simp] theorem putRing_admissions (s : State) (n : Nat) (v : RingState) : (putRing s n v).admissions = s.admissions := rfl
@[simp] theorem putRing_threads (s : State) (n : Nat) (v : RingState) : (putRing s n v).threads = s.threads := rfl
@[simp] theorem putRing_cores (s : State) (n : Nat) (v : RingState) : (putRing s n v).cores = s.cores := rfl
@[simp] theorem putRing_clusters (s : State) (n : Nat) (v : RingState) : (putRing s n v).clusters = s.clusters := rfl
@[simp] theorem putRing_locks (s : State) (n : Nat) (v : RingState) : (putRing s n v).locks = s.locks := rfl
@[simp] theorem putRing_chans (s : State) (n : Nat) (v : RingState) : (putRing s n v).chans = s.chans := rfl
@[simp] theorem putRing_due (s : State) (n : Nat) (v : RingState) : (putRing s n v).due = s.due := rfl
@[simp] theorem putRing_classes (s : State) (n : Nat) (v : RingState) : (putRing s n v).classes = s.classes := rfl
@[simp] theorem putRing_sliceOf (s : State) (n : Nat) (v : RingState) : (putRing s n v).sliceOf = s.sliceOf := rfl
@[simp] theorem putRing_taken (s : State) (n : Nat) (v : RingState) : (putRing s n v).taken = s.taken := rfl
@[simp] theorem putRing_jobs (s : State) (n : Nat) (v : RingState) : (putRing s n v).jobs = s.jobs := rfl
@[simp] theorem putRing_ruleSets (s : State) (n : Nat) (v : RingState) : (putRing s n v).ruleSets = s.ruleSets := rfl
@[simp] theorem putRing_entries (s : State) (n : Nat) (v : RingState) : (putRing s n v).entries = s.entries := rfl
@[simp] theorem putRing_changes (s : State) (n : Nat) (v : RingState) : (putRing s n v).changes = s.changes := rfl
@[simp] theorem putRing_learns (s : State) (n : Nat) (v : RingState) : (putRing s n v).learns = s.learns := rfl
@[simp] theorem putRing_learnMarks (s : State) (n : Nat) (v : RingState) : (putRing s n v).learnMarks = s.learnMarks := rfl
@[simp] theorem putRing_overlays (s : State) (n : Nat) (v : RingState) : (putRing s n v).overlays = s.overlays := rfl
@[simp] theorem putRing_dma (s : State) (n : Nat) (v : RingState) : (putRing s n v).dma = s.dma := rfl
@[simp] theorem putRing_groups (s : State) (n : Nat) (v : RingState) : (putRing s n v).groups = s.groups := rfl
@[simp] theorem putRing_conns (s : State) (n : Nat) (v : RingState) : (putRing s n v).conns = s.conns := rfl
@[simp] theorem putRing_targets (s : State) (n : Nat) (v : RingState) : (putRing s n v).targets = s.targets := rfl
@[simp] theorem putRing_ctrls (s : State) (n : Nat) (v : RingState) : (putRing s n v).ctrls = s.ctrls := rfl
@[simp] theorem putRing_notices (s : State) (n : Nat) (v : RingState) : (putRing s n v).notices = s.notices := rfl
@[simp] theorem putRing_recorder (s : State) (n : Nat) (v : RingState) : (putRing s n v).recorder = s.recorder := rfl
@[simp] theorem putRing_mailboxes (s : State) (n : Nat) (v : RingState) : (putRing s n v).mailboxes = s.mailboxes := rfl
@[simp] theorem putRing_endpoints (s : State) (n : Nat) (v : RingState) : (putRing s n v).endpoints = s.endpoints := rfl
@[simp] theorem putRing_functions (s : State) (n : Nat) (v : RingState) : (putRing s n v).functions = s.functions := rfl
@[simp] theorem putRing_cplDue (s : State) (n : Nat) (v : RingState) : (putRing s n v).cplDue = s.cplDue := rfl
@[simp] theorem putRing_signals (s : State) (n : Nat) (v : RingState) : (putRing s n v).signals = s.signals := rfl
@[simp] theorem putRing_peerSlots (s : State) (n : Nat) (v : RingState) : (putRing s n v).peerSlots = s.peerSlots := rfl
@[simp] theorem putRing_delivered (s : State) (n : Nat) (v : RingState) : (putRing s n v).delivered = s.delivered := rfl
@[simp] theorem putRing_ledger (s : State) (n : Nat) (v : RingState) : (putRing s n v).ledger = s.ledger := rfl
@[simp] theorem putRing_ports (s : State) (n : Nat) (v : RingState) : (putRing s n v).ports = s.ports := rfl
@[simp] theorem putRing_nodes (s : State) (n : Nat) (v : RingState) : (putRing s n v).nodes = s.nodes := rfl
@[simp] theorem putRing_cellsDue (s : State) (n : Nat) (v : RingState) : (putRing s n v).cellsDue = s.cellsDue := rfl
@[simp] theorem putRing_buckets (s : State) (n : Nat) (v : RingState) : (putRing s n v).buckets = s.buckets := rfl
@[simp] theorem putRing_buckets2 (s : State) (n : Nat) (v : RingState) : (putRing s n v).buckets2 = s.buckets2 := rfl
@[simp] theorem putRing_drops (s : State) (n : Nat) (v : RingState) : (putRing s n v).drops = s.drops := rfl
@[simp] theorem putRing_sas (s : State) (n : Nat) (v : RingState) : (putRing s n v).sas = s.sas := rfl
@[simp] theorem putRing_errors (s : State) (n : Nat) (v : RingState) : (putRing s n v).errors = s.errors := rfl
@[simp] theorem putRing_handover (s : State) (n : Nat) (v : RingState) : (putRing s n v).handover = s.handover := rfl
@[simp] theorem putRing_boot (s : State) (n : Nat) (v : RingState) : (putRing s n v).boot = s.boot := rfl
@[simp] theorem putRing_spdm (s : State) (n : Nat) (v : RingState) : (putRing s n v).spdm = s.spdm := rfl
@[simp] theorem putRing_ncsi (s : State) (n : Nat) (v : RingState) : (putRing s n v).ncsi = s.ncsi := rfl
@[simp] theorem putRing_mgmt (s : State) (n : Nat) (v : RingState) : (putRing s n v).mgmt = s.mgmt := rfl
@[simp] theorem putRing_freeReads (s : State) (n : Nat) (v : RingState) : (putRing s n v).freeReads = s.freeReads := rfl
@[simp] theorem putRing_draws (s : State) (n : Nat) (v : RingState) : (putRing s n v).draws = s.draws := rfl
@[simp] theorem putRing_pending (s : State) (n : Nat) (v : RingState) : (putRing s n v).pending = s.pending := rfl

/-! ### putFn -/

@[simp] theorem putFn_power (s : State) (f : FnId) (v : FnState) : (putFn s f v).power = s.power := rfl
@[simp] theorem putFn_tick (s : State) (f : FnId) (v : FnState) : (putFn s f v).tick = s.tick := rfl
@[simp] theorem putFn_tbs (s : State) (f : FnId) (v : FnState) : (putFn s f v).tbs = s.tbs := rfl
@[simp] theorem putFn_words (s : State) (f : FnId) (v : FnState) : (putFn s f v).words = s.words := rfl
@[simp] theorem putFn_boundary (s : State) (f : FnId) (v : FnState) : (putFn s f v).boundary = s.boundary := rfl
@[simp] theorem putFn_undo (s : State) (f : FnId) (v : FnState) : (putFn s f v).undo = s.undo := rfl
@[simp] theorem putFn_versions (s : State) (f : FnId) (v : FnState) : (putFn s f v).versions = s.versions := rfl
@[simp] theorem putFn_shadow (s : State) (f : FnId) (v : FnState) : (putFn s f v).shadow = s.shadow := rfl
@[simp] theorem putFn_commits (s : State) (f : FnId) (v : FnState) : (putFn s f v).commits = s.commits := rfl
@[simp] theorem putFn_latch (s : State) (f : FnId) (v : FnState) : (putFn s f v).latch = s.latch := rfl
@[simp] theorem putFn_reply (s : State) (f : FnId) (v : FnState) : (putFn s f v).reply = s.reply := rfl
@[simp] theorem putFn_mem (s : State) (f : FnId) (v : FnState) : (putFn s f v).mem = s.mem := rfl
@[simp] theorem putFn_frames (s : State) (f : FnId) (v : FnState) : (putFn s f v).frames = s.frames := rfl
@[simp] theorem putFn_nextFrame (s : State) (f : FnId) (v : FnState) : (putFn s f v).nextFrame = s.nextFrame := rfl
@[simp] theorem putFn_admissions (s : State) (f : FnId) (v : FnState) : (putFn s f v).admissions = s.admissions := rfl
@[simp] theorem putFn_threads (s : State) (f : FnId) (v : FnState) : (putFn s f v).threads = s.threads := rfl
@[simp] theorem putFn_cores (s : State) (f : FnId) (v : FnState) : (putFn s f v).cores = s.cores := rfl
@[simp] theorem putFn_clusters (s : State) (f : FnId) (v : FnState) : (putFn s f v).clusters = s.clusters := rfl
@[simp] theorem putFn_locks (s : State) (f : FnId) (v : FnState) : (putFn s f v).locks = s.locks := rfl
@[simp] theorem putFn_chans (s : State) (f : FnId) (v : FnState) : (putFn s f v).chans = s.chans := rfl
@[simp] theorem putFn_due (s : State) (f : FnId) (v : FnState) : (putFn s f v).due = s.due := rfl
@[simp] theorem putFn_classes (s : State) (f : FnId) (v : FnState) : (putFn s f v).classes = s.classes := rfl
@[simp] theorem putFn_sliceOf (s : State) (f : FnId) (v : FnState) : (putFn s f v).sliceOf = s.sliceOf := rfl
@[simp] theorem putFn_taken (s : State) (f : FnId) (v : FnState) : (putFn s f v).taken = s.taken := rfl
@[simp] theorem putFn_jobs (s : State) (f : FnId) (v : FnState) : (putFn s f v).jobs = s.jobs := rfl
@[simp] theorem putFn_ruleSets (s : State) (f : FnId) (v : FnState) : (putFn s f v).ruleSets = s.ruleSets := rfl
@[simp] theorem putFn_entries (s : State) (f : FnId) (v : FnState) : (putFn s f v).entries = s.entries := rfl
@[simp] theorem putFn_changes (s : State) (f : FnId) (v : FnState) : (putFn s f v).changes = s.changes := rfl
@[simp] theorem putFn_learns (s : State) (f : FnId) (v : FnState) : (putFn s f v).learns = s.learns := rfl
@[simp] theorem putFn_learnMarks (s : State) (f : FnId) (v : FnState) : (putFn s f v).learnMarks = s.learnMarks := rfl
@[simp] theorem putFn_overlays (s : State) (f : FnId) (v : FnState) : (putFn s f v).overlays = s.overlays := rfl
@[simp] theorem putFn_dma (s : State) (f : FnId) (v : FnState) : (putFn s f v).dma = s.dma := rfl
@[simp] theorem putFn_groups (s : State) (f : FnId) (v : FnState) : (putFn s f v).groups = s.groups := rfl
@[simp] theorem putFn_conns (s : State) (f : FnId) (v : FnState) : (putFn s f v).conns = s.conns := rfl
@[simp] theorem putFn_targets (s : State) (f : FnId) (v : FnState) : (putFn s f v).targets = s.targets := rfl
@[simp] theorem putFn_ctrls (s : State) (f : FnId) (v : FnState) : (putFn s f v).ctrls = s.ctrls := rfl
@[simp] theorem putFn_notices (s : State) (f : FnId) (v : FnState) : (putFn s f v).notices = s.notices := rfl
@[simp] theorem putFn_recorder (s : State) (f : FnId) (v : FnState) : (putFn s f v).recorder = s.recorder := rfl
@[simp] theorem putFn_mailboxes (s : State) (f : FnId) (v : FnState) : (putFn s f v).mailboxes = s.mailboxes := rfl
@[simp] theorem putFn_endpoints (s : State) (f : FnId) (v : FnState) : (putFn s f v).endpoints = s.endpoints := rfl
@[simp] theorem putFn_rings (s : State) (f : FnId) (v : FnState) : (putFn s f v).rings = s.rings := rfl
@[simp] theorem putFn_cplDue (s : State) (f : FnId) (v : FnState) : (putFn s f v).cplDue = s.cplDue := rfl
@[simp] theorem putFn_signals (s : State) (f : FnId) (v : FnState) : (putFn s f v).signals = s.signals := rfl
@[simp] theorem putFn_peerSlots (s : State) (f : FnId) (v : FnState) : (putFn s f v).peerSlots = s.peerSlots := rfl
@[simp] theorem putFn_delivered (s : State) (f : FnId) (v : FnState) : (putFn s f v).delivered = s.delivered := rfl
@[simp] theorem putFn_ledger (s : State) (f : FnId) (v : FnState) : (putFn s f v).ledger = s.ledger := rfl
@[simp] theorem putFn_ports (s : State) (f : FnId) (v : FnState) : (putFn s f v).ports = s.ports := rfl
@[simp] theorem putFn_nodes (s : State) (f : FnId) (v : FnState) : (putFn s f v).nodes = s.nodes := rfl
@[simp] theorem putFn_cellsDue (s : State) (f : FnId) (v : FnState) : (putFn s f v).cellsDue = s.cellsDue := rfl
@[simp] theorem putFn_buckets (s : State) (f : FnId) (v : FnState) : (putFn s f v).buckets = s.buckets := rfl
@[simp] theorem putFn_buckets2 (s : State) (f : FnId) (v : FnState) : (putFn s f v).buckets2 = s.buckets2 := rfl
@[simp] theorem putFn_drops (s : State) (f : FnId) (v : FnState) : (putFn s f v).drops = s.drops := rfl
@[simp] theorem putFn_sas (s : State) (f : FnId) (v : FnState) : (putFn s f v).sas = s.sas := rfl
@[simp] theorem putFn_errors (s : State) (f : FnId) (v : FnState) : (putFn s f v).errors = s.errors := rfl
@[simp] theorem putFn_handover (s : State) (f : FnId) (v : FnState) : (putFn s f v).handover = s.handover := rfl
@[simp] theorem putFn_boot (s : State) (f : FnId) (v : FnState) : (putFn s f v).boot = s.boot := rfl
@[simp] theorem putFn_spdm (s : State) (f : FnId) (v : FnState) : (putFn s f v).spdm = s.spdm := rfl
@[simp] theorem putFn_ncsi (s : State) (f : FnId) (v : FnState) : (putFn s f v).ncsi = s.ncsi := rfl
@[simp] theorem putFn_mgmt (s : State) (f : FnId) (v : FnState) : (putFn s f v).mgmt = s.mgmt := rfl
@[simp] theorem putFn_freeReads (s : State) (f : FnId) (v : FnState) : (putFn s f v).freeReads = s.freeReads := rfl
@[simp] theorem putFn_draws (s : State) (f : FnId) (v : FnState) : (putFn s f v).draws = s.draws := rfl
@[simp] theorem putFn_pending (s : State) (f : FnId) (v : FnState) : (putFn s f v).pending = s.pending := rfl

/-! ### putEndpoint -/

@[simp] theorem putEndpoint_power (s : State) (e : Endpoint) (v : EndpointState) : (putEndpoint s e v).power = s.power := rfl
@[simp] theorem putEndpoint_tick (s : State) (e : Endpoint) (v : EndpointState) : (putEndpoint s e v).tick = s.tick := rfl
@[simp] theorem putEndpoint_tbs (s : State) (e : Endpoint) (v : EndpointState) : (putEndpoint s e v).tbs = s.tbs := rfl
@[simp] theorem putEndpoint_words (s : State) (e : Endpoint) (v : EndpointState) : (putEndpoint s e v).words = s.words := rfl
@[simp] theorem putEndpoint_boundary (s : State) (e : Endpoint) (v : EndpointState) : (putEndpoint s e v).boundary = s.boundary := rfl
@[simp] theorem putEndpoint_undo (s : State) (e : Endpoint) (v : EndpointState) : (putEndpoint s e v).undo = s.undo := rfl
@[simp] theorem putEndpoint_versions (s : State) (e : Endpoint) (v : EndpointState) : (putEndpoint s e v).versions = s.versions := rfl
@[simp] theorem putEndpoint_shadow (s : State) (e : Endpoint) (v : EndpointState) : (putEndpoint s e v).shadow = s.shadow := rfl
@[simp] theorem putEndpoint_commits (s : State) (e : Endpoint) (v : EndpointState) : (putEndpoint s e v).commits = s.commits := rfl
@[simp] theorem putEndpoint_latch (s : State) (e : Endpoint) (v : EndpointState) : (putEndpoint s e v).latch = s.latch := rfl
@[simp] theorem putEndpoint_reply (s : State) (e : Endpoint) (v : EndpointState) : (putEndpoint s e v).reply = s.reply := rfl
@[simp] theorem putEndpoint_mem (s : State) (e : Endpoint) (v : EndpointState) : (putEndpoint s e v).mem = s.mem := rfl
@[simp] theorem putEndpoint_frames (s : State) (e : Endpoint) (v : EndpointState) : (putEndpoint s e v).frames = s.frames := rfl
@[simp] theorem putEndpoint_nextFrame (s : State) (e : Endpoint) (v : EndpointState) : (putEndpoint s e v).nextFrame = s.nextFrame := rfl
@[simp] theorem putEndpoint_admissions (s : State) (e : Endpoint) (v : EndpointState) : (putEndpoint s e v).admissions = s.admissions := rfl
@[simp] theorem putEndpoint_threads (s : State) (e : Endpoint) (v : EndpointState) : (putEndpoint s e v).threads = s.threads := rfl
@[simp] theorem putEndpoint_cores (s : State) (e : Endpoint) (v : EndpointState) : (putEndpoint s e v).cores = s.cores := rfl
@[simp] theorem putEndpoint_clusters (s : State) (e : Endpoint) (v : EndpointState) : (putEndpoint s e v).clusters = s.clusters := rfl
@[simp] theorem putEndpoint_locks (s : State) (e : Endpoint) (v : EndpointState) : (putEndpoint s e v).locks = s.locks := rfl
@[simp] theorem putEndpoint_chans (s : State) (e : Endpoint) (v : EndpointState) : (putEndpoint s e v).chans = s.chans := rfl
@[simp] theorem putEndpoint_due (s : State) (e : Endpoint) (v : EndpointState) : (putEndpoint s e v).due = s.due := rfl
@[simp] theorem putEndpoint_classes (s : State) (e : Endpoint) (v : EndpointState) : (putEndpoint s e v).classes = s.classes := rfl
@[simp] theorem putEndpoint_sliceOf (s : State) (e : Endpoint) (v : EndpointState) : (putEndpoint s e v).sliceOf = s.sliceOf := rfl
@[simp] theorem putEndpoint_taken (s : State) (e : Endpoint) (v : EndpointState) : (putEndpoint s e v).taken = s.taken := rfl
@[simp] theorem putEndpoint_jobs (s : State) (e : Endpoint) (v : EndpointState) : (putEndpoint s e v).jobs = s.jobs := rfl
@[simp] theorem putEndpoint_ruleSets (s : State) (e : Endpoint) (v : EndpointState) : (putEndpoint s e v).ruleSets = s.ruleSets := rfl
@[simp] theorem putEndpoint_entries (s : State) (e : Endpoint) (v : EndpointState) : (putEndpoint s e v).entries = s.entries := rfl
@[simp] theorem putEndpoint_changes (s : State) (e : Endpoint) (v : EndpointState) : (putEndpoint s e v).changes = s.changes := rfl
@[simp] theorem putEndpoint_learns (s : State) (e : Endpoint) (v : EndpointState) : (putEndpoint s e v).learns = s.learns := rfl
@[simp] theorem putEndpoint_learnMarks (s : State) (e : Endpoint) (v : EndpointState) : (putEndpoint s e v).learnMarks = s.learnMarks := rfl
@[simp] theorem putEndpoint_overlays (s : State) (e : Endpoint) (v : EndpointState) : (putEndpoint s e v).overlays = s.overlays := rfl
@[simp] theorem putEndpoint_dma (s : State) (e : Endpoint) (v : EndpointState) : (putEndpoint s e v).dma = s.dma := rfl
@[simp] theorem putEndpoint_groups (s : State) (e : Endpoint) (v : EndpointState) : (putEndpoint s e v).groups = s.groups := rfl
@[simp] theorem putEndpoint_conns (s : State) (e : Endpoint) (v : EndpointState) : (putEndpoint s e v).conns = s.conns := rfl
@[simp] theorem putEndpoint_targets (s : State) (e : Endpoint) (v : EndpointState) : (putEndpoint s e v).targets = s.targets := rfl
@[simp] theorem putEndpoint_ctrls (s : State) (e : Endpoint) (v : EndpointState) : (putEndpoint s e v).ctrls = s.ctrls := rfl
@[simp] theorem putEndpoint_notices (s : State) (e : Endpoint) (v : EndpointState) : (putEndpoint s e v).notices = s.notices := rfl
@[simp] theorem putEndpoint_recorder (s : State) (e : Endpoint) (v : EndpointState) : (putEndpoint s e v).recorder = s.recorder := rfl
@[simp] theorem putEndpoint_mailboxes (s : State) (e : Endpoint) (v : EndpointState) : (putEndpoint s e v).mailboxes = s.mailboxes := rfl
@[simp] theorem putEndpoint_functions (s : State) (e : Endpoint) (v : EndpointState) : (putEndpoint s e v).functions = s.functions := rfl
@[simp] theorem putEndpoint_rings (s : State) (e : Endpoint) (v : EndpointState) : (putEndpoint s e v).rings = s.rings := rfl
@[simp] theorem putEndpoint_cplDue (s : State) (e : Endpoint) (v : EndpointState) : (putEndpoint s e v).cplDue = s.cplDue := rfl
@[simp] theorem putEndpoint_signals (s : State) (e : Endpoint) (v : EndpointState) : (putEndpoint s e v).signals = s.signals := rfl
@[simp] theorem putEndpoint_peerSlots (s : State) (e : Endpoint) (v : EndpointState) : (putEndpoint s e v).peerSlots = s.peerSlots := rfl
@[simp] theorem putEndpoint_delivered (s : State) (e : Endpoint) (v : EndpointState) : (putEndpoint s e v).delivered = s.delivered := rfl
@[simp] theorem putEndpoint_ledger (s : State) (e : Endpoint) (v : EndpointState) : (putEndpoint s e v).ledger = s.ledger := rfl
@[simp] theorem putEndpoint_ports (s : State) (e : Endpoint) (v : EndpointState) : (putEndpoint s e v).ports = s.ports := rfl
@[simp] theorem putEndpoint_nodes (s : State) (e : Endpoint) (v : EndpointState) : (putEndpoint s e v).nodes = s.nodes := rfl
@[simp] theorem putEndpoint_cellsDue (s : State) (e : Endpoint) (v : EndpointState) : (putEndpoint s e v).cellsDue = s.cellsDue := rfl
@[simp] theorem putEndpoint_buckets (s : State) (e : Endpoint) (v : EndpointState) : (putEndpoint s e v).buckets = s.buckets := rfl
@[simp] theorem putEndpoint_buckets2 (s : State) (e : Endpoint) (v : EndpointState) : (putEndpoint s e v).buckets2 = s.buckets2 := rfl
@[simp] theorem putEndpoint_drops (s : State) (e : Endpoint) (v : EndpointState) : (putEndpoint s e v).drops = s.drops := rfl
@[simp] theorem putEndpoint_sas (s : State) (e : Endpoint) (v : EndpointState) : (putEndpoint s e v).sas = s.sas := rfl
@[simp] theorem putEndpoint_errors (s : State) (e : Endpoint) (v : EndpointState) : (putEndpoint s e v).errors = s.errors := rfl
@[simp] theorem putEndpoint_handover (s : State) (e : Endpoint) (v : EndpointState) : (putEndpoint s e v).handover = s.handover := rfl
@[simp] theorem putEndpoint_boot (s : State) (e : Endpoint) (v : EndpointState) : (putEndpoint s e v).boot = s.boot := rfl
@[simp] theorem putEndpoint_spdm (s : State) (e : Endpoint) (v : EndpointState) : (putEndpoint s e v).spdm = s.spdm := rfl
@[simp] theorem putEndpoint_ncsi (s : State) (e : Endpoint) (v : EndpointState) : (putEndpoint s e v).ncsi = s.ncsi := rfl
@[simp] theorem putEndpoint_mgmt (s : State) (e : Endpoint) (v : EndpointState) : (putEndpoint s e v).mgmt = s.mgmt := rfl
@[simp] theorem putEndpoint_freeReads (s : State) (e : Endpoint) (v : EndpointState) : (putEndpoint s e v).freeReads = s.freeReads := rfl
@[simp] theorem putEndpoint_draws (s : State) (e : Endpoint) (v : EndpointState) : (putEndpoint s e v).draws = s.draws := rfl
@[simp] theorem putEndpoint_pending (s : State) (e : Endpoint) (v : EndpointState) : (putEndpoint s e v).pending = s.pending := rfl

/-! ### putPort -/

@[simp] theorem putPort_power (s : State) (n : Nat) (v : PortState) : (putPort s n v).power = s.power := rfl
@[simp] theorem putPort_tick (s : State) (n : Nat) (v : PortState) : (putPort s n v).tick = s.tick := rfl
@[simp] theorem putPort_tbs (s : State) (n : Nat) (v : PortState) : (putPort s n v).tbs = s.tbs := rfl
@[simp] theorem putPort_words (s : State) (n : Nat) (v : PortState) : (putPort s n v).words = s.words := rfl
@[simp] theorem putPort_boundary (s : State) (n : Nat) (v : PortState) : (putPort s n v).boundary = s.boundary := rfl
@[simp] theorem putPort_undo (s : State) (n : Nat) (v : PortState) : (putPort s n v).undo = s.undo := rfl
@[simp] theorem putPort_versions (s : State) (n : Nat) (v : PortState) : (putPort s n v).versions = s.versions := rfl
@[simp] theorem putPort_shadow (s : State) (n : Nat) (v : PortState) : (putPort s n v).shadow = s.shadow := rfl
@[simp] theorem putPort_commits (s : State) (n : Nat) (v : PortState) : (putPort s n v).commits = s.commits := rfl
@[simp] theorem putPort_latch (s : State) (n : Nat) (v : PortState) : (putPort s n v).latch = s.latch := rfl
@[simp] theorem putPort_reply (s : State) (n : Nat) (v : PortState) : (putPort s n v).reply = s.reply := rfl
@[simp] theorem putPort_mem (s : State) (n : Nat) (v : PortState) : (putPort s n v).mem = s.mem := rfl
@[simp] theorem putPort_frames (s : State) (n : Nat) (v : PortState) : (putPort s n v).frames = s.frames := rfl
@[simp] theorem putPort_nextFrame (s : State) (n : Nat) (v : PortState) : (putPort s n v).nextFrame = s.nextFrame := rfl
@[simp] theorem putPort_admissions (s : State) (n : Nat) (v : PortState) : (putPort s n v).admissions = s.admissions := rfl
@[simp] theorem putPort_threads (s : State) (n : Nat) (v : PortState) : (putPort s n v).threads = s.threads := rfl
@[simp] theorem putPort_cores (s : State) (n : Nat) (v : PortState) : (putPort s n v).cores = s.cores := rfl
@[simp] theorem putPort_clusters (s : State) (n : Nat) (v : PortState) : (putPort s n v).clusters = s.clusters := rfl
@[simp] theorem putPort_locks (s : State) (n : Nat) (v : PortState) : (putPort s n v).locks = s.locks := rfl
@[simp] theorem putPort_chans (s : State) (n : Nat) (v : PortState) : (putPort s n v).chans = s.chans := rfl
@[simp] theorem putPort_due (s : State) (n : Nat) (v : PortState) : (putPort s n v).due = s.due := rfl
@[simp] theorem putPort_classes (s : State) (n : Nat) (v : PortState) : (putPort s n v).classes = s.classes := rfl
@[simp] theorem putPort_sliceOf (s : State) (n : Nat) (v : PortState) : (putPort s n v).sliceOf = s.sliceOf := rfl
@[simp] theorem putPort_taken (s : State) (n : Nat) (v : PortState) : (putPort s n v).taken = s.taken := rfl
@[simp] theorem putPort_jobs (s : State) (n : Nat) (v : PortState) : (putPort s n v).jobs = s.jobs := rfl
@[simp] theorem putPort_ruleSets (s : State) (n : Nat) (v : PortState) : (putPort s n v).ruleSets = s.ruleSets := rfl
@[simp] theorem putPort_entries (s : State) (n : Nat) (v : PortState) : (putPort s n v).entries = s.entries := rfl
@[simp] theorem putPort_changes (s : State) (n : Nat) (v : PortState) : (putPort s n v).changes = s.changes := rfl
@[simp] theorem putPort_learns (s : State) (n : Nat) (v : PortState) : (putPort s n v).learns = s.learns := rfl
@[simp] theorem putPort_learnMarks (s : State) (n : Nat) (v : PortState) : (putPort s n v).learnMarks = s.learnMarks := rfl
@[simp] theorem putPort_overlays (s : State) (n : Nat) (v : PortState) : (putPort s n v).overlays = s.overlays := rfl
@[simp] theorem putPort_dma (s : State) (n : Nat) (v : PortState) : (putPort s n v).dma = s.dma := rfl
@[simp] theorem putPort_groups (s : State) (n : Nat) (v : PortState) : (putPort s n v).groups = s.groups := rfl
@[simp] theorem putPort_conns (s : State) (n : Nat) (v : PortState) : (putPort s n v).conns = s.conns := rfl
@[simp] theorem putPort_targets (s : State) (n : Nat) (v : PortState) : (putPort s n v).targets = s.targets := rfl
@[simp] theorem putPort_ctrls (s : State) (n : Nat) (v : PortState) : (putPort s n v).ctrls = s.ctrls := rfl
@[simp] theorem putPort_notices (s : State) (n : Nat) (v : PortState) : (putPort s n v).notices = s.notices := rfl
@[simp] theorem putPort_recorder (s : State) (n : Nat) (v : PortState) : (putPort s n v).recorder = s.recorder := rfl
@[simp] theorem putPort_mailboxes (s : State) (n : Nat) (v : PortState) : (putPort s n v).mailboxes = s.mailboxes := rfl
@[simp] theorem putPort_endpoints (s : State) (n : Nat) (v : PortState) : (putPort s n v).endpoints = s.endpoints := rfl
@[simp] theorem putPort_functions (s : State) (n : Nat) (v : PortState) : (putPort s n v).functions = s.functions := rfl
@[simp] theorem putPort_rings (s : State) (n : Nat) (v : PortState) : (putPort s n v).rings = s.rings := rfl
@[simp] theorem putPort_cplDue (s : State) (n : Nat) (v : PortState) : (putPort s n v).cplDue = s.cplDue := rfl
@[simp] theorem putPort_signals (s : State) (n : Nat) (v : PortState) : (putPort s n v).signals = s.signals := rfl
@[simp] theorem putPort_peerSlots (s : State) (n : Nat) (v : PortState) : (putPort s n v).peerSlots = s.peerSlots := rfl
@[simp] theorem putPort_delivered (s : State) (n : Nat) (v : PortState) : (putPort s n v).delivered = s.delivered := rfl
@[simp] theorem putPort_ledger (s : State) (n : Nat) (v : PortState) : (putPort s n v).ledger = s.ledger := rfl
@[simp] theorem putPort_nodes (s : State) (n : Nat) (v : PortState) : (putPort s n v).nodes = s.nodes := rfl
@[simp] theorem putPort_cellsDue (s : State) (n : Nat) (v : PortState) : (putPort s n v).cellsDue = s.cellsDue := rfl
@[simp] theorem putPort_buckets (s : State) (n : Nat) (v : PortState) : (putPort s n v).buckets = s.buckets := rfl
@[simp] theorem putPort_buckets2 (s : State) (n : Nat) (v : PortState) : (putPort s n v).buckets2 = s.buckets2 := rfl
@[simp] theorem putPort_drops (s : State) (n : Nat) (v : PortState) : (putPort s n v).drops = s.drops := rfl
@[simp] theorem putPort_sas (s : State) (n : Nat) (v : PortState) : (putPort s n v).sas = s.sas := rfl
@[simp] theorem putPort_errors (s : State) (n : Nat) (v : PortState) : (putPort s n v).errors = s.errors := rfl
@[simp] theorem putPort_handover (s : State) (n : Nat) (v : PortState) : (putPort s n v).handover = s.handover := rfl
@[simp] theorem putPort_boot (s : State) (n : Nat) (v : PortState) : (putPort s n v).boot = s.boot := rfl
@[simp] theorem putPort_spdm (s : State) (n : Nat) (v : PortState) : (putPort s n v).spdm = s.spdm := rfl
@[simp] theorem putPort_ncsi (s : State) (n : Nat) (v : PortState) : (putPort s n v).ncsi = s.ncsi := rfl
@[simp] theorem putPort_mgmt (s : State) (n : Nat) (v : PortState) : (putPort s n v).mgmt = s.mgmt := rfl
@[simp] theorem putPort_freeReads (s : State) (n : Nat) (v : PortState) : (putPort s n v).freeReads = s.freeReads := rfl
@[simp] theorem putPort_draws (s : State) (n : Nat) (v : PortState) : (putPort s n v).draws = s.draws := rfl
@[simp] theorem putPort_pending (s : State) (n : Nat) (v : PortState) : (putPort s n v).pending = s.pending := rfl

/-! ### putNode -/

@[simp] theorem putNode_power (s : State) (n : Nat) (v : Node) : (putNode s n v).power = s.power := rfl
@[simp] theorem putNode_tick (s : State) (n : Nat) (v : Node) : (putNode s n v).tick = s.tick := rfl
@[simp] theorem putNode_tbs (s : State) (n : Nat) (v : Node) : (putNode s n v).tbs = s.tbs := rfl
@[simp] theorem putNode_words (s : State) (n : Nat) (v : Node) : (putNode s n v).words = s.words := rfl
@[simp] theorem putNode_boundary (s : State) (n : Nat) (v : Node) : (putNode s n v).boundary = s.boundary := rfl
@[simp] theorem putNode_undo (s : State) (n : Nat) (v : Node) : (putNode s n v).undo = s.undo := rfl
@[simp] theorem putNode_versions (s : State) (n : Nat) (v : Node) : (putNode s n v).versions = s.versions := rfl
@[simp] theorem putNode_shadow (s : State) (n : Nat) (v : Node) : (putNode s n v).shadow = s.shadow := rfl
@[simp] theorem putNode_commits (s : State) (n : Nat) (v : Node) : (putNode s n v).commits = s.commits := rfl
@[simp] theorem putNode_latch (s : State) (n : Nat) (v : Node) : (putNode s n v).latch = s.latch := rfl
@[simp] theorem putNode_reply (s : State) (n : Nat) (v : Node) : (putNode s n v).reply = s.reply := rfl
@[simp] theorem putNode_mem (s : State) (n : Nat) (v : Node) : (putNode s n v).mem = s.mem := rfl
@[simp] theorem putNode_frames (s : State) (n : Nat) (v : Node) : (putNode s n v).frames = s.frames := rfl
@[simp] theorem putNode_nextFrame (s : State) (n : Nat) (v : Node) : (putNode s n v).nextFrame = s.nextFrame := rfl
@[simp] theorem putNode_admissions (s : State) (n : Nat) (v : Node) : (putNode s n v).admissions = s.admissions := rfl
@[simp] theorem putNode_threads (s : State) (n : Nat) (v : Node) : (putNode s n v).threads = s.threads := rfl
@[simp] theorem putNode_cores (s : State) (n : Nat) (v : Node) : (putNode s n v).cores = s.cores := rfl
@[simp] theorem putNode_clusters (s : State) (n : Nat) (v : Node) : (putNode s n v).clusters = s.clusters := rfl
@[simp] theorem putNode_locks (s : State) (n : Nat) (v : Node) : (putNode s n v).locks = s.locks := rfl
@[simp] theorem putNode_chans (s : State) (n : Nat) (v : Node) : (putNode s n v).chans = s.chans := rfl
@[simp] theorem putNode_due (s : State) (n : Nat) (v : Node) : (putNode s n v).due = s.due := rfl
@[simp] theorem putNode_classes (s : State) (n : Nat) (v : Node) : (putNode s n v).classes = s.classes := rfl
@[simp] theorem putNode_sliceOf (s : State) (n : Nat) (v : Node) : (putNode s n v).sliceOf = s.sliceOf := rfl
@[simp] theorem putNode_taken (s : State) (n : Nat) (v : Node) : (putNode s n v).taken = s.taken := rfl
@[simp] theorem putNode_jobs (s : State) (n : Nat) (v : Node) : (putNode s n v).jobs = s.jobs := rfl
@[simp] theorem putNode_ruleSets (s : State) (n : Nat) (v : Node) : (putNode s n v).ruleSets = s.ruleSets := rfl
@[simp] theorem putNode_entries (s : State) (n : Nat) (v : Node) : (putNode s n v).entries = s.entries := rfl
@[simp] theorem putNode_changes (s : State) (n : Nat) (v : Node) : (putNode s n v).changes = s.changes := rfl
@[simp] theorem putNode_learns (s : State) (n : Nat) (v : Node) : (putNode s n v).learns = s.learns := rfl
@[simp] theorem putNode_learnMarks (s : State) (n : Nat) (v : Node) : (putNode s n v).learnMarks = s.learnMarks := rfl
@[simp] theorem putNode_overlays (s : State) (n : Nat) (v : Node) : (putNode s n v).overlays = s.overlays := rfl
@[simp] theorem putNode_dma (s : State) (n : Nat) (v : Node) : (putNode s n v).dma = s.dma := rfl
@[simp] theorem putNode_groups (s : State) (n : Nat) (v : Node) : (putNode s n v).groups = s.groups := rfl
@[simp] theorem putNode_conns (s : State) (n : Nat) (v : Node) : (putNode s n v).conns = s.conns := rfl
@[simp] theorem putNode_targets (s : State) (n : Nat) (v : Node) : (putNode s n v).targets = s.targets := rfl
@[simp] theorem putNode_ctrls (s : State) (n : Nat) (v : Node) : (putNode s n v).ctrls = s.ctrls := rfl
@[simp] theorem putNode_notices (s : State) (n : Nat) (v : Node) : (putNode s n v).notices = s.notices := rfl
@[simp] theorem putNode_recorder (s : State) (n : Nat) (v : Node) : (putNode s n v).recorder = s.recorder := rfl
@[simp] theorem putNode_mailboxes (s : State) (n : Nat) (v : Node) : (putNode s n v).mailboxes = s.mailboxes := rfl
@[simp] theorem putNode_endpoints (s : State) (n : Nat) (v : Node) : (putNode s n v).endpoints = s.endpoints := rfl
@[simp] theorem putNode_functions (s : State) (n : Nat) (v : Node) : (putNode s n v).functions = s.functions := rfl
@[simp] theorem putNode_rings (s : State) (n : Nat) (v : Node) : (putNode s n v).rings = s.rings := rfl
@[simp] theorem putNode_cplDue (s : State) (n : Nat) (v : Node) : (putNode s n v).cplDue = s.cplDue := rfl
@[simp] theorem putNode_signals (s : State) (n : Nat) (v : Node) : (putNode s n v).signals = s.signals := rfl
@[simp] theorem putNode_peerSlots (s : State) (n : Nat) (v : Node) : (putNode s n v).peerSlots = s.peerSlots := rfl
@[simp] theorem putNode_delivered (s : State) (n : Nat) (v : Node) : (putNode s n v).delivered = s.delivered := rfl
@[simp] theorem putNode_ledger (s : State) (n : Nat) (v : Node) : (putNode s n v).ledger = s.ledger := rfl
@[simp] theorem putNode_ports (s : State) (n : Nat) (v : Node) : (putNode s n v).ports = s.ports := rfl
@[simp] theorem putNode_cellsDue (s : State) (n : Nat) (v : Node) : (putNode s n v).cellsDue = s.cellsDue := rfl
@[simp] theorem putNode_buckets (s : State) (n : Nat) (v : Node) : (putNode s n v).buckets = s.buckets := rfl
@[simp] theorem putNode_buckets2 (s : State) (n : Nat) (v : Node) : (putNode s n v).buckets2 = s.buckets2 := rfl
@[simp] theorem putNode_drops (s : State) (n : Nat) (v : Node) : (putNode s n v).drops = s.drops := rfl
@[simp] theorem putNode_sas (s : State) (n : Nat) (v : Node) : (putNode s n v).sas = s.sas := rfl
@[simp] theorem putNode_errors (s : State) (n : Nat) (v : Node) : (putNode s n v).errors = s.errors := rfl
@[simp] theorem putNode_handover (s : State) (n : Nat) (v : Node) : (putNode s n v).handover = s.handover := rfl
@[simp] theorem putNode_boot (s : State) (n : Nat) (v : Node) : (putNode s n v).boot = s.boot := rfl
@[simp] theorem putNode_spdm (s : State) (n : Nat) (v : Node) : (putNode s n v).spdm = s.spdm := rfl
@[simp] theorem putNode_ncsi (s : State) (n : Nat) (v : Node) : (putNode s n v).ncsi = s.ncsi := rfl
@[simp] theorem putNode_mgmt (s : State) (n : Nat) (v : Node) : (putNode s n v).mgmt = s.mgmt := rfl
@[simp] theorem putNode_freeReads (s : State) (n : Nat) (v : Node) : (putNode s n v).freeReads = s.freeReads := rfl
@[simp] theorem putNode_draws (s : State) (n : Nat) (v : Node) : (putNode s n v).draws = s.draws := rfl
@[simp] theorem putNode_pending (s : State) (n : Nat) (v : Node) : (putNode s n v).pending = s.pending := rfl

/-! ### putMailbox -/

@[simp] theorem putMailbox_power (s : State) (n : Nat) (v : Mailbox) : (putMailbox s n v).power = s.power := rfl
@[simp] theorem putMailbox_tick (s : State) (n : Nat) (v : Mailbox) : (putMailbox s n v).tick = s.tick := rfl
@[simp] theorem putMailbox_tbs (s : State) (n : Nat) (v : Mailbox) : (putMailbox s n v).tbs = s.tbs := rfl
@[simp] theorem putMailbox_words (s : State) (n : Nat) (v : Mailbox) : (putMailbox s n v).words = s.words := rfl
@[simp] theorem putMailbox_boundary (s : State) (n : Nat) (v : Mailbox) : (putMailbox s n v).boundary = s.boundary := rfl
@[simp] theorem putMailbox_undo (s : State) (n : Nat) (v : Mailbox) : (putMailbox s n v).undo = s.undo := rfl
@[simp] theorem putMailbox_versions (s : State) (n : Nat) (v : Mailbox) : (putMailbox s n v).versions = s.versions := rfl
@[simp] theorem putMailbox_shadow (s : State) (n : Nat) (v : Mailbox) : (putMailbox s n v).shadow = s.shadow := rfl
@[simp] theorem putMailbox_commits (s : State) (n : Nat) (v : Mailbox) : (putMailbox s n v).commits = s.commits := rfl
@[simp] theorem putMailbox_latch (s : State) (n : Nat) (v : Mailbox) : (putMailbox s n v).latch = s.latch := rfl
@[simp] theorem putMailbox_reply (s : State) (n : Nat) (v : Mailbox) : (putMailbox s n v).reply = s.reply := rfl
@[simp] theorem putMailbox_mem (s : State) (n : Nat) (v : Mailbox) : (putMailbox s n v).mem = s.mem := rfl
@[simp] theorem putMailbox_frames (s : State) (n : Nat) (v : Mailbox) : (putMailbox s n v).frames = s.frames := rfl
@[simp] theorem putMailbox_nextFrame (s : State) (n : Nat) (v : Mailbox) : (putMailbox s n v).nextFrame = s.nextFrame := rfl
@[simp] theorem putMailbox_admissions (s : State) (n : Nat) (v : Mailbox) : (putMailbox s n v).admissions = s.admissions := rfl
@[simp] theorem putMailbox_threads (s : State) (n : Nat) (v : Mailbox) : (putMailbox s n v).threads = s.threads := rfl
@[simp] theorem putMailbox_cores (s : State) (n : Nat) (v : Mailbox) : (putMailbox s n v).cores = s.cores := rfl
@[simp] theorem putMailbox_clusters (s : State) (n : Nat) (v : Mailbox) : (putMailbox s n v).clusters = s.clusters := rfl
@[simp] theorem putMailbox_locks (s : State) (n : Nat) (v : Mailbox) : (putMailbox s n v).locks = s.locks := rfl
@[simp] theorem putMailbox_chans (s : State) (n : Nat) (v : Mailbox) : (putMailbox s n v).chans = s.chans := rfl
@[simp] theorem putMailbox_due (s : State) (n : Nat) (v : Mailbox) : (putMailbox s n v).due = s.due := rfl
@[simp] theorem putMailbox_classes (s : State) (n : Nat) (v : Mailbox) : (putMailbox s n v).classes = s.classes := rfl
@[simp] theorem putMailbox_sliceOf (s : State) (n : Nat) (v : Mailbox) : (putMailbox s n v).sliceOf = s.sliceOf := rfl
@[simp] theorem putMailbox_taken (s : State) (n : Nat) (v : Mailbox) : (putMailbox s n v).taken = s.taken := rfl
@[simp] theorem putMailbox_jobs (s : State) (n : Nat) (v : Mailbox) : (putMailbox s n v).jobs = s.jobs := rfl
@[simp] theorem putMailbox_ruleSets (s : State) (n : Nat) (v : Mailbox) : (putMailbox s n v).ruleSets = s.ruleSets := rfl
@[simp] theorem putMailbox_entries (s : State) (n : Nat) (v : Mailbox) : (putMailbox s n v).entries = s.entries := rfl
@[simp] theorem putMailbox_changes (s : State) (n : Nat) (v : Mailbox) : (putMailbox s n v).changes = s.changes := rfl
@[simp] theorem putMailbox_learns (s : State) (n : Nat) (v : Mailbox) : (putMailbox s n v).learns = s.learns := rfl
@[simp] theorem putMailbox_learnMarks (s : State) (n : Nat) (v : Mailbox) : (putMailbox s n v).learnMarks = s.learnMarks := rfl
@[simp] theorem putMailbox_overlays (s : State) (n : Nat) (v : Mailbox) : (putMailbox s n v).overlays = s.overlays := rfl
@[simp] theorem putMailbox_dma (s : State) (n : Nat) (v : Mailbox) : (putMailbox s n v).dma = s.dma := rfl
@[simp] theorem putMailbox_groups (s : State) (n : Nat) (v : Mailbox) : (putMailbox s n v).groups = s.groups := rfl
@[simp] theorem putMailbox_conns (s : State) (n : Nat) (v : Mailbox) : (putMailbox s n v).conns = s.conns := rfl
@[simp] theorem putMailbox_targets (s : State) (n : Nat) (v : Mailbox) : (putMailbox s n v).targets = s.targets := rfl
@[simp] theorem putMailbox_ctrls (s : State) (n : Nat) (v : Mailbox) : (putMailbox s n v).ctrls = s.ctrls := rfl
@[simp] theorem putMailbox_notices (s : State) (n : Nat) (v : Mailbox) : (putMailbox s n v).notices = s.notices := rfl
@[simp] theorem putMailbox_recorder (s : State) (n : Nat) (v : Mailbox) : (putMailbox s n v).recorder = s.recorder := rfl
@[simp] theorem putMailbox_endpoints (s : State) (n : Nat) (v : Mailbox) : (putMailbox s n v).endpoints = s.endpoints := rfl
@[simp] theorem putMailbox_functions (s : State) (n : Nat) (v : Mailbox) : (putMailbox s n v).functions = s.functions := rfl
@[simp] theorem putMailbox_rings (s : State) (n : Nat) (v : Mailbox) : (putMailbox s n v).rings = s.rings := rfl
@[simp] theorem putMailbox_cplDue (s : State) (n : Nat) (v : Mailbox) : (putMailbox s n v).cplDue = s.cplDue := rfl
@[simp] theorem putMailbox_signals (s : State) (n : Nat) (v : Mailbox) : (putMailbox s n v).signals = s.signals := rfl
@[simp] theorem putMailbox_peerSlots (s : State) (n : Nat) (v : Mailbox) : (putMailbox s n v).peerSlots = s.peerSlots := rfl
@[simp] theorem putMailbox_delivered (s : State) (n : Nat) (v : Mailbox) : (putMailbox s n v).delivered = s.delivered := rfl
@[simp] theorem putMailbox_ledger (s : State) (n : Nat) (v : Mailbox) : (putMailbox s n v).ledger = s.ledger := rfl
@[simp] theorem putMailbox_ports (s : State) (n : Nat) (v : Mailbox) : (putMailbox s n v).ports = s.ports := rfl
@[simp] theorem putMailbox_nodes (s : State) (n : Nat) (v : Mailbox) : (putMailbox s n v).nodes = s.nodes := rfl
@[simp] theorem putMailbox_cellsDue (s : State) (n : Nat) (v : Mailbox) : (putMailbox s n v).cellsDue = s.cellsDue := rfl
@[simp] theorem putMailbox_buckets (s : State) (n : Nat) (v : Mailbox) : (putMailbox s n v).buckets = s.buckets := rfl
@[simp] theorem putMailbox_buckets2 (s : State) (n : Nat) (v : Mailbox) : (putMailbox s n v).buckets2 = s.buckets2 := rfl
@[simp] theorem putMailbox_drops (s : State) (n : Nat) (v : Mailbox) : (putMailbox s n v).drops = s.drops := rfl
@[simp] theorem putMailbox_sas (s : State) (n : Nat) (v : Mailbox) : (putMailbox s n v).sas = s.sas := rfl
@[simp] theorem putMailbox_errors (s : State) (n : Nat) (v : Mailbox) : (putMailbox s n v).errors = s.errors := rfl
@[simp] theorem putMailbox_handover (s : State) (n : Nat) (v : Mailbox) : (putMailbox s n v).handover = s.handover := rfl
@[simp] theorem putMailbox_boot (s : State) (n : Nat) (v : Mailbox) : (putMailbox s n v).boot = s.boot := rfl
@[simp] theorem putMailbox_spdm (s : State) (n : Nat) (v : Mailbox) : (putMailbox s n v).spdm = s.spdm := rfl
@[simp] theorem putMailbox_ncsi (s : State) (n : Nat) (v : Mailbox) : (putMailbox s n v).ncsi = s.ncsi := rfl
@[simp] theorem putMailbox_mgmt (s : State) (n : Nat) (v : Mailbox) : (putMailbox s n v).mgmt = s.mgmt := rfl
@[simp] theorem putMailbox_freeReads (s : State) (n : Nat) (v : Mailbox) : (putMailbox s n v).freeReads = s.freeReads := rfl
@[simp] theorem putMailbox_draws (s : State) (n : Nat) (v : Mailbox) : (putMailbox s n v).draws = s.draws := rfl
@[simp] theorem putMailbox_pending (s : State) (n : Nat) (v : Mailbox) : (putMailbox s n v).pending = s.pending := rfl

/-! ### addDue -/

@[simp] theorem addDue_power (s : State) (d : Due) : (addDue s d).power = s.power := rfl
@[simp] theorem addDue_tick (s : State) (d : Due) : (addDue s d).tick = s.tick := rfl
@[simp] theorem addDue_tbs (s : State) (d : Due) : (addDue s d).tbs = s.tbs := rfl
@[simp] theorem addDue_words (s : State) (d : Due) : (addDue s d).words = s.words := rfl
@[simp] theorem addDue_boundary (s : State) (d : Due) : (addDue s d).boundary = s.boundary := rfl
@[simp] theorem addDue_undo (s : State) (d : Due) : (addDue s d).undo = s.undo := rfl
@[simp] theorem addDue_versions (s : State) (d : Due) : (addDue s d).versions = s.versions := rfl
@[simp] theorem addDue_shadow (s : State) (d : Due) : (addDue s d).shadow = s.shadow := rfl
@[simp] theorem addDue_commits (s : State) (d : Due) : (addDue s d).commits = s.commits := rfl
@[simp] theorem addDue_latch (s : State) (d : Due) : (addDue s d).latch = s.latch := rfl
@[simp] theorem addDue_reply (s : State) (d : Due) : (addDue s d).reply = s.reply := rfl
@[simp] theorem addDue_mem (s : State) (d : Due) : (addDue s d).mem = s.mem := rfl
@[simp] theorem addDue_frames (s : State) (d : Due) : (addDue s d).frames = s.frames := rfl
@[simp] theorem addDue_nextFrame (s : State) (d : Due) : (addDue s d).nextFrame = s.nextFrame := rfl
@[simp] theorem addDue_admissions (s : State) (d : Due) : (addDue s d).admissions = s.admissions := rfl
@[simp] theorem addDue_threads (s : State) (d : Due) : (addDue s d).threads = s.threads := rfl
@[simp] theorem addDue_cores (s : State) (d : Due) : (addDue s d).cores = s.cores := rfl
@[simp] theorem addDue_clusters (s : State) (d : Due) : (addDue s d).clusters = s.clusters := rfl
@[simp] theorem addDue_locks (s : State) (d : Due) : (addDue s d).locks = s.locks := rfl
@[simp] theorem addDue_chans (s : State) (d : Due) : (addDue s d).chans = s.chans := rfl
@[simp] theorem addDue_classes (s : State) (d : Due) : (addDue s d).classes = s.classes := rfl
@[simp] theorem addDue_sliceOf (s : State) (d : Due) : (addDue s d).sliceOf = s.sliceOf := rfl
@[simp] theorem addDue_taken (s : State) (d : Due) : (addDue s d).taken = s.taken := rfl
@[simp] theorem addDue_jobs (s : State) (d : Due) : (addDue s d).jobs = s.jobs := rfl
@[simp] theorem addDue_ruleSets (s : State) (d : Due) : (addDue s d).ruleSets = s.ruleSets := rfl
@[simp] theorem addDue_entries (s : State) (d : Due) : (addDue s d).entries = s.entries := rfl
@[simp] theorem addDue_changes (s : State) (d : Due) : (addDue s d).changes = s.changes := rfl
@[simp] theorem addDue_learns (s : State) (d : Due) : (addDue s d).learns = s.learns := rfl
@[simp] theorem addDue_learnMarks (s : State) (d : Due) : (addDue s d).learnMarks = s.learnMarks := rfl
@[simp] theorem addDue_overlays (s : State) (d : Due) : (addDue s d).overlays = s.overlays := rfl
@[simp] theorem addDue_dma (s : State) (d : Due) : (addDue s d).dma = s.dma := rfl
@[simp] theorem addDue_groups (s : State) (d : Due) : (addDue s d).groups = s.groups := rfl
@[simp] theorem addDue_conns (s : State) (d : Due) : (addDue s d).conns = s.conns := rfl
@[simp] theorem addDue_targets (s : State) (d : Due) : (addDue s d).targets = s.targets := rfl
@[simp] theorem addDue_ctrls (s : State) (d : Due) : (addDue s d).ctrls = s.ctrls := rfl
@[simp] theorem addDue_notices (s : State) (d : Due) : (addDue s d).notices = s.notices := rfl
@[simp] theorem addDue_recorder (s : State) (d : Due) : (addDue s d).recorder = s.recorder := rfl
@[simp] theorem addDue_mailboxes (s : State) (d : Due) : (addDue s d).mailboxes = s.mailboxes := rfl
@[simp] theorem addDue_endpoints (s : State) (d : Due) : (addDue s d).endpoints = s.endpoints := rfl
@[simp] theorem addDue_functions (s : State) (d : Due) : (addDue s d).functions = s.functions := rfl
@[simp] theorem addDue_rings (s : State) (d : Due) : (addDue s d).rings = s.rings := rfl
@[simp] theorem addDue_cplDue (s : State) (d : Due) : (addDue s d).cplDue = s.cplDue := rfl
@[simp] theorem addDue_signals (s : State) (d : Due) : (addDue s d).signals = s.signals := rfl
@[simp] theorem addDue_peerSlots (s : State) (d : Due) : (addDue s d).peerSlots = s.peerSlots := rfl
@[simp] theorem addDue_delivered (s : State) (d : Due) : (addDue s d).delivered = s.delivered := rfl
@[simp] theorem addDue_ledger (s : State) (d : Due) : (addDue s d).ledger = s.ledger := rfl
@[simp] theorem addDue_ports (s : State) (d : Due) : (addDue s d).ports = s.ports := rfl
@[simp] theorem addDue_nodes (s : State) (d : Due) : (addDue s d).nodes = s.nodes := rfl
@[simp] theorem addDue_cellsDue (s : State) (d : Due) : (addDue s d).cellsDue = s.cellsDue := rfl
@[simp] theorem addDue_buckets (s : State) (d : Due) : (addDue s d).buckets = s.buckets := rfl
@[simp] theorem addDue_buckets2 (s : State) (d : Due) : (addDue s d).buckets2 = s.buckets2 := rfl
@[simp] theorem addDue_drops (s : State) (d : Due) : (addDue s d).drops = s.drops := rfl
@[simp] theorem addDue_sas (s : State) (d : Due) : (addDue s d).sas = s.sas := rfl
@[simp] theorem addDue_errors (s : State) (d : Due) : (addDue s d).errors = s.errors := rfl
@[simp] theorem addDue_handover (s : State) (d : Due) : (addDue s d).handover = s.handover := rfl
@[simp] theorem addDue_boot (s : State) (d : Due) : (addDue s d).boot = s.boot := rfl
@[simp] theorem addDue_spdm (s : State) (d : Due) : (addDue s d).spdm = s.spdm := rfl
@[simp] theorem addDue_ncsi (s : State) (d : Due) : (addDue s d).ncsi = s.ncsi := rfl
@[simp] theorem addDue_mgmt (s : State) (d : Due) : (addDue s d).mgmt = s.mgmt := rfl
@[simp] theorem addDue_freeReads (s : State) (d : Due) : (addDue s d).freeReads = s.freeReads := rfl
@[simp] theorem addDue_draws (s : State) (d : Due) : (addDue s d).draws = s.draws := rfl
@[simp] theorem addDue_pending (s : State) (d : Due) : (addDue s d).pending = s.pending := rfl

/-! ### Readings of other parts -/

@[simp] theorem now_of_setWord (s : State) (a : Nat) (w : Word) :
    now (setWord s a w) = now s := rfl
@[simp] theorem round_of_setWord (s : State) (a : Nat) (w : Word) :
    round (setWord s a w) = round s := rfl
@[simp] theorem running_of_setWord (s : State) (a : Nat) (w : Word) :
    running (setWord s a w) = running s := rfl
@[simp] theorem thread_of_setWord (s : State) (a : Nat) (w : Word) (t0 : Tid) :
    thread (setWord s a w) t0 = thread s t0 := rfl
@[simp] theorem core_of_setWord (s : State) (a : Nat) (w : Word) (k : Nat) :
    core (setWord s a w) k = core s k := rfl
@[simp] theorem frame_of_setWord (s : State) (a : Nat) (w : Word) (k : Nat) :
    frame? (setWord s a w) k = frame? s k := rfl
@[simp] theorem ring_of_setWord (s : State) (a : Nat) (w : Word) (k : Nat) :
    ring (setWord s a w) k = ring s k := rfl
@[simp] theorem lock_of_setWord (s : State) (a : Nat) (w : Word) (k : Nat) :
    lock (setWord s a w) k = lock s k := rfl
@[simp] theorem chan_of_setWord (s : State) (a : Nat) (w : Word) (k : Nat) :
    chan (setWord s a w) k = chan s k := rfl
@[simp] theorem group_of_setWord (s : State) (a : Nat) (w : Word) (k : Nat) :
    group (setWord s a w) k = group s k := rfl
@[simp] theorem cluster_of_setWord (s : State) (a : Nat) (w : Word) (k : Nat) :
    cluster (setWord s a w) k = cluster s k := rfl
@[simp] theorem fnState_of_setWord (s : State) (a : Nat) (w : Word) (g : FnId) :
    fnState (setWord s a w) g = fnState s g := rfl
@[simp] theorem endpoint_of_setWord (s : State) (a : Nat) (w : Word) (x : Endpoint) :
    endpoint (setWord s a w) x = endpoint s x := rfl
@[simp] theorem port_of_setWord (s : State) (a : Nat) (w : Word) (k : Nat) :
    port (setWord s a w) k = port s k := rfl
@[simp] theorem node_of_setWord (s : State) (a : Nat) (w : Word) (k : Nat) :
    node (setWord s a w) k = node s k := rfl
@[simp] theorem mailbox_of_setWord (s : State) (a : Nat) (w : Word) (k : Nat) :
    mailbox (setWord s a w) k = mailbox s k := rfl
@[simp] theorem readByte_of_setWord (s : State) (a : Nat) (w : Word) (k : Nat) :
    readByte (setWord s a w) k = readByte s k := rfl
@[simp] theorem now_of_setRf (s : State) (a hi lo v : Nat) :
    now (setRf s a hi lo v) = now s := rfl
@[simp] theorem round_of_setRf (s : State) (a hi lo v : Nat) :
    round (setRf s a hi lo v) = round s := rfl
@[simp] theorem running_of_setRf (s : State) (a hi lo v : Nat) :
    running (setRf s a hi lo v) = running s := rfl
@[simp] theorem thread_of_setRf (s : State) (a hi lo v : Nat) (t0 : Tid) :
    thread (setRf s a hi lo v) t0 = thread s t0 := rfl
@[simp] theorem core_of_setRf (s : State) (a hi lo v : Nat) (k : Nat) :
    core (setRf s a hi lo v) k = core s k := rfl
@[simp] theorem frame_of_setRf (s : State) (a hi lo v : Nat) (k : Nat) :
    frame? (setRf s a hi lo v) k = frame? s k := rfl
@[simp] theorem ring_of_setRf (s : State) (a hi lo v : Nat) (k : Nat) :
    ring (setRf s a hi lo v) k = ring s k := rfl
@[simp] theorem lock_of_setRf (s : State) (a hi lo v : Nat) (k : Nat) :
    lock (setRf s a hi lo v) k = lock s k := rfl
@[simp] theorem chan_of_setRf (s : State) (a hi lo v : Nat) (k : Nat) :
    chan (setRf s a hi lo v) k = chan s k := rfl
@[simp] theorem group_of_setRf (s : State) (a hi lo v : Nat) (k : Nat) :
    group (setRf s a hi lo v) k = group s k := rfl
@[simp] theorem cluster_of_setRf (s : State) (a hi lo v : Nat) (k : Nat) :
    cluster (setRf s a hi lo v) k = cluster s k := rfl
@[simp] theorem fnState_of_setRf (s : State) (a hi lo v : Nat) (g : FnId) :
    fnState (setRf s a hi lo v) g = fnState s g := rfl
@[simp] theorem endpoint_of_setRf (s : State) (a hi lo v : Nat) (x : Endpoint) :
    endpoint (setRf s a hi lo v) x = endpoint s x := rfl
@[simp] theorem port_of_setRf (s : State) (a hi lo v : Nat) (k : Nat) :
    port (setRf s a hi lo v) k = port s k := rfl
@[simp] theorem node_of_setRf (s : State) (a hi lo v : Nat) (k : Nat) :
    node (setRf s a hi lo v) k = node s k := rfl
@[simp] theorem mailbox_of_setRf (s : State) (a hi lo v : Nat) (k : Nat) :
    mailbox (setRf s a hi lo v) k = mailbox s k := rfl
@[simp] theorem readByte_of_setRf (s : State) (a hi lo v : Nat) (k : Nat) :
    readByte (setRf s a hi lo v) k = readByte s k := rfl
@[simp] theorem now_of_count (s : State) (a n : Nat) :
    now (count s a n) = now s := rfl
@[simp] theorem round_of_count (s : State) (a n : Nat) :
    round (count s a n) = round s := rfl
@[simp] theorem running_of_count (s : State) (a n : Nat) :
    running (count s a n) = running s := rfl
@[simp] theorem thread_of_count (s : State) (a n : Nat) (t0 : Tid) :
    thread (count s a n) t0 = thread s t0 := rfl
@[simp] theorem core_of_count (s : State) (a n : Nat) (k : Nat) :
    core (count s a n) k = core s k := rfl
@[simp] theorem frame_of_count (s : State) (a n : Nat) (k : Nat) :
    frame? (count s a n) k = frame? s k := rfl
@[simp] theorem ring_of_count (s : State) (a n : Nat) (k : Nat) :
    ring (count s a n) k = ring s k := rfl
@[simp] theorem lock_of_count (s : State) (a n : Nat) (k : Nat) :
    lock (count s a n) k = lock s k := rfl
@[simp] theorem chan_of_count (s : State) (a n : Nat) (k : Nat) :
    chan (count s a n) k = chan s k := rfl
@[simp] theorem group_of_count (s : State) (a n : Nat) (k : Nat) :
    group (count s a n) k = group s k := rfl
@[simp] theorem cluster_of_count (s : State) (a n : Nat) (k : Nat) :
    cluster (count s a n) k = cluster s k := rfl
@[simp] theorem fnState_of_count (s : State) (a n : Nat) (g : FnId) :
    fnState (count s a n) g = fnState s g := rfl
@[simp] theorem endpoint_of_count (s : State) (a n : Nat) (x : Endpoint) :
    endpoint (count s a n) x = endpoint s x := rfl
@[simp] theorem port_of_count (s : State) (a n : Nat) (k : Nat) :
    port (count s a n) k = port s k := rfl
@[simp] theorem node_of_count (s : State) (a n : Nat) (k : Nat) :
    node (count s a n) k = node s k := rfl
@[simp] theorem mailbox_of_count (s : State) (a n : Nat) (k : Nat) :
    mailbox (count s a n) k = mailbox s k := rfl
@[simp] theorem readByte_of_count (s : State) (a n : Nat) (k : Nat) :
    readByte (count s a n) k = readByte s k := rfl
@[simp] theorem now_of_setWord64 (s : State) (a v : Nat) :
    now (setWord64 s a v) = now s := rfl
@[simp] theorem round_of_setWord64 (s : State) (a v : Nat) :
    round (setWord64 s a v) = round s := rfl
@[simp] theorem running_of_setWord64 (s : State) (a v : Nat) :
    running (setWord64 s a v) = running s := rfl
@[simp] theorem thread_of_setWord64 (s : State) (a v : Nat) (t0 : Tid) :
    thread (setWord64 s a v) t0 = thread s t0 := rfl
@[simp] theorem core_of_setWord64 (s : State) (a v : Nat) (k : Nat) :
    core (setWord64 s a v) k = core s k := rfl
@[simp] theorem frame_of_setWord64 (s : State) (a v : Nat) (k : Nat) :
    frame? (setWord64 s a v) k = frame? s k := rfl
@[simp] theorem ring_of_setWord64 (s : State) (a v : Nat) (k : Nat) :
    ring (setWord64 s a v) k = ring s k := rfl
@[simp] theorem lock_of_setWord64 (s : State) (a v : Nat) (k : Nat) :
    lock (setWord64 s a v) k = lock s k := rfl
@[simp] theorem chan_of_setWord64 (s : State) (a v : Nat) (k : Nat) :
    chan (setWord64 s a v) k = chan s k := rfl
@[simp] theorem group_of_setWord64 (s : State) (a v : Nat) (k : Nat) :
    group (setWord64 s a v) k = group s k := rfl
@[simp] theorem cluster_of_setWord64 (s : State) (a v : Nat) (k : Nat) :
    cluster (setWord64 s a v) k = cluster s k := rfl
@[simp] theorem fnState_of_setWord64 (s : State) (a v : Nat) (g : FnId) :
    fnState (setWord64 s a v) g = fnState s g := rfl
@[simp] theorem endpoint_of_setWord64 (s : State) (a v : Nat) (x : Endpoint) :
    endpoint (setWord64 s a v) x = endpoint s x := rfl
@[simp] theorem port_of_setWord64 (s : State) (a v : Nat) (k : Nat) :
    port (setWord64 s a v) k = port s k := rfl
@[simp] theorem node_of_setWord64 (s : State) (a v : Nat) (k : Nat) :
    node (setWord64 s a v) k = node s k := rfl
@[simp] theorem mailbox_of_setWord64 (s : State) (a v : Nat) (k : Nat) :
    mailbox (setWord64 s a v) k = mailbox s k := rfl
@[simp] theorem readByte_of_setWord64 (s : State) (a v : Nat) (k : Nat) :
    readByte (setWord64 s a v) k = readByte s k := rfl
@[simp] theorem now_of_writeByte (s : State) (a : Nat) (b : Byte) :
    now (writeByte s a b) = now s := rfl
@[simp] theorem round_of_writeByte (s : State) (a : Nat) (b : Byte) :
    round (writeByte s a b) = round s := rfl
@[simp] theorem running_of_writeByte (s : State) (a : Nat) (b : Byte) :
    running (writeByte s a b) = running s := rfl
@[simp] theorem thread_of_writeByte (s : State) (a : Nat) (b : Byte) (t0 : Tid) :
    thread (writeByte s a b) t0 = thread s t0 := rfl
@[simp] theorem core_of_writeByte (s : State) (a : Nat) (b : Byte) (k : Nat) :
    core (writeByte s a b) k = core s k := rfl
@[simp] theorem frame_of_writeByte (s : State) (a : Nat) (b : Byte) (k : Nat) :
    frame? (writeByte s a b) k = frame? s k := rfl
@[simp] theorem ring_of_writeByte (s : State) (a : Nat) (b : Byte) (k : Nat) :
    ring (writeByte s a b) k = ring s k := rfl
@[simp] theorem lock_of_writeByte (s : State) (a : Nat) (b : Byte) (k : Nat) :
    lock (writeByte s a b) k = lock s k := rfl
@[simp] theorem chan_of_writeByte (s : State) (a : Nat) (b : Byte) (k : Nat) :
    chan (writeByte s a b) k = chan s k := rfl
@[simp] theorem group_of_writeByte (s : State) (a : Nat) (b : Byte) (k : Nat) :
    group (writeByte s a b) k = group s k := rfl
@[simp] theorem cluster_of_writeByte (s : State) (a : Nat) (b : Byte) (k : Nat) :
    cluster (writeByte s a b) k = cluster s k := rfl
@[simp] theorem fnState_of_writeByte (s : State) (a : Nat) (b : Byte) (g : FnId) :
    fnState (writeByte s a b) g = fnState s g := rfl
@[simp] theorem endpoint_of_writeByte (s : State) (a : Nat) (b : Byte) (x : Endpoint) :
    endpoint (writeByte s a b) x = endpoint s x := rfl
@[simp] theorem port_of_writeByte (s : State) (a : Nat) (b : Byte) (k : Nat) :
    port (writeByte s a b) k = port s k := rfl
@[simp] theorem node_of_writeByte (s : State) (a : Nat) (b : Byte) (k : Nat) :
    node (writeByte s a b) k = node s k := rfl
@[simp] theorem mailbox_of_writeByte (s : State) (a : Nat) (b : Byte) (k : Nat) :
    mailbox (writeByte s a b) k = mailbox s k := rfl
@[simp] theorem word_of_writeByte (s : State) (a : Nat) (b : Byte) (k : Nat) :
    word (writeByte s a b) k = word s k := rfl
@[simp] theorem now_of_putFrame (s : State) (f : Frame) :
    now (putFrame s f) = now s := rfl
@[simp] theorem round_of_putFrame (s : State) (f : Frame) :
    round (putFrame s f) = round s := rfl
@[simp] theorem running_of_putFrame (s : State) (f : Frame) :
    running (putFrame s f) = running s := rfl
@[simp] theorem thread_of_putFrame (s : State) (f : Frame) (t0 : Tid) :
    thread (putFrame s f) t0 = thread s t0 := rfl
@[simp] theorem core_of_putFrame (s : State) (f : Frame) (k : Nat) :
    core (putFrame s f) k = core s k := rfl
@[simp] theorem ring_of_putFrame (s : State) (f : Frame) (k : Nat) :
    ring (putFrame s f) k = ring s k := rfl
@[simp] theorem lock_of_putFrame (s : State) (f : Frame) (k : Nat) :
    lock (putFrame s f) k = lock s k := rfl
@[simp] theorem chan_of_putFrame (s : State) (f : Frame) (k : Nat) :
    chan (putFrame s f) k = chan s k := rfl
@[simp] theorem group_of_putFrame (s : State) (f : Frame) (k : Nat) :
    group (putFrame s f) k = group s k := rfl
@[simp] theorem cluster_of_putFrame (s : State) (f : Frame) (k : Nat) :
    cluster (putFrame s f) k = cluster s k := rfl
@[simp] theorem fnState_of_putFrame (s : State) (f : Frame) (g : FnId) :
    fnState (putFrame s f) g = fnState s g := rfl
@[simp] theorem endpoint_of_putFrame (s : State) (f : Frame) (x : Endpoint) :
    endpoint (putFrame s f) x = endpoint s x := rfl
@[simp] theorem port_of_putFrame (s : State) (f : Frame) (k : Nat) :
    port (putFrame s f) k = port s k := rfl
@[simp] theorem node_of_putFrame (s : State) (f : Frame) (k : Nat) :
    node (putFrame s f) k = node s k := rfl
@[simp] theorem mailbox_of_putFrame (s : State) (f : Frame) (k : Nat) :
    mailbox (putFrame s f) k = mailbox s k := rfl
@[simp] theorem word_of_putFrame (s : State) (f : Frame) (k : Nat) :
    word (putFrame s f) k = word s k := rfl
@[simp] theorem readByte_of_putFrame (s : State) (f : Frame) (k : Nat) :
    readByte (putFrame s f) k = readByte s k := rfl
@[simp] theorem now_of_dropFrameRec (s : State) (f : Nat) :
    now (dropFrameRec s f) = now s := rfl
@[simp] theorem round_of_dropFrameRec (s : State) (f : Nat) :
    round (dropFrameRec s f) = round s := rfl
@[simp] theorem running_of_dropFrameRec (s : State) (f : Nat) :
    running (dropFrameRec s f) = running s := rfl
@[simp] theorem thread_of_dropFrameRec (s : State) (f : Nat) (t0 : Tid) :
    thread (dropFrameRec s f) t0 = thread s t0 := rfl
@[simp] theorem core_of_dropFrameRec (s : State) (f : Nat) (k : Nat) :
    core (dropFrameRec s f) k = core s k := rfl
@[simp] theorem ring_of_dropFrameRec (s : State) (f : Nat) (k : Nat) :
    ring (dropFrameRec s f) k = ring s k := rfl
@[simp] theorem lock_of_dropFrameRec (s : State) (f : Nat) (k : Nat) :
    lock (dropFrameRec s f) k = lock s k := rfl
@[simp] theorem chan_of_dropFrameRec (s : State) (f : Nat) (k : Nat) :
    chan (dropFrameRec s f) k = chan s k := rfl
@[simp] theorem group_of_dropFrameRec (s : State) (f : Nat) (k : Nat) :
    group (dropFrameRec s f) k = group s k := rfl
@[simp] theorem cluster_of_dropFrameRec (s : State) (f : Nat) (k : Nat) :
    cluster (dropFrameRec s f) k = cluster s k := rfl
@[simp] theorem fnState_of_dropFrameRec (s : State) (f : Nat) (g : FnId) :
    fnState (dropFrameRec s f) g = fnState s g := rfl
@[simp] theorem endpoint_of_dropFrameRec (s : State) (f : Nat) (x : Endpoint) :
    endpoint (dropFrameRec s f) x = endpoint s x := rfl
@[simp] theorem port_of_dropFrameRec (s : State) (f : Nat) (k : Nat) :
    port (dropFrameRec s f) k = port s k := rfl
@[simp] theorem node_of_dropFrameRec (s : State) (f : Nat) (k : Nat) :
    node (dropFrameRec s f) k = node s k := rfl
@[simp] theorem mailbox_of_dropFrameRec (s : State) (f : Nat) (k : Nat) :
    mailbox (dropFrameRec s f) k = mailbox s k := rfl
@[simp] theorem word_of_dropFrameRec (s : State) (f : Nat) (k : Nat) :
    word (dropFrameRec s f) k = word s k := rfl
@[simp] theorem readByte_of_dropFrameRec (s : State) (f : Nat) (k : Nat) :
    readByte (dropFrameRec s f) k = readByte s k := rfl
@[simp] theorem now_of_newFrame (s : State) (f : Frame) :
    now (newFrame s f) = now s := rfl
@[simp] theorem round_of_newFrame (s : State) (f : Frame) :
    round (newFrame s f) = round s := rfl
@[simp] theorem running_of_newFrame (s : State) (f : Frame) :
    running (newFrame s f) = running s := rfl
@[simp] theorem thread_of_newFrame (s : State) (f : Frame) (t0 : Tid) :
    thread (newFrame s f) t0 = thread s t0 := rfl
@[simp] theorem core_of_newFrame (s : State) (f : Frame) (k : Nat) :
    core (newFrame s f) k = core s k := rfl
@[simp] theorem ring_of_newFrame (s : State) (f : Frame) (k : Nat) :
    ring (newFrame s f) k = ring s k := rfl
@[simp] theorem lock_of_newFrame (s : State) (f : Frame) (k : Nat) :
    lock (newFrame s f) k = lock s k := rfl
@[simp] theorem chan_of_newFrame (s : State) (f : Frame) (k : Nat) :
    chan (newFrame s f) k = chan s k := rfl
@[simp] theorem group_of_newFrame (s : State) (f : Frame) (k : Nat) :
    group (newFrame s f) k = group s k := rfl
@[simp] theorem cluster_of_newFrame (s : State) (f : Frame) (k : Nat) :
    cluster (newFrame s f) k = cluster s k := rfl
@[simp] theorem fnState_of_newFrame (s : State) (f : Frame) (g : FnId) :
    fnState (newFrame s f) g = fnState s g := rfl
@[simp] theorem endpoint_of_newFrame (s : State) (f : Frame) (x : Endpoint) :
    endpoint (newFrame s f) x = endpoint s x := rfl
@[simp] theorem port_of_newFrame (s : State) (f : Frame) (k : Nat) :
    port (newFrame s f) k = port s k := rfl
@[simp] theorem node_of_newFrame (s : State) (f : Frame) (k : Nat) :
    node (newFrame s f) k = node s k := rfl
@[simp] theorem mailbox_of_newFrame (s : State) (f : Frame) (k : Nat) :
    mailbox (newFrame s f) k = mailbox s k := rfl
@[simp] theorem word_of_newFrame (s : State) (f : Frame) (k : Nat) :
    word (newFrame s f) k = word s k := rfl
@[simp] theorem readByte_of_newFrame (s : State) (f : Frame) (k : Nat) :
    readByte (newFrame s f) k = readByte s k := rfl
@[simp] theorem now_of_putThread (s : State) (t : Tid) (v : Thread) :
    now (putThread s t v) = now s := rfl
@[simp] theorem round_of_putThread (s : State) (t : Tid) (v : Thread) :
    round (putThread s t v) = round s := rfl
@[simp] theorem running_of_putThread (s : State) (t : Tid) (v : Thread) :
    running (putThread s t v) = running s := rfl
@[simp] theorem core_of_putThread (s : State) (t : Tid) (v : Thread) (k : Nat) :
    core (putThread s t v) k = core s k := rfl
@[simp] theorem frame_of_putThread (s : State) (t : Tid) (v : Thread) (k : Nat) :
    frame? (putThread s t v) k = frame? s k := rfl
@[simp] theorem ring_of_putThread (s : State) (t : Tid) (v : Thread) (k : Nat) :
    ring (putThread s t v) k = ring s k := rfl
@[simp] theorem lock_of_putThread (s : State) (t : Tid) (v : Thread) (k : Nat) :
    lock (putThread s t v) k = lock s k := rfl
@[simp] theorem chan_of_putThread (s : State) (t : Tid) (v : Thread) (k : Nat) :
    chan (putThread s t v) k = chan s k := rfl
@[simp] theorem group_of_putThread (s : State) (t : Tid) (v : Thread) (k : Nat) :
    group (putThread s t v) k = group s k := rfl
@[simp] theorem cluster_of_putThread (s : State) (t : Tid) (v : Thread) (k : Nat) :
    cluster (putThread s t v) k = cluster s k := rfl
@[simp] theorem fnState_of_putThread (s : State) (t : Tid) (v : Thread) (g : FnId) :
    fnState (putThread s t v) g = fnState s g := rfl
@[simp] theorem endpoint_of_putThread (s : State) (t : Tid) (v : Thread) (x : Endpoint) :
    endpoint (putThread s t v) x = endpoint s x := rfl
@[simp] theorem port_of_putThread (s : State) (t : Tid) (v : Thread) (k : Nat) :
    port (putThread s t v) k = port s k := rfl
@[simp] theorem node_of_putThread (s : State) (t : Tid) (v : Thread) (k : Nat) :
    node (putThread s t v) k = node s k := rfl
@[simp] theorem mailbox_of_putThread (s : State) (t : Tid) (v : Thread) (k : Nat) :
    mailbox (putThread s t v) k = mailbox s k := rfl
@[simp] theorem word_of_putThread (s : State) (t : Tid) (v : Thread) (k : Nat) :
    word (putThread s t v) k = word s k := rfl
@[simp] theorem readByte_of_putThread (s : State) (t : Tid) (v : Thread) (k : Nat) :
    readByte (putThread s t v) k = readByte s k := rfl
@[simp] theorem now_of_onThread (s : State) (t : Tid) (f : Thread → Thread) :
    now (onThread s t f) = now s := rfl
@[simp] theorem round_of_onThread (s : State) (t : Tid) (f : Thread → Thread) :
    round (onThread s t f) = round s := rfl
@[simp] theorem running_of_onThread (s : State) (t : Tid) (f : Thread → Thread) :
    running (onThread s t f) = running s := rfl
@[simp] theorem core_of_onThread (s : State) (t : Tid) (f : Thread → Thread) (k : Nat) :
    core (onThread s t f) k = core s k := rfl
@[simp] theorem frame_of_onThread (s : State) (t : Tid) (f : Thread → Thread) (k : Nat) :
    frame? (onThread s t f) k = frame? s k := rfl
@[simp] theorem ring_of_onThread (s : State) (t : Tid) (f : Thread → Thread) (k : Nat) :
    ring (onThread s t f) k = ring s k := rfl
@[simp] theorem lock_of_onThread (s : State) (t : Tid) (f : Thread → Thread) (k : Nat) :
    lock (onThread s t f) k = lock s k := rfl
@[simp] theorem chan_of_onThread (s : State) (t : Tid) (f : Thread → Thread) (k : Nat) :
    chan (onThread s t f) k = chan s k := rfl
@[simp] theorem group_of_onThread (s : State) (t : Tid) (f : Thread → Thread) (k : Nat) :
    group (onThread s t f) k = group s k := rfl
@[simp] theorem cluster_of_onThread (s : State) (t : Tid) (f : Thread → Thread) (k : Nat) :
    cluster (onThread s t f) k = cluster s k := rfl
@[simp] theorem fnState_of_onThread (s : State) (t : Tid) (f : Thread → Thread) (g : FnId) :
    fnState (onThread s t f) g = fnState s g := rfl
@[simp] theorem endpoint_of_onThread (s : State) (t : Tid) (f : Thread → Thread) (x : Endpoint) :
    endpoint (onThread s t f) x = endpoint s x := rfl
@[simp] theorem port_of_onThread (s : State) (t : Tid) (f : Thread → Thread) (k : Nat) :
    port (onThread s t f) k = port s k := rfl
@[simp] theorem node_of_onThread (s : State) (t : Tid) (f : Thread → Thread) (k : Nat) :
    node (onThread s t f) k = node s k := rfl
@[simp] theorem mailbox_of_onThread (s : State) (t : Tid) (f : Thread → Thread) (k : Nat) :
    mailbox (onThread s t f) k = mailbox s k := rfl
@[simp] theorem word_of_onThread (s : State) (t : Tid) (f : Thread → Thread) (k : Nat) :
    word (onThread s t f) k = word s k := rfl
@[simp] theorem readByte_of_onThread (s : State) (t : Tid) (f : Thread → Thread) (k : Nat) :
    readByte (onThread s t f) k = readByte s k := rfl
@[simp] theorem now_of_raise (s : State) (t : Tid) (code : Nat) (w : Word) (addr : DWord) (pl : Nat) :
    now (raise s t code w addr pl) = now s := rfl
@[simp] theorem round_of_raise (s : State) (t : Tid) (code : Nat) (w : Word) (addr : DWord) (pl : Nat) :
    round (raise s t code w addr pl) = round s := rfl
@[simp] theorem running_of_raise (s : State) (t : Tid) (code : Nat) (w : Word) (addr : DWord) (pl : Nat) :
    running (raise s t code w addr pl) = running s := rfl
@[simp] theorem core_of_raise (s : State) (t : Tid) (code : Nat) (w : Word) (addr : DWord) (pl : Nat) (k : Nat) :
    core (raise s t code w addr pl) k = core s k := rfl
@[simp] theorem frame_of_raise (s : State) (t : Tid) (code : Nat) (w : Word) (addr : DWord) (pl : Nat) (k : Nat) :
    frame? (raise s t code w addr pl) k = frame? s k := rfl
@[simp] theorem ring_of_raise (s : State) (t : Tid) (code : Nat) (w : Word) (addr : DWord) (pl : Nat) (k : Nat) :
    ring (raise s t code w addr pl) k = ring s k := rfl
@[simp] theorem lock_of_raise (s : State) (t : Tid) (code : Nat) (w : Word) (addr : DWord) (pl : Nat) (k : Nat) :
    lock (raise s t code w addr pl) k = lock s k := rfl
@[simp] theorem chan_of_raise (s : State) (t : Tid) (code : Nat) (w : Word) (addr : DWord) (pl : Nat) (k : Nat) :
    chan (raise s t code w addr pl) k = chan s k := rfl
@[simp] theorem group_of_raise (s : State) (t : Tid) (code : Nat) (w : Word) (addr : DWord) (pl : Nat) (k : Nat) :
    group (raise s t code w addr pl) k = group s k := rfl
@[simp] theorem cluster_of_raise (s : State) (t : Tid) (code : Nat) (w : Word) (addr : DWord) (pl : Nat) (k : Nat) :
    cluster (raise s t code w addr pl) k = cluster s k := rfl
@[simp] theorem fnState_of_raise (s : State) (t : Tid) (code : Nat) (w : Word) (addr : DWord) (pl : Nat) (g : FnId) :
    fnState (raise s t code w addr pl) g = fnState s g := rfl
@[simp] theorem endpoint_of_raise (s : State) (t : Tid) (code : Nat) (w : Word) (addr : DWord) (pl : Nat) (x : Endpoint) :
    endpoint (raise s t code w addr pl) x = endpoint s x := rfl
@[simp] theorem port_of_raise (s : State) (t : Tid) (code : Nat) (w : Word) (addr : DWord) (pl : Nat) (k : Nat) :
    port (raise s t code w addr pl) k = port s k := rfl
@[simp] theorem node_of_raise (s : State) (t : Tid) (code : Nat) (w : Word) (addr : DWord) (pl : Nat) (k : Nat) :
    node (raise s t code w addr pl) k = node s k := rfl
@[simp] theorem mailbox_of_raise (s : State) (t : Tid) (code : Nat) (w : Word) (addr : DWord) (pl : Nat) (k : Nat) :
    mailbox (raise s t code w addr pl) k = mailbox s k := rfl
@[simp] theorem word_of_raise (s : State) (t : Tid) (code : Nat) (w : Word) (addr : DWord) (pl : Nat) (k : Nat) :
    word (raise s t code w addr pl) k = word s k := rfl
@[simp] theorem readByte_of_raise (s : State) (t : Tid) (code : Nat) (w : Word) (addr : DWord) (pl : Nat) (k : Nat) :
    readByte (raise s t code w addr pl) k = readByte s k := rfl
@[simp] theorem now_of_putCore (s : State) (n : Nat) (v : CoreState) :
    now (putCore s n v) = now s := rfl
@[simp] theorem round_of_putCore (s : State) (n : Nat) (v : CoreState) :
    round (putCore s n v) = round s := rfl
@[simp] theorem running_of_putCore (s : State) (n : Nat) (v : CoreState) :
    running (putCore s n v) = running s := rfl
@[simp] theorem thread_of_putCore (s : State) (n : Nat) (v : CoreState) (t0 : Tid) :
    thread (putCore s n v) t0 = thread s t0 := rfl
@[simp] theorem frame_of_putCore (s : State) (n : Nat) (v : CoreState) (k : Nat) :
    frame? (putCore s n v) k = frame? s k := rfl
@[simp] theorem ring_of_putCore (s : State) (n : Nat) (v : CoreState) (k : Nat) :
    ring (putCore s n v) k = ring s k := rfl
@[simp] theorem lock_of_putCore (s : State) (n : Nat) (v : CoreState) (k : Nat) :
    lock (putCore s n v) k = lock s k := rfl
@[simp] theorem chan_of_putCore (s : State) (n : Nat) (v : CoreState) (k : Nat) :
    chan (putCore s n v) k = chan s k := rfl
@[simp] theorem group_of_putCore (s : State) (n : Nat) (v : CoreState) (k : Nat) :
    group (putCore s n v) k = group s k := rfl
@[simp] theorem cluster_of_putCore (s : State) (n : Nat) (v : CoreState) (k : Nat) :
    cluster (putCore s n v) k = cluster s k := rfl
@[simp] theorem fnState_of_putCore (s : State) (n : Nat) (v : CoreState) (g : FnId) :
    fnState (putCore s n v) g = fnState s g := rfl
@[simp] theorem endpoint_of_putCore (s : State) (n : Nat) (v : CoreState) (x : Endpoint) :
    endpoint (putCore s n v) x = endpoint s x := rfl
@[simp] theorem port_of_putCore (s : State) (n : Nat) (v : CoreState) (k : Nat) :
    port (putCore s n v) k = port s k := rfl
@[simp] theorem node_of_putCore (s : State) (n : Nat) (v : CoreState) (k : Nat) :
    node (putCore s n v) k = node s k := rfl
@[simp] theorem mailbox_of_putCore (s : State) (n : Nat) (v : CoreState) (k : Nat) :
    mailbox (putCore s n v) k = mailbox s k := rfl
@[simp] theorem word_of_putCore (s : State) (n : Nat) (v : CoreState) (k : Nat) :
    word (putCore s n v) k = word s k := rfl
@[simp] theorem readByte_of_putCore (s : State) (n : Nat) (v : CoreState) (k : Nat) :
    readByte (putCore s n v) k = readByte s k := rfl
@[simp] theorem now_of_putCluster (s : State) (n : Nat) (v : Cluster) :
    now (putCluster s n v) = now s := rfl
@[simp] theorem round_of_putCluster (s : State) (n : Nat) (v : Cluster) :
    round (putCluster s n v) = round s := rfl
@[simp] theorem running_of_putCluster (s : State) (n : Nat) (v : Cluster) :
    running (putCluster s n v) = running s := rfl
@[simp] theorem thread_of_putCluster (s : State) (n : Nat) (v : Cluster) (t0 : Tid) :
    thread (putCluster s n v) t0 = thread s t0 := rfl
@[simp] theorem core_of_putCluster (s : State) (n : Nat) (v : Cluster) (k : Nat) :
    core (putCluster s n v) k = core s k := rfl
@[simp] theorem frame_of_putCluster (s : State) (n : Nat) (v : Cluster) (k : Nat) :
    frame? (putCluster s n v) k = frame? s k := rfl
@[simp] theorem ring_of_putCluster (s : State) (n : Nat) (v : Cluster) (k : Nat) :
    ring (putCluster s n v) k = ring s k := rfl
@[simp] theorem lock_of_putCluster (s : State) (n : Nat) (v : Cluster) (k : Nat) :
    lock (putCluster s n v) k = lock s k := rfl
@[simp] theorem chan_of_putCluster (s : State) (n : Nat) (v : Cluster) (k : Nat) :
    chan (putCluster s n v) k = chan s k := rfl
@[simp] theorem group_of_putCluster (s : State) (n : Nat) (v : Cluster) (k : Nat) :
    group (putCluster s n v) k = group s k := rfl
@[simp] theorem fnState_of_putCluster (s : State) (n : Nat) (v : Cluster) (g : FnId) :
    fnState (putCluster s n v) g = fnState s g := rfl
@[simp] theorem endpoint_of_putCluster (s : State) (n : Nat) (v : Cluster) (x : Endpoint) :
    endpoint (putCluster s n v) x = endpoint s x := rfl
@[simp] theorem port_of_putCluster (s : State) (n : Nat) (v : Cluster) (k : Nat) :
    port (putCluster s n v) k = port s k := rfl
@[simp] theorem node_of_putCluster (s : State) (n : Nat) (v : Cluster) (k : Nat) :
    node (putCluster s n v) k = node s k := rfl
@[simp] theorem mailbox_of_putCluster (s : State) (n : Nat) (v : Cluster) (k : Nat) :
    mailbox (putCluster s n v) k = mailbox s k := rfl
@[simp] theorem word_of_putCluster (s : State) (n : Nat) (v : Cluster) (k : Nat) :
    word (putCluster s n v) k = word s k := rfl
@[simp] theorem readByte_of_putCluster (s : State) (n : Nat) (v : Cluster) (k : Nat) :
    readByte (putCluster s n v) k = readByte s k := rfl
@[simp] theorem now_of_putLock (s : State) (n : Nat) (v : Lock) :
    now (putLock s n v) = now s := rfl
@[simp] theorem round_of_putLock (s : State) (n : Nat) (v : Lock) :
    round (putLock s n v) = round s := rfl
@[simp] theorem running_of_putLock (s : State) (n : Nat) (v : Lock) :
    running (putLock s n v) = running s := rfl
@[simp] theorem thread_of_putLock (s : State) (n : Nat) (v : Lock) (t0 : Tid) :
    thread (putLock s n v) t0 = thread s t0 := rfl
@[simp] theorem core_of_putLock (s : State) (n : Nat) (v : Lock) (k : Nat) :
    core (putLock s n v) k = core s k := rfl
@[simp] theorem frame_of_putLock (s : State) (n : Nat) (v : Lock) (k : Nat) :
    frame? (putLock s n v) k = frame? s k := rfl
@[simp] theorem ring_of_putLock (s : State) (n : Nat) (v : Lock) (k : Nat) :
    ring (putLock s n v) k = ring s k := rfl
@[simp] theorem chan_of_putLock (s : State) (n : Nat) (v : Lock) (k : Nat) :
    chan (putLock s n v) k = chan s k := rfl
@[simp] theorem group_of_putLock (s : State) (n : Nat) (v : Lock) (k : Nat) :
    group (putLock s n v) k = group s k := rfl
@[simp] theorem cluster_of_putLock (s : State) (n : Nat) (v : Lock) (k : Nat) :
    cluster (putLock s n v) k = cluster s k := rfl
@[simp] theorem fnState_of_putLock (s : State) (n : Nat) (v : Lock) (g : FnId) :
    fnState (putLock s n v) g = fnState s g := rfl
@[simp] theorem endpoint_of_putLock (s : State) (n : Nat) (v : Lock) (x : Endpoint) :
    endpoint (putLock s n v) x = endpoint s x := rfl
@[simp] theorem port_of_putLock (s : State) (n : Nat) (v : Lock) (k : Nat) :
    port (putLock s n v) k = port s k := rfl
@[simp] theorem node_of_putLock (s : State) (n : Nat) (v : Lock) (k : Nat) :
    node (putLock s n v) k = node s k := rfl
@[simp] theorem mailbox_of_putLock (s : State) (n : Nat) (v : Lock) (k : Nat) :
    mailbox (putLock s n v) k = mailbox s k := rfl
@[simp] theorem word_of_putLock (s : State) (n : Nat) (v : Lock) (k : Nat) :
    word (putLock s n v) k = word s k := rfl
@[simp] theorem readByte_of_putLock (s : State) (n : Nat) (v : Lock) (k : Nat) :
    readByte (putLock s n v) k = readByte s k := rfl
@[simp] theorem now_of_putChan (s : State) (n : Nat) (v : Chan) :
    now (putChan s n v) = now s := rfl
@[simp] theorem round_of_putChan (s : State) (n : Nat) (v : Chan) :
    round (putChan s n v) = round s := rfl
@[simp] theorem running_of_putChan (s : State) (n : Nat) (v : Chan) :
    running (putChan s n v) = running s := rfl
@[simp] theorem thread_of_putChan (s : State) (n : Nat) (v : Chan) (t0 : Tid) :
    thread (putChan s n v) t0 = thread s t0 := rfl
@[simp] theorem core_of_putChan (s : State) (n : Nat) (v : Chan) (k : Nat) :
    core (putChan s n v) k = core s k := rfl
@[simp] theorem frame_of_putChan (s : State) (n : Nat) (v : Chan) (k : Nat) :
    frame? (putChan s n v) k = frame? s k := rfl
@[simp] theorem ring_of_putChan (s : State) (n : Nat) (v : Chan) (k : Nat) :
    ring (putChan s n v) k = ring s k := rfl
@[simp] theorem lock_of_putChan (s : State) (n : Nat) (v : Chan) (k : Nat) :
    lock (putChan s n v) k = lock s k := rfl
@[simp] theorem group_of_putChan (s : State) (n : Nat) (v : Chan) (k : Nat) :
    group (putChan s n v) k = group s k := rfl
@[simp] theorem cluster_of_putChan (s : State) (n : Nat) (v : Chan) (k : Nat) :
    cluster (putChan s n v) k = cluster s k := rfl
@[simp] theorem fnState_of_putChan (s : State) (n : Nat) (v : Chan) (g : FnId) :
    fnState (putChan s n v) g = fnState s g := rfl
@[simp] theorem endpoint_of_putChan (s : State) (n : Nat) (v : Chan) (x : Endpoint) :
    endpoint (putChan s n v) x = endpoint s x := rfl
@[simp] theorem port_of_putChan (s : State) (n : Nat) (v : Chan) (k : Nat) :
    port (putChan s n v) k = port s k := rfl
@[simp] theorem node_of_putChan (s : State) (n : Nat) (v : Chan) (k : Nat) :
    node (putChan s n v) k = node s k := rfl
@[simp] theorem mailbox_of_putChan (s : State) (n : Nat) (v : Chan) (k : Nat) :
    mailbox (putChan s n v) k = mailbox s k := rfl
@[simp] theorem word_of_putChan (s : State) (n : Nat) (v : Chan) (k : Nat) :
    word (putChan s n v) k = word s k := rfl
@[simp] theorem readByte_of_putChan (s : State) (n : Nat) (v : Chan) (k : Nat) :
    readByte (putChan s n v) k = readByte s k := rfl
@[simp] theorem now_of_putGroup (s : State) (n : Nat) (v : Group) :
    now (putGroup s n v) = now s := rfl
@[simp] theorem round_of_putGroup (s : State) (n : Nat) (v : Group) :
    round (putGroup s n v) = round s := rfl
@[simp] theorem running_of_putGroup (s : State) (n : Nat) (v : Group) :
    running (putGroup s n v) = running s := rfl
@[simp] theorem thread_of_putGroup (s : State) (n : Nat) (v : Group) (t0 : Tid) :
    thread (putGroup s n v) t0 = thread s t0 := rfl
@[simp] theorem core_of_putGroup (s : State) (n : Nat) (v : Group) (k : Nat) :
    core (putGroup s n v) k = core s k := rfl
@[simp] theorem frame_of_putGroup (s : State) (n : Nat) (v : Group) (k : Nat) :
    frame? (putGroup s n v) k = frame? s k := rfl
@[simp] theorem ring_of_putGroup (s : State) (n : Nat) (v : Group) (k : Nat) :
    ring (putGroup s n v) k = ring s k := rfl
@[simp] theorem lock_of_putGroup (s : State) (n : Nat) (v : Group) (k : Nat) :
    lock (putGroup s n v) k = lock s k := rfl
@[simp] theorem chan_of_putGroup (s : State) (n : Nat) (v : Group) (k : Nat) :
    chan (putGroup s n v) k = chan s k := rfl
@[simp] theorem cluster_of_putGroup (s : State) (n : Nat) (v : Group) (k : Nat) :
    cluster (putGroup s n v) k = cluster s k := rfl
@[simp] theorem fnState_of_putGroup (s : State) (n : Nat) (v : Group) (g : FnId) :
    fnState (putGroup s n v) g = fnState s g := rfl
@[simp] theorem endpoint_of_putGroup (s : State) (n : Nat) (v : Group) (x : Endpoint) :
    endpoint (putGroup s n v) x = endpoint s x := rfl
@[simp] theorem port_of_putGroup (s : State) (n : Nat) (v : Group) (k : Nat) :
    port (putGroup s n v) k = port s k := rfl
@[simp] theorem node_of_putGroup (s : State) (n : Nat) (v : Group) (k : Nat) :
    node (putGroup s n v) k = node s k := rfl
@[simp] theorem mailbox_of_putGroup (s : State) (n : Nat) (v : Group) (k : Nat) :
    mailbox (putGroup s n v) k = mailbox s k := rfl
@[simp] theorem word_of_putGroup (s : State) (n : Nat) (v : Group) (k : Nat) :
    word (putGroup s n v) k = word s k := rfl
@[simp] theorem readByte_of_putGroup (s : State) (n : Nat) (v : Group) (k : Nat) :
    readByte (putGroup s n v) k = readByte s k := rfl
@[simp] theorem now_of_putRing (s : State) (n : Nat) (v : RingState) :
    now (putRing s n v) = now s := rfl
@[simp] theorem round_of_putRing (s : State) (n : Nat) (v : RingState) :
    round (putRing s n v) = round s := rfl
@[simp] theorem running_of_putRing (s : State) (n : Nat) (v : RingState) :
    running (putRing s n v) = running s := rfl
@[simp] theorem thread_of_putRing (s : State) (n : Nat) (v : RingState) (t0 : Tid) :
    thread (putRing s n v) t0 = thread s t0 := rfl
@[simp] theorem core_of_putRing (s : State) (n : Nat) (v : RingState) (k : Nat) :
    core (putRing s n v) k = core s k := rfl
@[simp] theorem frame_of_putRing (s : State) (n : Nat) (v : RingState) (k : Nat) :
    frame? (putRing s n v) k = frame? s k := rfl
@[simp] theorem lock_of_putRing (s : State) (n : Nat) (v : RingState) (k : Nat) :
    lock (putRing s n v) k = lock s k := rfl
@[simp] theorem chan_of_putRing (s : State) (n : Nat) (v : RingState) (k : Nat) :
    chan (putRing s n v) k = chan s k := rfl
@[simp] theorem group_of_putRing (s : State) (n : Nat) (v : RingState) (k : Nat) :
    group (putRing s n v) k = group s k := rfl
@[simp] theorem cluster_of_putRing (s : State) (n : Nat) (v : RingState) (k : Nat) :
    cluster (putRing s n v) k = cluster s k := rfl
@[simp] theorem fnState_of_putRing (s : State) (n : Nat) (v : RingState) (g : FnId) :
    fnState (putRing s n v) g = fnState s g := rfl
@[simp] theorem endpoint_of_putRing (s : State) (n : Nat) (v : RingState) (x : Endpoint) :
    endpoint (putRing s n v) x = endpoint s x := rfl
@[simp] theorem port_of_putRing (s : State) (n : Nat) (v : RingState) (k : Nat) :
    port (putRing s n v) k = port s k := rfl
@[simp] theorem node_of_putRing (s : State) (n : Nat) (v : RingState) (k : Nat) :
    node (putRing s n v) k = node s k := rfl
@[simp] theorem mailbox_of_putRing (s : State) (n : Nat) (v : RingState) (k : Nat) :
    mailbox (putRing s n v) k = mailbox s k := rfl
@[simp] theorem word_of_putRing (s : State) (n : Nat) (v : RingState) (k : Nat) :
    word (putRing s n v) k = word s k := rfl
@[simp] theorem readByte_of_putRing (s : State) (n : Nat) (v : RingState) (k : Nat) :
    readByte (putRing s n v) k = readByte s k := rfl
@[simp] theorem now_of_putFn (s : State) (f : FnId) (v : FnState) :
    now (putFn s f v) = now s := rfl
@[simp] theorem round_of_putFn (s : State) (f : FnId) (v : FnState) :
    round (putFn s f v) = round s := rfl
@[simp] theorem running_of_putFn (s : State) (f : FnId) (v : FnState) :
    running (putFn s f v) = running s := rfl
@[simp] theorem thread_of_putFn (s : State) (f : FnId) (v : FnState) (t0 : Tid) :
    thread (putFn s f v) t0 = thread s t0 := rfl
@[simp] theorem core_of_putFn (s : State) (f : FnId) (v : FnState) (k : Nat) :
    core (putFn s f v) k = core s k := rfl
@[simp] theorem frame_of_putFn (s : State) (f : FnId) (v : FnState) (k : Nat) :
    frame? (putFn s f v) k = frame? s k := rfl
@[simp] theorem ring_of_putFn (s : State) (f : FnId) (v : FnState) (k : Nat) :
    ring (putFn s f v) k = ring s k := rfl
@[simp] theorem lock_of_putFn (s : State) (f : FnId) (v : FnState) (k : Nat) :
    lock (putFn s f v) k = lock s k := rfl
@[simp] theorem chan_of_putFn (s : State) (f : FnId) (v : FnState) (k : Nat) :
    chan (putFn s f v) k = chan s k := rfl
@[simp] theorem group_of_putFn (s : State) (f : FnId) (v : FnState) (k : Nat) :
    group (putFn s f v) k = group s k := rfl
@[simp] theorem cluster_of_putFn (s : State) (f : FnId) (v : FnState) (k : Nat) :
    cluster (putFn s f v) k = cluster s k := rfl
@[simp] theorem endpoint_of_putFn (s : State) (f : FnId) (v : FnState) (x : Endpoint) :
    endpoint (putFn s f v) x = endpoint s x := rfl
@[simp] theorem port_of_putFn (s : State) (f : FnId) (v : FnState) (k : Nat) :
    port (putFn s f v) k = port s k := rfl
@[simp] theorem node_of_putFn (s : State) (f : FnId) (v : FnState) (k : Nat) :
    node (putFn s f v) k = node s k := rfl
@[simp] theorem mailbox_of_putFn (s : State) (f : FnId) (v : FnState) (k : Nat) :
    mailbox (putFn s f v) k = mailbox s k := rfl
@[simp] theorem word_of_putFn (s : State) (f : FnId) (v : FnState) (k : Nat) :
    word (putFn s f v) k = word s k := rfl
@[simp] theorem readByte_of_putFn (s : State) (f : FnId) (v : FnState) (k : Nat) :
    readByte (putFn s f v) k = readByte s k := rfl
@[simp] theorem now_of_putEndpoint (s : State) (e : Endpoint) (v : EndpointState) :
    now (putEndpoint s e v) = now s := rfl
@[simp] theorem round_of_putEndpoint (s : State) (e : Endpoint) (v : EndpointState) :
    round (putEndpoint s e v) = round s := rfl
@[simp] theorem running_of_putEndpoint (s : State) (e : Endpoint) (v : EndpointState) :
    running (putEndpoint s e v) = running s := rfl
@[simp] theorem thread_of_putEndpoint (s : State) (e : Endpoint) (v : EndpointState) (t0 : Tid) :
    thread (putEndpoint s e v) t0 = thread s t0 := rfl
@[simp] theorem core_of_putEndpoint (s : State) (e : Endpoint) (v : EndpointState) (k : Nat) :
    core (putEndpoint s e v) k = core s k := rfl
@[simp] theorem frame_of_putEndpoint (s : State) (e : Endpoint) (v : EndpointState) (k : Nat) :
    frame? (putEndpoint s e v) k = frame? s k := rfl
@[simp] theorem ring_of_putEndpoint (s : State) (e : Endpoint) (v : EndpointState) (k : Nat) :
    ring (putEndpoint s e v) k = ring s k := rfl
@[simp] theorem lock_of_putEndpoint (s : State) (e : Endpoint) (v : EndpointState) (k : Nat) :
    lock (putEndpoint s e v) k = lock s k := rfl
@[simp] theorem chan_of_putEndpoint (s : State) (e : Endpoint) (v : EndpointState) (k : Nat) :
    chan (putEndpoint s e v) k = chan s k := rfl
@[simp] theorem group_of_putEndpoint (s : State) (e : Endpoint) (v : EndpointState) (k : Nat) :
    group (putEndpoint s e v) k = group s k := rfl
@[simp] theorem cluster_of_putEndpoint (s : State) (e : Endpoint) (v : EndpointState) (k : Nat) :
    cluster (putEndpoint s e v) k = cluster s k := rfl
@[simp] theorem fnState_of_putEndpoint (s : State) (e : Endpoint) (v : EndpointState) (g : FnId) :
    fnState (putEndpoint s e v) g = fnState s g := rfl
@[simp] theorem port_of_putEndpoint (s : State) (e : Endpoint) (v : EndpointState) (k : Nat) :
    port (putEndpoint s e v) k = port s k := rfl
@[simp] theorem node_of_putEndpoint (s : State) (e : Endpoint) (v : EndpointState) (k : Nat) :
    node (putEndpoint s e v) k = node s k := rfl
@[simp] theorem mailbox_of_putEndpoint (s : State) (e : Endpoint) (v : EndpointState) (k : Nat) :
    mailbox (putEndpoint s e v) k = mailbox s k := rfl
@[simp] theorem word_of_putEndpoint (s : State) (e : Endpoint) (v : EndpointState) (k : Nat) :
    word (putEndpoint s e v) k = word s k := rfl
@[simp] theorem readByte_of_putEndpoint (s : State) (e : Endpoint) (v : EndpointState) (k : Nat) :
    readByte (putEndpoint s e v) k = readByte s k := rfl
@[simp] theorem now_of_putPort (s : State) (n : Nat) (v : PortState) :
    now (putPort s n v) = now s := rfl
@[simp] theorem round_of_putPort (s : State) (n : Nat) (v : PortState) :
    round (putPort s n v) = round s := rfl
@[simp] theorem running_of_putPort (s : State) (n : Nat) (v : PortState) :
    running (putPort s n v) = running s := rfl
@[simp] theorem thread_of_putPort (s : State) (n : Nat) (v : PortState) (t0 : Tid) :
    thread (putPort s n v) t0 = thread s t0 := rfl
@[simp] theorem core_of_putPort (s : State) (n : Nat) (v : PortState) (k : Nat) :
    core (putPort s n v) k = core s k := rfl
@[simp] theorem frame_of_putPort (s : State) (n : Nat) (v : PortState) (k : Nat) :
    frame? (putPort s n v) k = frame? s k := rfl
@[simp] theorem ring_of_putPort (s : State) (n : Nat) (v : PortState) (k : Nat) :
    ring (putPort s n v) k = ring s k := rfl
@[simp] theorem lock_of_putPort (s : State) (n : Nat) (v : PortState) (k : Nat) :
    lock (putPort s n v) k = lock s k := rfl
@[simp] theorem chan_of_putPort (s : State) (n : Nat) (v : PortState) (k : Nat) :
    chan (putPort s n v) k = chan s k := rfl
@[simp] theorem group_of_putPort (s : State) (n : Nat) (v : PortState) (k : Nat) :
    group (putPort s n v) k = group s k := rfl
@[simp] theorem cluster_of_putPort (s : State) (n : Nat) (v : PortState) (k : Nat) :
    cluster (putPort s n v) k = cluster s k := rfl
@[simp] theorem fnState_of_putPort (s : State) (n : Nat) (v : PortState) (g : FnId) :
    fnState (putPort s n v) g = fnState s g := rfl
@[simp] theorem endpoint_of_putPort (s : State) (n : Nat) (v : PortState) (x : Endpoint) :
    endpoint (putPort s n v) x = endpoint s x := rfl
@[simp] theorem node_of_putPort (s : State) (n : Nat) (v : PortState) (k : Nat) :
    node (putPort s n v) k = node s k := rfl
@[simp] theorem mailbox_of_putPort (s : State) (n : Nat) (v : PortState) (k : Nat) :
    mailbox (putPort s n v) k = mailbox s k := rfl
@[simp] theorem word_of_putPort (s : State) (n : Nat) (v : PortState) (k : Nat) :
    word (putPort s n v) k = word s k := rfl
@[simp] theorem readByte_of_putPort (s : State) (n : Nat) (v : PortState) (k : Nat) :
    readByte (putPort s n v) k = readByte s k := rfl
@[simp] theorem now_of_putNode (s : State) (n : Nat) (v : Node) :
    now (putNode s n v) = now s := rfl
@[simp] theorem round_of_putNode (s : State) (n : Nat) (v : Node) :
    round (putNode s n v) = round s := rfl
@[simp] theorem running_of_putNode (s : State) (n : Nat) (v : Node) :
    running (putNode s n v) = running s := rfl
@[simp] theorem thread_of_putNode (s : State) (n : Nat) (v : Node) (t0 : Tid) :
    thread (putNode s n v) t0 = thread s t0 := rfl
@[simp] theorem core_of_putNode (s : State) (n : Nat) (v : Node) (k : Nat) :
    core (putNode s n v) k = core s k := rfl
@[simp] theorem frame_of_putNode (s : State) (n : Nat) (v : Node) (k : Nat) :
    frame? (putNode s n v) k = frame? s k := rfl
@[simp] theorem ring_of_putNode (s : State) (n : Nat) (v : Node) (k : Nat) :
    ring (putNode s n v) k = ring s k := rfl
@[simp] theorem lock_of_putNode (s : State) (n : Nat) (v : Node) (k : Nat) :
    lock (putNode s n v) k = lock s k := rfl
@[simp] theorem chan_of_putNode (s : State) (n : Nat) (v : Node) (k : Nat) :
    chan (putNode s n v) k = chan s k := rfl
@[simp] theorem group_of_putNode (s : State) (n : Nat) (v : Node) (k : Nat) :
    group (putNode s n v) k = group s k := rfl
@[simp] theorem cluster_of_putNode (s : State) (n : Nat) (v : Node) (k : Nat) :
    cluster (putNode s n v) k = cluster s k := rfl
@[simp] theorem fnState_of_putNode (s : State) (n : Nat) (v : Node) (g : FnId) :
    fnState (putNode s n v) g = fnState s g := rfl
@[simp] theorem endpoint_of_putNode (s : State) (n : Nat) (v : Node) (x : Endpoint) :
    endpoint (putNode s n v) x = endpoint s x := rfl
@[simp] theorem port_of_putNode (s : State) (n : Nat) (v : Node) (k : Nat) :
    port (putNode s n v) k = port s k := rfl
@[simp] theorem mailbox_of_putNode (s : State) (n : Nat) (v : Node) (k : Nat) :
    mailbox (putNode s n v) k = mailbox s k := rfl
@[simp] theorem word_of_putNode (s : State) (n : Nat) (v : Node) (k : Nat) :
    word (putNode s n v) k = word s k := rfl
@[simp] theorem readByte_of_putNode (s : State) (n : Nat) (v : Node) (k : Nat) :
    readByte (putNode s n v) k = readByte s k := rfl
@[simp] theorem now_of_putMailbox (s : State) (n : Nat) (v : Mailbox) :
    now (putMailbox s n v) = now s := rfl
@[simp] theorem round_of_putMailbox (s : State) (n : Nat) (v : Mailbox) :
    round (putMailbox s n v) = round s := rfl
@[simp] theorem running_of_putMailbox (s : State) (n : Nat) (v : Mailbox) :
    running (putMailbox s n v) = running s := rfl
@[simp] theorem thread_of_putMailbox (s : State) (n : Nat) (v : Mailbox) (t0 : Tid) :
    thread (putMailbox s n v) t0 = thread s t0 := rfl
@[simp] theorem core_of_putMailbox (s : State) (n : Nat) (v : Mailbox) (k : Nat) :
    core (putMailbox s n v) k = core s k := rfl
@[simp] theorem frame_of_putMailbox (s : State) (n : Nat) (v : Mailbox) (k : Nat) :
    frame? (putMailbox s n v) k = frame? s k := rfl
@[simp] theorem ring_of_putMailbox (s : State) (n : Nat) (v : Mailbox) (k : Nat) :
    ring (putMailbox s n v) k = ring s k := rfl
@[simp] theorem lock_of_putMailbox (s : State) (n : Nat) (v : Mailbox) (k : Nat) :
    lock (putMailbox s n v) k = lock s k := rfl
@[simp] theorem chan_of_putMailbox (s : State) (n : Nat) (v : Mailbox) (k : Nat) :
    chan (putMailbox s n v) k = chan s k := rfl
@[simp] theorem group_of_putMailbox (s : State) (n : Nat) (v : Mailbox) (k : Nat) :
    group (putMailbox s n v) k = group s k := rfl
@[simp] theorem cluster_of_putMailbox (s : State) (n : Nat) (v : Mailbox) (k : Nat) :
    cluster (putMailbox s n v) k = cluster s k := rfl
@[simp] theorem fnState_of_putMailbox (s : State) (n : Nat) (v : Mailbox) (g : FnId) :
    fnState (putMailbox s n v) g = fnState s g := rfl
@[simp] theorem endpoint_of_putMailbox (s : State) (n : Nat) (v : Mailbox) (x : Endpoint) :
    endpoint (putMailbox s n v) x = endpoint s x := rfl
@[simp] theorem port_of_putMailbox (s : State) (n : Nat) (v : Mailbox) (k : Nat) :
    port (putMailbox s n v) k = port s k := rfl
@[simp] theorem node_of_putMailbox (s : State) (n : Nat) (v : Mailbox) (k : Nat) :
    node (putMailbox s n v) k = node s k := rfl
@[simp] theorem word_of_putMailbox (s : State) (n : Nat) (v : Mailbox) (k : Nat) :
    word (putMailbox s n v) k = word s k := rfl
@[simp] theorem readByte_of_putMailbox (s : State) (n : Nat) (v : Mailbox) (k : Nat) :
    readByte (putMailbox s n v) k = readByte s k := rfl
@[simp] theorem now_of_addDue (s : State) (d : Due) :
    now (addDue s d) = now s := rfl
@[simp] theorem round_of_addDue (s : State) (d : Due) :
    round (addDue s d) = round s := rfl
@[simp] theorem running_of_addDue (s : State) (d : Due) :
    running (addDue s d) = running s := rfl
@[simp] theorem thread_of_addDue (s : State) (d : Due) (t0 : Tid) :
    thread (addDue s d) t0 = thread s t0 := rfl
@[simp] theorem core_of_addDue (s : State) (d : Due) (k : Nat) :
    core (addDue s d) k = core s k := rfl
@[simp] theorem frame_of_addDue (s : State) (d : Due) (k : Nat) :
    frame? (addDue s d) k = frame? s k := rfl
@[simp] theorem ring_of_addDue (s : State) (d : Due) (k : Nat) :
    ring (addDue s d) k = ring s k := rfl
@[simp] theorem lock_of_addDue (s : State) (d : Due) (k : Nat) :
    lock (addDue s d) k = lock s k := rfl
@[simp] theorem chan_of_addDue (s : State) (d : Due) (k : Nat) :
    chan (addDue s d) k = chan s k := rfl
@[simp] theorem group_of_addDue (s : State) (d : Due) (k : Nat) :
    group (addDue s d) k = group s k := rfl
@[simp] theorem cluster_of_addDue (s : State) (d : Due) (k : Nat) :
    cluster (addDue s d) k = cluster s k := rfl
@[simp] theorem fnState_of_addDue (s : State) (d : Due) (g : FnId) :
    fnState (addDue s d) g = fnState s g := rfl
@[simp] theorem endpoint_of_addDue (s : State) (d : Due) (x : Endpoint) :
    endpoint (addDue s d) x = endpoint s x := rfl
@[simp] theorem port_of_addDue (s : State) (d : Due) (k : Nat) :
    port (addDue s d) k = port s k := rfl
@[simp] theorem node_of_addDue (s : State) (d : Due) (k : Nat) :
    node (addDue s d) k = node s k := rfl
@[simp] theorem mailbox_of_addDue (s : State) (d : Due) (k : Nat) :
    mailbox (addDue s d) k = mailbox s k := rfl
@[simp] theorem word_of_addDue (s : State) (d : Due) (k : Nat) :
    word (addDue s d) k = word s k := rfl
@[simp] theorem readByte_of_addDue (s : State) (d : Due) (k : Nat) :
    readByte (addDue s d) k = readByte s k := rfl

end Sys2Proof.Machine
end

