-- ==== Sys2Proof/Laws/Ops.lean ====
section
/-! SUPPORT. What the shared operations do: memory, register words, keyed parts of the state, the issue of an
instruction. -/

namespace Sys2Proof.Machine

open Sys2Proof

/-! ### Memory -/

theorem writeByte_wf (s : State) (a : Nat) (b : Byte) (h : Memory.wf s.mem) : Memory.wf (writeByte s a b).mem :=
  sparseSet_wf memReset s.mem a b h

theorem readByte_writeByte (s : State) (a : Nat) (b : Byte) (x : Nat) (h : Memory.wf s.mem) :
    readByte (writeByte s a b) x = if x = a then b else readByte s x :=
  sparseGet_set memReset s.mem a b x h

theorem readByte_writeByte_ne (s : State) (a : Nat) (b : Byte) (x : Nat) (h : x ≠ a) :
    readByte (writeByte s a b) x = readByte s x :=
  sparseGet_set_ne memReset s.mem a b x h

/-- Writing bytes changes the memory and nothing else. -/
theorem writeBytes_eq (bs : List Byte) : ∀ (s : State) (a : Nat),
    writeBytes s a bs = { s with mem := (writeBytes s a bs).mem } := by
  induction bs with
  | nil => intro s a; rfl
  | cons b bs ih => intro s a; simp only [writeBytes]; rw [ih]; rfl

theorem writeBytes_wf (bs : List Byte) : ∀ (s : State) (a : Nat), Memory.wf s.mem →
    Memory.wf (writeBytes s a bs).mem := by
  induction bs with
  | nil => intro s a h; exact h
  | cons b bs ih => intro s a h; exact ih _ _ (writeByte_wf s a b h)

/-- Bytes outside the written range read as before. -/
theorem readByte_writeBytes_ne (bs : List Byte) : ∀ (s : State) (a x : Nat),
    (x < a ∨ a + bs.length ≤ x) → readByte (writeBytes s a bs) x = readByte s x := by
  induction bs with
  | nil => intro s a x _; rfl
  | cons b bs ih =>
    intro s a x h
    simp only [List.length_cons] at h
    simp only [writeBytes]
    rw [ih _ _ _ (by omega), readByte_writeByte_ne _ _ _ _ (by omega)]

/-- A written byte reads back. -/
theorem readByte_writeBytes (bs : List Byte) : ∀ (s : State) (a i : Nat), Memory.wf s.mem → (h : i < bs.length) →
    readByte (writeBytes s a bs) (a + i) = bs[i] := by
  induction bs with
  | nil => intro s a i _ h; simp at h
  | cons b bs ih =>
    intro s a i hw h
    simp only [writeBytes]
    cases i with
    | zero =>
      rw [readByte_writeBytes_ne _ _ _ _ (by omega)]
      simp [readByte_writeByte s a b a hw]
    | succ j =>
      have := ih (writeByte s a b) (a + 1) j (writeByte_wf s a b hw) (by simpa using h)
      simpa [Nat.add_assoc, Nat.add_comm 1 j] using this

/-! ### Register words -/

theorem setWord_wf (s : State) (a : Nat) (w : Word) (h : sparseWf resetWord s.words) :
    sparseWf resetWord (setWord s a w).words :=
  sparseSet_wf resetWord s.words a w h

theorem word_setWord (s : State) (a : Nat) (w : Word) (x : Nat) (h : sparseWf resetWord s.words) :
    word (setWord s a w) x = if x = a then w else word s x :=
  sparseGet_set resetWord s.words a w x h

theorem word_setWord_ne (s : State) (a : Nat) (w : Word) (x : Nat) (h : x ≠ a) :
    word (setWord s a w) x = word s x :=
  sparseGet_set_ne resetWord s.words a w x h

/-! ### Keyed parts -/

theorem tidNum_inj (t u : Tid) (h : tidNum t = tidNum u) : t = u := by
  obtain ⟨⟨a, ha⟩, ⟨b, hb⟩, ⟨c, hc⟩⟩ := t
  obtain ⟨⟨a', ha'⟩, ⟨b', hb'⟩, ⟨c', hc'⟩⟩ := u
  simp only [tidNum] at h
  have h1 : a = a' := by omega
  have h2 : b = b' := by omega
  have h3 : c = c' := by omega
  subst h1; subst h2; subst h3; rfl

@[simp] theorem thread_putThread (s : State) (t : Tid) (v : Thread) : thread (putThread s t v) t = v := by
  simp [thread, putThread]

theorem thread_putThread_ne (s : State) (t u : Tid) (v : Thread) (h : u ≠ t) :
    thread (putThread s t v) u = thread s u := by
  have : tidNum u ≠ tidNum t := fun e => h (tidNum_inj u t e)
  simp [thread, putThread, look_place_ne _ _ _ _ this]

@[simp] theorem thread_onThread (s : State) (t : Tid) (f : Thread → Thread) :
    thread (onThread s t f) t = f (thread s t) := by simp [onThread]

theorem thread_onThread_ne (s : State) (t u : Tid) (f : Thread → Thread) (h : u ≠ t) :
    thread (onThread s t f) u = thread s u := by simp [onThread, thread_putThread_ne s t u _ h]

@[simp] theorem core_putCore (s : State) (n : Nat) (v : CoreState) : core (putCore s n v) n = v := by
  simp [core, putCore]

theorem core_putCore_ne (s : State) (n m : Nat) (v : CoreState) (h : m ≠ n) :
    core (putCore s n v) m = core s m := by simp [core, putCore, look_place_ne _ _ _ _ h]

@[simp] theorem frame_putFrame (s : State) (f : Frame) : frame? (putFrame s f) f.id = some f := by
  simp [frame?, putFrame]

theorem frame_putFrame_ne (s : State) (f : Frame) (k : Nat) (h : k ≠ f.id) :
    frame? (putFrame s f) k = frame? s k := by simp [frame?, putFrame, look_place_ne _ _ _ _ h]

@[simp] theorem ring_putRing (s : State) (n : Nat) (v : RingState) : ring (putRing s n v) n = v := by
  simp [ring, putRing]
@[simp] theorem lock_putLock (s : State) (n : Nat) (v : Lock) : lock (putLock s n v) n = v := by
  simp [lock, putLock]
@[simp] theorem chan_putChan (s : State) (n : Nat) (v : Chan) : chan (putChan s n v) n = v := by
  simp [chan, putChan]
@[simp] theorem group_putGroup (s : State) (n : Nat) (v : Group) : group (putGroup s n v) n = v := by
  simp [group, putGroup]
@[simp] theorem cluster_putCluster (s : State) (n : Nat) (v : Cluster) : cluster (putCluster s n v) n = v := by
  simp [cluster, putCluster]
@[simp] theorem fnState_putFn (s : State) (f : FnId) (v : FnState) : fnState (putFn s f v) f = v := by
  simp [fnState, putFn]
@[simp] theorem endpoint_putEndpoint (s : State) (e : Endpoint) (v : EndpointState) :
    endpoint (putEndpoint s e v) e = v := by simp [endpoint, putEndpoint]
@[simp] theorem port_putPort (s : State) (n : Nat) (v : PortState) : port (putPort s n v) n = v := by
  simp [port, putPort]
@[simp] theorem node_putNode (s : State) (n : Nat) (v : Node) : node (putNode s n v) n = v := by
  simp [node, putNode]
@[simp] theorem mailbox_putMailbox (s : State) (n : Nat) (v : Mailbox) : mailbox (putMailbox s n v) n = v := by
  simp [mailbox, putMailbox]

/-! ### Registers of a thread -/

theorem gReg_zero (th : Thread) : gReg th 0 = 0 := by simp [gReg]
theorem pReg_zero (th : Thread) : pReg th 0 = true := by simp [pReg]
theorem setG_zero (th : Thread) (v : DWord) : setG th 0 v = th := by simp [setG]

/-! ### Events, counters and the frame of a meaning -/

theorem act_live (s : State) (f : State → State) (h : s.power.clockVoid = false) (h' : running s = true) :
    act s f = .next (f s) := by simp [act, h, h']

theorem act_stopped (s : State) (f : State → State) (h : s.power.clockVoid = false) (h' : running s = false) :
    act s f = .next s := by simp [act, h, h']

theorem act_void (s : State) (f : State → State) (h : s.power.clockVoid = true) :
    act s f = .fault .clockVoid := by simp [act, h]

theorem actAlways_next (s : State) (f : State → State) (h : s.power.clockVoid = false) :
    actAlways s f = .next (f s) := by simp [actAlways, h]

theorem actAlways_void (s : State) (f : State → State) (h : s.power.clockVoid = true) :
    actAlways s f = .fault .clockVoid := by simp [actAlways, h]

/-- The part of an event that is not its counting changes the recorder and the words only: the memory, the threads
and the pending commands stay. -/
theorem eventAt_mem (s : State) (tick time : BitVec 64) (epoch : Bool) (source code detail tenancy reason : Nat)
    (fatal : Bool) : (eventAt s tick time epoch source code detail tenancy reason fatal).mem = s.mem := by
  simp only [eventAt]
  split <;> rfl

theorem eventAt_threads (s : State) (tick time : BitVec 64) (epoch : Bool)
    (source code detail tenancy reason : Nat) (fatal : Bool) :
    (eventAt s tick time epoch source code detail tenancy reason fatal).threads = s.threads := by
  simp only [eventAt]
  split <;> rfl

theorem eventAt_pending (s : State) (tick time : BitVec 64) (epoch : Bool)
    (source code detail tenancy reason : Nat) (fatal : Bool) :
    (eventAt s tick time epoch source code detail tenancy reason fatal).pending = s.pending := by
  simp only [eventAt]
  split <;> rfl

/-- An event keeps the register words canonical. -/
theorem eventAt_wf (s : State) (tick time : BitVec 64) (epoch : Bool) (source code detail tenancy reason : Nat)
    (fatal : Bool) (h : sparseWf resetWord s.words) :
    sparseWf resetWord (eventAt s tick time epoch source code detail tenancy reason fatal).words := by
  simp only [eventAt]
  split
  · exact setWord_wf s _ _ h
  · exact setWord_wf _ _ _ (setWord_wf s _ _ h)

/-! ### The issue of an instruction -/

/-- An issue counts in its core and its thread, and changes nothing else. -/
theorem markIssued_eq (s : State) (t : Tid) :
    markIssued s t = { s with cores := (markIssued s t).cores, threads := (markIssued s t).threads } := by
  unfold markIssued countIssue
  split <;> rfl

/-- An instruction that can issue over error-free words does its body. -/
theorem issue_body (s : State) (t : Tid) (i : Instr) (named : List Dest) (lendable : Bool) (body : State → State)
    (h : canIssue s t (encodeInstr i) named lendable = true)
    (h' : codeError s t (encodeInstr i).length = false) :
    issue s t i named lendable body = body (markIssued s t) := by simp [issue, h, h']

/-- An instruction that cannot issue changes nothing. -/
theorem issue_stall (s : State) (t : Tid) (i : Instr) (named : List Dest) (lendable : Bool) (body : State → State)
    (h : canIssue s t (encodeInstr i) named lendable = false) :
    issue s t i named lendable body = s := by simp [issue, h]

end Sys2Proof.Machine
end

