-- ==== Sys2Proof/Laws/Issue.lean ====
section
/-! SUPPORT. What issuing a Falfimi instruction changes: the thread and its core, once for all instructions. -/

namespace Sys2Proof.Machine

open Sys2Proof

@[simp] theorem thread_countIssue (s : State) (t u : Tid) : thread (countIssue s t) u = thread s u := by
  unfold countIssue; split <;> rfl

theorem core_countIssue_ne (s : State) (t : Tid) (n : Nat) (h : n ≠ coreNum t) :
    core (countIssue s t) n = core s n := by
  unfold countIssue; split
  · exact core_putCore_ne _ _ _ _ h
  · rfl

theorem core_countIssue (s : State) (t : Tid) :
    ∃ n k, core (countIssue s t) (coreNum t) = { core s (coreNum t) with issueTick := n, issueCount := k } := by
  unfold countIssue; split
  · exact ⟨_, _, core_putCore _ _ _⟩
  · exact ⟨_, _, rfl⟩

@[simp] theorem thread_markIssued (s : State) (t : Tid) : thread (markIssued s t) t = issuedThread s t := by
  simp [markIssued, issuedThread]

theorem thread_markIssued_ne (s : State) (t u : Tid) (h : u ≠ t) : thread (markIssued s t) u = thread s u := by
  simp [markIssued, thread_putThread_ne _ _ _ _ h]

theorem core_markIssued_ne (s : State) (t : Tid) (n : Nat) (h : n ≠ coreNum t) :
    core (markIssued s t) n = core s n := core_countIssue_ne s t n h

theorem core_markIssued (s : State) (t : Tid) :
    ∃ n k, core (markIssued s t) (coreNum t) = { core s (coreNum t) with issueTick := n, issueCount := k } :=
  core_countIssue s t

theorem markIssued_fields (s : State) (t : Tid) :
    (markIssued s t).tick = s.tick ∧ (markIssued s t).mem = s.mem ∧ (markIssued s t).words = s.words ∧
      (markIssued s t).due = s.due := by
  rw [markIssued_eq]; exact ⟨rfl, rfl, rfl, rfl⟩

@[simp] theorem now_markIssued (s : State) (t : Tid) : now (markIssued s t) = now s := by
  simp [now, (markIssued_fields s t).1]
@[simp] theorem mem_markIssued (s : State) (t : Tid) : (markIssued s t).mem = s.mem := (markIssued_fields s t).2.1
@[simp] theorem words_markIssued (s : State) (t : Tid) : (markIssued s t).words = s.words :=
  (markIssued_fields s t).2.2.1
@[simp] theorem due_markIssued (s : State) (t : Tid) : (markIssued s t).due = s.due := (markIssued_fields s t).2.2.2

@[simp] theorem gReg_issued (s : State) (t : Tid) (n : BitVec 5) : gReg (issuedThread s t) n = gReg (thread s t) n :=
  rfl
@[simp] theorem pReg_issued (s : State) (t : Tid) (n : BitVec 3) : pReg (issuedThread s t) n = pReg (thread s t) n :=
  rfl
@[simp] theorem guardOf_issued (s : State) (t : Tid) (g : Guard) :
    guardOf (issuedThread s t) g = guardOf (thread s t) g := rfl
@[simp] theorem condOf_issued (s : State) (t : Tid) (c : Cond) :
    condOf (issuedThread s t) c = condOf (thread s t) c := rfl
@[simp] theorem pc_issued (s : State) (t : Tid) : (issuedThread s t).pc = (thread s t).pc := rfl
@[simp] theorem pend_issued (s : State) (t : Tid) : (issuedThread s t).pend = (thread s t).pend := rfl
@[simp] theorem effAddr_issued (s : State) (t : Tid) (ra : BitVec 5) (off : BitVec 12) :
    effAddr (issuedThread s t) ra off = effAddr (thread s t) ra off := rfl
@[simp] theorem hdrBytes_issued (s : State) (t : Tid) (a n : Nat) :
    hdrBytes (issuedThread s t) a n = hdrBytes (thread s t) a n := rfl

theorem pendTo_eq (th : Thread) (d : Dest) (v : Option DWord) (r : Nat) :
    pendTo th d v (some r) = { th with pend := PendsAfter th d v r } := by
  unfold pendTo PendsAfter; split <;> rfl

/-- A change of the thread after its issue leaves the others as they were. -/
theorem othersKept_onThread (s : State) (t : Tid) (f : Thread → Thread) :
    OthersKept t s (onThread (markIssued s t) t f) := by
  refine ⟨fun t' h => ?_, fun n h => ?_, ?_⟩
  · simp [thread_onThread_ne _ _ _ _ h, thread_markIssued_ne _ _ _ h]
  · exact core_markIssued_ne s t n h
  · exact core_markIssued s t

/-- A change of the thread after its issue changes nothing but the thread and its core. -/
theorem onlyThread_onThread (s : State) (t : Tid) (f : Thread → Thread) :
    OnlyThread t s (onThread (markIssued s t) t f) :=
  ⟨by unfold markIssued countIssue; split <;> rfl, othersKept_onThread s t f⟩

/-- One result of an instruction that has issued. -/
theorem pends_result (s : State) (t : Tid) (d : Dest) (v : Option DWord) (lat words : Nat) :
    Pends t d v lat words s (onThread (markIssued s t) t fun th => pendTo (advance th words) d v (some (now s + lat))) := by
  refine ⟨?_, ?_⟩ <;> simp [Advanced, pendTo_eq, advance, PendsAfter]

theorem pends_resultG (s : State) (t : Tid) (rd : BitVec 5) (v : Option DWord) (lat words : Nat) :
    Pends t (.g rd) v lat words s (resultG (markIssued s t) t rd v lat words) := by
  rw [resultG, now_markIssued]; exact pends_result s t (.g rd) v lat words

theorem oneResult_resultG (s : State) (t : Tid) (rd : BitVec 5) (v : Option DWord) (words : Nat) :
    OneResult t (.g rd) v words s (resultG (markIssued s t) t rd v 1 words) := by
  rw [resultG, now_markIssued]
  exact ⟨onlyThread_onThread s t _, pends_result s t (.g rd) v 1 words⟩

theorem oneResult_resultP (s : State) (t : Tid) (pd : BitVec 3) (v : Option Bool) (words : Nat) :
    OneResult t (.p pd) (v.map fun b => if b then 1 else 0) words s (resultP (markIssued s t) t pd v words) := by
  rw [resultP, now_markIssued]
  exact ⟨onlyThread_onThread s t _, pends_result s t (.p pd) _ 1 words⟩

/-- A fault raised by an instruction that has issued. -/
theorem faults_raise (s : State) (t : Tid) (code : Nat) (w : Word) (a : DWord) (p : Nat) :
    Faults t code s (raise (markIssued s t) t code w a p) :=
  ⟨onlyThread_onThread s t _, by simp [raise], by simp [raise]⟩

/-- An instruction that issues runs its body on the state in which it has issued. -/
theorem exec_issue {s : State} {t : Tid} {c : Instr} {named : List Dest} {lend : Bool} (hi : Issues s t c named lend)
    (body : State → State) (h : exec c s = act s fun s => issue s t c named lend body) :
    exec c s = .next (body (markIssued s t)) := by
  rw [h, act_live _ _ hi.1.1 hi.1.2, issue_body _ _ _ _ _ _ hi.2.1 hi.2.2]

/-- A command of a device that runs does its step. -/
theorem runs_act {s : State} {c : Instr} {step : State → State} (hl : Live s) (h : exec c s = act s step)
    {P : State → Prop} (hp : P (step s)) : Runs c s P := ⟨_, h.trans (act_live _ _ hl.1 hl.2), hp⟩

theorem runs_issue {s : State} {t : Tid} {c : Instr} {named : List Dest} {lend : Bool} (hi : Issues s t c named lend)
    (body : State → State) (h : exec c s = act s fun s => issue s t c named lend body) {P : State → Prop}
    (hp : P (body (markIssued s t))) : Runs c s P := ⟨_, exec_issue hi body h, hp⟩

theorem runs_oneG {s : State} {t : Tid} {c : Instr} {named : List Dest} {lend : Bool} (hi : Issues s t c named lend)
    {body : State → State} (h : exec c s = act s fun s => issue s t c named lend body) {rd : BitVec 5}
    {v : Option DWord} {w : Nat} (hb : body (markIssued s t) = resultG (markIssued s t) t rd v 1 w) :
    Runs c s (OneResult t (.g rd) v w s) := runs_issue hi body h (by rw [hb]; exact oneResult_resultG ..)

theorem runs_oneP {s : State} {t : Tid} {c : Instr} {named : List Dest} {lend : Bool} (hi : Issues s t c named lend)
    {body : State → State} (h : exec c s = act s fun s => issue s t c named lend body) {pd : BitVec 3}
    {v : Option Bool} {v' : Option DWord} {w : Nat}
    (hb : body (markIssued s t) = resultP (markIssued s t) t pd v w)
    (hv : (v.map fun b => if b then (1 : DWord) else 0) = v') :
    Runs c s (OneResult t (.p pd) v' w s) := runs_issue hi body h (by rw [hb, ← hv]; exact oneResult_resultP ..)

theorem runs_fault {s : State} {t : Tid} {c : Instr} {named : List Dest} {lend : Bool} (hi : Issues s t c named lend)
    {body : State → State} (h : exec c s = act s fun s => issue s t c named lend body) {code : Nat} {w : Word}
    {a : DWord} {p : Nat} (hb : body (markIssued s t) = raise (markIssued s t) t code w a p) :
    Runs c s (Faults t code s) := runs_issue hi body h (by rw [hb]; exact faults_raise ..)

end Sys2Proof.Machine
end

