-- ==== Sys2Proof/Machine/View.lean ====
section
/-! DEFINITION. What a read of a register that changes nothing returns: the words in force, the uncommitted
values of a shadow register, and the read-only registers that show other state (R10, R13, R39, R391, R514, R515). -/

namespace Sys2Proof.Machine

open Sys2Proof

/-- A flag as a word. -/
def asWord (b : Bool) : Word := if b then 1 else 0

/-- A register word with a field that other state shows. -/
def shown (s : State) (a hi lo v : Nat) : Word := setFld (word s a) hi lo v

/-- A commit of the block has not taken effect (PENDING of the status registers, R515). -/
def pendingOf (s : State) (b : Blk) : Bool := s.commits.any fun c => c.blk == b

/-- A block whose shadow sets belong to functions: the function's own commit is pending (R202, R355). -/
def pendingFor (s : State) (b : Blk) (fn : FnId) : Bool := s.commits.any fun c => c.blk == b && c.fn == fn

/-- Path classes, cores and clusters (R55, R104, R332). -/
def viewCores (s : State) (a : Nat) : Option Word :=
  match elem a 0x2000000 17 0x100000 with
  | some (cl, o) =>
    if o = 0x34 then some (asWord (pendingOf s (.clu cl)))
    else if 0x44 ≤ o ∧ o < 0x54 then some (haltedWord s cl ((o - 0x44) / 4))
    else if 0x8000 ≤ o ∧ o < 0xC000 then
      let ch := (o - 0x8000) / 16
      let c := chan s (chanNum cl ch)
      let bitsOf := fun (lo : Nat) => BitVec.ofNat 32 (((List.range 32).filter fun k =>
        isSender s (round s) cl (lo + k) ch).foldl (fun n k => n + 2 ^ k) 0)
      match o % 16 with
      | 0 => some (bitsOf 0)
      | 4 => some (bitsOf 32)
      | 8 =>
        let committed := (c.messages.map List.length).foldl (· + ·) 0
        some (setFld (setFld (asWord (external s cl ch)) 22 16 committed) 30 24 (chanUsed s cl ch - committed))
      | _ => some (BitVec.ofNat 32 c.events)
    else none
  | none => match elem a 0x1B40000 64 0x10 with
    | some (c, 8) => some (BitVec.ofNat 32 (classTokens s c))
    | _ => match elem a 0x1D00000 17 0x20 with
      | some (n, 0) => some (BitVec.ofNat 32 (booked s (21 + n)))
      | _ => none

/-- The classifier's, the tables' and the in-band registers (R75, R203, R236). -/
def viewTables (s : State) (fn : FnId) (a : Nat) : Option Word :=
  if a = 0x16C0008 then some (setFld (word s (fnWordAddr fn a)) 0 0 (if pendingFor s (.cls fn) fn then 1 else 0))
  else if a = 0x16C0000 then
    some (BitVec.ofNat 32 ((List.range 1024).foldl (fun n t => (List.range 64).foldl (fun n k =>
      match ruleSetAt s (round s) t k with | some x => n + x.rules.length | none => n) n) 0))
  else if a = 0x16C000C then some (BitVec.ofNat 32 (treeFloor s))
  else if a = 0x1982008 then some (asWord (pendingOf s .tblAux))
  else match elem a 0x1800000 72 0x80 with
    | some (n, 0x18) => some (shown s a 0 0 (if pendingOf s (.tbl n) then 1 else 0))
    | some (n, 0x20) => some (BitVec.ofNat 32 (s.entries.filter fun e => e.table == n && inForce e).length)
    | some _ => none
    | none => match elem a 0x1840000 65536 0x10 with
      | some (k, 8) => some (BitVec.ofNat 32 (s.entries.filter fun e =>
          e.table == k / 1024 && e.part == k % 1024 && inForce e).length)
      | _ => match elem a 0x1820000 2064 0x10 with
        | some (n, 8) => some (BitVec.ofNat 32 (sourceCount s n))
        | _ => match elem a 0x180C000 1024 0x10 with
          | some (t, 0) => some (BitVec.ofNat 32 (tenancyChanges s t))
          | _ => none

/-- The release engine's, the ports' and the scheduler's registers (R257, R316, R338). -/
def viewRelease (s : State) (fn : FnId) (a : Nat) : Option Word :=
  if a = 0x1A08000 then some (BitVec.ofNat 32 (now s))
  else if a = 0x1A08004 then some (BitVec.ofNat 32 (now s / 2 ^ 32))
  else if a = 0x1A90000 then some (BitVec.ofNat 32 (s.frames.filter fun p => match p.2.stage with
    | .held | .group _ | .member _ => true
    | _ => false).length)
  else if a = 0x1A90010 then some (shown s a 0 0 (if pendingOf s .seqFo then 1 else 0))
  else if a = 0x1B00004 then
    some (setFld (word s (fnWordAddr fn a)) 0 0 (if pendingFor s .sch fn then 1 else 0))
  else match elem a 0x1A20000 256 0x200 with
    | some (g, 0x18) => some (shown s a 0 0 (if pendingOf s (.seqGrp g) then 1 else 0))
    | some _ => none
    | none => match elem a 0x1A40000 4096 0x10 with
      | some (l, 0xC) =>
        let ms := foMembers s (round s) l
        let start := fun (e : Endpoint) =>
          let n := (ms.filter fun m => m.2.1 == dkRing && (match ringOwner s (m.2.2 % 65536) with
            | some o => o.ep == e
            | none => e == .h0)).length
          if n = 0 then 0 else (word s (rotAddr l e)).toNat % n
        some (setFld (setFld 0 5 0 (start .h0)) 13 8 (start .h1))
      | _ => match elem a 0x1410000 4 0x40 with
        | some (g, 8) => some (shown s a 0 0 (if pendingOf s (.macGrp g) then 1 else 0))
        | _ => none

/-- Rings, endpoints, functions and their peer windows (R408, R409, R436, R470). -/
def viewHost (s : State) (a : Nat) : Option Word :=
  if a = 0x802004 then some (shown s a 0 0 (if pendingOf s .pwn then 1 else 0))
  else if a = 0x600000 ∨ a = 0x700000 then
    some (shown s a 23 20 (endpoint s (if a = 0x600000 then .h0 else .h1)).generation)
  else if a = 0x600008 ∨ a = 0x700008 then
    let q := (endpoint s (if a = 0x600008 then .h0 else .h1)).requests
    let shut := (q.filter fun x => x.2.quarantined).length
    some (setFld (setFld 0 12 0 (q.length - shut)) 28 16 shut)
  else match elem a 0x1000000 65536 0x40 with
    | some (r, 0x2C) => some (shown s a 11 8 (match ringOwner s r with
      | some fn => (fnState s fn).generation
      | none => 0))
    | _ => match elem a 0x101000 2048 4 with
      | some (f, _) => some (BitVec.ofNat 32 (fnState s (fnOf f)).generation)
      | none => none

/-- A function's mailbox block and its state word (R481, R482). -/
def viewMailbox (s : State) (a : Nat) : Option Word :=
  match elem a 0x900000 2048 0x800 with
  | some (k, o) =>
    let m := mailbox s k
    if 0x400 ≤ o ∧ o < 0x608 then some (f2hWord s (fnOf k) o)
    else if o = 0x704 then
      some (setFld (setFld (asWord m.up.full) 1 1 (if m.up.timeout then 1 else 0)) 15 8 m.up.reason)
    else if o = 0x708 then some (setFld (asWord m.down.full) 1 1 (if m.down.opened then 1 else 0))
    else none
  | none => match elem a 0x500000 2048 4 with
    | some (k, _) =>
      let m := mailbox s k
      let w := setFld (setFld (asWord m.up.full) 1 1 (if m.up.timeout then 1 else 0)) 2 2 (if m.down.full then 1 else 0)
      let w := setFld w 3 3 (if m.down.timeout then 1 else 0)
      some (setFld (setFld w 15 8 m.down.reason) 22 16 m.queue.length)
    | none => none

/-- The recorder's nonce and a function's event window (R490, R491, R495). -/
def viewEvents (s : State) (fn : FnId) (a : Nat) : Option Word :=
  if 0x400020 ≤ a ∧ a < 0x400040 then some (BitVec.ofNat 32 (leAt s.recorder.nonce (a - 0x400020) 4))
  else if 0x410000 ≤ a ∧ a < 0x412000 then
    let o := a - 0x410000
    if o = 0x18 then some (BitVec.ofNat 32 (viewNextOf s fn))
    else if o = 0x1C then some (BitVec.ofNat 32 (viewNextOf s fn / 2 ^ 32))
    else if o = 0x20 then some (BitVec.ofNat 32 (viewOldest s fn))
    else if o = 0x24 then some (BitVec.ofNat 32 (viewOldest s fn / 2 ^ 32))
    else if 0x1000 ≤ o then some (BitVec.ofNat 32 (leAt (viewSlot s fn ((o - 0x1000) / 64)) (o % 64) 4))
    else some (word s (fnWordAddr fn a))
  else none

/-- Status registers of the encryption, the tenancy table and the timebase, and the TCP window (R274, R355,
R384, R440). -/
def viewStatus (s : State) (fn : FnId) (a : Nat) : Option Word :=
  if a = 0x1C00004 then
    some (setFld (word s (fnWordAddr fn a)) 0 0 (if pendingFor s (.cry fn) fn then 1 else 0))
  else if 0x1C00000 ≤ a ∧ a < 0x1C00100 then some (word s (fnWordAddr fn a))
  else if 0x1B00000 ≤ a ∧ a < 0x1B00020 then some (word s (fnWordAddr fn a))
  else if 0x1EF0000 ≤ a ∧ a < 0x1EF0040 then some (word s (tcpWin fn (a - 0x1EF0000)))
  else if a = 0x6030004 then some (asWord (pendingOf s .ten))
  else if a = 0x300034 then some (shown s a 0 0 (if pendingOf s .tbs then 1 else 0))
  else none

/-- The identity registers' directory size and the directory itself, in every function's view (R391, R413). -/
def viewIdentity (s : State) (fn : FnId) (a : Nat) : Option Word :=
  if a = 0x10 then some (BitVec.ofNat 32 ((directory s fn).length % 65536))
  else if 0x1000 ≤ a ∧ a < 0x100000 then some (BitVec.ofNat 32 (leAt (directory s fn) (a - 0x1000) 4))
  else none

/-- The first answer of a list of views. -/
def firstView : List (Option Word) → Option Word
  | [] => none
  | some w :: _ => some w
  | none :: m => firstView m

/-- The word at a register offset as a function with the right to read it sees it. -/
def shownWord (s : State) (fn : FnId) (a : Nat) : Word :=
  match firstView [viewIdentity s fn a, viewCores s a, viewTables s fn a, viewRelease s fn a, viewHost s a,
      viewMailbox s a, viewEvents s fn a, viewStatus s fn a] with
  | some w => w
  | none => match regSpec s fn a with
    | some r =>
      let at_ := if r.own then fnWordAddr fn a else a
      match r.blk with
      | some b => shadowWord s b fn at_
      | none => word s at_
    | none => word s a

/-- A tenancy sees of CLU_CORE_MODE the bits of its own cores (R104). -/
def ownModes (s : State) (fn : FnId) (a : Nat) (w : Word) : Word :=
  match elem a 0x2000000 17 0x100000 with
  | some (cl, 4) => (List.range 16).foldl (fun v c => if coreTenancy s cl c = fnTenancy s fn then v
    else setFld v c c 0) w
  | _ => w

/-- What function `fn` reads at a register offset: 0 where the read reaches no block of its view; the latched half of
a counter whose low half was read before; else the register (R13, R14, R391, R514). -/
def readWord (s : State) (fn : FnId) (a : Nat) : Word :=
  if !platform s fn && !readView s fn a then 0
  else match s.latch.find? fun p => p.1 == a with
    | some p => p.2
    | none => if platform s fn then shownWord s fn a else ownModes s fn a (shownWord s fn a)

/-! ### Drop counts (R25)

R25 gives every drop a count, readable by its owner, and gives the counts no register (the registers that count drops
besides stand in their own blocks): a read of one is this query. -/

/-- The tenancy that may read the drops counted at a place; a port has none. -/
def dropOwner (s : State) : DropAt → Option Nat
  | .port _ => none
  | .ring r => some (ringTenancy s r)
  | .node n => some (queueOwner s n)
  | .tenancy t => some t

/-- The drops counted at a place under a reason, as a function of the owning tenancy reads them; none to any other. -/
def dropsRead (s : State) (fn : FnId) (w : DropAt) (reason : Nat) : Option Nat :=
  if dropOwner s w = some (fnTenancy s fn) then some (dropCount s w reason) else none

/-- The total of all drops under a reason, which only the platform sees. -/
def dropTotal (s : State) (fn : FnId) (reason : Nat) : Option Nat :=
  if platform s fn then
    some ((s.drops.filter fun p => p.1 % 256 == reason).foldl (fun n p => n + p.2) 0) else none

end Sys2Proof.Machine
end

