-- ==== Sys2Proof/Tests/Slice0.lean ====
section
/-! SUPPORT. Tests of single steps: ill-formed commands are refused by the well-formedness check, words of the manual's
encodings decode to their instructions, check values are the manual's, and every premise of a statement is met by a
concrete state. Expected values are the manual's or are worked out by hand from it. -/

namespace Sys2Proof.Tests

set_option Elab.async false

open Sys2Proof Sys2Proof.Machine

/-- Thread 2 of core 7 of cluster 4. -/
def t0 : Tid := ⟨4, 7, 2⟩
/-- PF0 of H0, and a command of controller 0. -/
def host : FnId := ⟨.h0, 0⟩
def id0 : NvmeId := ⟨0, 1, 5⟩
/-- A CLASS payload with every field in range. -/
def cls0 : ClassPayload := ⟨1, 2, 1, 1, 96, 0, false, 0, [(0, 0)], true⟩

/-! ### Well-formed commands (one ill-formed term for each check) -/

theorem test_wf_words : (Instr.done t0 ⟨0, false⟩ false).wf = true ∧ (Instr.bsw16 t0 1 2 ⟨0, false⟩).wf = true := by
  decide
theorem test_wf_reserved : (Instr.time t0 5 0 7).wf = false := by decide
theorem test_wf_rom : (Instr.registerWrite host (2 ^ 32) false 0 0).wf = true ∧
    (Instr.registerWrite host (2 ^ 32 + 2 ^ 20) false 0 0).wf = false := by decide
theorem test_wf_offsets : (Instr.registerWrite host (2 ^ 28) false 0 0).wf = false ∧
    (Instr.counterLowRead host (2 ^ 28) false).wf = false ∧ (Instr.lateMaxRead host (2 ^ 28)).wf = false ∧
    (Instr.registerReadUnaligned host (2 ^ 28) false).wf = false ∧
    (Instr.mbxF2hRead host (2 ^ 28) false).wf = false := by decide
theorem test_wf_frame : (Instr.frameReceive 0 [] false 0 0).wf = false := by decide
theorem test_wf_doorbell : (Instr.doorbell host 65536 0 4 0).wf = false ∧ (Instr.doorbell host 0 4096 4 0).wf = false ∧
    (Instr.doorbell host 0 0 5 0).wf = false ∧ (Instr.doorbell host 0 0 8 0).wf = true := by decide
theorem test_wf_peer : (Instr.peerSlotWrite .h0 0 (2 ^ 24) [1]).wf = false ∧
    (Instr.peerSlotWrite .h0 0 0 []).wf = false ∧ (Instr.peerDoorbell .h0 0 (2 ^ 24) 4 0).wf = false ∧
    (Instr.peerDoorbell .h0 0 0 0 0).wf = false ∧ (Instr.peerDoorbell .h0 0 0 9 0).wf = false ∧
    (Instr.peerPublish .h0 0 (2 ^ 24) 0).wf = false ∧ (Instr.bar4NonPosted .h0 0 (2 ^ 24)).wf = false ∧
    (Instr.peerUnmatchedWrite .h0 0 (2 ^ 24) 4).wf = false ∧
    (Instr.peerUnmatchedWrite .h0 0 0 4097).wf = false := by decide
theorem test_wf_tags : (Instr.completionTimeout .h0 4096).wf = false ∧
    (Instr.unexpectedCompletion .h0 4096 true).wf = false ∧ (Instr.tagQuarantineEnd .h0 4096).wf = false ∧
    (Instr.readCompletion .h0 4096 [] true false true).wf = false := by decide
theorem test_wf_l0p : (Instr.l0pEnter .h0 101).wf = false ∧ (Instr.l0pEnter .h0 100).wf = true := by decide
theorem test_wf_loader : (Instr.load host 0 0 (2 ^ 32) 0).wf = false ∧ (Instr.load host 0 0 0 256).wf = false ∧
    (Instr.unload host 0 256).wf = false := by decide
theorem test_wf_class : (Instr.classRequest host 0 cls0).wf = true ∧
    (Instr.classRequest host 0 { cls0 with cls := 256 }).wf = false ∧
    (Instr.classRequest host 0 { cls0 with owner := 65536 }).wf = false ∧
    (Instr.classRequest host 0 { cls0 with k := 65536 }).wf = false ∧
    (Instr.classRequest host 0 { cls0 with s := 256 }).wf = false ∧
    (Instr.classRequest host 0 { cls0 with a := 65536 }).wf = false ∧
    (Instr.classRequest host 0 { cls0 with c := 2 ^ 32 }).wf = false ∧
    (Instr.classRequest host 0 { cls0 with group := 256 }).wf = false ∧
    (Instr.classRequest host 0 { cls0 with cores := [(32, 0)] }).wf = false ∧
    (Instr.classRequest host 0 { cls0 with cores := [(0, 16)] }).wf = false := by decide
theorem test_wf_nvme : (Instr.nvmeDoorbell 0 65536 false 0).wf = false ∧
    (Instr.nvmeCommandFetch 0 65536 0 0 0 0).wf = false ∧ (Instr.nvmeCommandFetch 0 0 65536 0 0 0).wf = false ∧
    (Instr.nvmeCommandFetch 0 0 0 256 0 0).wf = false ∧ (Instr.nvmeCommandFetch 0 0 0 0 (2 ^ 32) 0).wf = false ∧
    (Instr.nvmeCommandFetch 0 0 0 0 0 (2 ^ 32)).wf = false ∧
    (Instr.asynchronousEventRequest { id0 with qid := 65536 }).wf = false ∧
    (Instr.commandTimeout { id0 with cid := 65536 }).wf = false ∧
    (Instr.unreachTimeout 0 65536 0 0).wf = false := by decide
theorem test_wf_queues : (Instr.deleteIoSubmissionQueue id0 65536).wf = false ∧
    (Instr.deleteIoCompletionQueue id0 65536).wf = false ∧
    (Instr.createIoSubmissionQueue id0 1 65537 1 true).wf = false ∧
    (Instr.createIoSubmissionQueue id0 1 2 65536 true).wf = false ∧
    (Instr.createIoCompletionQueue id0 1 65537 0 true true).wf = false ∧
    (Instr.createIoCompletionQueue id0 1 2 65536 true true).wf = false := by decide
theorem test_wf_blocks : (Instr.identify id0 0 (2 ^ 32)).wf = false ∧ (Instr.flush id0 (2 ^ 32)).wf = false ∧
    (Instr.abort id0 65536 0).wf = false ∧ (Instr.writeZeroes id0 1 0 0).wf = false ∧
    (Instr.writeZeroes id0 1 (2 ^ 64) 1).wf = false ∧ (Instr.writeZeroes id0 1 0 65537).wf = false ∧
    (Instr.datasetManagement id0 (2 ^ 32) true []).wf = false := by decide
theorem test_wf_firmware : (Instr.pkeyEnroll host 0 256 (List.replicate 48 0)).wf = false ∧
    (Instr.pkeyEnroll host 0 0 []).wf = false ∧ (Instr.pkeyRevoke host 0 0 []).wf = false ∧
    (Instr.evrClear host 0 []).wf = false ∧ (Instr.challenge host 8 (List.replicate 32 0)).wf = false ∧
    (Instr.challenge host 0 []).wf = false ∧ (Instr.getCertificate host 8 0 0).wf = false ∧
    (Instr.getCertificate host 0 65536 0).wf = false ∧ (Instr.getCertificate host 0 0 65536).wf = false ∧
    (Instr.getMeasurements host 256 false).wf = false := by decide
theorem test_wf_rest : (Instr.clusterReset host 32).wf = false ∧ (Instr.rstSpare host 32).wf = false ∧
    (Instr.sensorRead []).wf = false ∧ (Instr.ncsiCommand 32 0 []).wf = false := by decide

/-! ### Words written from the encoding tables (R106–R109, R112–R137) -/

/-- 08_falfimi worked words: LOOKUP g5, g0, #12 is D format, opcode 0x38, function 0 with the table in bits 15:8. -/
theorem test_word_lookup : decodeInstr t0 [0xE0A00C00] = some (.lookup t0 5 0 12) := by decide
theorem test_word_lockw : decodeInstr t0 [0xE1685021] = some (.lockw t0 11 8 10) := by decide
theorem test_word_unlock : decodeInstr t0 [0xE1E80022] = some (.unlock t0 15 8) := by decide
theorem test_word_emit : decodeInstr t0 [0xE2000010] = some (.emit t0 16 0 0 false false false) := by decide
theorem test_word_hld : decodeInstr t0 [0x51200068] = some (.hld t0 9 0 .byte false false 104) := by decide
theorem test_word_lld : decodeInstr t0 [0x59A0C000] = some (.lld t0 13 0 .double false 0) := by decide
theorem test_word_addi : decodeInstr t0 [0x11400070] = some (.addi t0 10 0 ⟨112, none⟩) := by decide
/-- The loop of 05_falfimi_instruction_set.md's worked example: HLD, LOOP, ENDL, ADD, CLTU and both forms of DONE. -/
theorem test_word_loop : decodeInstr t0 [0x518A8000] = some (.hld t0 12 10 .word false false 0) ∧
    decodeInstr t0 [0x85301004] = some (.loop t0 9 true 4 4) ∧ decodeInstr t0 [0x89200004] = some (.endl t0 9 4) ∧
    decodeInstr t0 [0x056B6000] = some (.add t0 11 11 12 ⟨0, false⟩) ∧
    decodeInstr t0 [0x088D5803] = some (.cltu t0 1 13 11 ⟨0, false⟩) ∧
    decodeInstr t0 [0x94800001] = some (.done t0 ⟨1, false⟩ true) ∧
    decodeInstr t0 [0x94000000] = some (.done t0 ⟨0, false⟩ false) := by decide
/-- An X word carries bits 41:16 of the immediate of the word after it (R108). -/
theorem test_word_addi_wide : decodeInstr t0 [0xF800789A, 0x1080BCDE] = some (.addi t0 4 0 ⟨0xBCDE, some 0x789A⟩) := by
  decide
theorem test_word_movh_wide : decodeInstr t0 [0xF8000012, 0x44843456] = some (.movh t0 4 4 ⟨0x3456, some 0x12⟩) := by
  decide
/-- An X word before a word that it may not widen, and alone, is no instruction (R107, R108). -/
theorem test_word_x : decodeInstr t0 [0xF8000012, 0xE0A00C00] = none ∧ decodeInstr t0 [0xF8000012] = none := by decide

/-! ### Check values (R356, column "Check") -/

/-- The nine ASCII bytes "123456789". -/
def digits : List Byte := [0x31, 0x32, 0x33, 0x34, 0x35, 0x36, 0x37, 0x38, 0x39]
theorem test_crc32 : crc .crc32 digits = 0xCBF43926 := by decide +kernel
theorem test_crc32c : crc .crc32c digits = 0xE3069283 := by decide +kernel
theorem test_crc16 : crc .crc16 digits = 0xD0DB := by decide +kernel
theorem test_crc64 : crc .crc64 digits = 0xAE8B14860A799888 := by decide +kernel
/-- A scan continued from a finished value goes on with its stream (R357). -/
theorem test_crc_continued : crcFrom .crc32 (crc .crc32 (digits.take 4)) (digits.drop 4) = 0xCBF43926 :=
  by decide +kernel

/-! ### The machine runs -/

/-- An empty queue leaves the block as it is (log entry 2). -/
theorem test_idle : step State.reset = .next State.reset := by rfl

/-! ### States that the premises of the statements hold in

`up` is a device after Noon whose two endpoints are up; `running code f` is `up` with thread 2 of core 7 of cluster 4
running a frame of path class 1 with the given code, and a partition of 64 KB in shared memory. -/

def up : State := { ({} : State) with
  words := [(0x100000, 2)], endpoints := [(0, { down := false }), (1, { down := false })]
  functions := [(0, { memorySpace := true, busMaster := true }), (5, { memorySpace := true, busMaster := true }),
    (1024, { memorySpace := true }), (1031, { memorySpace := true })] }

theorem met_up : Live up ∧ Canonical up ∧ MayRead up host ∧ MayWrite up host 0x100010 ∧ MayRead up ⟨.h1, 7⟩ ∧
  MayRead up ⟨.h0, 5⟩ := by
  decide +kernel

def aFrame : Frame := {
  id := 3, stage := .thread t0, src := .port 0, tag := newTag, bytes := List.replicate 64 7, endTick := 0,
  wholeTick := 0
  round := 0 }
def aProgram (code : List Word) : Program := {
  tenancy := 0, entries := [(0, 10)], code := code, data := [], parse := [], budget := 100, parseWc := 2, rate := 0
  overrideMax := 0, tblUses := 0, hbmUses := 0, clsUses := 0, chkUses := 0, buildId := 0, res := [] }
def running (code : List Word) (th : Thread) : State := { up with
  words := [(0x100000, 2), (0x240033C, 0x100)], tick := 512,
  classes := [{ round := 0, cls := 1, program := some (aProgram code) }], frames := [(3, aFrame)]
  threads := [(tidNum t0, { th with frame := some 3, base := some aFrame, cls := 1, budget := 9 })] }

/-- The instruction issues on thread `t0`, which holds `th` beside its frame. -/
def issuesWith (th : Thread) (c : Instr) (named : List Dest) (lend : Bool) : Bool :=
  decide (Issues (running (encodeInstr c) th) t0 c named lend)
def always : Guard := ⟨0, false⟩
def never : Guard := ⟨0, true⟩

/-! ### Falfimi instructions -/

theorem met_AluResults :
    (issuesWith {} (.add t0 31 0 1 always) [.g 31, .g 0, .g 1, .p 0] true) ∧
    (issuesWith {} (.sar t0 0 31 31 never) [.g 0, .g 31, .g 31, .p 0] true) ∧
    (issuesWith {} (.maxu t0 1 2 3 ⟨7, true⟩) [.g 1, .g 2, .g 3, .p 7] true) ∧
    (issuesWith {} (.sel t0 1 2 3 ⟨7, true⟩) [.g 1, .g 2, .g 3, .p 7] true) ∧
    (issuesWith {} (.clz t0 1 2 always) [.g 1, .g 2, .g 0, .p 0] true) ∧
    (issuesWith { g := [(2, 1)] } (.ctz t0 1 2 always) [.g 1, .g 2, .g 0, .p 0] true) ∧
    (issuesWith {} (.popc t0 1 2 never) [.g 1, .g 2, .g 0, .p 0] true) ∧
    (issuesWith {} (.bsw64 t0 1 2 always) [.g 1, .g 2, .g 0, .p 0] true) := by decide +kernel

theorem met_ImmediateResults :
    (issuesWith {} (.addi t0 1 2 ⟨0xFFFF, none⟩) [.g 1, .g 2] true) ∧
    (issuesWith {} (.xori t0 1 2 ⟨0xFFFF, some 0x3FFFFFF⟩) [.g 1, .g 2] true) ∧
    (issuesWith {} (.shli t0 1 2 63) [.g 1, .g 2] true) ∧
    (issuesWith {} (.movh t0 1 2 ⟨0xFFFF, some 0xFFFF⟩) [.g 1, .g 2] true) ∧ (0xFFFF : BitVec 26).toNat < 2 ^ 16 ∧
    (issuesWith {} (.extf t0 1 2 63 0) [.g 1, .g 2] true) ∧ (issuesWith {} (.insf t0 1 2 0 63) [.g 1, .g 2] true) ∧
    (63 : BitVec 6).toNat + (0 : BitVec 6).toNat + 1 ≤ 64 := by decide +kernel

theorem met_CompareResults :
    (issuesWith {} (.ceq t0 7 1 2 always) [.p 7, .g 1, .g 2, .p 0] true) ∧
    (issuesWith {} (.tstz t0 0 1 2 never) [.p 0, .g 1, .g 2, .p 0] true) ∧
    (issuesWith {} (.ceqi t0 7 1 ⟨1, none⟩) [.p 7, .g 1] true) ∧
    (issuesWith {} (.cgtui t0 7 1 ⟨1, some 1⟩) [.p 7, .g 1] true) := by decide +kernel

theorem met_PredicateResults :
    (issuesWith {} (.pand t0 1 2 3 always) [.p 1, .p 2, .p 3, .p 0] true) ∧
    (issuesWith {} (.pnot t0 1 2 never) [.p 1, .p 2, .p 0, .p 0] true) ∧
    (issuesWith {} (.pnz t0 1 2 always) [.p 1, .g 2, .p 0] true) ∧
    (issuesWith {} (.pget t0 1 always) (.g 1 :: .p 0 :: allPreds) true) ∧
    (issuesWith {} (.pput t0 1 never) (.g 1 :: .p 0 :: allPreds) true) := by decide +kernel

/-- Each space is used up to its last byte: byte 511 of the header buffer, the last 8 bytes of the slice and of the
tenancy's part of shared memory. -/
theorem met_LoadsAndStores :
    let s := running [] { g := [(1, 448)] }
    let slice : Thread := { g := [(1, 0x3000)] }
    (issuesWith { g := [(1, 511)] } (.hld t0 2 1 .byte false true 0) [.g 2, .g 1] true) ∧
    (effAddr { g := [(1, 511)] } 1 0).toNat + MemSize.bytes .byte ≤ 512 ∧ hdrError s t0 511 1 = false ∧
    (issuesWith { g := [(1, 64)] } (.hst t0 2 1 .double true 0) [.g 2, .g 1] true) ∧ hdrError s t0 64 8 = false ∧
    (issuesWith slice (.lld t0 2 1 .double false 4088) [.g 2, .g 1] true) ∧
    (issuesWith slice (.lst t0 2 1 .double 4088) [.g 2, .g 1] true) ∧
    (effAddr slice 1 4088).toNat + MemSize.bytes .double ≤ 0x4000 ∧
    memError s (sliceAddr t0 0x3FF8) 8 = false ∧ Canonical (running [] slice) ∧
    (issuesWith { g := [(1, 0xFFFF)] } (.sld t0 2 1 .byte true 0) [.g 2, .g 1] false) ∧
    (issuesWith { g := [(1, 0xFFFF)] } (.sst t0 2 1 .byte 0) [.g 2, .g 1] false) ∧
      (partition s t0).2 = 0xFFFF + 1 := by decide +kernel

theorem met_FaultingForms :
    (issuesWith {} (.extf t0 1 2 63 1) [.g 1, .g 2] true) ∧ (issuesWith {} (.insf t0 1 2 1 63) [.g 1, .g 2] true) ∧
    64 < (63 : BitVec 6).toNat + (1 : BitVec 6).toNat + 1 ∧
    (issuesWith {} (.movh t0 1 2 ⟨0, some 0x10000⟩) [.g 1, .g 2] true) ∧ 2 ^ 16 ≤ (0x10000 : BitVec 26).toNat ∧
    (issuesWith {} (.hld t0 1 2 .double false true 0) [.g 1, .g 2] true) ∧
    (issuesWith {} (.lld t0 1 2 .double true 0) [.g 1, .g 2] true) ∧
    (issuesWith {} (.sld t0 1 2 .double true 0) [.g 1, .g 2] false) ∧
    (issuesWith {} (.loop t0 31 true 4 4) [.g 31] true) ∧ (issuesWith {} (.endl t0 1 0) [.g 1] true) ∧
    (issuesWith { depth := 4 } (.call t0 ⟨0, false⟩ 0) [.p 0, .g 31] true) ∧
    (issuesWith {} (.ret t0 ⟨0, false⟩) [.p 0, .g 31] true) ∧ condOf {} ⟨0, false⟩ = true ∧
    (issuesWith { g := [(1, 505)] } (.hld t0 2 1 .double false false 0) [.g 2, .g 1] true) ∧
    (issuesWith { g := [(1, 0x4000)] } (.lst t0 2 1 .byte 0) [.g 2, .g 1] true) ∧
    (issuesWith { g := [(1, 1)] } (.sst t0 2 1 .half 0) [.g 2, .g 1] false) := by decide +kernel

theorem met_ControlFlow :
    (issuesWith {} (.br t0 ⟨0, false⟩ 0x3FFFFF) [.p 0] true) ∧
    (issuesWith { g := [(1, 2)] } (.loop t0 1 true 4 4) [.g 1] true) ∧
    (issuesWith { g := [(1, 1)] } (.endl t0 1 1) [.g 1] true) ∧
    (issuesWith { depth := 3 } (.call t0 ⟨0, false⟩ 0) [.p 0, .g 31] true) ∧
    (issuesWith { depth := 1 } (.ret t0 ⟨0, false⟩) [.p 0, .g 31] true) ∧
    (issuesWith {} (.ret t0 ⟨0, true⟩) [.p 0, .g 31] true) ∧ condOf {} ⟨0, true⟩ = false := by decide +kernel

/-! ### Single steps

Expected values are worked out by hand from the rule named. -/

/-- What a step on thread `t0` makes pending. -/
def pendAfter (c : Instr) (th : Thread) : List (Option DWord) :=
  match exec c (running (encodeInstr c) th) with
  | .next u => (thread u t0).pend.map fun p => p.val
  | _ => []
/-- R113: sums wrap, SAR copies the sign, MULHU gives the high half. -/
theorem test_add_wraps : pendAfter (.add t0 5 1 2 always) { g := [(1, 0xFFFFFFFFFFFFFFFF), (2, 1)] } = [some 0] := by
  decide +kernel
theorem test_sar_sign : pendAfter (.sar t0 5 1 2 always) { g := [(1, 0x8000000000000000), (2, 63)] } =
    [some 0xFFFFFFFFFFFFFFFF] := by decide +kernel
theorem test_mulhu : pendAfter (.mulhu t0 5 1 1 always) { g := [(1, 0x100000000)] } = [some 1] := by decide +kernel
/-- R115: CLT is signed, CLTU is not. -/
theorem test_clt : pendAfter (.clt t0 1 1 2 always) { g := [(1, 0xFFFFFFFFFFFFFFFF), (2, 1)] } = [some 1] ∧
    pendAfter (.cltu t0 1 1 2 always) { g := [(1, 0xFFFFFFFFFFFFFFFF), (2, 1)] } = [some 0] := by decide +kernel
/-- R124: LOOP writes the lesser of its register and MAX. -/
theorem test_loop_max : pendAfter (.loop t0 9 true 4 4) { g := [(9, 7)] } = [some 4] := by decide +kernel
/-- R33, R258: a tick is 4 ns of the timebase. -/
theorem test_tick : (match exec .tick { State.reset with words := [(0x100000, 2)] } with
    | .next u => (u.tick, fullUnits u) | _ => (0, 0)) = (1, 4 * 256) := by decide +kernel
/-- 13_ethernet_ports.md: at 100 Gb/s 200 quanta last 256 ticks. -/
theorem test_pause_ticks : pauseTicks 100 200 = 256 ∧ pauseTicks 100 100 = 128 := by decide

/-! ### Device operations -/

/-- Words set in a state. -/
def withWords (ws : List (Nat × Word)) (s : State) : State := ws.foldl (fun s w => setWord s w.1 w.2) s
/-- The instruction issues on thread `t0`, which holds `th`, in a state changed by `f`. -/
def issuesIn (f : State → State) (th : Thread) (c : Instr) (named : List Dest) : Bool :=
  decide (Issues (f (running (encodeInstr c) th)) t0 c named false)
def at16 : Thread := { g := [(1, 0x3F80)] }
/-- Table 0: PLACE 1, learning, keys of 8 and values of 16 bytes, 16 buckets, of which tenancy 0 has all; bridge
domain 4 learns into it, from port 0. -/
def tabled (s : State) : State := withWords [(0x1800000, 0x20211), (0x1800004, 0x400000), (0x1810040, 0x80000000),
  (0x1820000, 100), (0x1840004, 4)] s
def key8 : List Byte := List.replicate 8 0
def anEntry (static lock : Bool) : Entry := {
  table := 0, part := 0, bucket := 0, slot := 0, key := key8, value := List.replicate 16 1, static := static
  lock := lock, since := 0 }

theorem met_TableOperations_lookup :
    let s := tabled (running [] at16)
    issuesIn tabled at16 (.lookup t0 5 1 0) [.g 5, .g 1] = true ∧ (0x3F80 : Nat) % 8 = 0 ∧ 0x3F80 + 128 ≤ 0x4000 ∧
    tableOpen s 0 0 (tidTenancy s t0) = true ∧ memError s (sliceAddr t0 0x3F80) 128 = false ∧
    keyBad s 0 0 key8 = false ∧ lookupFor s aFrame 0 0 key8 = none ∧
    lookupFor { s with entries := [anEntry true true] } aFrame 0 0 key8 = some (List.replicate 16 1, true, true) := by
  decide +kernel

theorem met_TableOperations_update :
    let s := tabled (running [] at16)
    let held := fun (lock : Bool) => { s with entries := [anEntry false lock] }
    issuesIn tabled at16 (.insert t0 5 1 0) [.g 5, .g 1] = true ∧
    issuesIn tabled at16 (.delete t0 5 1 0) [.g 5, .g 1] = true ∧ keyBad s 0 0 key8 = false ∧
    (pendingView (held false) 0 0 key8).isSome = true ∧ pendingView s 0 0 key8 = none ∧
    (placement s 0 0 key8).isSome = true ∧ pendingView (held true) 0 0 key8 = some (List.replicate 16 1, false, true) :=
      by
  decide +kernel

/-- Domain 4,095 is the last; a source of kind 3 is the device's own. -/
theorem met_LearnClassifyHash_learn :
    let th : Thread := { g := [(1, 4095), (2, 2 ^ 48 - 1)], base := some aFrame }
    let s := tabled up
    issuesIn (fun s => s) th (.learn t0 5 1 2) [.g 5, .g 1, .g 2] = true ∧
    bdTenancy up 0 4095 = tidTenancy up t0 ∧ tagSrcKind aFrame.tag ≠ 3 ∧
    tagSrcKind (setTag newTag 0 11 0 0xE01) = 3 ∧
    (learnTable s (round s) 4).isSome = true ∧ word s (srcAddr (sourceNumber 0) 0) ≠ 0 ∧
    bit (wordAt s 0 (srcAddr (sourceNumber 0) 4)) 1 = false ∧
      word (withWords [(0x1820010, 0)] s) (srcAddr (sourceNumber 1) 0) = 0 := by
  decide +kernel

/-- A rule set of one leaf that lists rule 0, which tests nothing, and one whose root misses. -/
def setOf (root : BitVec 128) : RuleSet := {
  round := 0, tenancy := 0, num := 63, nodes := [root], rules := [{ rule := 9, mask := 0, act := 0, values := [] }]
  masks := [{ words := [], masks := [] }], acts := [List.replicate 64 0] }
theorem met_LearnClassifyHash_rest :
    let th : Thread := { g := [(1, 0x3FB0)] }
    let s := { running [] th with ruleSets := [setOf 0] }
    issuesIn (fun s => { s with ruleSets := [setOf 0] }) th (.classify t0 5 1 63) [.g 5, .g 1] = true ∧
    (0x3FB0 : Nat) % 8 = 0 ∧ 0x3FB0 + 80 = 0x4000 ∧ memError s (sliceAddr t0 0x3FB0) 80 = false ∧
    ruleSetAt s 0 (tidTenancy s t0) 63 = some (setOf 0) ∧
    issuesIn (fun s => s) { g := [(1, 464), (2, 48)] } (.hash t0 5 1 2 1 true) [.g 5, .g 1, .g 2] = true ∧
    spaceError s t0 true 464 48 = false ∧ 464 + 48 = 512 ∧
    issuesIn (fun s => s) { g := [(1, 0x4000)] } (.hash t0 5 1 2 0 false) [.g 5, .g 1, .g 2] = true := by
  decide +kernel

theorem met_ContextsCountersTime :
    let th : Thread := { g := [(1, 0x3F80), (2, 4095)] }
    let s := running [] th
    let hd : Thread := { g := [(1, 0x3F78)], hdr := [(32, 7)] }
    issuesIn (fun s => s) th (.fcld t0 5 1 2 false) [.g 5, .g 1, .g 2] = true ∧
    issuesIn (fun s => s) th (.fcst t0 5 1 2 false) [.g 5, .g 1, .g 2] = true ∧
    issuesIn (fun s => s) hd (.fcstv t0 5 1 0 true) [.g 5, .g 1, .g 0] = true ∧ tagFlow (liveTag hd) = 7 ∧
    fcOwned s 0 (tidTenancy s t0) 4095 = true ∧ fcOwned s 0 (tidTenancy s t0) 7 = true ∧
    hdrError s t0 32 4 = false ∧ memError s (sliceAddr t0 0x3F78) 136 = false ∧ 0x3F78 + 136 = 0x4000 ∧
    issuesIn (fun s => s) { g := [(1, 0xFFFFFF)] } (.cadd t0 1 2) [.g 1, .g 2] = true ∧
    issuesIn (fun s => s) { g := [(1, 0xFFFFFF)] } (.crd t0 5 1 true) [.g 5, .g 1] = true ∧
    ctrOwned s 0 (tidTenancy s t0) 0xFFFFFF = true ∧
    issuesIn (fun s => s) { source := [1], g := [(1, 0x3E00)] } (.fetch t0 5 1 2 7) [.g 5, .g 1, .g 2] = true ∧
    issuesIn (fun s => s) {} (.time t0 5 0 0) [.g 5, .g 0] = true ∧
    issuesIn (fun s => s) {} (.time t0 5 0 1) [.g 5, .g 0] = true ∧
    issuesIn (fun s => s) {} (.time t0 5 6 2) [.g 5, .g 6] = true ∧
    issuesIn (fun s => s) {} (.time t0 0 0 2) [.g 0, .g 0] = true := by decide +kernel

/-- The slice of `t0` holds a mailbox message of the greatest length, 512 bytes, at its end. -/
def mailed (s : State) : State := { s with mem := [(sliceAddr t0 0x3DF9, 2)] }
def fullPair (opened : Bool) : Sparse Mailbox :=
  [(2048 + tidNum t0, { up := { full := true, opened := opened }, down := { full := true, msg := some ⟨1, [2]⟩ } })]
theorem met_CaptureAndMailbox :
    let th : Thread := { g := [(1, 0x3DF8), (2, 16384)] }
    let s := mailed (running [] th)
    issuesIn (fun s => s) th (.capture t0 5 2 false) [.g 5, .g 2] = true ∧ frame? s 3 = some aFrame ∧
    issuesIn (fun s => s) { th with handedOn := true } (.capture t0 5 2 false) [.g 5, .g 2] = true ∧
    issuesIn (fun s => s) { th with records := 4 } (.capture t0 5 2 true) [.g 5, .g 2] = true ∧
    issuesIn (fun s => s) { th with records := 3 } (.capture t0 5 2 true) [.g 5, .g 2] = true ∧
    hdrError s t0 0 64 = false ∧ memError s (sliceAddr t0 0x3DF8) 520 = false ∧ 0x3DF8 + 520 = 0x4000 ∧
    leAt (readBytes s (sliceAddr t0 0x3DF8) 520) 0 2 % 1024 = 512 ∧ Canonical s ∧
    issuesIn mailed th (.mbsend t0 5 1) [.g 5, .g 1] = true ∧
    issuesIn mailed th (.mbrecv t0 5 1) [.g 5, .g 1] = true ∧
    issuesIn (fun s => s) th (.mbwdraw t0 5) [.g 5] = true ∧ (mailbox s (2048 + tidNum t0)).up.full = false ∧
    (mailbox s (2048 + tidNum t0)).down.full = false ∧
    (mailbox { s with mailboxes := fullPair false } (pairNum (.ofThread t0))).up.full = true ∧
    (mailbox { s with mailboxes := fullPair true } (pairNum (.ofThread t0))).up.opened = true ∧
    (mailbox { s with mailboxes := fullPair true } (pairNum (.ofThread t0))).down.msg = some ⟨1, [2]⟩ := by
  decide +kernel

/-- A tag whose destination is the ledger, without flow context; frames of 60 bytes and of the greatest head. -/
def toLedger : Sparse Byte := [(32, 0xFF), (33, 0xFF), (34, 0xFF), (35, 5)]
theorem met_EmitAndDone :
    let th : Thread := { hdr := toLedger, source := List.replicate 60 0, g := [(1, 100), (2, 448)] }
    let s := running [] th
    let at2 := { s with frames := [(3, aFrame)] }
    let emits := fun (th : Thread) (copy ovr head : Bool) (ra rb : BitVec 5) =>
      issuesIn (fun s => s) th (.emit t0 5 ra rb copy ovr head) [.g 5, .g ra, .g rb] = true
    emits th false false false 0 0 ∧ emits th false true true 1 2 ∧
      emits { th with handedOn := true } false false false 0 0 ∧
    emits { th with copies := 8 } true false false 0 0 ∧ emits { th with copies := 7 } true true false 1 0 ∧
    headPart th = 60 ∧ (assemble th 60).length = 60 ∧ (assemble th 448).length ≤ maxLength ∧
    tagDestKind (liveTag th) = 5 ∧ hdrError s t0 0 (64 + 448) = false ∧ destOk s 0 (liveTag th) = true ∧
    flowCtxOk s 0 (liveTag th) = true ∧ frame? at2 aFrame.id = some aFrame ∧
    issuesIn (fun s => s) th (.done t0 ⟨0, false⟩ false) [.p 0] = true ∧
    issuesIn (fun s => s) { th with handedOn := true } (.done t0 ⟨0, false⟩ false) [.p 0] = true ∧
    condOf th ⟨0, false⟩ = true ∧ th.cells = none ∧ th.destWritten = false := by decide +kernel

theorem met_CheckOperations :
    let th : Thread := { source := List.replicate 64 0, g := [(1, 448), (2, 64)] }
    let s := running [] th
    let scan := fun (th : Thread) (c : Instr) (named : List Dest) => issuesIn (fun s => s) th c named = true
    th.laneUntil ≤ now s ∧ 448 + 64 ≤ 512 ∧ spaceError s t0 true 448 64 = false ∧
    scan th (.chks t0 .crc32 5 1 2 true) [.g 5, .g 1, .g 2] ∧
    scan th (.chkc t0 .crc64 5 1 2 false) [.g 5, .g 1, .g 2] ∧
    scan { th with g := [(1, 63)] } (.chka t0 .crc16 5 1) [.g 5, .g 1] ∧
    scan { th with g := [(1, 60)] } (.chkv t0 .crc32c 5 1) [.g 5, .g 1] ∧
    (liveBytes th).length = 60 + crcWidth .crc32c ∧ headScanError s t0 60 4 = false := by decide +kernel

/-! ### Locks and channels -/

def t1 : Tid := ⟨4, 7, 3⟩
/-- Locks 4,095 and channels 1,023 are the last; limits go up to 65,535. -/
theorem met_LocksAndWaits_issue :
    let th : Thread := { g := [(1, 4095), (2, 65535), (3, 1023)] }
    let s := running [] th
    let goes := fun (c : Instr) (named : List Dest) => issuesIn (fun s => s) th c named = true
    lockOwned s t0 4095 = true ∧ chanOwned s t0 1023 = true ∧ goes (.lock t0 5 1) [.g 5, .g 1] ∧
    goes (.lockw t0 5 1 2) [.g 5, .g 1, .g 2] ∧ goes (.unlock t0 5 1) [.g 5, .g 1] ∧
    goes (.wait t0 5 3 2) [.g 5, .g 3, .g 2] ∧ goes (.notify t0 5 3) [.g 5, .g 3] ∧
    goes (.cput t0 5 3 2) [.g 5, .g 3, .g 2] ∧ goes (.ccommit t0 5 3) [.g 5, .g 3] ∧
    goes (.cget t0 5 3 6) [.g 5, .g 3, .g 6] ∧ goes (.cget t0 0 3 0) [.g 0, .g 3, .g 0] := by decide +kernel

/-- Lock 9 held by thread `t1`, which is or is not halted. -/
def held9 (halted : Bool) (wait : Option LockWait) (locks : List Nat) : State := { up with
  tick := 512, locks := [(lockNum 4 9, { holder := some t1 })]
  threads := [(tidNum t0, { frame := some 3, wait := wait, locks := locks }),
    (tidNum t1, { frame := some 4, halted := halted, locks := [lockNum 4 9] })] }
theorem met_LocksAndWaits_lockUnit :
    let k := lockNum 4 9
    Canonical up ∧ lockFree (lock up k) (now up) = true ∧ waitersOn up 4 (.lock 9) = [] ∧
    Canonical (held9 false none []) ∧ lockFree (lock (held9 false none []) k) 512 = false ∧
    (thread (held9 false none []) t1).halted = false ∧ cycleSet (held9 false none []) t0 (.lock 9) = [] ∧
    (lock (held9 true none []) k).holder = some t1 ∧ (thread (held9 true none []) t1).halted = true ∧
    k ∈ (thread (held9 false none [k]) t0).locks ∧ k ∉ (thread up t0).locks ∧
    8 ≤ (thread (held9 false none (List.replicate 8 0)) t0).locks.length := by decide +kernel

/-- A wait of limit 1 issued in tick 510 can be granted up to tick 512 and has run out in tick 512 when it was issued in
tick 509 with limit 1. -/
theorem met_LocksAndWaits_end :
    let lockWait := fun (i : Nat) => (⟨.lock 8, i, 1, 5⟩ : LockWait)
    let chanWait : LockWait := ⟨.chan 7, 510, 1, 5⟩
    let s := held9 false (some (lockWait 510)) []
    let c := { held9 false (some chanWait) [] with chans := [(chanNum 4 7, { events := 1 })] }
    Live s ∧ Canonical s ∧ (thread s t0).wait = some (lockWait 510) ∧ 510 < now s ∧ now s ≤ 510 + 1 + 1 ∧
    firstWaiter s t0 (.lock 8) = true ∧ lockFree (lock s (lockNum 4 8)) (now s) = true ∧
    firstWaiter c t0 (.chan 7) = true ∧ 0 < (chan c (chanNum 4 7)).events ∧ 509 + 1 + 1 < now s := by decide +kernel

theorem met_ChannelRequests :
    let s := { held9 false none [] with chans := [(chanNum 4 7, { events := 65535, messages := [[1], [2, 3]] })] }
    Canonical s ∧ (chan s (chanNum 4 7)).messages = [1] :: [[2, 3]] ∧ (chan s (chanNum 4 6)).messages = [] ∧
    (chan s (chanNum 4 6)).events ≤ (waitersOn s 4 (.chan 6)).length ∧ chanUsed s 4 6 < 64 ∧
    (thread s t0).staged.length < 16 ∧
    64 ≤ chanUsed { s with chans := [(chanNum 4 7, { messages := [List.replicate 64 0] })] } 4 7 := by decide +kernel

/-! ### Cores, commits and the loader -/

theorem met_ThreadsAndCores_threads :
    let spent := { running [] {} with
      threads := [(tidNum t0, { frame := some 3, base := some aFrame, cls := 1, budget := 0 })] }
    let s := running [0] {}
    Live s ∧ (thread spent t0).frame.isSome = true ∧ (Machine.core spent (coreNum t0)).stopped = false ∧
    threadReady s t0 = true ∧ slotFree s t0 false = true ∧ codeError s t0 1 = false ∧ illegalAt 0 none = true ∧
    threadReady (running [] {}) t0 = true ∧ threadReady (running [] { pc := 2 }) t0 = true ∧
    debugLocked s = false := by decide +kernel

theorem met_ThreadsAndCores_cores :
    let s := { up with
      tick := 256, cores := [(4 * 16 + 7, { stopped := true, restart := 1, record := some [1], recordRound := 1 })] }
    Live s ∧ Canonical s ∧ (Machine.core s 71).record = some [1] ∧ (Machine.core s 71).recordRound ≤ round s ∧
    (Machine.core s 71).restart ≤ round s ∧ s.threads = [] ∧ MayWrite s pf0 (cluAddr 4 0x38) ∧
      MayWrite s pf0 (cluAddr 16 0x38) ∧
    (Machine.core s 70).stopped = false ∧ (Machine.core s 70).fenced = false := by decide +kernel

/-- PF0 of H0 writes the GO of every block; the blocks that are judged accept the values of reset, and the table's and
the MAC group's refuse a reserved value and an XON threshold above XOFF. -/
theorem met_GoRequestsCommit_access :
    (∀ a ∈ [cluAddr 16 0x30, 0x1982004, 0x1C00000, 0x6030000, 0x1EE0000, 0x802000, 0x1B00000, tblAddr 71 0x14,
      grpAddr 3 4, seqAddr 255 0x14, 0x1A9000C], MayWrite up pf0 a) ∧ platform up pf0 = true := by decide +kernel
theorem met_GoRequestsCommit_codes :
    let bad := { up with shadow := [⟨.macGrp 1, pf0, macAddr 4 0x104, 0xFFFF, 0xFFFF⟩,
      ⟨.tbl 0, pf0, tblAddr 0 0, 3, 3⟩] }
    stagingSum (stoPlanned up pf0) ≤ 131072 ∧ (pwnRefusal up).isNone = true ∧ schRefusal up pf0 = 0 ∧ up.shadow = [] ∧
    macRefusal up pf0 1 = 0 ∧ macRefusal bad pf0 1 ≠ 0 ∧ tblRefusal up pf0 0 = 0 ∧ tblRefusal bad pf0 0 ≠ 0 ∧
    seqRefusal_ up pf0 0 = 0 ∧ constantsOk (plannedWith up (.cls pf0) pf0) = true ∧
    constantsOk (plannedWith up .seqFo pf0) = true := by decide +kernel
theorem met_GoRequestsCommit_refused :
    let s := { up with
      words := [(0x100000, 2), (grpAddr 0 0, 1)]
      classes := [{ round := 0, cls := 1, cAsked := 1, program := some { aProgram [] with rate := 10 ^ 10 } }] }
    (calendarFault (plannedWith s (.cry pf0) pf0)).isNone = false ∧
      constantsOk (plannedWith s .tblAux pf0) = false := by
  decide +kernel

/-- A commit of one write that falls due in round 2; four versions held; a deferral of 1,024 rounds. -/
def dueCommit (b : Blk) (defers : Nat) : Commit := ⟨b, pf0, 200, 1, [(cluAddr 0 4, 1, 1)], .regs, defers⟩
theorem met_CommitsTakeEffect :
    let s := fun (b : Blk) (defers : Nat) => { running [] {} with commits := [dueCommit b defers] }
    let full := { s (.clu 0) 0 with
      tick := 2560, versions := (List.range 5).map fun k => (.clu 0, k)
      frames := (List.range 5).map fun k => (k, { aFrame with id := k, round := k }) }
    let halted := { s (.clu 0) 1024 with
      threads := [(tidNum t0, { frame := some 3, base := some aFrame, halted := true })] }
    Live (s .tblAux 0) ∧ now (s .tblAux 0) % 256 = 0 ∧ Canonical (s (.clu 0) 0) ∧
    dueCommits (s (.clu 0) 0) = dueCommit (.clu 0) 0 :: [] ∧ versionsFull (s (.clu 0) 0) (.clu 0) = false ∧
    dueCommits (s .tblAux 0) = dueCommit .tblAux 0 :: [] ∧ versionsFull (s .tblAux 0) .tblAux = false ∧
    (∀ x ∈ (s (.clu 0) 0).undo, x.addr ≠ cluAddr 0 4) ∧ versionsFull full (.clu 0) = true ∧
    dueCommits full = [dueCommit (.clu 0) 0] ∧ now full % 256 = 0 ∧ holdsVersions (.clu 0) = true ∧
    waitsForDusk full (dueCommit (.clu 0) 0) = false ∧ Canonical full ∧ deferredOut halted = [.clu 0] ∧
    onlyHalted halted (.clu 0) (oldestVersion halted (.clu 0)) = true ∧
    coreNum t0 ∈ (threadsOf halted (.clu 0) (oldestVersion halted (.clu 0))).map coreNum := by decide +kernel

/-- A request that the firmware has taken: of function `fn`, for path class 63. -/
def asked (fn : FnId) (req : Nat) (rest : List Byte) : Taken :=
  { fn := fn, msg := ⟨7, (BitVec.ofNat 8 req :: List.replicate 15 0) ++ [63] ++ rest⟩, tick := 0 }
/-- CLASS for class 63: owner 0, one core of cluster 0, every field of its payload in range. -/
def classRest : List Byte := List.replicate 3 0 ++ [1, 0, 1, 0] ++ List.replicate 10 0 ++ [1, 0, 0, 0, 0, 0, 0, 1]
theorem met_LoaderRequests :
    let s := fun (t : Taken) => { up with taken := [t] }
    let s' := { up with taken := [] }
    let p := classPayload (asked pf0 3 classRest).msg.payload 0
    let j : LoadJob := { fn := pf0, cookie := 7, req := 1, cls := 63, len := 64, parts := 1 }
    let loading := { up with jobs := [j], delivered := [(.image 63, 0, [1, 2])] }
    Live up ∧ firmwareWorks up = true ∧ up.taken = [] ∧
    takenRequest (s (asked pf0 2 [])) pf0 7 2 (fun m => leAt m 16 1 == 63) = some (asked pf0 2 []) ∧
    requestFault s' (jobOf (asked pf0 2 [])) = none ∧
    (requestFault s' (jobOf (asked ⟨.h0, 5⟩ 3 []))).isSome = true ∧
    takenRequest (s (asked pf0 1 [])) pf0 7 1 (fun m => leAt m 4 8 == 0 && leAt m 12 4 == 0 && leAt m 16 1 == 63) =
      some (asked pf0 1 []) ∧ requestFault s' (jobOf (asked pf0 1 [])) = none ∧
    takenRequest (s (asked pf0 3 classRest)) pf0 7 3 (fun m => classPayload m 0 == p) = some (asked pf0 3 classRest) ∧
    p.cls = 63 ∧ payloadFault p = none ∧ payloadFault { p with owner := 1024 } ≠ none ∧ p.sequenced = false ∧
    classFault s' { newest (planned s') 63 with k := p.k, s := p.s, a := p.a, cores := p.cores } [] 0 = none ∧
    (loading.jobs.find? fun x => x.cls == 63 && x.req == rqLoad && !x.sent) = some j ∧ j.failed = false ∧
    deliveredFor loading (.image 63) 1 = some [1, 2] := by decide +kernel

/-! ### Tables -/

/-- One change of table 0 with a move left, resolved in tick 0. -/
def moving : Change := ⟨0, 0, key8, .insert [] false 0 0, .thread 0, 0, 9, [(key8, 1, 1)], true, 0, false, 0, false⟩
theorem met_TableMaintenance :
    let s := { tabled (running [] {}) with changes := [moving], entries := [anEntry false false] }
    let l : Learn := ⟨1, 4, 0xABCDEF, 0, 0, 4095⟩
    let learnt := withWords [(0x1820000, 0xFFFFFFFF)] { tabled up with tick := 512, learns := [l] }
    let old := withWords [(0x1800010, 1)] { tabled up with tick := 2 ^ 28 * 8, entries := [anEntry false false] }
    Live s ∧ engineChange s 0 = some moving ∧ mayWrite s 0 = true ∧
    Live learnt ∧ now learnt % 256 = 0 ∧ learnt.changes = [] ∧ learnt.learns = [l] ∧ l.round < round learnt ∧
    learnTable learnt 1 4 = some 0 ∧ findNow learnt 0 0 (learnKey 4 0xABCDEF) = none ∧
    word learnt (srcAddr (sourceNumber 0) 0) = 0xFFFFFFFF ∧ bit (word learnt (srcAddr (sourceNumber 0) 4)) 1 = false ∧
    keyBad learnt 0 0 (learnKey 4 0xABCDEF) = false ∧
    (placement learnt 0 0 (learnKey 4 0xABCDEF)).map (fun x => x.2.2) = some [] ∧
    now old % 256 = 0 ∧ round old % 2 ^ 20 = 0 ∧ inForce (anEntry false false) = true ∧
    rf old (tblAddr 0 0x10) 15 0 ≠ 0 ∧ ageLimit 1 + 1 ≤ (ageUnit (round old) + 65536 - 0) % 65536 ∧
    bucketBad { s with errors := { buckets := [(0, 0)] } } 0 0 = true := by decide +kernel

/-- A DMA command by its OP, with every other byte 0. -/
def dmaCmd (op : Nat) : List Byte := BitVec.ofNat 8 op :: List.replicate 31 0
def dmaState (op : Nat) (entries : List Entry) : State := { tabled up with
  tick := 9, entries := entries, dma := [(0, { busy := true, fetched := true, list := [(dmaCmd op, [])] })] }
def lockedEntry (b : Bool) : Entry := { anEntry false b with key := slice [] 0 8 }
theorem met_DmaLists :
    let go := withWords [(dmaAddr pf0 0x10, 1)] up
    let s := { go with dma := [(0, { busy := true })] }
    let done := { go with dma := [(0, { busy := true, applied := true, results := [(0, 0, [])] })] }
    Canonical go ∧ MayWrite go pf0 (dmaAddr pf0 0x14) ∧ (dmaQueue go pf0).busy = false ∧
    rf go (dmaAddr pf0 0x10) 12 0 = 1 ∧ mayRequest s pf0 = true ∧ (dmaQueue s pf0).fetched = false ∧ Canonical s ∧
    (dmaQueue done pf0).applied = true ∧ (dmaQueue done pf0).results.length < 8192 ∧
    (endpoint done .h0).noCredit = false ∧
    keyBad (dmaState 1 []) 0 0 (slice [] 0 8) = false ∧ pendingView (dmaState 1 []) 0 0 (slice [] 0 8) = none ∧
    (placement (dmaState 1 []) 0 0 (slice [] 0 8)).isSome = true ∧
    ((pendingView (dmaState 5 [lockedEntry true]) 0 0 (slice [] 0 8)).map fun x => x.2.2) = some true ∧
    ((pendingView (dmaState 5 [lockedEntry false]) 0 0 (slice [] 0 8)).map fun x => x.2.2) = some false := by
  decide +kernel

theorem met_DmaLists_commands : ∀ op ∈ [1, 2, 3, 4, 5, 6, 7, 8, 0x10, 0x11, 0x18, 0x19],
    (dmaQueue (dmaState op []) pf0).list[0]? = some (dmaCmd op, []) ∧ dmaBad (dmaCmd op) = false ∧
    dmaOpen (dmaState op []) pf0 (dmaCmd op) = true ∧ scanBeyond (dmaState op []) 0 (dmaCmd op) = false := by
  decide +kernel

/-- A control descriptor of ring 0 at its place in the classifier stage, for object `n`, with an operand block. -/
def controlDesc (op n len : Nat) : List Byte := le 4 (2 ^ 31 + op * 2 ^ 16 + len) ++ le 4 n ++ le 24 0
def controlState (op n : Nat) (operand : List Byte) (entries : List Entry) : State := { tabled up with
  tick := 9, entries := entries, ruleSets := [setOf 0]
  rings := [(0, { items := [{
    pos := 0, doorbell := 0, ingress := 0, epoch := false, round := 0, stageAt := some 9
    desc := some (controlDesc op n operand.length), operand := some operand }] })] }
theorem met_InBandControls :
    let ins := controlState opTableInsert 0 (List.replicate 32 0) []
    let present := controlState opTableUpdate 0 (List.replicate 32 0) [anEntry false false]
    Canonical ins ∧ controlFormat (controlDesc opTableInsert 0 32) = true ∧ inBandFull ins 0 = false ∧
    tableOpen ins 0 0 (ringTenancy ins 0) = true ∧ keyBad ins 0 0 key8 = false ∧
    operandEntry ins 0 0 (List.replicate 32 0) = some (key8, List.replicate 16 0, false) ∧
    pendingView ins 0 0 key8 = none ∧ (placement ins 0 0 key8).isSome = true ∧
    (pendingView present 0 0 key8).isSome = true ∧ (findNow present 0 0 key8).map (fun x => x.lock) = some false ∧
    (∀ op ∈ [opTableInsert, opTableUpdate, opTableDelete, opMeterSet, opMeterFill, opActionSet, opMark],
      (controlItem (controlState op 0 [] []) 0 [op]).isSome = true ∧ controlFormat (controlDesc op 0 0) = true) ∧
    (operandKey ins 0 0 (List.replicate 64 0)).isSome = true ∧ meterOwned ins 0 0 (2 ^ 20 - 1) = true ∧
    leAt (controlDesc opMeterSet 5 0) 16 4 ≤ leAt (controlDesc opMeterSet 5 0) 20 4 := by decide +kernel
theorem met_InBandControls_action :
    let n := 63 * 2 ^ 18 + 9
    let act : List Byte := List.replicate 64 0
    let s := controlState opActionSet n act []
    ruleSetAt s 0 0 (descFld (controlDesc opActionSet n 64) 4 23 18) = some (setOf 0) ∧
    ((setOf 0).rules.any fun x => x.rule == descFld (controlDesc opActionSet n 64) 4 17 0) = true ∧
    (controlItem s 0 [opActionSet]).isSome = true ∧ actionListed act = true ∧
    actionOpen s 0 0 (setDestination (setTag newTag 0 21 12 0) act) act = true := by decide +kernel

/-- A MARK that has been taken, whose completion, due in slot 3, waits for credit. -/
theorem met_InBandControls_mark :
    let i : SendItem := {
      pos := 0, doorbell := 0, ingress := 0, epoch := false, round := 0, processed := true, slot := some 3
      desc := some (controlDesc opMark 5 0) }
    let s := withWords [(rngAddr 0 0, 0x80000000)] { controlState opMark 5 [] [] with
      rings := [(0, { items := [i] })], endpoints := [(0, { down := false, noCredit := true })] }
    Live s ∧ Canonical s ∧ (ring s 0).items = [i] ∧ controlOp (controlDesc opMark 5 0) = opMark ∧ s.cplDue = [] ∧
    controlFormat (controlDesc opMark 5 0) = true ∧ inBandFull s 0 = false ∧ canWrite s (ringCq s 0) = false := by
  decide +kernel

/-! ### Timebase and ledger -/

def timed (t : Timebase) (ws : List (Nat × Word)) : State := withWords ws { up with tbs := t }
theorem met_TimebaseRegisters :
    let modes := fun (m : Word) => { up with shadow := [⟨.tbs, pf0, 0x30001C, 7, m⟩] }
    let servo := timed {} [(0x300000, 3)]
    ([0, 3, 4, 7].map fun m => (timebaseBlock (modes m) pf0).mode) = [0, 3, 4, 7] ∧
    (∀ a ∈ [0x300030, 0x300040], MayWrite up pf0 a) ∧ MayRead up pf0 ∧ platform up pf0 = true ∧
    bit (word up 0x300000) 0 = false ∧ bit (word servo 0x300000) 0 = true ∧ (timebaseBlock servo pf0).mode < 2 ∧
    MayWrite servo pf0 0x300030 := by decide +kernel
theorem met_TimebaseRegisters_head :
    let s := timed { txts := [(15, [(65535, 15, 255, 7)])] } []
    MayRead s pf0 ∧ platform s pf0 = true ∧ Canonical s ∧ look s.tbs.txts 15 = some [(65535, 15, 255, 7)] := by
  decide +kernel

theorem met_TimebaseHappenings :
    let s := { up with tick := 512 }
    let slew := timed { slewPer := 1 } [(0x300004, 32)]
    let wrap := { up with tbs := { acc := BitVec.ofNat 128 (2 ^ 96 + 5) } }
    let after := { s with tbs := { wrapAt := some 300 } }
    let rise := timed { acc := BitVec.ofNat 128 (2 ^ 32 * unitsPerSecond) } [(0x300078, 0x10000)]
    let fall := { up with tbs := { acc := BitVec.ofNat 128 (2 ^ 100), ppsOut := some 5 } }
    Live s ∧ slew.tbs.slewLeft = 0 ∧ bit (word slew 0x300004) 5 = true ∧ Canonical slew ∧
    wrap.tbs.wrapAt = none ∧ wrap.tbs.base.toNat + 2 ^ 64 ≤ fullUnits wrap ∧
    now after % 256 = 0 ∧ 300 < now after ∧ Canonical up ∧ (0 : Nat) ≤ now up ∧
    rise.tbs.ppsOut = none ∧ bit (word rise 0x300078) 16 = true ∧
    ((fullUnits rise : Int) - 1) / unitsPerSecond ≠ ((unitsAtEnd rise : Int) - 1) / unitsPerSecond ∧
    toSigned 32 (word rise 0x30007C).toNat = 0 ∧ 5 + max 1 (rf fall 0x300080 18 0) * 256000 < unitsAtEnd fall := by
  decide +kernel

theorem met_ServoAndHealth :
    let on := fun (state : Word) => timed { good := 6 } [(0x300000, 0x640003), (0x300004, state)]
    Live (on 0) ∧ Canonical (on 2) ∧ ([0, 1, 2, 3].map fun st => (servoOn (on st), servoState (on st))) =
      [(true, 0), (true, 1), (true, 2), (true, 3)] ∧
    (100 : Int).natAbs ≤ rf (on 1) 0x300000 31 16 ∧ (on 1).tbs.good < 7 ∧
    (let h := { up with tick := 2 ^ 28 }
     now h % 256 = 0 ∧ round h % 2 ^ 20 = 0 ∧ h.tbs.stepDue = none) := by decide +kernel

/-- A ledger with an open block of no record, and one of one record; three drives. -/
def block9 : Block := { num := 9, prev := [] }
def ledgered (l : Ledger) (ws : List (Nat × Word)) : State := withWords ws { up with ledger := l, tick := 2 ^ 28 }
def ledgerOff : State := withWords [(0x4000040, 0)] up
theorem met_LedgerLife_off : MayWrite ledgerOff pf0 0x4000000 ∧ platform ledgerOff pf0 = true ∧
    ledgerOff.ledger.enabled = false ∧ bit (word ledgerOff 0x4000040) 0 = false ∧
      Canonical ledgerOff := by decide +kernel
def ledgerOn : State := ledgered { enabled := true, open_ := some block9 } []
theorem met_LedgerLife_access : MayWrite ledgerOn pf0 0x4000000 ∧ Canonical ledgerOn ∧
  Live ledgerOn := by decide +kernel
theorem met_LedgerLife :
    let on := ledgerOn
    block9.opened + 1024 ≤ round on ∧ on.ledger.spill = [] ∧ on.ledger.drives = [] ∧
    on.ledger.inFlight = [] ∧ on.ledger.sealDue = none ∧ now on % 256 = 0 ∧ round on % 2 ^ 20 = 0 := by decide +kernel
theorem met_LedgerLife_seal :
    let s := ledgered { enabled := true, sealDue := some ⟨0, 0, [], 8, [], 0, 0, 0⟩, open_ := some { block9 with
      payload := List.replicate 352 0, sealing := true } } []
    Live s ∧ (s.ledger.open_.map Block.sealing) = some true ∧ s.ledger.sealDue.isSome = true ∧ s.ledger.spill = [] := by
  decide +kernel

theorem met_LedgerDrives :
    let c : DriveCmd := ⟨5, 9, 0, 1⟩
    let b := { block9 with closed := true }
    let b' := { block9 with num := 10 }
    let s := ledgered
      { enabled := true, drives := [5], stripes := 512, spill := [b], inFlight := [c], open_ := some b' } []
    let desc := le 8 9 ++ le 4 1 ++ le 4 0 ++ le 16 0
    let i : SendItem := { pos := 0, doorbell := 0, ingress := 0, epoch := false, round := 0, desc := some desc }
    let l : Ledger := { enabled := true, drives := [5], stripes := 512, open_ := some b', reads := [⟨7, 0, 9, 2, []⟩] }
    let rd := { ledgered l [(rngAddr 7 0, 0x80000000), (0x4000010, 9), (0x4000038, 0x80000007)] with
      rings := [(7, { items := [i] })] }
    Live s ∧ (s.ledger.inFlight.any fun x => x.drive == 5 && x.block == 9) = true ∧
    (s.ledger.spill.find? fun x => x.num == 9) = some b ∧
    (s.ledger.inFlight.find? fun x => x.drive == 5 && x.block == 9) = some c ∧ c.tries < 2 ∧
    c.sent + c0Timeout s ≤ now s ∧
    Live rd ∧ ringOwner rd 7 = some pf0 ∧ ledgerRing rd 7 = true ∧ platform rd pf0 = true ∧ (ring rd 7).items = [i] ∧
    rd.ledger.spill = [] ∧ leAt desc 8 4 = 1 ∧ leAt desc 12 4 = 0 ∧ leAt desc 24 8 = 0 ∧ leAt desc 16 8 % 4096 = 0 ∧
    word64 rd 0x4000010 ≤ leAt desc 0 8 ∧ leAt desc 0 8 + leAt desc 8 4 ≤ firstOpen rd ∧ driveOf rd 9 = 5 ∧
    (rd.ledger.reads.find? fun x => decide (x.first ≤ 9 ∧ 9 < x.first + x.count) && !(x.got.any fun y => y.1 == 9)) =
      some ⟨7, 0, 9, 2, []⟩ := by decide +kernel

/-! ### Registers, ticks and ports -/

def romUp : State := { up with endpoints := [(0, { down := false, romEnabled := [0] }), (1, { down := false })] }
def mirrored : State := { up with words := [(0x100000, 2), (hlkAddr .h1 4, 8)] }
theorem met_RegisterWrites_access :
    (romOpen romUp host 0xFFFFF 1 = true ∧ Live romUp) ∧ MayRead up pf0 ∧ platform up pf0 = true ∧
    MayWrite up pf0 (0x502000 + 4 * 16) ∧ (1000 : BitVec 64).toNat % 1024 ≤ 1000 ∧
      1000 < (1001 : BitVec 64).toNat % 1024 ∧
    Canonical up ∧ MayWrite up pf0 (0x1410000 + 0x40 * 3) ∧ up.shadow = [] := by decide +kernel
theorem met_RegisterWrites_mirror : MayWrite mirrored pf0h1 (0x1410000 + 0x40 * 3) := by decide +kernel
theorem met_RegisterWrites_wide :
    (match exec (.registerWrite pf0 0x502000 false 0xFF 0) up with | .next m => decide (Live m) | _ => false) = true :=
      by
  decide +kernel

theorem met_RegisterReads :
    (∀ a ∈ [0x400000, 0x1A08000, 0x1A09030 + 0x40 * 63], host.fn = 0 ∨ readView up host a = true) ∧ MayRead up host ∧
    splitCounter 0x400000 = true ∧ splitCounter 0x400004 = false ∧ (0x400000 : Nat) % 8 = 0 ∧
    MayRead up ⟨.h0, 5⟩ ∧ readView up ⟨.h0, 5⟩ 0x400000 = false ∧ romOpen romUp host 0xFFFFC 4 = true ∧
    romOpen romUp host 1 8 = true := by decide +kernel

theorem met_TicksAndRounds_quiet : Quiet { State.reset with words := [(0x100000, 2)] } := by rfl
theorem met_TicksAndRounds :
    let s := { State.reset with words := [(0x100000, 2)] }
    Live s ∧ s.tbs.snapAt = none ∧ s.tbs.slewLeft = 0 ∧ s.threads = [] ∧ now s % 256 = 0 ∧
    s.tbs.stepDue = none ∧ (∀ n, n < 17 → clusterRole s n ≠ 2) ∧ now { s with tick := 5 } % 256 ≠ 0 ∧
    { s with boundary := some 0 }.boundary = some (now s) := by decide +kernel

/-- Port 4 with its link up in mode 6, which obeys link pause and announces it; a frame of 60 bytes with an
EtherType. -/
def linked : State := withWords [(grpAddr 1 0, 6), (macAddr 4 0, 0x5C3), (macAddr 4 8, 1)] { up with tick := 2 ^ 20 }
def wireFrame (n : Nat) (ether rest : List Byte) : List Byte :=
  let body := slice (List.replicate 12 9 ++ ether ++ rest) 0 n
  body ++ crcBytes .crc32 (crc .crc32 body)
def plainFrame : List Byte := wireFrame 60 [8, 0] []
theorem met_FrameReception :
    let controls := [wireFrame 60 [0x88, 8] [0, 1, 0, 9], wireFrame 60 [0x88, 8] [0, 2, 0, 9]]
    Live linked ∧ (port linked 4).resetAt = none ∧ linkUp linked 4 = true ∧ rf linked (macAddr 4 4) 14 0 < 1526 ∧
    (wireFrame 1522 [8, 0] []).length = 1526 ∧ (plainFrame :: controls).all (fun b => decide (b.length = 64 ∧
      b.drop 60 = crcBytes .crc32 (crc .crc32 (b.take 60)))) = true ∧
    (controls.map fun b => (etherAt b 12, beAt b 14 2)) = [(0x8808, 1), (0x8808, 2)] ∧
    rf linked (macAddr 4 0) 9 8 = 1 ∧ Canonical linked := by decide +kernel
theorem met_FrameReception_passes :
    let body := plainFrame.take 60
    etherAt body 12 ≠ 0x8808 ∧
    (match macVerify linked 4 (roundOf (now linked - frx linked 4)) body with
      | (u, .ok x) => decide (u = linked ∧ x = (body, false)) | _ => false) = true ∧
    bit (word linked (macAddr 4 0)) 1 = true ∧ bit (word linked (macAddr 4 0xC)) 16 = false ∧
    occupancy linked 4 (bufferKey linked 4 (outerPcp body)) + cellsOf body.length <
      bufferLimit linked 4 (bufferKey linked 4 (outerPcp body)) := by decide +kernel

theorem met_PortStates :
    let s := fun (v : PortState) => { linked with ports := [(4, v)] }
    let down := withWords [(macAddr 4 8, 0)] linked
    (port (s { pauses := [⟨5, some 7, 0⟩] }) 4).pauses = [⟨5, some 7, 0⟩] ∧ 5 ≤ now linked ∧
    (port (s { xoff := [(7, 0)] }) 4).xoff = [(7, 0)] ∧ rf linked (macAddr 4 0x14) 15 0 ≠ 0 ∧
    pauseTicks (portRate linked 4) (rf linked (macAddr 4 0x14) 15 0) / 2 ≤ now linked ∧ Live down ∧
    linkUp down 4 = false ∧ mayLink down 4 = true ∧ linkUp linked 4 = true ∧ portLpiEn linked 4 = true ∧
    lpiType (portMode linked 4) (rf linked (macAddr 4 0) 3 2) = true ∧ (port linked 4).onWay = [] ∧
    (port linked 4).started ≤ bitTime (now linked) := by decide +kernel
theorem met_PortStates_reset : MayWrite linked pf0 0x100018 ∧ linked.frames = [] ∧ servoState linked = 0 := by
  decide +kernel

/-! ### Frames -/

/-- A state with path class 0 whose program parses with `sect`, and a frame of port 0. -/
def parsing (sect : List Byte) (f : Frame) : State := { up with
  tick := 1024, classes := [{ round := 0, cls := 0, program := some { aProgram [] with parse := sect, rate := 1000 } }]
  frames := [(3, f)] }
def whole : Frame := { aFrame with stage := .whole, wholeTick := 1022, round := 3 }
def acceptAll : List Byte := le 28 0 ++ le 4 0x02000000 ++ le 80 0
theorem met_ParseStage :
    let s := parsing acceptAll whole
    let empty := { s with buckets := [(classKey 0, { amount := 0, last := 4 })] }
    Live s ∧ rf s 0x100000 2 0 = 2 ∧ frame? s 3 = some whole ∧ whole.id = 3 ∧ whole.stage = .whole ∧ Canonical s ∧
    now s = whole.wholeTick + parseTicks s whole ∧ parseProgram (parsing [] whole) whole = none ∧
    (parseProgram s whole).map (fun p => (runParse p.parse whole.bytes (startKey whole 0)).2) = some (.accept none) ∧
    (runParse (le 112 0) whole.bytes (startKey whole 0)).2 = .fail ∧ (takeClassToken s 0).2 = true ∧
    (takeClassToken empty 0).2 = false ∧ whole.sendPos = none := by decide +kernel

theorem met_ClassifierMisses :
    let f := { whole with stage := .parsed, wholeTick := 997, parseTicks := 2 }
    let g := { f with tag := setFlag newTag 18 true }
    let s := parsing [] f
    Live s ∧ frame? s 3 = some f ∧ f.id = 3 ∧ f.src = .port 0 ∧ f.stage = .parsed ∧ now s = lookupTick s f ∧
    tagFlag (setTag (setTag f.tag 0 21 12 (bindTenancy s f)) 0 27 22 (bindDefault s f)) 18 = false ∧
    tagFlag (setTag (setTag g.tag 0 21 12 (bindTenancy s g)) 0 27 22 (bindDefault s g)) 18 = true ∧
    bit (wordAt s f.round (bindAddr (bindingOf f) 4)) 31 = false ∧ f.hint = none := by decide +kernel

theorem met_Dispatch :
    let f := { aFrame with stage := .queued, round := 3 }
    let p := { aProgram [] with entries := [(4, 10)], data := [1, 2] }
    let c : PathClass := { round := 0, cls := 0, program := some p, cores := [(4, 7)] }
    let s := { up with tick := 1024, classes := [c], frames := [(3, f)] }
    Live s ∧ queueHead s 0 = some f ∧ pathAt s f.round 0 = c ∧ f.ready ≤ now s ∧
    ((classThreads c).find? fun t => threadFree s t && decide (startsNow s 0 t.cluster.val < max 1 c.s)) =
      some ⟨4, 7, 0⟩ ∧
    bit (wordAt s f.round (0x1C30000 + tagClass f.tag * 4)) 0 = false ∧ p.data.length ≤ 16384 ∧ Canonical s := by
  decide +kernel

/-! ### Release, rings and egress -/

/-- Frame 3 held, due in tick 1000 or 1024, with a destination kind. -/
def heldTo (kind due : Nat) : Frame := { aFrame with
  stage := .held, due := due, tag := setTag (setTag newTag 8 31 24 kind) 12 31 13 (4 * 32768) }
def holding (f : Frame) : State := { up with tick := 1024, frames := [(3, f)] }
/-- Sequence group 255 with a port output and one source, port 0. -/
def grouped : State := withWords [(seqAddr 255 0, 3),
  (seqAddr 255 0x100, 1)] (holding { aFrame with stage := .group 255 })
theorem met_HeldFrames :
    let f := heldTo dkPort 1000
    let n := tagNode f.tag
    let room := withWords [(queueAddr n 3, 100)] (holding f)
    Live room ∧ room.frames = [(f.id, f)] ∧ room.learnMarks = [] ∧ f.heldFrom ≤ now room ∧ f.notBefore ≤ now room ∧
    f.sa = none ∧ f.sendPos = none ∧ f.mirror = none ∧ f.buffered = none ∧ f.stage = .held ∧ captured f = false ∧
    tagDestKind f.tag = dkPort ∧ tagDestKind (heldTo dkLedger 1024).tag = dkLedger ∧
      (heldTo dkLedger 1024).due = now room ∧
    f.due < now room ∧ handoverTick room (n / 32768) f.due ≤ now room ∧
    fld (word room (queueAddr n 3)) 15 0 = 100 ∧ fld (word room (queueAddr n 3)) 31 16 = 0 ∧
    tagFld f.tag 12 9 8 = 3 ∧ (node room n).cells + cellsOf (queueLength room f) ≤ 100 ∧
    (let full := withWords [(queueAddr n 3, 0)] (holding f)
     fld (word full (queueAddr n 3)) 15 0 < (node full n).cells + cellsOf (queueLength full f)) := by
  decide +kernel
theorem met_HeldFrames_group :
    let f := { aFrame with stage := .group 255 }
    let s := withWords [(queueAddr 0 3, 100)] grouped
    Live s ∧ Canonical s ∧ s.frames = [(f.id, f)] ∧ f.heldFrom ≤ seqTick s 255 f ∧ seqTick s 255 f ≤ now s ∧
    (group s 255).positions = [] ∧ (group s 255).unstored = [] ∧ (seqRing s f.round 255).isNone = true ∧
    (seqRefusal s 255 f).isNone = true ∧ seqIndex s 255 f ≠ seqSources s f.round 255 := by decide +kernel

/-- Ring 7 of kind `kind`, with 64 entries, whose completion ring is ring 8; both belong to PF0 of H0. -/
def ringed (kind prod : Word) (v : RingState) (s : State) : State := withWords
  [(rngAddr 7 0, 0x80000000), (rngAddr 7 4, 0x68 + kind), (rngAddr 7 0x10, 8), (rngAddr 7 0x14, 0x206),
    (rngAddr 7 0x24, prod), (rngAddr 8 0, 0x80000000), (rngAddr 8 4, 0x6B)]
  { s with tick := 1024, rings := [(7, v)] }
theorem met_ReceiveRings :
    let f := { heldTo dkRing 1024 with stage := .ring 7 }
    let v : RingState := { waiting := [3], asked := 2, onChip := [(0, le 32 0)] }
    let s := ringed 2 2 v { up with frames := [(3, f)] }
    let dry := ringed 2 0 v { up with frames := [(3, { f with due := 100 })] }
    let comes := ringed 2 2 { asked := 2 } { up with delivered := [(.rxDesc 7 1 false, 0, le 32 0)] }
    let n := buffersFor s 7 (stripTags (stripCount s 7 f) f.bytes).1.length
    Live s ∧ ringOwner s 7 = some pf0 ∧ ringOn s 7 2 = true ∧ ringCq s 7 = 8 ∧ (ring s 7).waiting = [f.id] ∧
    (ring s 7).bad = [] ∧ f.sendPos = none ∧ f.mirror = none ∧ f.buffered = none ∧ captured f = false ∧
    f.due = now s ∧ f.notBefore ≤ now s ∧ n = 1 ∧ n ≤ freeBuffers s 7 ∧ cqFree s 8 ≠ 0 ∧ canWrite s 7 = true ∧
    (chipDescs s 7 0 n).isSome = true ∧ f.copyOf = none ∧ Canonical dry ∧ freeBuffers dry 7 < n ∧
    100 + 256 * rf dry (rngAddr 7 0x14) 15 8 ≤ now dry ∧ Live comes ∧ ringOn comes 7 2 = true ∧
    sub32 1 (ring comes 7).taken < sub32 (ring comes 7).asked (ring comes 7).taken := by decide +kernel

theorem met_RingCommands :
    let s := ringed 1 2 {} up
    let other := ringed 1 2 {} up
    let off := withWords [(rngAddr 7 4, 0)] s
    MayRead s pf0 ∧ ringOwner s 7 = some pf0 ∧ ringEnabled s 7 = true ∧ ringSize s 7 = 64 ∧ ringPage s 7 = 0 ∧
    ringKind s 7 = 1 ∧ ringKind (ringed 2 2 {} up) 7 = 2 ∧ sub32 3 (ringProd s 7) = 1 ∧
    1 ≤ ringSize s 7 - sub32 (ringProd s 7) (ringDone s 7) ∧ ringOwner other 9 = none ∧ platform s pf0 = true ∧
    bit (word off (rngAddr 7 4)) 3 = false ∧ fld (0x69 : Word) 2 0 ≤ 4 ∧ fld (0x69 : Word) 8 4 = 6 ∧
    canEnable off 7 (blend (word off (rngAddr 7 4)) 0xFFFDF7 0x69) = true ∧ (ring s 7).waiting = [] ∧ Canonical s := by
  decide +kernel
def ring7 : State := ringed 1 2 {} up
theorem met_RingCommands_access : MayWrite ring7 pf0 (rngAddr 7 4) := by decide +kernel
theorem met_RingCommands_timer :
    let s := withWords [(rngAddr 7 0x1C, 0x10000), (rngAddr 7 0x20, 0x8000)]
      { ringed 1 2 { pendingInts := 1 } up with
        functions := [(0, { memorySpace := true, busMaster := true, msix := true, vecCount := 1 })] }
    let silent := withWords [(rngAddr 7 0x20, 0)] s
    Live s ∧ now s % 256 = 0 ∧ rf s (rngAddr 7 0x1C) 23 16 = 1 ∧ 0 < (ring s 7).pendingInts ∧
    1 ≤ round s - (ring s 7).firstRound ∧ ringOwner s 7 = some pf0 ∧ bit (word silent (rngAddr 7 0x20)) 15 = false ∧
    bit (word s (rngAddr 7 0x20)) 15 = true ∧ fld (word s (rngAddr 7 0x20)) 10 0 < (fnState s pf0).vecCount ∧
    (fnState s pf0).msix = true ∧ mayRequest s pf0 = true ∧ (fnState s pf0).masked = [] := by decide +kernel

theorem met_SendDescriptors :
    let d := le 4 64 ++ le 28 0
    let i : SendItem := { pos := 1, doorbell := 0, ingress := 0, epoch := false, round := 4 }
    let s := fun (i : SendItem) => ringed 1 2 { items := [i] } up
    let sent := { i with desc := some d, parts := 1 }
    Live (s i) ∧ ringOwner (s i) 7 = some pf0 ∧ ledgerRing (s i) 7 = false ∧ (ring (s i) 7).items = [i] ∧
      i.ready = none ∧
    i.stageAt = none ∧ d.length = 32 ∧ descFld d 0 31 31 = 0 ∧ descFld d 0 16 16 = 0 ∧ sendFormatOk d = true ∧
    descFld d 0 15 0 = 64 ∧ lengthOk d 64 = true ∧ sendFormatOk (le 32 0) = true ∧
    ({ i with slot := some 0 } : SendItem).slot = some 0 ∧ descFld d 0 18 18 = 0 ∧ descFld d 0 19 19 = 0 ∧
    descFld d 0 22 22 = 0 ∧ descFld d 0 23 23 = 0 ∧ (ring (s sent) 7).items = [sent] ∧ sent.parts = 1 := by
  decide +kernel

theorem met_EgressAndWindow :
    let f := { heldTo dkPort 1024 with stage := .queue (4 * 32768) }
    let s := { linked with frames := [(3, f)], nodes := [(4 * 32768, { queue := [3], cells := 1 })] }
    let b := max (bitTime (now s + ftx s 4 + 4)) (port s 4).wireFree
    Live s ∧ linkUp s 4 = true ∧ (port s 4).resumed = none ∧ calMode s 4 = 0 ∧ busyQueues s 4 = [4 * 32768] ∧
    (node s (4 * 32768)).queue = [f.id] ∧ frame? s 3 = some f ∧
    (eligible s 4 b (4 * 32768)).map (fun x => x.frame.id) = some 3 ∧ b < bitTime (now s + ftx s 4 + 4 + 1) := by
  decide +kernel
def meterSel : State := withWords [(schWin pf0 8, 0x05000000)] up
theorem met_EgressAndWindow_access : MayWrite meterSel pf0 0x1B0000C ∧ Canonical meterSel ∧
  schSel meterSel pf0 = (5, 0) ∧
    schOpen meterSel pf0 5 0 false = true ∧ schOpen meterSel pf0 5 0 true = true ∧ meterSel.shadow = [] ∧
    schOpen up pf0 (schSel up pf0).1 (schSel up pf0).2 false = false ∧ Canonical up := by decide +kernel

/-! ### Peer windows, host links, crypto and TCP -/

/-- Window 63 of H0, of a kind, 64 KB at the aperture's start, for every requester. -/
def windowed (kind : Word) (v : PeerSlot) : State := withWords
  [(pwnAddr .h0 63 0, 1 + 2 * kind), (pwnAddr .h0 63 8, 1)] { up with peerSlots := [(slotKey .h0 63 0, v)] }
theorem met_PeerWindows :
    let full := windowed 2 { marks := List.range 256 }
    Live (windowed 1 {}) ∧ (endpoint (windowed 1 {}) .h0).down = false ∧
      peerWindow (windowed 1 {}) .h0 7 16379 1 = some 63 ∧
    peerWindow (windowed 2 {}) .h0 7 0 8 = some 63 ∧ rf (windowed 1 {}) (pwnAddr .h0 63 0) 2 1 = 1 ∧
    rf (windowed 2 {}) (pwnAddr .h0 63 0) 2 1 = 2 ∧ pwnBase (windowed 1 {}) .h0 63 = 0 ∧
    peerSlot (windowed 1 {}) (slotKey .h0 63 0) = {} ∧ peerWindow full .h0 7 0x7FF8 8 = some 63 ∧
    (List.range 256).all (fun g => (peerSlot full (slotKey .h0 63 0)).marks.contains g) = true ∧
    peerWindow (windowed 0 {}) .h0 7 0 8 = some 63 ∧ rf (windowed 0 {}) (pwnAddr .h0 63 0) 2 1 = 0 ∧
    reachable (windowed 0 {}) (fnOf (rf (windowed 0 {}) (pwnAddr .h0 63 0xC) 9 0)) = true ∧
    peerWindow up .h0 7 0 4 = none ∧ Canonical (windowed 1 {}) := by decide +kernel

theorem met_HostReads :
    let q : Request := {
      fn := pf0, generation := 0, op := .rxDesc 7 1 false, addr := 64, len := 32, sent := 0, timeout := 100 }
    let s := fun (q : Request) => { ringed 2 2 { retry := [(1, 1, some 1024)] } up with
      endpoints := [(0, { down := false, requests := [(4095, q)] })] }
    (∀ k ∈ [q, { q with quarantined := true }, { q with generation := 1 }], Live (s k) ∧
      (endpoint (s k) .h0).down = false ∧ (endpoint (s k) .h0).waiting = [] ∧
        (endpoint (s k) .h0).requests = [(4095, k)]) ∧
    q.quarantined = false ∧ requestLive (s q) q = true ∧ now (s q) % 256 = 0 ∧ roundAfter 0 100 ≤ round (s q) ∧
    requestLive (s q) { q with generation := 1 } = false ∧ 0 + 1 + 2 * 100 ≤ now (s q) ∧ Canonical (s q) ∧
    look (endpoint (s q) .h0).requests 4094 = none ∧ ringOwner (s q) 7 = some pf0 ∧
    (ring (s q) 7).retry = [(1, 1, some 1024)] := by decide +kernel

theorem met_LinkErrors :
    let s := { up with endpoints := [(1, { down := false, ecrcCheck := true })] }
    Live s ∧ Canonical s ∧ (endpoint s .h1).ecrcCheck = true ∧ (endpoint s .h0).ecrcCheck = false := by decide +kernel

def link (v : EndpointState) : State := { up with
  words := [(0x100000, 2), (hlkAddr .h0 0, 0x810F)], endpoints := [(0, { v with down := false })]
  functions := [(0, { aspm := 6 }), (5, {})] }
theorem met_LinkStates_l0p : bit (word (link {}) (hlkAddr .h0 4)) 1 = true :=
  (by decide : ∀ b : Bool, bit (if b then 3 else 2 : Word) 1 = true) (Config.flashStrict false)
theorem met_LinkStates :
    let half := { link { askedWidth := 8 } with words := [(0x100000, 2), (hlkAddr .h0 0, 0x410F)] }
    Live (link {}) ∧ (16 : BitVec 5).toNat ∈ [1, 2, 4, 8, 16] ∧ up.power.h1Clock = true ∧
    (endpoint (link {}) .h0).strict = false ∧
    (endpoint (link {}) .h0).strictShown = false ∧ 4 < widthNow (link {}) .h0 ∧ widthNow half .h0 < linkWidth half .h0 ∧
    (endpoint half .h0).askedWidth = (8 : BitVec 5).toNat ∧ (fnState (link {}) (pf0Of .h0)).aspm ≠ 0 ∧
    fnExists (link {}) pf0 = true ∧ (fnState (link {}) pf0).dusk = none ∧ (fnState (link {}) pf0).pendingVectors = [] ∧
    (endpoint (link {}) .h0).waiting = [] ∧ Canonical (link {}) := by decide +kernel

/-- The VF 5 of H0 belongs to tenancy 9, which owns no association and no connection. -/
def foreign : State := withWords [(tenFuncAddr ⟨.h0, 5⟩, 9)] up
theorem met_CryptoWindow_access : MayWrite up pf0 0x1C0000C ∧ MayWrite foreign ⟨.h0, 5⟩ 0x1C0000C ∧ Canonical up ∧
    saTenancy foreign (round foreign) (crySel foreign ⟨.h0, 5⟩) ≠ fnTenancy foreign ⟨.h0, 5⟩ ∧ up.shadow = [] ∧
      (List.range 11).all (fun k => saReserved 0 k (word up (cryAddr pf0 (0x10 + 4 * k))) == 0) = true := by
  decide +kernel

/-- A user record of connection 5: MSS 536, a flow context and queue of tenancy 0, prefix lengths 1. -/
def connRecord : List Byte := le 4 5 ++ le 4 1 ++ le 2 536 ++ le 4 0 ++ le 2 54 ++ le 28 0 ++ le 4 (4 * 32768) ++
  le 8 0 ++
  [1, 1] ++ le 18 0 ++ [8, 0, 0x45] ++ le 7 0 ++ [0x40, 6] ++ le 30 0
def conn5 : Conn := { offloaded up pf0 connRecord with sndBuf := [1, 2, 3], sndWnd := 1000, cwnd := 1000, rcvNxt := 9 }
def connected (c : Conn) : State := { up with tick := 1024, conns := [(5, c)] }
theorem met_TcpCommands :
    MayWrite up pf0 0x1EF0008 ∧ mayRequest up pf0 = true ∧ badRecord connRecord 5 = false ∧
      badRecord connRecord 6 = true ∧
    recordOpen up pf0 connRecord 5 = true ∧ look up.conns 5 = none ∧ Canonical up ∧
    connOwned up (round up) (fnTenancy up pf0) 5 = true ∧ conn5.state < 3 ∧ (connected conn5).conns = [(5, conn5)] ∧
    connOwned foreign (round foreign) (fnTenancy foreign ⟨.h0, 5⟩) 5 = false := by decide +kernel
theorem met_TcpCommands_access : MayWrite (connected conn5) pf0 0x1EF0008 ∧ MayWrite foreign ⟨.h0, 5⟩ 0x1EF0008 ∧
    MayWrite up pf0 0x1EF0014 := by decide +kernel

theorem met_TcpSegments :
    let timers := { conn5 with rtxAt := some 4, persistAt := some 4, ackAt := some 4, sndNxt := conn5.sndUna + 1 }
    let s := connected conn5
    Live s ∧ look s.conns 5 = some conn5 ∧ conn5.state < 3 ∧ conn5.finSent = false ∧ conn5.finAsked = false ∧
    conn5.sendFrom ≤ now s ∧ nextSegment conn5 = some [1, 2, 3] ∧ recFld connRecord 44 4 % 2 ^ 19 = 4 * 32768 ∧
    (node s (4 * 32768)).cells + cellsOf 1514 ≤ fld (word s (queueAddr (4 * 32768) 3)) 15 0 ∧
    4 ≤ round s ∧ timers.retries < retryLimit timers ∧ outstanding timers = 1 := by decide +kernel
/-- A reset of the peer, as the engine itself would form it. -/
def peerReset : List Byte := segmentBytes up conn5 9 4 []
theorem met_TcpSegments_receive :
    let f : Frame := { aFrame with stage := .engine, conn := some 5, heldFrom := 1024, bytes := peerReset }
    Live { connected conn5 with frames := [(3, f)] } ∧ f.src = .port 0 ∧ f.heldFrom = now (connected conn5) ∧
    conn5.opened ≤ f.due ∧ f.buffered = none ∧ segmentOf (List.replicate 64 7) = none ∧
    (segmentOf peerReset).map (fun g => (g.flags, g.seq)) = some (4, conn5.rcvNxt) ∧
    (segmentOf peerReset).map (fun g => (g.data, g.ts)) = some ([], none) ∧
    0 < connRcvWnd conn5 ∧ connGateway conn5 = false := by decide +kernel

/-- AES-128 of FIPS 197, appendix C.1, and GCM's tag of nothing under a zero key and IV (case 1 of its authors). -/
theorem test_aes : aesBlock aesBox (aesRoundKeys aesBox ((List.range 16).map (BitVec.ofNat 8)))
    ((List.range 16).map fun k => BitVec.ofNat 8 (17 * k)) = be 16 0x69C4E0D86A7B0430D8CDB78070B4C55A := by
  decide +kernel
theorem test_gcm : aeadSeal 0 (be 16 0) (be 12 0) [] [] = be 16 0x58E2FCCEFA7E3061367F1D57A4E7455A := by decide +kernel

/-- The key stream of RFC 8439, section 2.3.2. -/
theorem test_chacha : (chachaBlock ((List.range 32).map (BitVec.ofNat 8)) (be 12 0x000000090000004A00000000) 1).take 16 =
    be 16 0x10F1E7E4D13B5915500FDD1FA32071C4 := by decide +kernel

/-! ### Storage -/

/-- Controller 0 of VF 5 of H0 with namespace 1 of 100 blocks on target 3, whose first connection, 5, is open. -/
def stored (v : Ctrl) : State := withWords
  [(stoAddr 0 0, 0x80000005), (stoAddr 0 4, 1), (stoAddr 0 8, 0x10001), (nsAddr 0 1 0, 0x80000003),
    (nsAddr 0 1 0x10, 100),
    (nsAddr 0 1 0x18, 1), (tgtAddr 3 0, 0x1000), (tgtAddr 3 0x28, 1)] { up with tick := 2 ^ 20, ctrls := [(0, v)] }
def cmd9 (qid opcode : Nat) : NvmeCmd := { qid := qid, cid := 9, opcode := opcode, nsid := 1, bytes := 0, fetched := 0 }
def sq1 : SubQueue := { size := 4, cq := 1, tail := 3, published := [7] }
def cq1 : CplQueue := { size := 4, vector := 0, intEn := true }
theorem met_StorageAdmin :
    let s := stored { sqs := [(0, { sq1 with cq := 0 })] }
    let admin := fun (op : Nat) => stored { cmds := [cmd9 0 op] }
    let id : NvmeId := ⟨0, 0, 9⟩
    Live s ∧ Canonical s ∧ reachable s (ctrlVf s 0) = true ∧ ctrlOn s 0 = true ∧ (sqOf (ctrl s 0) 0).isSome = true ∧
    mayRequest s (ctrlVf s 0) = true ∧ ((sqOf (ctrl s 0) 0).map fun y => y.published) = some [7] ∧
    (ctrl s 0).cmds = [] ∧ allOutstanding s < 262144 ∧
      stagedBytes (ctrl s 0) + 1048576 ≤ rf s (stoAddr 0 4) 12 0 * 1048576 ∧
    ([0, 1, 2, 4, 5, 6, 8, 9, 0xA, 0xC].all fun op => fetched? (admin op) id op == some (cmd9 0 op)) = true ∧
    (ctrl (admin 0) 0).held = [] ∧ (cqOf (ctrl (admin 0) 0) 0).isSome = true ∧ Live (admin 0) ∧
    look (ctrl (admin 5) 0).cqs 64 = none ∧ look (ctrl (admin 1) 0).sqs 64 = none ∧
    look (ctrl (stored { cqs := [(1, cq1)], cmds := [cmd9 0 1] }) 0).cqs 1 ≠ none ∧
    (ctrl (stored { sqs := [(64, sq1)], cmds := [cmd9 0 0] }) 0).sqs = [(64, sq1)] ∧
    (ctrl (stored { cqs := [(64, cq1)], cmds := [cmd9 0 4] }) 0).cqs = [(64, cq1)] ∧
    (ctrl (admin 0xC) 0).aers = [] ∧ (look (admin 0xC).notices 0).getD [] = [] := by decide +kernel

theorem met_StorageCommands :
    let s := fun (op : Nat) => stored { sqs := [(1, sq1)], cqs := [(1, cq1)], cmds := [cmd9 1 op] }
    let shut := withWords [(tgtAddr 3 0x28, 0)] (s 0)
    let none_ := withWords [(nsAddr 0 1 0, 0)] (s 0)
    ([0, 1, 2, 8, 9].all fun op => fetched? (s op) ⟨0, 1, 9⟩ op == some (cmd9 1 op)) = true ∧ Live (s 0) ∧
    (ioFault (s 0) 0 1 0 100).isNone = true ∧ bit (word (s 0) (tgtAddr 3 0x28)) 0 = true ∧ nsTarget (s 0) 0 1 = 3 ∧
    nsFormat (s 1) 0 1 = 0 ∧ nsFormat (withWords [(nsAddr 0 1 0, 0x80002003)] (s 1)) 0 1 = 1 ∧
    nsValid (s 2) 0 1 = true ∧ word64 (s 2) (nsAddr 0 1 0x10) < 100 + 1 ∧ (ioFault shut 0 1 0 0).isNone = true ∧
    bit (word shut (tgtAddr 3 0x28)) 0 = false ∧ nsValid none_ 0 1 = false ∧ (ctrl (s 0) 0).held = [] ∧
    sqOf (ctrl (s 0) 0) 1 = some sq1 ∧ cqOf (ctrl (s 0) 0) 1 = some cq1 ∧ 100 * nsLba (s 0) 0 1 ≤ 131072 := by
  decide +kernel

theorem met_StorageTargets :
    let x := { cmd9 1 2 with sent := some 0, target := 3, answer := some 0x4080 }
    let s := stored { sqs := [(1, sq1)], cqs := [(1, cq1)], cmds := [x] }
    let shut := withWords [(tgtAddr 3 0x28, 0)] (stored { sqs := [(1, sq1)], cqs := [(1, cq1)] })
    let l : TgtLink := {}
    let ready := { withWords [(tgtAddr 3 8, 5)] (stored {}) with
      conns := [(5, { conn5 with rec_ := patch connRecord 10 [3] })], targets := [(3, { links := [(0, l)] })] }
    ((ctrl s 0).cmds.find? fun z => z.qid == 1 && z.cid == 9) = some x ∧ x.answer = some 0x4080 ∧
    (0x4080 : BitVec 16).toNat % 2048 ≠ 0 ∧ rf s (stoAddr 0 8) 15 0 = 1 ∧ 0 + 1 * 1024 ≤ round s ∧ Live s ∧
      Canonical s ∧
    sqOf (ctrl shut 0) 1 = some sq1 ∧ sq1.published = 7 :: sq1.published.drop 1 ∧ rf shut (stoAddr 0 8) 31 16 = 1 ∧
    nsValid shut 0 1 = true ∧ targetOpen shut (nsTarget shut 0 1) = false ∧ ctrlOn shut 0 = true ∧
    roundOf (max 7 (target shut 3).closedAt) + 1 * 1024 ≤ round shut ∧ linkUsable s 3 0 = false ∧
    bit (word (withWords [(tgtAddr 3 0x28, 3)] s) (tgtAddr 3 0x28)) 0 = true ∧ (3 : Nat) ≠ 2 ^ 0 ∧
      look (target ready 3).links 0 = some l ∧ l.stage = 0 ∧
    linkUsable ready 3 0 = true := by decide +kernel
theorem met_StorageTargets_access : MayWrite (stored {}) pf0 (tgtAddr 3 0) := by decide +kernel

/-! ### Mailboxes, firmware, attestation and the boot stages -/

def msg16 (req : Nat) (rest : List Byte) : Msg := ⟨7, le 1 req ++ rest⟩
/-- A request of `fn` in its channel since tick 0, with one for it in the other. -/
def posted (fn : FnId) (req : Nat) : State := { up with
  tick := 2 ^ 23
  mailboxes := [(fnNum fn, ⟨{ full := true, msg := some (msg16 req []) },
    { full := true, msg := some (msg16 0 [1, 2, 3, 4]) }, [msg16 9 []]⟩)] }
theorem met_Mailboxes :
    let s := posted pf0 0x10
    let day := withWords [(0x100000, 0)] (posted pf0 1)
    let thread := { posted pf0 1 with mailboxes :=
      [(2048 + tidNum t0, { up := { full := true, msg := some (msg16 1 []) } })] }
    (mailbox up 0).up.full = false ∧ rf up (mbxAddr pf0 0) 9 0 ≤ 512 ∧ Canonical up ∧
    512 < rf (withWords [(mbxAddr pf0 0, 513)] up) (mbxAddr pf0 0) 9 0 ∧ (mailbox s 0).up.full = true ∧
    (mailbox s 0).up.opened = false ∧ MayRead s pf0 ∧ (mailbox s 0).down.msg = some (msg16 0 [1, 2, 3, 4]) ∧
    lastWordOff (msg16 0 [1, 2, 3, 4]) = 0x40C ∧ firmwareServes s (.ofFn pf0) = true ∧ stage s = 2 ∧
    (mailbox s 0).queue.length < 64 ∧ knownRequests.contains (leAt (msg16 0x10 []).payload 0 1) = true ∧
    knownRequests.contains (leAt (msg16 9 []).payload 0 1) = false ∧ firmwareServes day (.ofFn pf0) = true ∧
    stage day = 0 ∧ firmwareServes thread (.ofThread t0) = true ∧
    (mailbox { s with mailboxes := [(0, { queue := [msg16 9 []] })] } 0).down.full = false ∧
    (mailbox s 0).down.timeout = false ∧ s.handover = none ∧
    roundAfter 0 (pairTimeout s (.ofFn pf0)) + 0 ≤ round s := by decide +kernel
def badLength : State := withWords [(mbxAddr pf0 0, 513)] up
def posted16 : State := posted pf0 0x10
theorem met_Mailboxes_access : MayWrite up pf0 (mbxAddr pf0 0x700) ∧ MayWrite badLength pf0 (mbxAddr pf0 0x700) ∧
    MayWrite posted16 pf0 (mbxAddr pf0 0x700) := by decide +kernel

/-- A request that the firmware has taken, of `fn`, with its payload's bytes from offset 4 on. -/
def served (fn : FnId) (req : Nat) (rest : List Byte) : State := { up with
  taken := [⟨fn, msg16 req (le 3 0 ++ rest), 0, false⟩] }
def slotted (b : Boot) (s : State) : State := { s with boot := b }
theorem met_FirmwareRequests :
    let image := le 64 0
    let flags := fun (k : Byte) => le 12 0 ++ [k]
    let store : StoredConfig := ⟨[0x53, 0x5A, 0x43, 0x53, 1, 0] ++ le 58 0, [], [],
      [0x53, 0x5A, 0x43, 0x53, 1, 0] ++ le 58 0, []⟩
    let is := fun (s : State) (req : Nat) (fits : List Byte → Bool) => (takenRequest s pf0 7 req fits).isSome
    let alien : FnId := ⟨.h0, 5⟩
    is (served pf0 0x10 (le 8 0 ++ le 4 64)) 0x10 (fun m => leAt m 12 4 == image.length) = true ∧
    is (served pf0 0x11 (flags 2)) 0x11 (fun m => bits (leAt m 16 1) 0 0 == flagBit false 0 &&
      bits (leAt m 16 1) 1 1 == flagBit true 0) = true ∧
    is (served pf0 0x12 (le 8 0 ++ le 4 64)) 0x12 (fun m => leAt m 12 4 == store.signed.length + store.signature.length) = true ∧
    is (served pf0 0x13 (flags 3 ++ le 55 0)) 0x13 (fun m => leAt m 16 1 == 3 && slice m 24 48 == le 48 0) = true ∧
    is (served pf0 0x14 (flags 3)) 0x14 (fun m => leAt m 16 1 == 3 &&
      slice m 0 168 == slice (msg16 0x14 (le 3 0 ++ flags 3)).payload 0 168) = true ∧
    is (served pf0 0x15 (le 256 0)) 0x15 (fun m => slice m 4 256 == le 256 0) = true ∧
    (takenRequest (served alien 0x13 (flags 3)) alien 7 0x13 (fun m => leAt m 16 1 == 3)).isSome = true ∧
    Live up ∧ up.handover = none ∧ (mailbox up 0).queue.length < 64 ∧ stage up = 2 ∧ up.boot.update = none ∧
    imageStatus up.boot image ≠ 0 ∧ up.boot.bootSel = 0 ∧ storeValid up.boot store = true ∧
      (spareCluster up).isSome = true ∧
    look up.boot.slots 3 = none ∧ rf (withWords [(0x100028, 4)] up) 0x100028 2 0 = 4 ∧ up.taken = [] ∧
    look ({ slots := [(3, ([1], false))] } : Boot).slots 3 = some ([1], false) := by decide +kernel

theorem met_Attestation : up.handover = none ∧ stage up = 2 ∧ fnExists up pf0 = true ∧
    fnExists (withWords [(0x100000, 1)] up) pf0 = true ∧ stage (withWords [(0x100000, 1)] up) = 1 := by decide +kernel

theorem met_BootStages :
    let s := fun (st : Word) => { up with words := [(0x100000, st)] }
    let r : ForenoonResult := ⟨true, [], [], 0, false, false, le 64 0⟩
    Live State.reset ∧ stage State.reset = 0 ∧ State.reset.boot.bootSel = 0 ∧ State.reset.boot.banks = [] ∧
    r.fromMailbox = false ∧ imageStatus State.reset.boot r.image ≠ 0 ∧
      2 ≤ ([3, 4, 3] : List (Fin 17)).eraseDups.length ∧
    stage (s 1) = 1 ∧ (s 1).boot.stores = [] ∧ (mailbox (s 1) (fnNum pf0)).queue.length < 64 ∧ now (s 1) % 256 = 0 ∧
    (s 1).handover = none ∧ Canonical (s 1) ∧ rf (withWords [(0x100028, 1)] (s 2)) 0x100028 2 0 = 1 ∧
    rf (s 2) 0x100028 2 0 ≠ 1 := by decide +kernel

/-! ### Resets, power and management -/

def role (n : Nat) (r : Word) (s : State) : State := withWords [(cluAddr n 0, r)] s
theorem met_FunctionResets :
    let dusk := { up with functions := [(5, { dusk := some 3, drained := true })] }
    let locked := withWords [(0x300004, 2)] up
    Live up ∧ (endpoint up .h0).down = false ∧ fnExists up ⟨.h0, 5⟩ = true ∧ (fnState up ⟨.h0, 5⟩).dusk = none ∧
    MayWrite up pf0 0x100010 ∧ Live dusk ∧ (fnState dusk ⟨.h0, 5⟩).drained = true ∧ now dusk % 256 = 0 ∧
    servoState up = 0 ∧ servoState locked = 2 ∧ Live locked ∧ Canonical locked := by decide +kernel

def noSpare : State := role 16 0 up
def fenced3 : State := role 3 3 up
theorem met_ClusterResets_access : MayWrite up pf0 0x10001C ∧ MayWrite noSpare pf0 0x10001C ∧
  MayWrite fenced3 pf0 0x10001C ∧
    MayWrite up pf0 0x100020 := by decide +kernel
theorem met_ClusterResets :
    let moving := { role 3 3 up with clusters := [(3, { moving := true })] }
    let testing := { role 3 4 up with clusters := [(3, { testing := true })] }
    clusterRole up 16 = 1 ∧ (cluster up 16).resetAsked = false ∧ clusterRole fenced3 3 = 3 ∧
    (cluster fenced3 3).resetAsked = false ∧ clusterRole up 0 = 0 ∧ spareCluster up = some 16 ∧
      movePending up 0 = false ∧
    clusterRole noSpare 0 = 0 ∧ spareCluster noSpare = none ∧ Canonical up ∧ up.frames = [] ∧ Live moving ∧
    now moving % 256 = 0 ∧ spareCluster moving = some 16 ∧
    ((List.range 17).find? fun k => (cluster moving k).moving) = some 3 ∧ Live testing ∧ clusterRole testing 3 = 4 ∧
    (cluster testing 3).testing = true ∧ Canonical testing ∧ up.boot.update = none := by decide +kernel
theorem met_ClusterResets_threads : ∀ t : Tid, (thread up t).cells = none := fun _ => rfl

theorem met_Restarts :
    let off := { up with power := { perst0 := true, aon := false } }
    let reset := { up with power := { perst0 := true } }
    let failing := { up with boot := { fallbacks := [0, 0] } }
    up.power.perst0 = false ∧ up.power.aon = true ∧ reset.power.clockVoid = false ∧ reset.power.thermTrip = false ∧
    reset.power.railStop = false ∧ 9 ≤ reset.power.rails.length ∧ off.power.clockVoid = false ∧ Live up ∧ Canonical up ∧
    MayWrite up pf0 0x100024 ∧ (up.boot.fallbacks.filter fun k => decide (round up < k + 2 ^ 32)).length < 2 ∧
    Live failing ∧ 2 ≤ (failing.boot.fallbacks.filter fun k => decide (round failing < k + 2 ^ 32)).length := by
  decide +kernel

theorem met_RecorderAndLocks :
    let r := powerOnRecord 1
    let queued := { up with recorder := { up.recorder with queues := [(6, [r])] } }
    let copying := { up with recorder := { up.recorder with copying := some ⟨1, 0, 1, 3, [], []⟩ } }
    Live queued ∧ queued.recorder.placedAt ≠ some (now queued) ∧ queued.recorder.queues = [(6, [r])] ∧ r.fatal = false ∧
    queued.recorder.morning.length ≠ 16383 ∧ up.recorder.copying = none ∧ copying.recorder.copyAgain = none ∧
    up.power.aon = true ∧ .vddIo ∈ up.power.rails ∧ Canonical up ∧ MayRead up pf0 ∧ reachable up ⟨.h0, 5⟩ = true ∧
    (0x7F : BitVec 32) &&& 0x7F &&& ~~~(word up 0x200000) ≠ 0 ∧ up.shadow = [] := by decide +kernel
/-- A view of two records, the oldest of sequence 5. -/
def viewed : State := { up with recorder := { up.recorder with
  next := 7, evening := [⟨0, powerOnRecord 1⟩, ⟨0, powerOnRecord 1⟩] } }
theorem met_RecorderAndLocks_access : (∀ a ∈ [0x40001C, 0x410004, 0x200000], MayWrite up pf0 a) ∧
    MayWrite viewed pf0 0x410004 := by decide +kernel
theorem met_RecorderAndLocks_view : viewOldest viewed pf0 = 5 ∧ viewNextOf viewed pf0 = 7 ∧
    bit (word viewed (viewAddr pf0 0x10)) 0 = false ∧ (word viewed (viewAddr pf0 0xC)).toNat + (5 - 3) < 2 ^ 32 := by
  decide +kernel

theorem met_RailsAndClocks :
    let one := { up with power := { rails := [.vddIo] } }
    up.power.clockVoid = false ∧ Machine.running up = true ∧
      Machine.running { up with power := { perst0 := true } } = false ∧
    one.power.aon = true ∧ Rail.vddCore ∉ one.power.rails ∧ railInOrder one.power.rails .vddCore = false ∧
    railInOrder up.power.rails .vppHbm = true ∧ Live up ∧ Rail.vddCore ∈ up.power.rails ∧
      Canonical up := by decide +kernel

theorem met_Monitoring :
    let at_ := fun (t : BitVec 12) => List.replicate 16 t
    ([0, 700, 800, 920].map fun (t : BitVec 12) => (hottest (at_ t) 0).1.toInt) = [0, 700, 800, 920] ∧
    Live up ∧ now up % (256 * 1024) = 0 ∧ bit (word up 0x5000008) 0 = false ∧
    bit (word (withWords [(0x5000008, 1)] up) 0x5000008) 0 = true ∧ (at_ 0).length = 16 ∧ MayRead up pf0 ∧
    MayRead up ⟨.h0, 5⟩ ∧ ncsiLength 0xFF = none ∧ Canonical up ∧
    ((look { up with ncsi := [(3, { initialised := true })] }.ncsi 3).getD {}).initialised = true := by decide +kernel

/-! ### The whole machine -/

theorem met_VoidAndStopped : Live up ∧ { up.power with clockVoid := true }.clockVoid = true ∧
    Machine.running { up with power := { perst0 := true } } = false := by decide +kernel
theorem met_CanonicalKept : Canonical up ∧ (match step up with | .next _ => true | _ => false) = true :=
  by decide +kernel

end Sys2Proof.Tests
end

section
/-! SUPPORT. What a function's register access does before it reaches a register: the link, the view, the expansion
ROM, and the record of an access that is ignored (R13, R389, R391, R392, R409, R484). -/

namespace Sys2Proof.Machine

open Sys2Proof

/-! ### Sparse stores -/

/-- Writing what an index holds leaves a canonical store as it is. -/
theorem sparseSet_get_self {α : Type} [DecidableEq α] (d : Nat → α) (m : Sparse α) (k : Nat) (h : sparseWf d m) :
    sparseSet d m k (sparseGet d m k) = m := by
  induction m with
  | nil => simp [sparseSet, sparseGet, sparseErase]
  | cons p m ih =>
    obtain ⟨i, w⟩ := p
    obtain ⟨hr, hd⟩ := h
    obtain ⟨hlt, hrm⟩ := List.pairwise_cons.1 hr
    have ih := ih ⟨hrm, fun q hq => hd q (List.mem_cons_of_mem _ hq)⟩
    by_cases hik : i = k
    · subst hik
      have hw : w ≠ d i := hd (i, w) (List.mem_cons_self ..)
      simp [sparseSet, sparseGet, sparseInsert, hw]
    · unfold sparseSet at ih ⊢
      simp only [sparseGet, sparseErase, sparseInsert, hik, if_false]
      split at ih
      case isTrue hv => simp [hv, ih]
      case isFalse hv =>
        have hk : ¬k < i := fun hki => hv (sparseGet_of_not_mem d m k fun q hq => by have := hlt q hq; grind)
        simp [hv, hk, ih]

/-- A register word written with what it holds. -/
theorem setWord_word_self (s : State) (a : Nat) (h : sparseWf resetWord s.words) : setWord s a (word s a) = s := by
  simp only [setWord, word, sparseSet_get_self resetWord s.words a h]

/-! ### Records of ignored accesses -/

/-- A counter's rise touches the register words only. -/
theorem count_eq (s : State) (a n : Nat) : count s a n = { s with words := (count s a n).words } := rfl

/-- An event touches the register words and the recorder only. -/
theorem exists_event_eq (s : State) (source code d tenancy reason : Nat) (fatal : Bool) :
    ∃ w r, event s source code d tenancy reason fatal = { s with words := w, recorder := r } := by
  simp only [event, eventAt]
  split
  · exact ⟨_, _, rfl⟩
  · rw [count_eq (count s _), count_eq s]
    exact ⟨_, _, rfl⟩

theorem event_eq (s : State) (source code d tenancy reason : Nat) (fatal : Bool) :
    event s source code d tenancy reason fatal = { s with
      words := (event s source code d tenancy reason fatal).words
      recorder := (event s source code d tenancy reason fatal).recorder } := by
  obtain ⟨w, r, h⟩ := exists_event_eq s source code d tenancy reason fatal
  rw [h]

/-- The words that an event touches: the count of its source, and the count of lost records. -/
theorem wordsKept_event (s : State) (source code d tenancy reason : Nat) (fatal : Bool) :
    WordsKept [0x401000 + source * 4, 0x400010] s (event s source code d tenancy reason fatal) := by
  intro a ha
  simp only [List.mem_cons, List.not_mem_nil, or_false, not_or] at ha
  simp only [event, eventAt]
  split
  · exact word_setWord_ne _ _ _ _ ha.1
  · exact (word_setWord_ne _ _ _ _ ha.2).trans (word_setWord_ne _ _ _ _ ha.1)

/-- The record of an event joins the queue of its source. -/
theorem recorded_event (s : State) (source code d tenancy reason : Nat) (fatal : Bool) :
    Recorded source code d s (event s source code d tenancy reason fatal) := by
  intro hq
  simp [event, eventAt, hq]

/-- The state after an ignored access of the function at the offset: a record with the cause, in the queue of the
block that owns the register, and its counts (R485). -/
abbrev Logs (fn : FnId) (off cause : Nat) (s u : State) : Prop :=
  u = { s with words := u.words, recorder := u.recorder } ∧
    WordsKept [0x401000 + sourceOf off * 4, 0x400010] s u ∧
    Recorded (sourceOf off) 0x04 (off % 2 ^ 28 + fn.fn.val * 2 ^ 28 + Endpoint.num fn.ep * 2 ^ 38 + cause * 2 ^ 40) s u

theorem logs_ignored (s : State) (fn : FnId) (off cause : Nat) : Logs fn off cause s (ignored s fn off cause) :=
  ⟨event_eq _ _ _ _ _ _ _, wordsKept_event _ _ _ _ _ _ _, recorded_event _ _ _ _ _ _ _⟩

/-! ### What a function reaches -/

theorem reachable_up {s : State} {fn : FnId} (h : reachable s fn = true) : (endpoint s fn.ep).down = false := by
  simp only [reachable, Bool.and_eq_true, Bool.not_eq_true'] at h
  exact h.1.1.1

theorem postAs_reachable {s : State} {fn : FnId} (h : reachable s fn = true) (f : State → State) :
    postAs s fn f = f s := by simp [postAs, h, reachable_up h]

theorem writeAs_mayWrite {s : State} {fn : FnId} {off : Nat} (h : MayWrite s fn off) (f : State → State) :
    writeAs s fn off f = f s := by
  obtain ⟨-, hr, hm, hv⟩ := h
  rw [writeAs, postAs_reachable hr, if_neg fun ⟨hf, h1⟩ => hm hf h1, if_pos hv]

theorem readAt_reachable {s : State} {fn : FnId} {off : Nat} (h : reachable s fn = true) (ho : off < romBase)
    (wide : Bool) (f : State → State) : readAt s fn off wide f = f { s with reply := [] } := by
  have hr : reachable { s with reply := [] } fn = true := h
  have hd := reachable_up hr
  simp only [readAt, Nat.not_le.2 ho, if_false, readAs, hr, hd]
  rfl

/-- The device answers for ROM bytes of a function that is reached, within the ROM (R392). -/
theorem romOpen_elim {s : State} {fn : FnId} {o len : Nat} (h : romOpen s fn o len = true) :
    reachable s fn = true ∧ o + len ≤ romSize := by
  simp only [romOpen, Bool.and_eq_true, decide_eq_true_eq] at h
  exact ⟨h.1.1.1, h.2⟩

theorem romWrite_open {s : State} {fn : FnId} {o : Nat} (h : romOpen s fn o 1 = true) :
    romWrite fn (romBase + o) s = ignoredAt s (sourceOf (hlkAddr fn.ep 0)) fn (romBase + o) 5 := by
  simp [romWrite, reachable_up (romOpen_elim h).1, h]

theorem readAt_rom {s : State} {fn : FnId} {o : Nat} {wide : Bool} (h : romOpen s fn o (if wide then 8 else 4) = true)
    (f : State → State) :
    readAt s fn (romBase + o) wide f = { s with
      reply := if wide then
          [BitVec.ofNat 32 (leNat (romBytes s fn o 4)), BitVec.ofNat 32 (leNat (romBytes s fn (o + 4) 4))]
        else [BitVec.ofNat 32 (leNat (romBytes s fn o 4))] } := by
  have hr : romOpen { s with reply := [] } fn o (if wide then 8 else 4) = true := h
  have hd := reachable_up (romOpen_elim hr).1
  simp only [readAt, Nat.le_add_right, if_true, romRead, Nat.add_sub_cancel_left, hr, hd]
  rfl

/-! ### Places in the register map -/

theorem elem_below {a base : Nat} (count stride : Nat) (h : a < base) : elem a base count stride = none :=
  if_neg fun hc => absurd hc.1 (Nat.not_le.2 h)

theorem elem_above {a base : Nat} (count stride : Nat) (h : count ≤ (a - base) / stride) :
    elem a base count stride = none :=
  if_neg fun hc => absurd hc.2 (Nat.not_lt.2 h)

/-- Offset `o` of element `i` of an array. -/
theorem elem_at {base count stride i o : Nat} (hi : i < count) (ho : o < stride) :
    elem (base + stride * i + o) base count stride = some (i, o) := by
  have hs : base + stride * i + o - base = o + stride * i := by omega
  have hq : (o + stride * i) / stride = i := by
    rw [Nat.add_mul_div_left _ _ (by omega), Nat.div_eq_of_lt ho, Nat.zero_add]
  rw [elem, hs, hq, Nat.add_mul_mod_self_left, Nat.mod_eq_of_lt ho, if_pos ⟨by omega, hi⟩]

theorem elem_eq_some {a base count stride i o : Nat} (h : elem a base count stride = some (i, o)) :
    a = base + stride * i + o ∧ i < count := by
  unfold elem at h
  split at h
  case isFalse => cases h
  case isTrue hc =>
    obtain ⟨hb, hi⟩ := hc
    obtain ⟨rfl, rfl⟩ := Prod.mk.inj (Option.some.inj h)
    exact ⟨by have := Nat.div_add_mod (a - base) stride; omega, hi⟩

/-- The mailbox block of a function lies below 0xD0_0000 (R481). -/
theorem mbxAddr_range (fn : FnId) (off : Nat) : 0x900000 + off ≤ mbxAddr fn off ∧ mbxAddr fn off < 0xD00000 + off := by
  obtain ⟨e, f, hf⟩ := fn
  have he : Endpoint.num e < 2 := by cases e <;> decide
  simp only [mbxAddr, fnNum]
  omega

end Sys2Proof.Machine
end

section
/-! SUPPORT. Writes of registers: an access that does not act, the two halves of a wide one, and a register of one
field (R10–R13, R39). -/

namespace Sys2Proof.Machine

open Sys2Proof

/-! ### One access -/

theorem exec_registerWrite (fn : FnId) (off : Nat) (wide : Bool) (be : BitVec 8) (v : BitVec 64) (s : State) :
    exec (.registerWrite fn off wide be v) s = act s (registerWriteStep fn off wide be v) := rfl

theorem registerWriteStep_rom (fn : FnId) (o : Nat) (wide : Bool) (be : BitVec 8) (v : BitVec 64) (s : State) :
    registerWriteStep fn (romBase + o) wide be v s = romWrite fn (romBase + o) s :=
  if_pos (Nat.le_add_right ..)

section
variable {fn : FnId} {off : Nat} {s : State} (ho : off < romBase)
include ho

theorem registerWriteStep_misaligned {wide : Bool} (be : BitVec 8) (v : BitVec 64)
    (hr : reachable s fn = true) (ha : off % (if wide then 8 else 4) ≠ 0) :
    registerWriteStep fn off wide be v s = ignored s fn off 6 := by
  rw [registerWriteStep, if_neg (Nat.not_le.2 ho), if_pos ha, postAs_reachable hr]

theorem registerWriteStep_partial {be : BitVec 8} (v : BitVec 64)
    (hr : reachable s fn = true) (ha : off % 4 = 0) (hb : be.toNat % 16 ≠ 15) :
    registerWriteStep fn off false be v s = ignored s fn off 3 := by
  have hb : ¬be &&& 0x0F = 0x0F := fun h => hb (by
    have h := congrArg BitVec.toNat h
    rwa [BitVec.toNat_and, show (0x0F : BitVec 8).toNat = 2 ^ 4 - 1 from rfl, Nat.and_two_pow_sub_one_eq_mod] at h)
  simp only [registerWriteStep, Nat.not_le.2 ho, if_false, Bool.false_eq_true, ha, hb, ne_eq, not_true,
    not_false_eq_true, if_true, postAs_reachable hr]

theorem registerWriteStep_wide_partial {be : BitVec 8} (v : BitVec 64)
    (hr : reachable s fn = true) (ha : off % 8 = 0) (hb : be ≠ 0xFF) :
    registerWriteStep fn off true be v s = ignored s fn off 3 := by
  simp only [registerWriteStep, Nat.not_le.2 ho, if_false, if_true, ha, hb, ne_eq, not_true, not_false_eq_true,
    postAs_reachable hr]

/-- An aligned write of 32 bits with its four byte enables is the write of one register. -/
theorem registerWriteStep_word {be : BitVec 8} (v : BitVec 64) (ha : off % 4 = 0) (hb : be &&& 0x0F = 0x0F) :
    registerWriteStep fn off false be v s = writeAs s fn off (writeRegister fn off (v.truncate 32)) := by
  simp only [registerWriteStep, Nat.not_le.2 ho, if_false, Bool.false_eq_true, ha, hb, ne_eq, not_true]

/-- An aligned write of 64 bits with all its byte enables is that of the low half and then that of the high half. -/
theorem registerWriteStep_wide (v : BitVec 64) (ha : off % 8 = 0) :
    registerWriteStep fn off true 0xFF v s =
      registerWriteStep fn (off + 4) false 0xFF (v >>> 32) (registerWriteStep fn off false 0xFF v s) := by
  have ho' : off + 4 < romBase := by unfold romBase at ho ⊢; omega
  rw [registerWriteStep_word ho' _ (by omega) rfl, registerWriteStep_word ho _ (by omega) rfl]
  simp [registerWriteStep, Nat.not_le.2 ho, ha]

end

theorem registerWriteStep_mayWrite {fn : FnId} {off : Nat} {s : State} (h : MayWrite s fn off) (ho : off < romBase)
    (v : BitVec 64) (ha : off % 4 = 0) :
    registerWriteStep fn off false 0x0F v s = writeRegister fn off (v.truncate 32) s := by
  rw [registerWriteStep_word ho v ha rfl, writeAs_mayWrite h]

/-! ### A register of one plain field -/

/-- A plain write of a register outside the mailboxes' buffers that the function may write. -/
theorem writeRegister_may {fn : FnId} {a : Nat} {s : State} {r : RegSpec} (v : Word)
    (hw : writeAction fn a v = none) (hb : bufferFull s fn a = false) (hr : regSpec s fn a = some r)
    (hm : r.may = true) :
    writeRegister fn a v s = afterWrite (writeFields s fn a v r) fn a (word s a) v := by
  simp [writeRegister, hw, plainWrite, hb, hr, hm]

theorem writeRegister_denied {fn : FnId} {a : Nat} {s : State} {r : RegSpec} (v : Word)
    (hw : writeAction fn a v = none) (hb : bufferFull s fn a = false) (hr : regSpec s fn a = some r)
    (hm : r.may = false) :
    writeRegister fn a v s = denied s fn a := by
  simp [writeRegister, hw, plainWrite, hb, hr, hm]

section
variable (s : State) (fn : FnId) (a : Nat) (v : Word) (may : Bool) {hi lo : Nat} {ok : Nat → Bool}

/-- A value that the field lists is set, and the other bits stay. -/
theorem writeFields_listed (h : ok (bits v.toNat hi lo) = true) :
    writeFields s fn a v { may := may, flds := [rwIn hi lo ok] } =
      setWord s a (blend (word s a) (maskOf hi lo) v) := by
  simp [writeFields, rwIn, h]

/-- A reserved value leaves the register and is recorded with cause 1. -/
theorem writeFields_reserved (hs : sparseWf resetWord s.words) (h : ok (bits v.toNat hi lo) = false) :
    writeFields s fn a v { may := may, flds := [rwIn hi lo ok] } = ignored s fn a 1 := by
  have hblend : blend (word s a) 0#32 v = word s a := by
    rw [blend, BitVec.and_zero, BitVec.or_zero]
    exact BitVec.and_allOnes
  simp [writeFields, rwIn, h, hblend, setWord_word_self s a hs]

/-- A field of a committed block: the value joins the uncommitted ones. -/
theorem writeFields_shadow (b : Blk) (hm : maskOf hi lo ≠ 0#32) :
    writeFields s fn a v { may := may, blk := some b, flds := [rw hi lo] } =
      writeShadow s b fn a (maskOf hi lo) v := by
  simp [writeFields, rw, hm]

end

theorem writeShadow_new {s : State} {b : Blk} {fn : FnId} {a : Nat} (mask v : Word) (h : ∀ x ∈ s.shadow, x.addr ≠ a) :
    writeShadow s b fn a mask v = { s with shadow := s.shadow ++ [⟨b, fn, a, mask, v &&& mask⟩] } := by
  have hn : (s.shadow.any fun x => x.blk == b && x.fn == fn && x.addr == a) = false :=
    List.any_eq_false.2 fun x hx => by simp [h x hx]
  simp [writeShadow, hn]

/-! ### The temperature limits and the mode of a port group -/

section
variable {a : Nat} (ha : 0x502000 ≤ a ∧ a < 0x502044)
include ha

theorem writeAction_temp (fn : FnId) (v : Word) : writeAction fn a v = none := by
  have hm := (mbxAddr_range fn 0x700).1
  simp (disch := omega) only [writeAction, writeAction2, elem_below, if_neg]

theorem bufferFull_temp (s : State) (fn : FnId) : bufferFull s fn a = false := by
  have hm := (mbxAddr_range fn 0).1
  have hn : ¬(mbxAddr fn 0 ≤ a ∧ a < mbxAddr fn 0x208) := by omega
  simp [bufferFull, hn]

theorem afterWrite_temp (s : State) (fn : FnId) (old v : Word) : afterWrite s fn a old v = s := by
  have hm := (mbxAddr_range fn 0x710).1
  simp (disch := omega) only [afterWrite, elem_below, if_neg]

end

theorem regSpec_temp (s : State) (fn : FnId) {n : Nat} (hn : n < 17) :
    regSpec s fn (0x502000 + 4 * n) = some { may := platform s fn, flds := [rwIn 9 0 (· ≤ 1000)] } := by
  have he : elem (0x502000 + 4 * n) 0x502000 17 4 = some (n, 0) := elem_at (o := 0) hn (by decide)
  simp (disch := omega) only [regSpec, he, if_neg, if_pos]

section
variable {g : Nat} (hg : g < 4)
include hg

theorem writeAction_mode (fn : FnId) (v : Word) : writeAction fn (0x1410000 + 0x40 * g) v = none := by
  have hm := (mbxAddr_range fn 0x700).2
  have hr : elem (0x1410000 + 0x40 * g) 0x1000000 65536 0x40 = none := elem_above _ _ (by omega)
  have he : elem (0x1410000 + 0x40 * g) 0x1410000 4 0x40 = some (g, 0) := elem_at (o := 0) hg (by decide)
  simp (disch := omega) only [writeAction, writeAction2, hr, he, elem_below, if_neg] <;> rfl

theorem bufferFull_mode (s : State) (fn : FnId) : bufferFull s fn (0x1410000 + 0x40 * g) = false := by
  have hm := (mbxAddr_range fn 0x208).2
  have hn : ¬(mbxAddr fn 0 ≤ 0x1410000 + 0x40 * g ∧ 0x1410000 + 0x40 * g < mbxAddr fn 0x208) := by omega
  simp [bufferFull, hn]

theorem afterWrite_mode (s : State) (fn : FnId) (old v : Word) :
    afterWrite s fn (0x1410000 + 0x40 * g) old v = s := by
  have hm := (mbxAddr_range fn 0x710).2
  have hr : elem (0x1410000 + 0x40 * g) 0x1000000 65536 0x40 = none := elem_above _ _ (by omega)
  simp (disch := omega) only [afterWrite, hr, elem_below, if_neg]

theorem regSpec_mode (s : State) (fn : FnId) : regSpec s fn (0x1410000 + 0x40 * g) =
    some { may := fn == pf0, blk := some (.macGrp g), flds := [rw 2 0] } := by
  have hk : (0x1410000 + 0x40 * g - 0x1410000) / 0x40 = g := by omega
  simp (disch := omega) only [regSpec, hk, if_neg, if_pos]

end

end Sys2Proof.Machine
end

section
/-! SUPPORT. The statement on register writes, one lemma for each of its parts. -/

namespace Sys2Proof.Machine

open Sys2Proof

variable {fn : FnId} {off : Nat} {wide : Bool} {be : BitVec 8} {v : BitVec 64} {s : State}

/-- A write of a ROM byte is recorded by the host link with cause 5. -/
theorem runs_registerWrite_rom {o : Nat} (hl : Live s) (h : romOpen s fn o 1 = true) :
    Runs (.registerWrite fn (romBase + o) wide be v) s fun u =>
      u = { s with words := u.words, recorder := u.recorder } ∧
      Recorded (sourceOf (hlkAddr fn.ep 0)) 0x04
        (o + fn.fn.val * 2 ^ 28 + Endpoint.num fn.ep * 2 ^ 38 + 5 * 2 ^ 40) s u := by
  have ho : (romBase + o) % 2 ^ 28 = o := by
    have hs := (romOpen_elim h).2
    unfold romSize at hs
    unfold romBase
    omega
  refine runs_act hl (exec_registerWrite ..) ?_
  rw [registerWriteStep_rom, romWrite_open h, ignoredAt, ho]
  exact ⟨event_eq _ _ _ _ _ _ _, recorded_event _ _ _ _ _ _ _⟩

/-- A write whose step is to ignore an access. -/
theorem runs_registerWrite_ignored {a cause : Nat} (hl : Live s)
    (h : registerWriteStep fn off wide be v s = ignored s fn a cause) :
    Runs (.registerWrite fn off wide be v) s (Logs fn a cause s) :=
  runs_act hl (exec_registerWrite ..) (h ▸ logs_ignored s fn a cause)

/-- A write of 64 bits is the two writes of its halves, where the first leaves the device running. -/
theorem runs_registerWrite_halves (ho : off < romBase) (ha : off % 8 = 0) (hl : Live s)
    (hm : ∀ m, exec (.registerWrite fn off false 0xFF v) s = .next m → Live m) :
    Runs (.registerWrite fn off true 0xFF v) s fun u => ∃ m,
      exec (.registerWrite fn off false 0xFF v) s = .next m ∧
      exec (.registerWrite fn (off + 4) false 0xFF (v >>> 32)) m = .next u := by
  have hlow : exec (.registerWrite fn off false 0xFF v) s = .next (registerWriteStep fn off false 0xFF v s) :=
    act_live _ _ hl.1 hl.2
  obtain ⟨hc, hr⟩ := hm _ hlow
  refine runs_act hl (exec_registerWrite ..) ⟨_, hlow, ?_⟩
  rw [registerWriteStep_wide ho v ha]
  exact act_live _ _ hc hr

/-- What a write of a temperature limit comes to: the write of its field. -/
theorem registerWriteStep_temp {n : Nat} (hn : n < 17) (hp : platform s fn = true)
    (hw : MayWrite s fn (0x502000 + 4 * n)) :
    registerWriteStep fn (0x502000 + 4 * n) false 0x0F v s =
      writeFields s fn (0x502000 + 4 * n) (v.truncate 32) { may := platform s fn, flds := [rwIn 9 0 (· ≤ 1000)] } := by
  have hr : 0x502000 ≤ 0x502000 + 4 * n ∧ 0x502000 + 4 * n < 0x502044 := by omega
  rw [registerWriteStep_mayWrite hw (by unfold romBase; omega) v (by omega),
    writeRegister_may _ (writeAction_temp hr fn _) (bufferFull_temp hr s fn) (regSpec_temp s fn hn) hp,
    afterWrite_temp hr]

/-- Bits [9:0] of the written value. -/
theorem bits_truncate (v : BitVec 64) : bits (v.truncate 32 : Word).toNat 9 0 = v.toNat % 1024 := by
  simp only [bits, BitVec.truncate_eq_setWidth, BitVec.toNat_setWidth]
  omega

section
variable {n : Nat} (hn : n < 17) (hp : platform s fn = true) (hw : MayWrite s fn (0x502000 + 4 * n))
include hn hp hw

theorem runs_registerWrite_temp (hv : v.toNat % 1024 ≤ 1000) :
    Runs (.registerWrite fn (0x502000 + 4 * n) false 0x0F v) s fun u =>
      u = { s with words := u.words } ∧ WordsKept [0x502000 + 4 * n] s u ∧
      (Canonical s → word u (0x502000 + 4 * n) =
        (word s (0x502000 + 4 * n) &&& 0xFFFFFC00) ||| (v.truncate 32 &&& 0x3FF)) := by
  refine runs_act hw.1 (exec_registerWrite ..) ?_
  rw [registerWriteStep_temp hn hp hw, writeFields_listed _ _ _ _ _ (decide_eq_true (by rwa [bits_truncate]))]
  refine ⟨rfl, fun a ha => word_setWord_ne _ _ _ _ (by simpa using ha), fun hc => ?_⟩
  rw [word_setWord _ _ _ _ hc.2.1, if_pos rfl]
  rfl

theorem runs_registerWrite_temp_reserved (hv : 1000 < v.toNat % 1024) (hc : Canonical s) :
    Runs (.registerWrite fn (0x502000 + 4 * n) false 0x0F v) s (Logs fn (0x502000 + 4 * n) 1 s) :=
  runs_registerWrite_ignored hw.1 (by
    rw [registerWriteStep_temp hn hp hw,
      writeFields_reserved _ _ _ _ _ hc.2.1 (decide_eq_false (by rw [bits_truncate]; omega))])

end

section
variable {g : Nat} (hg : g < 4)
include hg

theorem runs_registerWrite_mode (hw : MayWrite s pf0 (0x1410000 + 0x40 * g))
    (hs : ∀ x ∈ s.shadow, x.addr ≠ 0x1410000 + 0x40 * g) :
    Runs (.registerWrite pf0 (0x1410000 + 0x40 * g) false 0x0F v) s fun u => u = { s with
      shadow := s.shadow ++ [⟨.macGrp g, pf0, 0x1410000 + 0x40 * g, 7, v.truncate 32 &&& 7⟩] } := by
  refine runs_act hw.1 (exec_registerWrite ..) ?_
  rw [registerWriteStep_mayWrite hw (by unfold romBase; omega) v (by omega),
    writeRegister_may _ (writeAction_mode hg _ _) (bufferFull_mode hg _ _) (regSpec_mode hg _ _) rfl,
    afterWrite_mode hg, writeFields_shadow _ _ _ _ _ _ (by decide), writeShadow_new _ _ hs]
  rfl

theorem runs_registerWrite_mode_mirror (hw : MayWrite s pf0h1 (0x1410000 + 0x40 * g)) :
    Runs (.registerWrite pf0h1 (0x1410000 + 0x40 * g) false 0x0F v) s
      (Logs pf0h1 (0x1410000 + 0x40 * g) 5 s) :=
  runs_registerWrite_ignored hw.1 (by
    rw [registerWriteStep_mayWrite hw (by unfold romBase; omega) v (by omega),
      writeRegister_denied _ (writeAction_mode hg _ _) (bufferFull_mode hg _ _) (regSpec_mode hg _ _) rfl]
    rfl)

end

/-- Settles O32: each part is the step of its access, and the part's lemma says what that step does. -/
theorem registerWrites : Obligations.RegisterWrites := by
  intro fn off o wide be v n g s
  refine ⟨fun hl h => runs_registerWrite_rom hl h, fun hm ho ha => ?_, fun hm ho ha hb => ?_, fun hm ho ha hb => ?_,
    fun ho ha hl hm => runs_registerWrite_halves ho ha hl hm, fun hp hw => ⟨fun hv => ?_, fun hv hc => ?_⟩,
    fun hw hs => runs_registerWrite_mode g.isLt hw hs, fun hw => ?_⟩
  · exact runs_registerWrite_ignored hm.1 (registerWriteStep_misaligned ho be v hm.2 ha)
  · exact runs_registerWrite_ignored hm.1 (registerWriteStep_partial ho v hm.2 ha hb)
  · exact runs_registerWrite_ignored hm.1 (registerWriteStep_wide_partial ho v hm.2 ha hb)
  · exact runs_registerWrite_temp n.isLt hp hw hv
  · exact runs_registerWrite_temp_reserved n.isLt hp hw hv hc
  · obtain ⟨u, hu, hframe, -, hrec⟩ := runs_registerWrite_mode_mirror (v := v) g.isLt hw
    exact ⟨u, hu, hframe, by simpa [pf0h1, Endpoint.num] using hrec⟩

end Sys2Proof.Machine
end

section
/-! SUPPORT. Reads that do more than return a word: split counters and their latch, the greatest lateness, unaligned
reads and the expansion ROM (R13, R14, R55, R392). -/

namespace Sys2Proof.Machine

open Sys2Proof

/-! ### Places of the split counters -/

/-- An array of blocks at multiples of 4, below the ROM with room for the word after its last one. -/
abbrev WordArray (base count stride : Nat) : Prop :=
  base % 4 = 0 ∧ stride % 4 = 0 ∧ base + stride * (count + 1) < romBase

/-- A word of a block stands at a multiple of 4, below the ROM. -/
theorem place_of_elem {a base count stride i o : Nat} (h : elem a base count stride = some (i, o))
    (hw : WordArray base count stride) (ho : o % 4 = 0) (ho' : o + 4 ≤ stride) : a % 4 = 0 ∧ a + 4 < romBase := by
  obtain ⟨rfl, hi⟩ := elem_eq_some h
  obtain ⟨hb, hs, hr⟩ := hw
  have hm : stride * i % 4 = 0 := by rw [Nat.mul_mod, hs, Nat.zero_mul, Nat.zero_mod]
  have hle : stride * i ≤ stride * count := Nat.mul_le_mul_left _ hi.le
  rw [Nat.mul_succ] at hr
  omega

/-- The same, of the test for one offset of an array's blocks. -/
theorem place_of_pair {a base count stride off : Nat}
    (h : (match elem a base count stride with
      | some (_, o) => o == off
      | none => false) = true)
    (hw : WordArray base count stride) (ho : off % 4 = 0) (ho' : off + 4 ≤ stride) :
    a % 4 = 0 ∧ a + 4 < romBase := by
  split at h
  case h_1 o he =>
    obtain rfl := eq_of_beq h
    exact place_of_elem he hw ho ho'
  case h_2 => cases h

/-- The same, of the test for the counters of a port's block. -/
theorem place_of_port {a base count : Nat}
    (h : (match elem a base count 0x1000 with
      | some (_, o) => (decide (0x400 ≤ o ∧ o < 0x4A8) && o % 8 == 0) || (decide (0x500 ≤ o ∧ o < 0x580) && o % 8 == 0)
      | none => false) = true)
    (hw : WordArray base count 0x1000) : a % 4 = 0 ∧ a + 4 < romBase := by
  split at h
  case h_1 o he =>
    simp only [Bool.or_eq_true, Bool.and_eq_true, decide_eq_true_eq, beq_iff_eq] at h
    exact place_of_elem he hw (by omega) (by omega)
  case h_2 => cases h

/-- A split counter is a register at a multiple of 4, and so is its high half. -/
theorem splitCounter_place {a : Nat} (h : splitCounter a = true) : a % 4 = 0 ∧ a + 4 < romBase := by
  unfold splitCounter at h
  simp only [Bool.or_eq_true] at h
  obtain ((((((((((((((h | h) | h) | h) | h) | h) | h) | h) | h) | h) | h) | h) | h) | h) | h) := h
  · rw [eq_of_beq h]; decide
  · rw [eq_of_beq h]; decide
  · rw [eq_of_beq h]; decide
  · simp only [Bool.and_eq_true, decide_eq_true_eq, beq_iff_eq] at h
    unfold romBase
    omega
  · exact place_of_pair h (by decide) (by decide) (by decide)
  · exact place_of_pair h (by decide) (by decide) (by decide)
  · exact place_of_pair h (by decide) (by decide) (by decide)
  · exact place_of_pair h (by decide) (by decide) (by decide)
  · exact place_of_pair h (by decide) (by decide) (by decide)
  · exact place_of_pair h (by decide) (by decide) (by decide)
  · exact place_of_port h (by decide)
  · exact place_of_pair h (by decide) (by decide) (by decide)
  · exact place_of_pair h (by decide) (by decide) (by decide)
  · exact place_of_pair h (by decide) (by decide) (by decide)
  · exact place_of_pair h (by decide) (by decide) (by decide)

theorem splitCounter_below {a : Nat} (h : splitCounter a = true) : a < romBase :=
  Nat.lt_of_le_of_lt (Nat.le_add_right a 4) (splitCounter_place h).2

/-! ### Steps of the reads -/

theorem exec_counterLowRead (fn : FnId) (off : Nat) (wide : Bool) (s : State) :
    exec (.counterLowRead fn off wide) s = act s fun s => readAt s fn off wide (counterLowStep fn off wide) := rfl
theorem exec_lateMaxRead (fn : FnId) (off : Nat) (s : State) :
    exec (.lateMaxRead fn off) s = act s fun s => readAt s fn off false (lateMaxStep fn off) := rfl
theorem exec_registerReadUnaligned (fn : FnId) (off : Nat) (wide : Bool) (s : State) :
    exec (.registerReadUnaligned fn off wide) s =
      act s fun s => readAt s fn off wide (readUnalignedStep fn off wide) := rfl

/-- The function sees the register: it is PF0, or the register is in its view (R391). -/
abbrev Sees (s : State) (fn : FnId) (a : Nat) : Prop := fn.fn = 0 ∨ readView s fn a = true

theorem not_unseen {s : State} {fn : FnId} {a : Nat} (h : Sees s fn a) :
    ¬(¬fn.fn = 0 ∧ readView s fn a = false) := by
  rintro ⟨hf, hv⟩
  obtain h | h := h
  · exact hf h
  · simp [h] at hv

theorem unseen_of_not_sees {s : State} {fn : FnId} {a : Nat} (h : ¬Sees s fn a) :
    ¬fn.fn = 0 ∧ readView s fn a = false := by
  obtain ⟨hf, hv⟩ := not_or.1 h
  exact ⟨hf, Bool.eq_false_of_not_eq_true hv⟩

section
variable {fn : FnId} {off : Nat} {s : State} (hc : splitCounter off = true)
include hc

/-- A read of the low half of 32 bits latches the high half. -/
theorem counterLowStep_low (hv : Sees s fn off) : counterLowStep fn off false s = { s with
    reply := [BitVec.ofNat 32 (counterValue s off)]
    latch := place s.latch (off + 4) (BitVec.ofNat 32 (counterValue s off / 2 ^ 32)) } := by
  simp [counterLowStep, alignedRead, hc, (splitCounter_place hc).1, not_unseen hv]

/-- A read of 64 bits returns both halves and ends the latch. -/
theorem counterLowStep_wide (ha : off % 8 = 0) (hv : Sees s fn off) : counterLowStep fn off true s = { s with
    reply := [BitVec.ofNat 32 (counterValue s off), BitVec.ofNat 32 (counterValue s off / 2 ^ 32)]
    latch := remove s.latch (off + 4) } := by
  simp [counterLowStep, alignedRead, hc, ha, not_unseen hv]

/-- A read of the high half returns what is latched, or else the half as it stands, and ends the latch. -/
theorem counterLowStep_high (hn : splitCounter (off + 4) = false) (hv : Sees s fn (off + 4)) :
    counterLowStep fn (off + 4) false s = { s with
      reply := [(look s.latch (off + 4)).getD (BitVec.ofNat 32 (counterValue s off / 2 ^ 32))]
      latch := remove s.latch (off + 4) } := by
  simp [counterLowStep, alignedRead, hc, hn, (splitCounter_place hc).1, not_unseen hv]

/-- A function that does not see the counter reads zeros. -/
theorem counterLowStep_unseen {wide : Bool} (ha : off % (if wide then 8 else 4) = 0) (hv : ¬Sees s fn off) :
    counterLowStep fn off wide s = { s with reply := List.replicate (if wide then 2 else 1) 0 } := by
  simp [counterLowStep, alignedRead, hc, ha, unseen_of_not_sees hv]

end

/-- A read that is not aligned returns zeros and is recorded with cause 6. -/
theorem readUnalignedStep_misaligned {fn : FnId} {off : Nat} {wide : Bool} (s : State)
    (ha : off % (if wide then 8 else 4) ≠ 0) : readUnalignedStep fn off wide s =
      ignored { s with reply := List.replicate (if wide then 2 else 1) 0 } fn off 6 := if_neg ha

/-- A read of a class's greatest lateness clears it. -/
theorem lateMaxStep_class {fn : FnId} {k : Nat} {s : State} (hk : k < 64) (hv : Sees s fn (0x1A09030 + 0x40 * k)) :
    lateMaxStep fn (0x1A09030 + 0x40 * k) s =
      setWord { s with reply := [word s (0x1A09030 + 0x40 * k)] } (0x1A09030 + 0x40 * k) 0 := by
  have he : elem (0x1A09030 + 0x40 * k) 0x1A09000 64 0x40 = some (k, 0x30) := by
    rw [show 0x1A09030 + 0x40 * k = 0x1A09000 + 0x40 * k + 0x30 by omega]
    exact elem_at hk (by decide)
  have ha : (0x1A09030 + 0x40 * k) % 4 = 0 := by omega
  simp [lateMaxStep, he, ha, not_unseen hv]

/-! ### Reads of a function that reaches its BAR -/

/-- A read through BAR0 is its step on the state whose last reply is gone. -/
theorem runs_read {fn : FnId} {off : Nat} {wide : Bool} {s u : State} {c : Instr} {f : State → State}
    {P : State → Prop} (hm : MayRead s fn) (ho : off < romBase)
    (hx : exec c s = act s fun s => readAt s fn off wide f) (hf : f { s with reply := [] } = u) (hp : P u) :
    Runs c s P :=
  runs_act hm.1 hx (by rwa [readAt_reachable hm.2 ho, hf])

section
variable {fn : FnId} {off : Nat} {wide : Bool} {s : State} (hm : MayRead s fn)
include hm

section
variable (hc : splitCounter off = true)
include hc

theorem runs_counterLowRead_low (hv : Sees s fn off) : Runs (.counterLowRead fn off false) s fun u =>
    u = { s with reply := [BitVec.ofNat 32 (counterValue s off)], latch := u.latch } ∧
      look u.latch (off + 4) = some (BitVec.ofNat 32 (counterValue s off / 2 ^ 32)) ∧
      ∀ a, a ≠ off + 4 → look u.latch a = look s.latch a :=
  runs_read hm (splitCounter_below hc) (exec_counterLowRead ..) (counterLowStep_low hc hv)
    ⟨rfl, look_place_self .., fun _ ha => look_place_ne _ _ _ _ ha⟩

theorem runs_counterLowRead_wide (ha : off % 8 = 0) (hv : Sees s fn off) :
    Runs (.counterLowRead fn off true) s fun u =>
      u = { s with
        reply := [BitVec.ofNat 32 (counterValue s off), BitVec.ofNat 32 (counterValue s off / 2 ^ 32)]
        latch := u.latch } ∧
      ∀ a, a ≠ off + 4 → look u.latch a = look s.latch a :=
  runs_read hm (splitCounter_below hc) (exec_counterLowRead ..) (counterLowStep_wide hc ha hv)
    ⟨rfl, fun _ ha => look_remove_ne _ _ _ ha⟩

theorem runs_counterLowRead_high (hn : splitCounter (off + 4) = false) (hv : Sees s fn (off + 4)) :
    Runs (.counterLowRead fn (off + 4) false) s fun u => u = { s with
      reply := [(look s.latch (off + 4)).getD (BitVec.ofNat 32 (counterValue s off / 2 ^ 32))]
      latch := remove s.latch (off + 4) } :=
  runs_read hm (splitCounter_place hc).2 (exec_counterLowRead ..) (counterLowStep_high hc hn hv) rfl

theorem runs_counterLowRead_unseen (ha : off % (if wide then 8 else 4) = 0) (hv : ¬Sees s fn off) :
    Runs (.counterLowRead fn off wide) s fun u =>
      u = { s with reply := List.replicate (if wide then 2 else 1) 0 } :=
  runs_read hm (splitCounter_below hc) (exec_counterLowRead ..) (counterLowStep_unseen hc ha hv) rfl

end

theorem runs_lateMaxRead {k : Nat} (hk : k < 64) (hv : Sees s fn (0x1A09030 + 0x40 * k)) :
    Runs (.lateMaxRead fn (0x1A09030 + 0x40 * k)) s fun u =>
      u = { s with reply := [word s (0x1A09030 + 0x40 * k)], words := u.words } ∧
      WordsKept [0x1A09030 + 0x40 * k] s u ∧ (Canonical s → word u (0x1A09030 + 0x40 * k) = 0) := by
  have ho : 0x1A09030 + 0x40 * k < romBase := by unfold romBase; omega
  exact runs_read hm ho (exec_lateMaxRead ..) (lateMaxStep_class hk hv)
    ⟨rfl, fun a ha => word_setWord_ne _ _ _ _ (by simpa using ha),
      fun hc => (word_setWord _ _ _ _ hc.2.1).trans (if_pos rfl)⟩

theorem runs_registerReadUnaligned (ho : off < romBase) (ha : off % (if wide then 8 else 4) ≠ 0) :
    Runs (.registerReadUnaligned fn off wide) s fun u =>
      u = { s with
        reply := List.replicate (if wide then 2 else 1) 0, words := u.words, recorder := u.recorder } ∧
      Recorded (sourceOf off) 0x04
        (off % 2 ^ 28 + fn.fn.val * 2 ^ 28 + Endpoint.num fn.ep * 2 ^ 38 + 6 * 2 ^ 40) s u := by
  obtain ⟨hframe, -, hrec⟩ := logs_ignored { s with reply := List.replicate (if wide then 2 else 1) 0 } fn off 6
  exact runs_read hm ho (exec_registerReadUnaligned ..) (readUnalignedStep_misaligned _ ha) ⟨hframe, hrec⟩

theorem runs_registerReadUnaligned_rom {o : Nat} (h : romOpen s fn o (if wide then 8 else 4) = true) :
    Runs (.registerReadUnaligned fn (romBase + o) wide) s fun u => u = { s with
      reply := if wide then
          [BitVec.ofNat 32 (leNat (romBytes s fn o 4)), BitVec.ofNat 32 (leNat (romBytes s fn (o + 4) 4))]
        else [BitVec.ofNat 32 (leNat (romBytes s fn o 4))] } :=
  runs_act hm.1 (exec_registerReadUnaligned ..) (readAt_rom h _)

end

/-- Settles O33: each part is the step of its read, and the part's lemma says what that step does. -/
theorem registerReads : Obligations.RegisterReads := by
  intro fn off o k wide s value lo hi late sees at_ hm
  exact ⟨fun hc hv => ⟨runs_counterLowRead_low hm hc hv, fun ha => runs_counterLowRead_wide hm hc ha hv⟩,
    fun hc hn hv => runs_counterLowRead_high hm hc hn hv, fun hc ha hv => runs_counterLowRead_unseen hm hc ha hv,
    fun hv => runs_lateMaxRead hm k.isLt hv, fun ho ha => runs_registerReadUnaligned hm ho ha,
    fun h => runs_registerReadUnaligned_rom hm h⟩

end Sys2Proof.Machine
end

section
/-! SUPPORT. The reset state (R17, R33, R261, R448, R453, R487). -/

namespace Sys2Proof.Machine

open Sys2Proof

/-- Clusters 0 to 15 are active after reset. -/
theorem clusterRole_reset : ∀ n, n < 16 → clusterRole State.reset n = 0 := by decide +kernel

/-- Settles O3: every part is a reading of the reset state. -/
theorem resetValues : Obligations.ResetValues :=
  ⟨⟨rfl, rfl⟩, rfl, rfl, rfl, rfl, rfl, rfl, rfl, rfl, rfl, clusterRole_reset, rfl, rfl, rfl, rfl, rfl, rfl, rfl, rfl,
    rfl⟩

end Sys2Proof.Machine
end

section
/-! SUPPORT. Commits that take effect at their boundary, deferrals, and the resets that a long deferral causes (R26,
R40, R41). -/

namespace Sys2Proof.Machine

open Sys2Proof

/-! ### Records of a block's source -/

theorem ite_le_of {p : Prop} [Decidable p] {x y n : Nat} (hx : p → x ≤ n) (hy : y ≤ n) : (if p then x else y) ≤ n := by
  split
  · exact hx ‹_›
  · exact hy

/-- The greatest source number is that of the last word of the port groups' block. -/
theorem sourceOf_le (a : Nat) : sourceOf a ≤ 61456 := by
  simp only [sourceOf, srcTenancy, srcTimebase, srcRecorder, srcPort, srcClassifier, srcTables, srcRelease,
    srcScheduler, srcCrypto, srcCheck, srcStorage, srcTcp, srcCluster, srcLedger, srcReset]
  repeat' refine ite_le_of (fun _ => ?_) ?_
  all_goals omega

/-- An event touches the count of its source and the count of lost records. -/
theorem word_event_ne (s : State) {source : Nat} (code d tenancy reason : Nat) (fatal : Bool) {a : Nat}
    (hs : a ≠ 0x401000 + source * 4) (ha : a ≠ 0x400010) :
    word (event s source code d tenancy reason fatal) a = word s a :=
  wordsKept_event _ _ _ _ _ _ _ a (by simp [hs, ha])

/-- The counts that an event of a block touches lie below the blocks of the data path. -/
theorem word_event_above (s : State) (b code d tenancy reason : Nat) (fatal : Bool) {a : Nat} (ha : 0x500000 ≤ a) :
    word (event s (sourceOf b) code d tenancy reason fatal) a = word s a := by
  have := sourceOf_le b
  exact word_event_ne _ _ _ _ _ _ (by omega) (by omega)

/-! ### The first due commit -/

theorem exec_commitEffect (s : State) : exec .commitEffect s = act s commitEffectStep := rfl

theorem commitEffectStep_due {s : State} {c : Commit} {rest : List Commit} (h : now s % 256 = 0)
    (hd : dueCommits s = c :: rest) : commitEffectStep s = settleCommit s c := by
  simp [commitEffectStep, h, hd]

theorem settleCommit_apply {s : State} {c : Commit} (hw : waitsForDusk s c = false)
    (hv : versionsFull s c.blk = false) : settleCommit s c = applyCommit s c := by
  simp [settleCommit, hw, hv]

theorem settleCommit_defer {s : State} {c : Commit} (hw : waitsForDusk s c = false) (hb : holdsVersions c.blk = true)
    (hv : versionsFull s c.blk = true) : settleCommit s c = deferCommit s c := by
  simp [settleCommit, hw, hb, hv]

/-- Only the commit of a path class waits for a cluster in Dusk. -/
theorem waitsForDusk_regs {s : State} {c : Commit} (h : c.what = .regs) : waitsForDusk s c = false := by
  simp [waitsForDusk, h]

/-- The state in which a commit of one word stands in force, before what it does beside its words. -/
abbrev committed (s : State) (c : Commit) (a : Nat) (m v : Word) : State :=
  { setWord s a (blend (word s a) m v) with
    commits := s.commits.erase c, undo := s.undo ++ [⟨round s, a, word s a⟩]
    versions := s.versions ++ [(c.blk, round s)] }

/-- A commit of one word: the word is in force, its old value stands for earlier rounds, and the block has a version
of this round (R26, R40). -/
theorem applyCommit_one {s : State} {c : Commit} {a : Nat} {m v : Word} (hw : c.writes = [(a, m, v)])
    (hb : holdsVersions c.blk = true) : applyCommit s c = commitHook s (committed s c a m v) c := by
  simp only [applyCommit, applyWrites, hw, List.foldl, setConfig, hb, if_true]
  rfl

/-- A word whose only change is of round `n` reads as before in the rounds before it (R26). -/
theorem wordAt_undo_last {s u : State} {a r n : Nat} {w : Word} (h : ∀ x ∈ s.undo, x.addr ≠ a) (hr : r < n)
    (hu : u.undo = s.undo ++ [⟨n, a, w⟩]) : wordAt u r a = w := by
  have hn : s.undo.find? (fun x => x.addr == a && decide (r < x.round)) = none :=
    List.find?_eq_none.2 fun x hx => by simp [h x hx]
  simp [wordAt, hu, hn, hr]

section
variable {s : State} {c : Commit} {rest : List Commit} {a : Nat} {m v : Word} (hl : Live s) (hn : now s % 256 = 0)
  (hd : dueCommits s = c :: rest)
include hl hn hd

theorem exec_commitEffect_one (hr : c.what = .regs) (hw : c.writes = [(a, m, v)]) (hv : versionsFull s c.blk = false)
    (hb : holdsVersions c.blk = true) :
    exec .commitEffect s = .next (commitHook s (committed s c a m v) c) := by
  rw [exec_commitEffect, act_live _ _ hl.1 hl.2, commitEffectStep_due hn hd,
    settleCommit_apply (waitsForDusk_regs hr) hv, applyCommit_one hw hb]

/-- A due commit of a cluster's word has no effect beside the word. -/
theorem runs_commitEffect_clu {n : Nat} (hr : c.what = .regs) (hw : c.writes = [(a, m, v)])
    (hv : versionsFull s c.blk = false) (hb : c.blk = .clu n) (hc : Canonical s) : Runs .commitEffect s fun u =>
      u = committed s c a m v ∧ word u a = blend (word s a) m v ∧ WordsKept [a] s u ∧
        ((∀ x ∈ s.undo, x.addr ≠ a) → ∀ r, r < round s → wordAt u r a = word s a) := by
  refine ⟨committed s c a m v, ?_, rfl, ?_, fun x hx => ?_, fun hu r h => wordAt_undo_last hu h rfl⟩
  · rw [exec_commitEffect_one hl hn hd hr hw hv (by rw [hb]; rfl)]
    simp only [commitHook, hr, hb]
  · exact (word_setWord s _ _ _ hc.2.1).trans (if_pos rfl)
  · exact word_setWord_ne s _ _ _ (by simpa using hx)

theorem exec_commitEffect_tblAux (hr : c.what = .regs) (hw : c.writes = [(a, m, v)])
    (hv : versionsFull s c.blk = false) (hb : c.blk = .tblAux) :
    exec .commitEffect s = .next (refreshConstants (committed s c a m v)) := by
  rw [exec_commitEffect_one hl hn hd hr hw hv (by rw [hb]; rfl)]
  simp only [commitHook, hr, hb]

theorem runs_commitEffect_deferred (hb : holdsVersions c.blk = true) (hw : waitsForDusk s c = false)
    (hv : versionsFull s c.blk = true) (hc : Canonical s) : Runs .commitEffect s fun u =>
      u.commits = (s.commits.map fun x =>
        if x = c then { x with effect := round s + 1, defers := x.defers + 1 } else x) ∧
      u = { s with commits := u.commits, words := u.words, recorder := u.recorder } ∧
      word u 0x1A08014 = word s 0x1A08014 + 1 := by
  refine runs_act hl (exec_commitEffect s) ?_
  rw [commitEffectStep_due hn hd, settleCommit_defer hw hb hv]
  unfold deferCommit
  refine ⟨by rw [event_eq]; rfl, by rw [event_eq]; rfl, ?_⟩
  rw [word_event_above _ _ _ _ _ _ _ (by decide)]
  exact (word_setWord _ _ _ _ hc.2.1).trans (if_pos rfl)

end

/-! ### The limit of a deferral -/

theorem exec_deferLimitReset (s : State) : exec .deferLimitReset s = act s deferLimitResetStep := rfl

/-- The cores of a list with their reset asked for. -/
def askResets (s : State) (l : List Nat) : State :=
  l.foldl (fun s n => putCore s n { core s n with resetNow := true }) s

theorem askResets_eq (l : List Nat) : ∀ s : State, askResets s l = { s with cores := (askResets s l).cores } := by
  induction l with
  | nil => intro s; rfl
  | cons n l ih =>
    intro s
    show askResets (putCore s n _) l = { s with cores := (askResets (putCore s n _) l).cores }
    rw [ih]
    rfl

theorem core_askResets (l : List Nat) (k : Nat) : ∀ s : State,
    core (askResets s l) k = if k ∈ l then { core s k with resetNow := true } else core s k := by
  induction l with
  | nil => intro s; rfl
  | cons n l ih =>
    intro s
    refine (ih _).trans ?_
    by_cases hk : k = n
    · subst hk
      simp
    · simp [hk, core_putCore_ne s n k _ hk]

/-- The cores that hold frames of the oldest version of a block that has deferred one commit 1,024 times, where that
version governs only frames of debug-halted threads (R41). -/
def coresOut (s : State) : List Nat :=
  (((deferredOut s).filter fun b => onlyHalted s b (oldestVersion s b)).flatMap fun b =>
    (threadsOf s b (oldestVersion s b)).map coreNum).eraseDups

theorem mem_coresOut {s : State} {k : Nat} : k ∈ coresOut s ↔
    ∃ b, b ∈ deferredOut s ∧ onlyHalted s b (oldestVersion s b) = true ∧
      k ∈ (threadsOf s b (oldestVersion s b)).map coreNum := by
  simp only [coresOut, List.mem_eraseDups, List.mem_flatMap, List.mem_filter, and_assoc]

theorem deferLimitResetStep_boundary {s : State} (h : now s % 256 = 0) :
    deferLimitResetStep s = askResets s (coresOut s) := by
  simp only [deferLimitResetStep, h, ne_eq, not_true, if_false]
  rfl

theorem runs_deferLimitReset {s : State} (hl : Live s) (hn : now s % 256 = 0) :
    Runs .deferLimitReset s fun u => u = { s with cores := u.cores } ∧ ∀ k,
      (k ∈ coresOut s → core u k = { core s k with resetNow := true }) ∧ (k ∉ coresOut s → core u k = core s k) := by
  refine runs_act hl (exec_deferLimitReset s) ?_
  rw [deferLimitResetStep_boundary hn]
  exact ⟨askResets_eq _ s, fun k => by
    rw [core_askResets]
    exact ⟨fun h => if_pos h, fun h => if_neg h⟩⟩

/-- Settles O24: the first due commit of a boundary is applied or deferred, and the limit of a deferral marks the cores
of the threads that cause it. -/
theorem commitsTakeEffect : Obligations.CommitsTakeEffect := by
  intro c rest n a m v s taken out hl hn
  refine ⟨fun hd hr hw hv => ⟨fun hb hc => runs_commitEffect_clu hl hn hd hr hw hv hb hc,
    fun hb => exec_commitEffect_tblAux hl hn hd hr hw hv hb⟩,
    fun hd hb hw hv hc => runs_commitEffect_deferred hl hn hd hb hw hv hc, fun _ => ?_⟩
  obtain ⟨u, hu, hf, hk⟩ := runs_deferLimitReset hl hn
  exact ⟨u, hu, hf, fun k => by simpa only [mem_coresOut] using hk k⟩

end Sys2Proof.Machine
end

section
/-! SUPPORT. Reception of a frame that ended in the round before the one in which it is whole (R26, R44, R304). -/

namespace Sys2Proof.Machine

open Sys2Proof

/-- What a command of a device that runs is said to answer holds of what its step answers. -/
theorem of_runs_act {s : State} {c : Instr} {step : State → State} {P : State → Prop} (hl : Live s)
    (h : exec c s = act s step) (hr : Runs c s P) : P (step s) := by
  obtain ⟨u, hu, hp⟩ := hr
  rw [h, act_live _ _ hl.1 hl.2] at hu
  injection hu with hu
  exact hu ▸ hp

/-- Port 4 with its link up at 25 Gb/s in the first tick of round 4,096, from which its MAX_FRAME is 1,522; in earlier
rounds it was 64. -/
def maxFrameRaised : State := { State.reset with
  tick := 2 ^ 20, words := [(macAddr 4 8, 1), (grpAddr 1 0, 6)], undo := [⟨4096, macAddr 4 4, 64⟩] }

/-- A frame of 65 bytes that is whole in the first tick of round 4,096 ended 3 ticks before, in round 4,095: it is
measured against the MAX_FRAME of that round, and its bad codeword is not what it is dropped for. -/
theorem frameReceiveStep_maxFrameRaised :
    dropCount (frameReceiveStep 4 (List.replicate 65 0) true 0 0 maxFrameRaised) (.port 4) rsOversize = 1 ∧
    dropCount (frameReceiveStep 4 (List.replicate 65 0) true 0 0 maxFrameRaised) (.port 4) rsFcsError = 0 := by
  decide +kernel

/-- Refutes O35: the statement compares the frame's length with the MAX_FRAME in force when the frame is whole, but a
frame reads the configuration of the round in which it ended (R26), f_rx ticks earlier. A commit that raises MAX_FRAME
from 64 at the boundary between the two makes a frame of 65 bytes with a bad codeword oversize, where the statement
has it dropped as FCS_ERROR. -/
theorem not_frameReception : ¬ Obligations.FrameReception := by
  intro h
  have hp : Live maxFrameRaised ∧ (port maxFrameRaised 4).resetAt = none ∧ linkUp maxFrameRaised 4 = true ∧
      65 ≤ rf maxFrameRaised (macAddr 4 4) 14 0 ∧ dropCount maxFrameRaised (.port 4) rsFcsError = 0 := by
    decide +kernel
  obtain ⟨hl, hr, hu, hm, h0⟩ := hp
  obtain ⟨-, -, hfcs, -⟩ := h 4 (List.replicate 65 0) true 0 0 maxFrameRaised hl hr hu
  obtain ⟨-, ⟨hd, -⟩, -⟩ := of_runs_act hl rfl (hfcs (by simp) (by simpa using hm) (by simp))
  have hno := frameReceiveStep_maxFrameRaised.2
  unfold rsFcsError at hno h0
  rw [show ((4 : Fin 16) : Nat) = 4 from rfl, hno, h0] at hd
  cases hd

end Sys2Proof.Machine
end

section
/-! SUPPORT. Two frames whose parse stages end in one tick (R48, R332). -/

namespace Sys2Proof.Machine

open Sys2Proof

/-- A frame of a port, by the port's number, that was whole in tick 0. -/
def portFrame (p : Nat) : Frame :=
  { id := p, stage := .whole, src := .port p, tag := setTag newTag 0 11 0 p, bytes := List.replicate 60 0
    endTick := 0, wholeTick := 0, round := 0 }

/-- A device in Noon in tick 2, with a frame of port 0 and a frame of port 1 of the same end time and no parse program:
the parse stages of both end in this tick. -/
def twoParsed : State := { State.reset with
  tick := 2, words := [(0x100000, 2)], frames := [(0, portFrame 0), (1, portFrame 1)] }

/-- The end of the parse stage of the frame of port 1 is preceded by that of the frame of port 0. -/
theorem parseStep_twoParsed : ((frame? (parseStep 1 twoParsed) 0).map fun f => f.stage) = some .parsed := by
  decide +kernel

/-- Refutes O37: the statement leaves every other frame as it is when a frame's parse stage ends, but the frames whose
stages end in one tick take their tokens in order of end time and source (R332), so those before it are parsed first. A
frame of port 0 that is whole in the same tick as a frame of port 1 is such a frame. -/
theorem not_frameStages : ¬ Obligations.FrameStages := by
  rintro ⟨hparse, -, -⟩
  have hp : Live twoParsed ∧ rf twoParsed 0x100000 2 0 = 2 ∧ frame? twoParsed 1 = some (portFrame 1) ∧
      now twoParsed = (portFrame 1).wholeTick + parseTicks twoParsed (portFrame 1) ∧
      parseProgram twoParsed (portFrame 1) = none ∧ frame? twoParsed 0 = some (portFrame 0) := by decide +kernel
  obtain ⟨hl, hstage, hf, hn, hnone, h0⟩ := hp
  obtain ⟨hfail, -⟩ :=
    hparse 1 (portFrame 1) ⟨0, [], [], [], [], 0, 0, 0, 0, 0, 0, 0, 0, 0, [], []⟩ none twoParsed twoParsed
      hl hstage hf rfl rfl hn
  obtain ⟨⟨-, hothers⟩, -⟩ := of_runs_act hl rfl (hfail hnone)
  have hparsed := parseStep_twoParsed
  rw [hothers 0 (by decide), h0] at hparsed
  cases hparsed

end Sys2Proof.Machine
end

section
/-! SUPPORT. What the ledger and the restart of the servo leave as it is (R261, R273, R286). -/

namespace Sys2Proof.Machine

open Sys2Proof

/-- A state apart from its books: the register words, the timebase, the ledger, the commits and the recorder. -/
def apart (s : State) : State := { s with
  words := [], tbs := State.reset.tbs, ledger := State.reset.ledger, commits := [], recorder := State.reset.recorder }

theorem apart_setWord (s : State) (a : Nat) (w : Word) : apart (setWord s a w) = apart s := rfl
theorem apart_setRf (s : State) (a hi lo v : Nat) : apart (setRf s a hi lo v) = apart s := rfl
theorem apart_count (s : State) (a n : Nat) : apart (count s a n) = apart s := rfl
theorem apart_setWord64 (s : State) (a v : Nat) : apart (setWord64 s a v) = apart s := rfl
theorem apart_count64 (s : State) (a n : Nat) : apart (count64 s a n) = apart s := rfl
theorem apart_ledger (s : State) (l : Ledger) : apart { s with ledger := l } = apart s := rfl
theorem apart_tbs (s : State) (t : Timebase) : apart { s with tbs := t } = apart s := rfl
theorem apart_commits (s : State) (l : List Commit) : apart { s with commits := l } = apart s := rfl
theorem apart_event (s : State) (source code d tenancy reason : Nat) (fatal : Bool) :
    apart (event s source code d tenancy reason fatal) = apart s := by
  rw [event_eq]
  rfl

theorem apart_ite {c : Prop} [Decidable c] {s x y : State} (hx : apart x = apart s) (hy : apart y = apart s) :
    apart (if c then x else y) = apart s := by
  split
  · exact hx
  · exact hy

/-- What every step of a fold keeps, the fold keeps. -/
theorem foldl_keeps {α β : Type} (g : State → β) {f : State → α → State} (l : List α)
    (h : ∀ s, ∀ x ∈ l, g (f s x) = g s) (s : State) : g (l.foldl f s) = g s := by
  induction l generalizing s with
  | nil => rfl
  | cons x l ih =>
    exact (ih (fun s y hy => h s y (List.mem_cons_of_mem _ hy)) _).trans (h s x (List.mem_cons_self ..))

theorem apart_foldl {α : Type} {f : State → α → State} (h : ∀ s x, apart (f s x) = apart s) (l : List α) (s : State) :
    apart (l.foldl f s) = apart s := foldl_keeps apart l (fun s x _ => h s x) s

theorem apart_ledgerStatus (s : State) : apart (ledgerStatus s) = apart s :=
  (apart_setWord64 ..).trans ((apart_setRf ..).trans (apart_setRf ..))

theorem apart_issueWrites (s : State) : apart (issueWrites s) = apart s :=
  apart_foldl (fun s _ => apart_ite rfl
    (apart_ite ((apart_ledger (count s ..) _).trans (apart_count ..)) (apart_ite (apart_ledger s _) rfl))) _ s

theorem apart_closeBlock (s : State) : apart (closeBlock s) = apart s := by
  dsimp only [closeBlock]
  split
  · rfl
  · exact (apart_issueWrites _).trans (apart_ledger s _)

theorem apart_layBytes (fuel kind : Nat) (plain : Bool) : ∀ (first : Bool) (bs : List Byte) (s : State),
    apart (layBytes s fuel kind plain first bs) = apart s := by
  have close : ∀ (c : Prop) [Decidable c] (s : State), apart (if c then closeBlock s else s) = apart s :=
    fun c _ s => apart_ite (apart_closeBlock s) rfl
  induction fuel with
  | zero => intro first bs s; rfl
  | succ fuel ih =>
    intro first bs s
    unfold layBytes
    cases s.ledger.open_ with
    | none => rfl
    | some b =>
      exact apart_ite ((close ..).trans (apart_ledger s _)) ((ih ..).trans ((close ..).trans (apart_ledger s _)))

theorem apart_putRecord (s : State) (kind reason : Nat) (bs : List Byte) :
    apart (putRecord s kind reason bs) = apart s :=
  (apart_ledgerStatus _).trans ((apart_layBytes ..).trans ((apart_ledger (count64 s _) _).trans (apart_count64 ..)))

theorem apart_endGaps (s : State) : apart (endGaps s) = apart s :=
  (apart_foldl (fun _ _ => apart_putRecord ..) _ _).trans (apart_ledger s _)

theorem apart_loseRecord (s : State) (cause tenancy kind : Nat) (release : BitVec 64) (bytes : Nat) :
    apart (loseRecord s cause tenancy kind release bytes) = apart s :=
  (apart_ledgerStatus _).trans (apart_ledger s _)

theorem apart_ledgerRecord (s : State) (kind reason tenancy : Nat) (charged : Bool) (bs : List Byte) :
    apart (ledgerRecord s kind reason tenancy charged bs) = apart s :=
  apart_ite (apart_count ..) (apart_ite ((apart_loseRecord ..).trans (apart_count ..))
    (apart_ite ((apart_loseRecord ..).trans (apart_count64 ..))
      ((apart_putRecord ..).trans ((apart_endGaps _).trans (apart_ite (apart_ledger s _) rfl)))))

theorem apart_timebaseRecord (s : State) (kind : Nat) (offset : Int) :
    apart (timebaseRecord s kind offset) = apart s := apart_ledgerRecord ..

theorem apart_settleSteps (s : State) : apart (settleSteps s) = apart s := by
  unfold settleSteps
  cases s.tbs.stepDue with
  | none => rfl
  | some d =>
    have before : ∀ b : List Byte, apart (timebaseRecord
        (ledgerRecord { s with tbs := { s.tbs with stepDue := none } } recTimebase 0 0 false b) tkStepAfter d.net) =
          apart s :=
      fun b => (apart_timebaseRecord ..).trans ((apart_ledgerRecord ..).trans (apart_tbs s _))
    exact apart_ite ((apart_timebaseRecord ..).trans (before _)) (before _)

theorem apart_servoTo (s : State) (v : Nat) : apart (servoTo s v) = apart s :=
  (apart_event ..).trans ((apart_timebaseRecord ..).trans ((apart_settleSteps _).trans
    ((apart_setRf ..).trans (apart_tbs s _))))

/-- The restart of the servo touches the books only (R261, R273). -/
theorem apart_servoRestart (s : State) : apart (servoRestart s) = apart s :=
  apart_ite ((apart_servoTo ..).trans (apart_commits s _)) (apart_ite rfl (apart_servoTo ..))

/-- A state that differs in its books only differs in nothing else. -/
theorem eq_of_apart {s u : State} (h : apart u = apart s) : u = { s with
    words := u.words, tbs := u.tbs, ledger := u.ledger, commits := u.commits, recorder := u.recorder } :=
  congrArg (fun x : State => { x with
    words := u.words, tbs := u.tbs, ledger := u.ledger, commits := u.commits, recorder := u.recorder }) h

end Sys2Proof.Machine
end

section
/-! SUPPORT. Roles of clusters, and what changes them: resets, the spare role and the end of a cluster's tests (R18–R20,
R104, R462, R465). -/

namespace Sys2Proof.Machine

open Sys2Proof

/-! ### Register fields -/

theorem setRf_wf (s : State) (a hi lo v : Nat) (h : sparseWf resetWord s.words) :
    sparseWf resetWord (setRf s a hi lo v).words := setWord_wf s _ _ h

theorem rf_congr {s u : State} {a : Nat} (h : word u a = word s a) (hi lo : Nat) : rf u a hi lo = rf s a hi lo := by
  unfold rf
  rw [h]

/-! ### The role of a cluster -/

theorem fld_setFld_role (w : Word) (v : Nat) : fld (setFld w 2 0 v) 2 0 = v % 8 := by
  have := w.isLt
  simp only [fld, setFld, bits, BitVec.toNat_ofNat]
  omega

theorem fld_setFld_generation (w : Word) (v : Nat) : fld (setFld w 7 4 v) 2 0 = fld w 2 0 := by
  have := w.isLt
  simp only [fld, setFld, bits, BitVec.toNat_ofNat]
  omega

theorem fld_setFld_spare (w : Word) (v : Nat) : fld (setFld w 4 0 v) 4 0 = v % 32 := by
  have := w.isLt
  simp only [fld, setFld, bits, BitVec.toNat_ofNat]
  omega

theorem clusterRole_congr {s u : State} {n : Nat} (h : word u (cluAddr n 0) = word s (cluAddr n 0)) :
    clusterRole u n = clusterRole s n := rf_congr h 2 0

theorem clusterRole_setRole (s : State) (n v : Nat) (h : sparseWf resetWord s.words) :
    clusterRole (setRole s n v) n = v % 8 := by
  rw [clusterRole, rf, setRole, setRf, word_setWord _ _ _ _ h, if_pos rfl, fld_setFld_role]

/-- A role other than that of reset is written whatever the store holds. -/
theorem word_setWord_of_ne_reset (s : State) (a : Nat) (w : Word) (h : w ≠ resetWord a) :
    word (setWord s a w) a = w := by
  simp [word, setWord, sparseSet, h, sparseGet_insert]

theorem clusterRole_setWord_ne (s : State) (a n : Nat) (w : Word) (h : a ≠ cluAddr n 0) :
    clusterRole (setWord s a w) n = clusterRole s n := clusterRole_congr (word_setWord_ne _ _ _ _ h.symm)

theorem clusterRole_setRole_ne (s : State) {n k : Nat} (v : Nat) (h : k ≠ n) :
    clusterRole (setRole s n v) k = clusterRole s k :=
  clusterRole_setWord_ne _ _ _ _ (by unfold cluAddr; omega)

theorem clusterRole_bumpCluster (s : State) (n k : Nat) (h : sparseWf resetWord s.words) :
    clusterRole (bumpCluster s n) k = clusterRole s k := by
  by_cases hk : k = n
  · subst hk
    rw [clusterRole, rf, bumpCluster, setRf, word_setWord _ _ _ _ h, if_pos rfl, fld_setFld_generation]
    rfl
  · exact clusterRole_setWord_ne _ _ _ _ (by unfold cluAddr; omega)

theorem clusterRole_event (s : State) {source : Nat} (code d tenancy reason : Nat) (fatal : Bool) (k : Nat)
    (hs : source < 0x10000) : clusterRole (event s source code d tenancy reason fatal) k = clusterRole s k :=
  clusterRole_congr (word_event_ne _ _ _ _ _ _ (by unfold cluAddr; omega) (by unfold cluAddr; omega))

theorem cluster_putCluster_ne (s : State) (n k : Nat) (v : Cluster) (h : k ≠ n) :
    cluster (putCluster s n v) k = cluster s k := by simp [cluster, putCluster, look_place_ne _ _ _ _ h]

/-- The spare is one of the 17 clusters, and has the spare role. -/
theorem spareCluster_some {s : State} {sp : Nat} (h : spareCluster s = some sp) : sp < 17 ∧ clusterRole s sp = 1 := by
  unfold spareCluster at h
  have hr := List.find?_some h
  exact ⟨List.mem_range.1 (List.mem_of_find?_eq_some h), eq_of_beq hr⟩

/-! ### Requests -/

theorem exec_clusterReset (fn : FnId) (n : Nat) (s : State) :
    exec (.clusterReset fn n) s = act s fun s => writeAs s fn 0x10001C (clusterResetStep fn n) := rfl
theorem exec_rstSpare (fn : FnId) (n : Nat) (s : State) :
    exec (.rstSpare fn n) s = act s fun s => writeAs s fn 0x100020 (rstSpareStep fn n) := rfl

section
variable {s : State} {n : Nat} (hn : n < 17)
include hn

theorem clusterResetStep_out (hr : clusterRole s n = 1 ∨ clusterRole s n = 3) (ha : (cluster s n).resetAsked = false) :
    clusterResetStep pf0 n s = putCluster s n { cluster s n with resetAsked := true } := by
  have h0 : clusterRole s n ≠ 0 := by omega
  simp [clusterResetStep, Nat.not_lt.2 (Nat.le_of_lt_succ hn), h0, hr, ha]

theorem clusterResetStep_active (hr : clusterRole s n = 0) (hs : (spareCluster s).isSome)
    (hm : movePending s n = false) : clusterResetStep pf0 n s = requestMove s n true := by
  simp [clusterResetStep, Nat.not_lt.2 (Nat.le_of_lt_succ hn), hr, hs, hm]

theorem clusterResetStep_noSpare (hr : clusterRole s n = 0) (hs : spareCluster s = none) :
    clusterResetStep pf0 n s = ignored s pf0 0x10001C 5 := by
  simp [clusterResetStep, Nat.not_lt.2 (Nat.le_of_lt_succ hn), hr, hs]

theorem rstSpareStep_active (hr : clusterRole s n = 0) (hs : (spareCluster s).isSome) :
    rstSpareStep pf0 n s = requestMove s n false := by
  have hs' : spareCluster s ≠ none := Option.isSome_iff_ne_none.1 hs
  simp [rstSpareStep, Nat.not_lt.2 (Nat.le_of_lt_succ hn), hr, hs']

section
variable (hw : MayWrite s pf0 0x10001C)
include hw

omit hn in
theorem runs_clusterReset {u : State} {P : State → Prop} (hu : clusterResetStep pf0 n s = u) (hp : P u) :
    Runs (.clusterReset pf0 n) s P :=
  runs_act hw.1 (exec_clusterReset ..) (by rwa [writeAs_mayWrite hw, hu])

theorem runs_clusterReset_out (hr : clusterRole s n = 1 ∨ clusterRole s n = 3)
    (ha : (cluster s n).resetAsked = false) : Runs (.clusterReset pf0 n) s fun u =>
      u = { s with clusters := u.clusters } ∧ cluster u n = { cluster s n with resetAsked := true } ∧
        ∀ k, k ≠ n → cluster u k = cluster s k :=
  runs_clusterReset hw (clusterResetStep_out hn hr ha)
    ⟨rfl, cluster_putCluster .., fun k hk => cluster_putCluster_ne s n k _ hk⟩

theorem runs_clusterReset_noSpare (hr : clusterRole s n = 0) (hs : spareCluster s = none) :
    Runs (.clusterReset pf0 n) s fun u => u = { s with words := u.words, recorder := u.recorder } ∧
      Recorded 0 0x04 (0x10001C + 5 * 2 ^ 40) s u := by
  obtain ⟨hf, -, hrec⟩ := logs_ignored s pf0 0x10001C 5
  exact runs_clusterReset hw (clusterResetStep_noSpare hn hr hs) ⟨hf, hrec⟩

end

theorem runs_rstSpare (hw : MayWrite s pf0 0x100020) (hr : clusterRole s n = 0) (hs : (spareCluster s).isSome) :
    Runs (.rstSpare pf0 n) s fun u => u = requestMove s n false :=
  runs_act hw.1 (exec_rstSpare ..) (by rw [writeAs_mayWrite hw, rstSpareStep_active hn hr hs])

end

/-! ### The end of a cluster's tests -/

section
variable {s : State} {n : Nat}

theorem clusterTestsDoneStep_testing {pass : Bool} (hr : clusterRole s n = 4) (ht : (cluster s n).testing = true) :
    clusterTestsDoneStep n pass s = putCluster (setWord s (0x1D00004 + n * 0x20) (if pass then 3 else 2)) n
      { cluster s n with testing := false, tested := some pass } := by
  simp [clusterTestsDoneStep, hr, ht]

theorem exec_clusterTestsDone (c : Fin 17) (pass : Bool) (s : State) :
    exec (.clusterTestsDone c pass) s = act s (clusterTestsDoneStep c.val pass) := rfl

/-- The role that a tested cluster takes: fenced when it failed, active where a spare is in force, else spare. -/
def testedRole (s : State) (pass : Bool) : Nat :=
  if pass = false then 3 else if (spareCluster s).isSome then 0 else 1

/-- The state in which a tested cluster has its role, before the event; the one that becomes the spare is named in
RST_SPARE. -/
def roleTaken (s : State) (n : Nat) (pass : Bool) : State :=
  if testedRole s pass = 1 then
    setRf (setRole (putCluster s n { cluster s n with tested := none }) n (testedRole s pass)) 0x100020 4 0 n
  else setRole (putCluster s n { cluster s n with tested := none }) n (testedRole s pass)

/-- A tested cluster takes its role, with an event. -/
theorem takeRole_eq {pass : Bool} (hu : s.boot.update = none) : takeRole s n pass =
    event (roleTaken s n pass) (srcCluster n) evFence (detail n (testedRole s pass)) := by
  have hs : spareCluster (putCluster s n { cluster s n with tested := none }) = spareCluster s := rfl
  cases pass with
  | false => simp [takeRole, roleTaken, testedRole, hu]
  | true =>
    cases hsp : spareCluster s with
    | none => simp [takeRole, roleTaken, testedRole, hu, hs, hsp]
    | some sp => simp [takeRole, roleTaken, testedRole, hu, hs, hsp]

theorem roleTaken_recorder (pass : Bool) : (roleTaken s n pass).recorder = s.recorder := by
  unfold roleTaken setRole
  split
  · rw [setRf_recorder, setRf_recorder, putCluster_recorder]
  · rw [setRf_recorder, putCluster_recorder]

theorem roleTaken_tick (pass : Bool) : (roleTaken s n pass).tick = s.tick := by
  unfold roleTaken setRole
  split
  · rw [setRf_tick, setRf_tick, putCluster_tick]
  · rw [setRf_tick, putCluster_tick]

end

end Sys2Proof.Machine
end

section
/-! SUPPORT. The work of a cluster moved to the spare, and the roles of tested clusters (R18–R20, R462, R465). -/

namespace Sys2Proof.Machine

open Sys2Proof

theorem recorded_congr {s t u : State} {source code d : Nat} (hr : t.recorder = s.recorder) (ht : t.tick = s.tick)
    (h : Recorded source code d t u) : Recorded source code d s u := by
  unfold Recorded at *
  rwa [hr, ht] at h

/-! ### The end of a cluster's tests -/

section
variable {s : State} {c : Fin 17} {pass : Bool}

theorem runs_clusterTestsDone (hl : Live s) (hr : clusterRole s c.val = 4) (ht : (cluster s c.val).testing = true)
    (hc : Canonical s) : Runs (.clusterTestsDone c pass) s fun u =>
      u = { s with words := u.words, clusters := u.clusters } ∧
      (cluster u c.val = { cluster s c.val with testing := false, tested := some pass } ∧
        ∀ k, k ≠ c.val → cluster u k = cluster s k) ∧
      word u (0x1D00004 + c.val * 0x20) = (if pass then 3 else 2) ∧ WordsKept [0x1D00004 + c.val * 0x20] s u := by
  refine runs_act hl (exec_clusterTestsDone ..) ?_
  rw [clusterTestsDoneStep_testing hr ht]
  refine ⟨rfl, ⟨cluster_putCluster .., fun k hk => cluster_putCluster_ne _ _ _ _ hk⟩, ?_, fun a ha => ?_⟩
  · exact (word_setWord s _ _ _ hc.2.1).trans (if_pos rfl)
  · exact word_setWord_ne s _ _ _ (by simpa using ha)

variable {n : Nat}

theorem testedRole_lt (s : State) (pass : Bool) : testedRole s pass < 4 := by
  unfold testedRole
  split_ifs <;> omega

variable (hn : n < 17) (hu : s.boot.update = none)
include hn hu

theorem recorded_takeRole : Recorded (64 + n) 0x07 (n + testedRole s pass * 2 ^ 32) s (takeRole s n pass) := by
  have hd : detail n (testedRole s pass) = n + testedRole s pass * 2 ^ 32 := by
    have := testedRole_lt s pass
    unfold detail
    omega
  rw [takeRole_eq hu, ← hd]
  exact recorded_congr (roleTaken_recorder pass) (roleTaken_tick pass) (recorded_event _ _ _ _ _ _ _)

variable (hc : Canonical s)
include hc

theorem clusterRole_takeRole : clusterRole (takeRole s n pass) n = testedRole s pass := by
  have hrole : clusterRole (setRole (putCluster s n { cluster s n with tested := none }) n (testedRole s pass)) n =
      testedRole s pass :=
    (clusterRole_setRole _ _ _ hc.2.1).trans (Nat.mod_eq_of_lt (Nat.lt_trans (testedRole_lt ..) (by decide)))
  rw [takeRole_eq hu, clusterRole_event _ _ _ _ _ _ _ (by unfold srcCluster; omega), roleTaken]
  split
  · rwa [setRf, clusterRole_setWord_ne _ _ _ _ (by unfold cluAddr; omega)]
  · exact hrole

theorem rstSpare_takeRole (h1 : testedRole s pass = 1) : rf (takeRole s n pass) 0x100020 4 0 = n := by
  have hw : sparseWf resetWord
      (setRole (putCluster s n { cluster s n with tested := none }) n (testedRole s pass)).words :=
    setRf_wf _ _ _ _ _ hc.2.1
  rw [takeRole_eq hu, rf, word_event_ne _ _ _ _ _ _ (by unfold srcCluster; omega) (by decide), roleTaken, if_pos h1,
    setRf, word_setWord _ _ _ _ hw, if_pos rfl, fld_setFld_spare]
  omega

end

/-! ### The work of a cluster moved to another -/

theorem setConfig_with (s : State) (a : Nat) (v : Word) (w : Sparse Word) (x : List Undo) :
    { setConfig s a v with words := w, undo := x } = { s with words := w, undo := x } := rfl

/-- Configuration words copied from one cluster to another touch the words and their earlier values only. -/
theorem exists_configCopy_eq (a b : Nat) (l : List Nat) : ∀ s : State, ∃ w x,
    l.foldl (fun s o => if word s (cluAddr a o) = word s (cluAddr b o) then s
      else setConfig s (cluAddr b o) (word s (cluAddr a o))) s = { s with words := w, undo := x } ∧
    (sparseWf resetWord s.words → sparseWf resetWord w) := by
  induction l with
  | nil => intro s; exact ⟨s.words, s.undo, rfl, id⟩
  | cons o l ih =>
    intro s
    rw [List.foldl_cons]
    split
    · exact ih s
    · obtain ⟨w, x, hf, hw⟩ := ih (setConfig s (cluAddr b o) (word s (cluAddr a o)))
      exact ⟨w, x, hf.trans (setConfig_with ..), fun h => hw (setWord_wf _ _ _ h)⟩

theorem newest_congr {s u : State} (h : u.classes = s.classes) : newest u = newest s := by
  funext c
  simp only [newest, h]

/-- A move of work touches the configuration, the classes, the commits to come and what the slices hold; the classes
that have cores on the cluster have a version on the other one from this round on (R18, R20). -/
theorem exists_moveWork_eq (s : State) {a b : Nat} (h : a ≠ b) : ∃ w x sl cm,
    moveWork s a b = { s with
      words := w, undo := x, sliceOf := sl, commits := cm
      classes := s.classes ++ (((List.range 64).map (newest s)).filter fun p => p.cores.any fun k => k.1 == a).map
        (fun p => assignCores p { p with round := round s, cores := moveCores a b p.cores }) } ∧
    (sparseWf resetWord s.words → sparseWf resetWord w) := by
  obtain ⟨w, x, hf, hw⟩ := exists_configCopy_eq a b clusterConfig s
  simp only [moveWork, if_neg h, hf]
  exact ⟨w, x, _, _, rfl, hw⟩

theorem moveWork_wf {s : State} {a b : Nat} (h : a ≠ b) (hw : sparseWf resetWord s.words) :
    sparseWf resetWord (moveWork s a b).words := by
  obtain ⟨w, x, sl, cm, hf, hwf⟩ := exists_moveWork_eq s h
  rw [hf]
  exact hwf hw

/-! ### The move to the spare -/

theorem clusterRole_putCluster (s : State) (n : Nat) (v : Cluster) (k : Nat) :
    clusterRole (putCluster s n v) k = clusterRole s k := rfl

section
variable {s : State} {n sp : Nat} (hs : spareCluster s = some sp) (hr : clusterRole s n = 0)
include hs hr

theorem exists_spareEffect_dusk : ∃ v,
    spareEffect s n true = putCluster (bumpCluster (setRole (setRole (moveWork s n sp) sp 0) n 2) n) n v := by
  simp only [spareEffect, hs, hr]
  exact ⟨_, rfl⟩

theorem spareEffect_spare : spareEffect s n false =
    event (setRf (setRole (setRole (moveWork s n sp) sp 0) n 1) 0x100020 4 0 n) srcReset evFence (detail n 1) := by
  simp [spareEffect, hs, hr]

/-- The cluster whose work moves to the spare enters Dusk or takes the spare role, and the spare is active
(R20, R465). -/
theorem clusterRole_spareEffect (hn : sp ≠ n) (hw : sparseWf resetWord s.words) (dusk : Bool) :
    clusterRole (spareEffect s n dusk) n = (if dusk then 2 else 1) ∧ clusterRole (spareEffect s n dusk) sp = 0 := by
  have hw1 : sparseWf resetWord (setRole (moveWork s n sp) sp 0).words :=
    setRf_wf _ _ _ _ _ (moveWork_wf hn.symm hw)
  have hsp : clusterRole (setRole (moveWork s n sp) sp 0) sp = 0 := clusterRole_setRole _ _ _ (moveWork_wf hn.symm hw)
  cases dusk with
  | true =>
    have hb := fun k => clusterRole_bumpCluster (setRole (setRole (moveWork s n sp) sp 0) n 2) n k
      (setRf_wf _ _ _ _ _ hw1)
    obtain ⟨v, hv⟩ := exists_spareEffect_dusk hs hr
    rw [hv, clusterRole_putCluster, clusterRole_putCluster]
    exact ⟨(hb n).trans (clusterRole_setRole _ _ _ hw1),
      (hb sp).trans ((clusterRole_setRole_ne _ _ hn).trans hsp)⟩
  | false =>
    have hb := fun k (u : State) => clusterRole_setWord_ne u 0x100020 k (setFld (word u 0x100020) 4 0 n)
      (by unfold cluAddr; omega)
    rw [spareEffect_spare hs hr, clusterRole_event _ _ _ _ _ _ _ (by decide),
      clusterRole_event _ _ _ _ _ _ _ (by decide), setRf, hb, hb]
    exact ⟨clusterRole_setRole _ _ _ hw1, (clusterRole_setRole_ne _ _ hn).trans hsp⟩

end

/-! ### The spare takes over a fenced cluster's classes -/

/-- Looking up after a change of those values that satisfy a condition. -/
theorem look_map_if {α : Type} (c : α → Bool) (g : α → α) (m : Sparse α) (k : Nat) :
    look (m.map fun p => if c p.2 then (p.1, g p.2) else p) k = (look m k).map fun v => if c v then g v else v := by
  induction m with
  | nil => rfl
  | cons p m ih =>
    obtain ⟨i, v⟩ := p
    unfold look at ih ⊢
    by_cases hi : i = k
    · cases hv : c v <;> simp [sparseGet, hi, hv]
    · cases hv : c v <;> simpa [sparseGet, hi, hv] using ih

/-- With no spare left, the clusters that wait for one are marked; nothing else changes. -/
theorem markUnplaced_eq (s : State) : markUnplaced s = { s with clusters := (markUnplaced s).clusters } := by
  unfold markUnplaced
  split <;> rfl

theorem cluster_markUnplaced (s : State) (k : Nat) : cluster (markUnplaced s) k = cluster s k ∨
    (cluster s k).moving = true ∧ cluster (markUnplaced s) k = { cluster s k with unplaced := true } := by
  unfold markUnplaced
  split
  · exact .inl rfl
  · have hl := look_map_if (fun v : Cluster => v.moving) (fun v => { v with unplaced := true }) s.clusters k
    simp only [cluster, hl]
    cases hk : look s.clusters k with
    | none => exact .inl rfl
    | some v =>
      cases hm : v.moving with
      | false => exact .inl (by simp [hm])
      | true => exact .inr (by simp [hm])

theorem markUnplaced_classes (s : State) : (markUnplaced s).classes = s.classes := by rw [markUnplaced_eq]
theorem markUnplaced_recorder (s : State) : (markUnplaced s).recorder = s.recorder := by rw [markUnplaced_eq]
theorem clusterRole_markUnplaced (s : State) (k : Nat) : clusterRole (markUnplaced s) k = clusterRole s k := by
  rw [markUnplaced_eq]
  rfl

theorem event_frames (s : State) (source code d tenancy reason : Nat) (fatal : Bool) :
    (event s source code d tenancy reason fatal).frames = s.frames := by rw [event_eq]
theorem event_classes (s : State) (source code d tenancy reason : Nat) (fatal : Bool) :
    (event s source code d tenancy reason fatal).classes = s.classes := by rw [event_eq]
theorem cluster_event (s : State) (source code d tenancy reason : Nat) (fatal : Bool) (k : Nat) :
    cluster (event s source code d tenancy reason fatal) k = cluster s k := by
  rw [event_eq]
  rfl

/-- A state aside from what the takeover of a cluster's work can touch. -/
def aside (s : State) : State := { s with
  words := [], undo := [], sliceOf := [], classes := [], commits := [], clusters := []
  recorder := State.reset.recorder }

theorem aside_setRf (s : State) (a hi lo v : Nat) : aside (setRf s a hi lo v) = aside s := rfl
theorem aside_putCluster (s : State) (n : Nat) (v : Cluster) : aside (putCluster s n v) = aside s := rfl
theorem aside_markUnplaced (s : State) : aside (markUnplaced s) = aside s := by
  rw [markUnplaced_eq]
  rfl
theorem aside_event (s : State) (source code d tenancy reason : Nat) (fatal : Bool) :
    aside (event s source code d tenancy reason fatal) = aside s := by
  rw [event_eq]
  rfl
theorem aside_moveWork {s : State} {a b : Nat} (h : a ≠ b) : aside (moveWork s a b) = aside s := by
  obtain ⟨w, x, sl, cm, hf, -⟩ := exists_moveWork_eq s h
  rw [hf]
  rfl

theorem eq_of_aside {s u : State} (h : aside u = aside s) : u = { s with
    words := u.words, undo := u.undo, sliceOf := u.sliceOf, classes := u.classes, commits := u.commits
    clusters := u.clusters, recorder := u.recorder } :=
  congrArg (fun x : State => { x with
    words := u.words, undo := u.undo, sliceOf := u.sliceOf, classes := u.classes, commits := u.commits
    clusters := u.clusters, recorder := u.recorder }) h

theorem dropCoreless_noFrames {s : State} (h : s.frames = []) : dropCoreless s = s := by
  simp [dropCoreless, dropAll, h]

theorem exec_spareTakeover (s : State) : exec .spareTakeover s = act s spareTakeoverStep := rfl

/-- The state of a takeover before its event. -/
def takenOver (s : State) (n sp : Nat) : State :=
  let t := setRole (moveWork s n sp) sp 0
  markUnplaced (putCluster t n { cluster t n with moving := false, unplaced := false })

section
variable {s : State} {n sp : Nat}

theorem spareTakeoverStep_moving (hb : now s % 256 = 0) (hs : spareCluster s = some sp)
    (hm : ((List.range 17).find? fun k => (cluster s k).moving) = some n) :
    spareTakeoverStep s = dropCoreless (event (takenOver s n sp) (srcCluster sp) evFence (detail sp 0)) := by
  simp only [spareTakeoverStep, hb, hs, hm, ne_eq, not_true, if_false]
  rfl

variable (hn : sp ≠ n)
include hn

theorem aside_takenOver : aside (takenOver s n sp) = aside s :=
  (aside_markUnplaced _).trans ((aside_putCluster ..).trans ((aside_setRf ..).trans (aside_moveWork hn.symm)))

theorem takenOver_classes : (takenOver s n sp).classes = s.classes ++
    (((List.range 64).map (newest s)).filter fun p => p.cores.any fun k => k.1 == n).map
      (fun p => assignCores p { p with round := round s, cores := moveCores n sp p.cores }) := by
  obtain ⟨w, x, sl, cm, hf, -⟩ := exists_moveWork_eq s hn.symm
  dsimp only [takenOver]
  rw [markUnplaced_classes, putCluster_classes, setRole, setRf_classes, hf]

theorem takenOver_recorder : (takenOver s n sp).recorder = s.recorder := by
  obtain ⟨w, x, sl, cm, hf, -⟩ := exists_moveWork_eq s hn.symm
  dsimp only [takenOver]
  rw [markUnplaced_recorder, putCluster_recorder, setRole, setRf_recorder, hf]

theorem cluster_setRole_moveWork (k : Nat) : cluster (setRole (moveWork s n sp) sp 0) k = cluster s k := by
  obtain ⟨w, x, sl, cm, hf, -⟩ := exists_moveWork_eq s hn.symm
  rw [setRole, cluster_of_setRf, hf]
  rfl

theorem cluster_takenOver : cluster (takenOver s n sp) n = { cluster s n with moving := false, unplaced := false } := by
  dsimp only [takenOver]
  obtain h | ⟨h, -⟩ := cluster_markUnplaced (putCluster (setRole (moveWork s n sp) sp 0) n
    { cluster (setRole (moveWork s n sp) sp 0) n with moving := false, unplaced := false }) n
  · rw [h, cluster_putCluster, cluster_setRole_moveWork hn]
  · rw [cluster_putCluster] at h
    cases h

theorem cluster_takenOver_ne {k : Nat} (hk : k ≠ n) : cluster (takenOver s n sp) k = cluster s k ∨
    cluster (takenOver s n sp) k = { cluster s k with unplaced := true } := by
  have hput := fun v => (cluster_putCluster_ne (setRole (moveWork s n sp) sp 0) n k v hk).trans
    (cluster_setRole_moveWork hn k)
  dsimp only [takenOver]
  obtain h | ⟨-, h⟩ := cluster_markUnplaced (putCluster (setRole (moveWork s n sp) sp 0) n
    { cluster (setRole (moveWork s n sp) sp 0) n with moving := false, unplaced := false }) k
  · exact .inl (h.trans (hput _))
  · exact .inr (by rw [h, hput])

theorem clusterRole_takenOver (hw : sparseWf resetWord s.words) : clusterRole (takenOver s n sp) sp = 0 := by
  dsimp only [takenOver]
  rw [clusterRole_markUnplaced, clusterRole_putCluster]
  exact clusterRole_setRole _ _ _ (moveWork_wf hn.symm hw)

theorem runs_spareTakeover (hl : Live s) (hb : now s % 256 = 0) (hs : spareCluster s = some sp) (hf : s.frames = [])
    (hm : ((List.range 17).find? fun k => (cluster s k).moving) = some n) : Runs .spareTakeover s fun u =>
      u = { s with
        words := u.words, undo := u.undo, sliceOf := u.sliceOf, classes := u.classes, commits := u.commits
        clusters := u.clusters, recorder := u.recorder } ∧
      u.classes = s.classes ++ (((List.range 64).map (newest s)).filter fun p => p.cores.any fun k => k.1 == n).map
        (fun p => assignCores p { p with round := round s, cores := moveCores n sp p.cores }) ∧
      cluster u n = { cluster s n with moving := false, unplaced := false } ∧
      (∀ k, k ≠ n → cluster u k = cluster s k ∨ cluster u k = { cluster s k with unplaced := true }) ∧
      (Canonical s → clusterRole u sp = 0) ∧ Recorded (64 + sp) 0x07 sp s u := by
  obtain ⟨hsp, -⟩ := spareCluster_some hs
  have ha := aside_takenOver (s := s) hn
  have hframes : (takenOver s n sp).frames = s.frames := by rw [eq_of_aside ha]
  have htick : (takenOver s n sp).tick = s.tick := by rw [eq_of_aside ha]
  have hd : detail sp 0 = sp := by
    unfold detail
    omega
  have hno : (event (takenOver s n sp) (srcCluster sp) evFence (detail sp 0)).frames = [] := by
    rw [event_frames, hframes, hf]
  refine runs_act hl (exec_spareTakeover s) ?_
  rw [spareTakeoverStep_moving hb hs hm, dropCoreless_noFrames hno, hd]
  refine ⟨eq_of_aside ((aside_event ..).trans ha), ?_, ?_, fun k hk => ?_, fun hc => ?_, ?_⟩
  · rw [event_classes]
    exact takenOver_classes hn
  · rw [cluster_event]
    exact cluster_takenOver hn
  · rw [cluster_event]
    exact cluster_takenOver_ne hn hk
  · rw [clusterRole_event _ _ _ _ _ _ _ (by unfold srcCluster; omega)]
    exact clusterRole_takenOver hn hc.2.1
  · exact recorded_congr (takenOver_recorder hn) htick (recorded_event _ _ _ _ _ _ _)

end

end Sys2Proof.Machine
end

section
/-! SUPPORT. A cluster that goes into its tests: its cores stop and its memories are cleared (R19, R103, R462). -/

namespace Sys2Proof.Machine

open Sys2Proof

/-! ### Stores with some of their indices dropped -/

theorem look_filter {α : Type} (q : Nat → Bool) (m : Sparse α) (k : Nat) :
    look (m.filter fun p => q p.1) k = if q k then look m k else none := by
  induction m with
  | nil => simp
  | cons p m ih =>
    obtain ⟨i, v⟩ := p
    unfold look at ih ⊢
    by_cases hi : i = k
    · subst hi
      cases hq : q i <;> simp_all [sparseGet]
    · cases hq : q i <;> simpa [sparseGet, hi, hq] using ih

theorem sparseGet_filter {α : Type} (d : Nat → α) (q : Nat → Bool) (m : Sparse α) (k : Nat) :
    sparseGet d (m.filter fun p => q p.1) k = if q k then sparseGet d m k else d k := by
  induction m with
  | nil => simp [sparseGet]
  | cons p m ih =>
    obtain ⟨i, v⟩ := p
    by_cases hi : i = k
    · subst hi
      cases hq : q i <;> simp_all [sparseGet]
    · cases hq : q i <;> simpa [sparseGet, hi, hq] using ih

theorem mem_of_look {α : Type} {m : Sparse α} {k : Nat} {v : α} (h : look m k = some v) : (k, v) ∈ m := by
  induction m with
  | nil => cases h
  | cons p m ih =>
    obtain ⟨i, w⟩ := p
    unfold look at h ih
    by_cases hi : i = k
    · simp_all [sparseGet]
    · exact List.mem_cons_of_mem _ (ih (by simpa [sparseGet, hi] using h))

theorem tidNum_div (t : Tid) : tidNum t / 128 = t.cluster.val := by
  unfold tidNum
  omega

/-! ### The stop of a cluster's cores -/

/-- No frame is on the cluster or emitted, and none of the cluster's threads keeps ingress-buffer cells. -/
structure IdleCluster (n : Nat) (s : State) : Prop where
  frames : ∀ p ∈ s.frames, p.2.stage ≠ .emitted ∧ ∀ t : Tid, t.cluster.val = n → p.2.stage ≠ .thread t
  cells : ∀ t : Tid, t.cluster.val = n → (thread s t).cells = none

/-- Memory, frames, classes and the threads of other clusters are as they were, and no thread keeps more cells. -/
structure StopsOnly (n : Nat) (s u : State) : Prop where
  mem : u.mem = s.mem
  frames : u.frames = s.frames
  classes : u.classes = s.classes
  others : ∀ t : Tid, t.cluster.val ≠ n → thread u t = thread s t
  cells : ∀ t : Tid, (thread s t).cells = none → (thread u t).cells = none

namespace StopsOnly

variable {n : Nat} {s u w : State}

theorem trans (h : StopsOnly n s u) (h' : StopsOnly n u w) : StopsOnly n s w where
  mem := h'.mem.trans h.mem
  frames := h'.frames.trans h.frames
  classes := h'.classes.trans h.classes
  others t ht := (h'.others t ht).trans (h.others t ht)
  cells t ht := h'.cells t (h.cells t ht)

theorem of_fields (hm : u.mem = s.mem) (hf : u.frames = s.frames) (hc : u.classes = s.classes)
    (ht : u.threads = s.threads) : StopsOnly n s u := by
  have h : ∀ t, thread u t = thread s t := fun t => by rw [thread, ht]; rfl
  exact ⟨hm, hf, hc, fun t _ => h t, fun t hn => by rwa [h t]⟩

theorem refl : StopsOnly n s s := of_fields rfl rfl rfl rfl

/-- What touches the books only stops nothing. -/
theorem of_apart (h : apart u = apart s) : StopsOnly n s u := by
  rw [eq_of_apart h]
  exact of_fields rfl rfl rfl rfl

theorem idle (h : StopsOnly n s u) (hi : IdleCluster n s) : IdleCluster n u :=
  ⟨by rw [h.frames]; exact hi.frames, fun t ht => h.cells t (hi.cells t ht)⟩

theorem foldl {α : Type} {f : State → α → State} (l : List α)
    (h : ∀ s, ∀ x ∈ l, IdleCluster n s → StopsOnly n s (f s x)) :
    ∀ s, IdleCluster n s → StopsOnly n s (l.foldl f s) := by
  induction l with
  | nil => intro s _; exact refl
  | cons x l ih =>
    intro s hi
    have hx := h s x (List.mem_cons_self ..) hi
    exact hx.trans (ih (fun s y hy => h s y (List.mem_cons_of_mem _ hy)) _ (hx.idle hi))

theorem putThread {t : Tid} {v : Thread} (ht : t.cluster.val = n) (hv : v.cells = none) :
    StopsOnly n s (putThread s t v) where
  mem := putThread_mem ..
  frames := putThread_frames ..
  classes := putThread_classes ..
  others t' h := thread_putThread_ne _ _ _ _ fun e => h (e ▸ ht)
  cells t' h := by
    by_cases e : t' = t
    · rw [e, thread_putThread, hv]
    · rw [thread_putThread_ne _ _ _ _ e, h]

end StopsOnly

section
variable {n : Nat} {s : State} (hi : IdleCluster n s) {t : Tid} (ht : t.cluster.val = n)
include hi ht

/-- A thread that is on no frame of the device has no tag to bring up to date. -/
theorem syncTag_idle : syncTag s t = s := by
  dsimp only [syncTag]
  split
  case h_1 f hf =>
    obtain ⟨k, -, hk⟩ := Option.bind_eq_some_iff.1 hf
    exact if_neg ((hi.frames _ (mem_of_look hk)).2 t ht)
  case h_2 => rfl

theorem settleFrames_idle (reason : Nat) : settleFrames s t reason = s := by
  have hno : ∀ p ∈ s.frames, ¬((p.2.stage == .thread t || (p.2.stage == .emitted &&
      s.due.any fun d => d.what == .emitTaken t p.2.id)) = true) := fun p hp => by
    simp [(hi.frames p hp).1, (hi.frames p hp).2 t ht]
  rw [settleFrames, dropAll, List.filter_eq_nil_iff.2 hno, List.foldl_nil]

theorem releaseCells_idle : releaseCells s t = s := by
  simp only [releaseCells, hi.cells t ht]

theorem stopsOnly_idleThread (free : Nat) : StopsOnly n s (idleThread s t free) := by
  dsimp only [idleThread]
  rw [releaseCells_idle hi ht]
  exact .putThread ht rfl

theorem stopsOnly_stopThread (reason : Nat) : StopsOnly n s (stopThread s t reason) := by
  dsimp only [stopThread]
  rw [syncTag_idle hi ht, settleFrames_idle hi ht]
  have hlocks : StopsOnly n s ((thread s t).locks.foldl (fun u n =>
      freeLock u n (now u + 1) (!(unlocking s t).contains n)) s) :=
    .foldl _ (fun u k _ _ => .of_fields (putLock_mem ..) (putLock_frames ..) (putLock_classes ..) (putLock_threads ..))
      s hi
  have hwork := hlocks.trans (w := discardWork _ t) (.of_fields rfl rfl rfl rfl)
  exact hwork.trans (stopsOnly_idleThread (hwork.idle hi) ht _)

end

theorem threadOf_cluster {n c t : Nat} (hn : n < 17) (hc : c < 16) (ht : t < 8) :
    (threadOf n c t).cluster.val = n := by
  simp only [threadOf, tidOf]
  omega

theorem stopsOnly_stopReset {n c : Nat} {s : State} (hn : n < 17) (hc : c < 16) (hi : IdleCluster n s) :
    StopsOnly n s (stopReset s n c) := by
  dsimp only [stopReset]
  have hthreads := StopsOnly.foldl (f := fun s t =>
      stopThread s t (if (thread s t).halted then rsDebugAbandon else rsCoreFault))
    ((List.range 8).map fun t => threadOf n c t) (fun u t ht hu => by
      obtain ⟨k, hk, rfl⟩ := List.mem_map.1 ht
      exact stopsOnly_stopThread hu (threadOf_cluster hn hc (List.mem_range.1 hk)) _) s hi
  exact hthreads.trans (.trans
    (.of_fields (putCore_mem ..) (putCore_frames ..) (putCore_classes ..) (putCore_threads ..))
    (.of_apart ((apart_event ..).trans ((apart_setRf ..).trans (apart_setRf ..)))))

/-- The stop of every core of a cluster, and the restart of the servo. -/
theorem stopsOnly_cluster {n : Nat} {s : State} (hn : n < 17) (hi : IdleCluster n s) :
    StopsOnly n s (servoRestart ((List.range 16).foldl (fun s c => stopReset s n c) s)) :=
  (StopsOnly.foldl _ (fun _ _ hc hu => stopsOnly_stopReset hn (List.mem_range.1 hc) hu) s hi).trans
    (.of_apart (apart_servoRestart _))

/-! ### A cluster cleared -/

/-- A cluster's mailbox pairs, counters and shown states reset. -/
def pairsReset (s : State) (n : Nat) : State :=
  let s := (List.range 128).foldl (fun s k => resetPair s (.ofThread (tidOf (n * 128 + k)))) s
  let s := ([8, 0xC] ++ (List.range 8).map fun k => 0x10 + 4 * k).foldl (fun s o => setWord s (cluAddr n o) 0) s
  (List.range 4).foldl (fun s k => setWord s (cluAddr n (0x44 + 4 * k)) 0) s

/-- What a property of states keeps under events and mailboxes, it keeps under the reset of a thread's pair. -/
theorem keeps_resetPair {β : Type} (g : State → β) (t : Tid) (s : State)
    (hm : ∀ s n v, g (putMailbox s n v) = g s)
    (he : ∀ s d tenancy reason, g (event s srcRecorder evMailbox d tenancy reason) = g s) :
    g (resetPair s (.ofThread t)) = g s := by
  dsimp only [resetPair]
  split
  · exact (he ..).trans ((hm ..).trans (hm ..))
  · exact hm ..

theorem keeps_pairsReset {β : Type} (g : State → β) (s : State) (n : Nat)
    (hm : ∀ s n v, g (putMailbox s n v) = g s)
    (he : ∀ s d tenancy reason, g (event s srcRecorder evMailbox d tenancy reason) = g s)
    (hw : ∀ s o w, 0 < o → o < 0x100 → g (setWord s (cluAddr n o) w) = g s) : g (pairsReset s n) = g s := by
  refine (foldl_keeps g _ (fun s k hk => hw _ _ _ (by omega) ?_) _).trans ((foldl_keeps g _ (fun s o ho => ?_) _).trans
    (foldl_keeps g _ (fun s k _ => keeps_resetPair g _ s hm he) s))
  · have := List.mem_range.1 hk
    omega
  · have hlt : ∀ o ∈ [8, 0xC] ++ (List.range 8).map fun k => 0x10 + 4 * k, 0 < o ∧ o < 0x100 := by decide
    exact hw _ _ _ (hlt o ho).1 (hlt o ho).2

theorem clusterRole_pairsReset (s : State) (n k : Nat) : clusterRole (pairsReset s n) k = clusterRole s k :=
  keeps_pairsReset (fun s => clusterRole s k) s n (fun _ _ _ => rfl)
    (fun _ _ _ _ => clusterRole_event _ _ _ _ _ _ _ (by decide))
    (fun _ o _ h h' => clusterRole_setWord_ne _ _ _ _ (by unfold cluAddr; omega))

theorem stopsOnly_pairsReset (s : State) (n m : Nat) : StopsOnly m s (pairsReset s n) := by
  have h := keeps_pairsReset (fun s => (s.mem, s.frames, s.classes, s.threads)) s n (fun _ _ _ => rfl)
    (fun s d tenancy reason => by rw [event_eq]) (fun s o w _ _ => by
      rw [setWord_mem, setWord_frames, setWord_classes, setWord_threads])
  simp only [Prod.mk.injEq] at h
  obtain ⟨hm, hf, hc, ht⟩ := h
  exact .of_fields hm hf hc ht

/-- The byte addresses of a cluster's slices and shared memory (R76, R79). -/
def clusterBytes (n a : Nat) : Bool :=
  decide (n * 128 * 16384 ≤ a ∧ a < (n + 1) * 128 * 16384) || decide (shmAddr n 0 ≤ a ∧ a < shmAddr (n + 1) 0)

theorem clearCluster_fields (s : State) (n : Nat) :
    (clearCluster s n).mem = ((pairsReset s n).mem.filter fun c => !clusterBytes n c.1) ∧
    (clearCluster s n).threads = ((pairsReset s n).threads.filter fun p => p.1 / 128 != n) ∧
    (clearCluster s n).frames = (pairsReset s n).frames ∧ (clearCluster s n).classes = (pairsReset s n).classes ∧
    (clearCluster s n).words = (pairsReset s n).words := by
  unfold clearCluster
  extract_lets mine s1 s2 s3
  have h : pairsReset s n = s3 := rfl
  rw [h]
  clear_value s3
  exact ⟨rfl, rfl, rfl, rfl, rfl⟩

/-- A cluster after the stop of its cores, with the role of a cluster in its tests. -/
def stoppedCluster (s : State) (n : Nat) : State :=
  setRole (servoRestart ((List.range 16).foldl (fun s c => stopReset s n c) s)) n 4

theorem exists_testCluster_eq (s : State) (n : Nat) : ∃ v, v.testing = true ∧ testCluster s n =
    putCluster (setWord (clearCluster (stoppedCluster s n) n) (0x1D00004 + n * 0x20) 0) n v := by
  unfold testCluster stoppedCluster
  exact ⟨_, rfl, rfl⟩

/-- No cluster has the role of the tests after reset. -/
theorem resetWord_role : ∀ n, n < 17 → fld (resetWord (cluAddr n 0)) 2 0 ≠ 4 := by decide +kernel

theorem clusterRole_stoppedCluster {n : Nat} (hn : n < 17) (s : State) : clusterRole (stoppedCluster s n) n = 4 := by
  have hne : ∀ w : Word, setFld w 2 0 4 ≠ resetWord (cluAddr n 0) := fun w h =>
    resetWord_role n hn (by rw [← h, fld_setFld_role])
  rw [stoppedCluster, clusterRole, rf, setRole, setRf, word_setWord_of_ne_reset _ _ _ (hne _), fld_setFld_role]

/-- The bytes of a cluster's memories read 0 once it is cleared, and all others as before. -/
theorem readByte_clearCluster (s : State) (n a : Nat) : readByte (clearCluster s n) a =
    if clusterBytes n a then 0 else readByte (pairsReset s n) a := by
  obtain ⟨hm, -⟩ := clearCluster_fields s n
  have hf := sparseGet_filter memReset (fun a => !clusterBytes n a) (pairsReset s n).mem a
  rw [readByte, hm, hf]
  cases clusterBytes n a <;> rfl

theorem look_threads_clearCluster (s : State) (n : Nat) (t : Tid) :
    look (clearCluster s n).threads (tidNum t) =
      if t.cluster.val = n then none else look (pairsReset s n).threads (tidNum t) := by
  obtain ⟨-, ht, -⟩ := clearCluster_fields s n
  rw [ht, look_filter (fun k => k / 128 != n), tidNum_div]
  by_cases h : t.cluster.val = n
  · simp [h]
  · simp [h]

section
variable {n : Nat} {s : State} (hn : n < 17) (hi : IdleCluster n s)
include hn hi

theorem stopsOnly_tested : StopsOnly n s (pairsReset (stoppedCluster s n) n) :=
  (stopsOnly_cluster hn hi).trans (.trans (.of_apart (apart_setRf ..)) (stopsOnly_pairsReset _ n n))

/-- A cluster that holds no frame goes into its tests: its threads and memories are cleared, and nothing of another
cluster changes (R19, R103). -/
theorem testCluster_clears :
    (∀ t : Tid, t.cluster.val = n → look (testCluster s n).threads (tidNum t) = none) ∧
    (∀ t : Tid, t.cluster.val ≠ n → thread (testCluster s n) t = thread s t) ∧
    (∀ a, readByte (testCluster s n) a = if clusterBytes n a then 0 else readByte s a) ∧
    (testCluster s n).frames = s.frames ∧ (testCluster s n).classes = s.classes ∧
    (cluster (testCluster s n) n).testing = true ∧ clusterRole (testCluster s n) n = 4 := by
  obtain ⟨v, hv, hu⟩ := exists_testCluster_eq s n
  obtain ⟨-, -, hf, hc, hw⟩ := clearCluster_fields (stoppedCluster s n) n
  have hs := stopsOnly_tested hn hi
  have hthreads : ∀ t, look (testCluster s n).threads (tidNum t) =
      if t.cluster.val = n then none else look (pairsReset (stoppedCluster s n) n).threads (tidNum t) := fun t => by
    rw [hu, putCluster_threads, setWord_threads, look_threads_clearCluster]
  refine ⟨fun t ht => (hthreads t).trans (if_pos ht), fun t ht => ?_, fun a => ?_, ?_, ?_, ?_, ?_⟩
  · rw [thread, hthreads, if_neg ht]
    exact hs.others t ht
  · rw [hu, readByte_of_putCluster, readByte_of_setWord, readByte_clearCluster, readByte, hs.mem]
    rfl
  · rw [hu, putCluster_frames, setWord_frames, hf, hs.frames]
  · rw [hu, putCluster_classes, setWord_classes, hc, hs.classes]
  · rw [hu, cluster_putCluster, hv]
  · have hword : word (clearCluster (stoppedCluster s n) n) (cluAddr n 0) =
        word (pairsReset (stoppedCluster s n) n) (cluAddr n 0) := by rw [word, hw, word]
    rw [hu, clusterRole_putCluster, clusterRole_setWord_ne _ _ _ _ (by unfold cluAddr; omega),
      clusterRole_congr hword, clusterRole_pairsReset, clusterRole_stoppedCluster hn]

end

/-- Settles O56: requests and tests by their steps, the moves of work by what a move touches, and the clearing of a
cluster by what the stop of its cores leaves as it is. -/
theorem clusterResets : Obligations.ClusterResets := by
  intro c sp pass dusk s n role move mine spare clusterIs
  have hn : n < 17 := c.isLt
  refine ⟨fun hw => ⟨fun hr ha => runs_clusterReset_out hn hw hr ha, fun hr hs hm => ?_, fun hr hs => ?_⟩,
    fun hw hr hs => runs_rstSpare hn hw hr hs, fun hc hr hs hne => clusterRole_spareEffect hs hr hne hc.2.1 dusk,
    fun _ hf ht => ?_, fun hl hb hs hne hf hm => runs_spareTakeover hne hl hb hs hf hm,
    fun hl hr ht hc => runs_clusterTestsDone hl hr ht hc, fun hc hu => ⟨recorded_takeRole hn hu,
      clusterRole_takeRole hn hu hc, rstSpare_takeRole hn hu hc⟩⟩
  · exact runs_clusterReset hw (clusterResetStep_active hn hr hs hm) rfl
  · exact runs_clusterReset_noSpare hn hw hr hs
  · have hi : IdleCluster n s := ⟨fun p hp => ⟨(hf p hp).1, fun t h => (hf p hp).2 t (Fin.ext h)⟩,
      fun t h => ht t (Fin.ext h)⟩
    obtain ⟨hown, hother, hbytes, hrest⟩ := testCluster_clears hn hi
    have hmine : ∀ a, clusterBytes n a = true ↔ mine a := fun a => by
      simp only [clusterBytes, Bool.or_eq_true, decide_eq_true_eq]
      rfl
    exact ⟨fun t h => hown t (congrArg Fin.val h), fun t h => hother t fun e => h (Fin.ext e),
      fun a h => (hbytes a).trans (if_pos ((hmine a).2 h)),
      fun a h => (hbytes a).trans (if_neg fun e => h ((hmine a).1 e)), hrest⟩

end Sys2Proof.Machine
end

section
/-! SUPPORT. What a GO requests, and what a refused one shows (R39, R40, R515). -/

namespace Sys2Proof.Machine

open Sys2Proof

/-! ### The write of a GO register -/

theorem runs_go {i : Instr} {fn : FnId} {off : Nat} {step : State → State} {s : State} {P : State → Prop}
    (hi : exec i s = act s fun s => writeAs s fn off step) (hw : MayWrite s fn off) (hp : P (step s)) : Runs i s P :=
  runs_act hw.1 hi (by rwa [writeAs_mayWrite hw])

/-- A commit request touches the uncommitted values and the commits to come only. -/
theorem requestCommit_regs (s : State) (b : Blk) (fn : FnId) :
    requestCommit s b fn .regs = { s with
        shadow := (requestCommit s b fn .regs).shadow, commits := (requestCommit s b fn .regs).commits } ∧
      Requests b fn s (requestCommit s b fn .regs) := ⟨rfl, rfl, rfl⟩

theorem setRf_eq (s : State) (a hi lo v : Nat) :
    setRf s a hi lo v = { s with words := (setRf s a hi lo v).words } := rfl

/-- A request after a write of register words. -/
theorem requestCommit_words {s u : State} (hu : u = { s with words := u.words }) (b : Blk) (fn : FnId) :
    Requests b fn s (requestCommit u b fn .regs) ∧ requestCommit u b fn .regs = { s with
      shadow := (requestCommit u b fn .regs).shadow, commits := (requestCommit u b fn .regs).commits
      words := (requestCommit u b fn .regs).words } := by
  rw [hu]
  exact ⟨⟨rfl, rfl⟩, rfl⟩

/-- A block whose status has no REFUSAL requests its commit, or records an event with code 1 (R46, R485). -/
theorem commitIf_accepted (s : State) (b : Blk) (fn : FnId) (src : Nat) :
    commitIf s true b fn src = requestCommit s b fn .regs := rfl

theorem commitIf_refused (s : State) (b : Blk) (fn : FnId) (src : Nat) :
    commitIf s false b fn src = { s with
        words := (commitIf s false b fn src).words, recorder := (commitIf s false b fn src).recorder } ∧
      WordsKept [0x401000 + src * 4, 0x400010] s (commitIf s false b fn src) ∧
      Recorded src 0x05 (2 ^ 32) s (commitIf s false b fn src) :=
  ⟨event_eq _ _ _ _ _ _ _, wordsKept_event _ _ _ _ _ _ _, recorded_event s src evCommit (detail 0 1) _ _ _⟩

/-! ### REFUSAL -/

theorem fld_setFld_refusal (w : Word) (v : Nat) : fld (setFld w 15 8 v) 15 8 = v % 256 := by
  have := w.isLt
  simp only [fld, setFld, bits, BitVec.toNat_ofNat]
  omega

theorem rf_setRefusal (s : State) (a v : Nat) (h : sparseWf resetWord s.words) :
    rf (setRefusal s a v) a 15 8 = v % 256 := by
  rw [rf, setRefusal, setRf, word_setWord _ _ _ _ h, if_pos rfl, fld_setFld_refusal]

section
variable (s : State) (b : Blk) (fn : FnId) (status src obj : Nat)

theorem decideNamed_accepted : Requests b fn s (decideNamed s b fn status 0 src obj) ∧
    decideNamed s b fn status 0 src obj = { s with
      shadow := (decideNamed s b fn status 0 src obj).shadow
      commits := (decideNamed s b fn status 0 src obj).commits
      words := (setRf s status 15 8 0).words } := ⟨⟨rfl, rfl⟩, rfl⟩

variable {code : Nat} (hc : code ≠ 0)
include hc

theorem decideNamed_refused : decideNamed s b fn status code src obj =
    event (setRefusal s status code) src evCommit (detail obj code) (fnTenancy (setRefusal s status code) fn) := by
  simp [decideNamed, decideCommit, hc]

/-- A refused GO changes the register words and the recorder only. -/
theorem decideNamed_refused_eq : decideNamed s b fn status code src obj = { s with
    words := (decideNamed s b fn status code src obj).words
    recorder := (decideNamed s b fn status code src obj).recorder } := by
  rw [decideNamed_refused s b fn status src obj hc, event_eq]
  rfl

theorem rf_decideNamed_refused (h : sparseWf resetWord s.words) (hlt : code < 256)
    (hsrc : src < 512) (hs : 0x500000 ≤ status) :
    rf (decideNamed s b fn status code src obj) status 15 8 = code := by
  rw [decideNamed_refused s b fn status src obj hc, rf_congr (word_event_ne _ _ _ _ _ _ (by omega) (by omega)),
    rf_setRefusal _ _ _ h, Nat.mod_eq_of_lt hlt]

end

/-- What a GO does in a block with a REFUSAL field, when its refusal is `code` (R515). -/
abbrev Judged (i : Instr) (b : Blk) (fn : FnId) (status code : Nat) (s : State) : Prop :=
  (code = 0 → Runs i s fun u => Requests b fn s u ∧
    u = { s with shadow := u.shadow, commits := u.commits, words := (setRf s status 15 8 0).words }) ∧
  (code ≠ 0 → Runs i s fun u => u.shadow = s.shadow ∧ u.commits = s.commits ∧ u.mem = s.mem ∧
    u = { s with words := u.words, recorder := u.recorder } ∧ (Canonical s → code < 256 → rf u status 15 8 = code))

theorem judged_decideNamed {i : Instr} {fn : FnId} {off : Nat} {step : State → State} {s : State} {b : Blk}
    {status code : Nat} (src obj : Nat) (hi : exec i s = act s fun s => writeAs s fn off step)
    (hw : MayWrite s fn off) (hstep : step s = decideNamed s b fn status code src obj) (hsrc : src < 512)
    (hs : 0x500000 ≤ status) : Judged i b fn status code s := by
  refine ⟨fun hc => runs_go hi hw ?_, fun hc => runs_go hi hw ?_⟩
  · subst hc
    rw [hstep]
    exact decideNamed_accepted ..
  · rw [hstep]
    have hf := decideNamed_refused_eq s b fn status src obj hc
    refine ⟨by rw [hf], by rw [hf], by rw [hf], hf, fun hcan hlt => ?_⟩
    exact rf_decideNamed_refused s b fn status src obj hc hcan.2.1 hlt hsrc hs

/-! ### The scheduler's commit -/

/-- A set of uncommitted values without calendar bits is one commit of the next round (R329, R338). -/
theorem schCommitStep_plain {fn : FnId} {s : State} (hr : schRefusal s fn = 0)
    (hx : ∀ x ∈ s.shadow, x.blk = .sch → x.fn = fn → calendarMask x.addr = 0 ∧ x.mask ≠ 0) :
    schCommitStep fn s = requestCommit (setRf s (schWin fn 4) 15 8 0) .sch fn .regs := by
  have hmine : ∀ x ∈ s.shadow.filter (fun x => x.blk == .sch && x.fn == fn),
      calendarMask x.addr = 0 ∧ x.mask ≠ 0 := fun x hm => by
    obtain ⟨hm, hb⟩ := List.mem_filter.1 hm
    obtain ⟨hb, hf⟩ := Bool.and_eq_true_iff.1 hb
    exact hx x hm (eq_of_beq hb) (eq_of_beq hf)
  have hcal : (s.shadow.filter fun x => x.blk == .sch && x.fn == fn).filterMap (fun x =>
      if x.mask &&& calendarMask x.addr = 0 then none else some (x.addr, x.mask &&& calendarMask x.addr, x.val)) = [] :=
    List.filterMap_eq_nil_iff.2 fun x hm => by simp [(hmine x hm).1]
  have hrest : (s.shadow.filter fun x => x.blk == .sch && x.fn == fn).filterMap (fun x =>
      if x.mask &&& ~~~calendarMask x.addr = 0 then none
      else some (x.addr, x.mask &&& ~~~calendarMask x.addr, x.val)) =
      (s.shadow.filter fun x => x.blk == .sch && x.fn == fn).map fun x => (x.addr, x.mask, x.val) := by
    rw [← List.filterMap_eq_map]
    refine List.filterMap_congr fun x hm => ?_
    obtain ⟨hz, hm⟩ := hmine x hm
    have hall : x.mask &&& ~~~(0 : Word) = x.mask := BitVec.and_allOnes
    rw [hz, hall, if_neg hm]
    rfl
  unfold schCommitStep
  rw [hr]
  extract_lets code u mine cut cal rest
  have hu : u.shadow = s.shadow := setRf_shadow ..
  have hc : cal = [] := by simpa only [cal, cut, mine, hu] using hcal
  have hm : rest = mine.map fun x => (x.addr, x.mask, x.val) := by
    simpa only [rest, cut, mine, hu] using hrest
  rw [if_neg (not_not.2 rfl), hc, hm]
  simp only [List.isEmpty_nil, if_true, List.append_nil]
  rfl

/-! ### The peer windows' commit -/

/-- An accepted commit of the peer windows shows no refusal and no window (R408). -/
theorem pwnCommitStep_accepted {s : State} (hr : pwnRefusal s = none) : pwnCommitStep pf0 s =
    requestCommit (setRf (setRf (setRefusal s 0x802004 0) 0x802004 21 16 0) 0x802004 22 22 0) .pwn pf0 .regs := by
  simp only [pwnCommitStep, ne_eq, not_true, if_false, hr]

/-! ### Every block -/

/-- Settles O23, block by block: the GO of each is a request, or a refusal that is shown or recorded. -/
theorem goRequestsCommit : Obligations.GoRequestsCommit := by
  intro fn cl tb grp g s frame plain either judged
  have hplain : ∀ {i off b step}, (exec i s = act s fun s => writeAs s fn off step) →
      step s = requestCommit s b fn .regs → plain i off b := fun hi hs hw =>
    runs_go hi hw (by rw [hs]; exact requestCommit_regs ..)
  have heither : ∀ {i off b src ok step}, (exec i s = act s fun s => writeAs s fn off step) →
      step s = commitIf s ok b fn src → either i off b src ok := fun hi hs =>
    ⟨fun ha => hplain hi (by rw [hs, ha, commitIf_accepted]),
      fun ha hw => runs_go hi hw (by rw [hs, ha]; exact commitIf_refused ..)⟩
  refine ⟨fun hf => ?_, fun hp => ?_, heither rfl rfl, fun hf => ?_, fun hf hsum => ?_, fun hw => ?_, fun hp hw => ?_,
    fun hf hw => ?_, fun hp hw => ?_, fun hp hw => ?_, fun hf hr hw => runs_go rfl hw ?_,
    fun hr hx hw => runs_go rfl hw ?_⟩
  · exact hplain rfl (by simp [cluCommitStep, hf])
  · exact heither (src := srcTables) rfl (by simp [tblAuxCommitStep, hp])
  · exact hplain rfl (by simp [tenCommitStep, hf])
  · exact hplain rfl (by simp [stoCommitStep, hf, hf ▸ hsum])
  · exact judged_decideNamed srcClassifier 0 rfl hw (by simp [clsCommitStep]) (by decide) (by unfold fnWordAddr; omega)
  · exact judged_decideNamed srcTables tb.val rfl hw (by simp [tblCommitStep, hp]) (by decide)
      (by unfold tblAddr; omega)
  · exact judged_decideNamed (srcPort (4 * grp.val)) grp.val rfl hw (by simp [macGrpCommitStep, hf])
      (by unfold srcPort; omega) (by unfold grpAddr; omega)
  · exact judged_decideNamed srcRelease g.val rfl hw (by simp [seqGrpCommitStep, hp]) (by decide)
      (by unfold seqAddr; omega)
  · exact judged_decideNamed srcRelease 0 rfl hw (by simp [seqFoCommitStep, hp]) (by decide) (by omega)
  · rw [hf, pwnCommitStep_accepted hr]
    exact requestCommit_words (by rw [setRf_eq, setRf_eq, setRefusal, setRf_eq s]) .pwn pf0
  · rw [schCommitStep_plain hr hx]
    exact and_assoc.1 (requestCommit_words (setRf_eq ..) .sch fn)

end Sys2Proof.Machine
end

section
/-! SUPPORT. A tick in which the records of a timebase step are due (R266). -/

namespace Sys2Proof.Machine

open Sys2Proof

/-- A device in the first tick of round 1, at whose boundary a commit moved the timebase by one unit: the records of
the step are due at the end of the tick. Nothing else is under way. -/
def stepTaken : State := { State.reset with
  tick := 256, words := [(0x100000, 2), (0x300088, 1)]
  tbs := { stepDue := some ⟨1, false, [], 0⟩, stepsSinceHealth := 1, stepRounds := [1] } }

/-- The records of a step are due no more once the tick of the step has ended. -/
theorem tickStep_stepTaken : (tickStep stepTaken).tbs.stepDue = none := by decide +kernel

/-- Refutes O34: the statement has a tick of a quiet device change no more of the timebase than its counter and its
readings, whatever the timebase holds, and leaves out a step of the last boundary. The first tick of a round whose
boundary stepped the timebase ends with the records of the step (R266), so what was due is due no more. -/
theorem not_ticksAndRounds : ¬ Obligations.TicksAndRounds := by
  intro h
  have hl : Live stepTaken := by decide +kernel
  obtain ⟨htick, -⟩ := h stepTaken hl
  obtain ⟨hu, -⟩ := of_runs_act hl rfl (htick rfl rfl rfl (by intro p hp; cases hp))
  have hdue : (tickStep stepTaken).tbs.stepDue = stepTaken.tbs.stepDue := congrArg (fun u => u.tbs.stepDue) hu
  rw [tickStep_stepTaken] at hdue
  cases hdue

end Sys2Proof.Machine
end

section
/-! SUPPORT. A held frame whose queue's depth was changed after its governing round (R26, R330). -/

namespace Sys2Proof.Machine

open Sys2Proof

/-- Queue 0 of port 4, by its node number. -/
def heldNode : Nat := 4 * 32768

/-- A frame of round 0, held for this queue, that is handed over in tick 1,024. -/
def heldFrame : Frame :=
  { id := 3, stage := .held, src := .port 0, tag := setTag (setTag newTag 8 31 24 dkPort) 12 31 13 heldNode
    bytes := List.replicate 60 0, endTick := 0, wholeTick := 0, round := 0, due := 1028 }

/-- A device in Noon in the first tick of round 4, from which MAX_CELLS of the queue is 100; in earlier rounds it was
0. It holds this one frame. -/
def cellsRaised : State := { State.reset with
  tick := 1024, words := [(0x100000, 2), (queueAddr heldNode 3, 100)], undo := [⟨4, queueAddr heldNode 3, 0⟩]
  versions := [(.sch, 4)], frames := [(3, heldFrame)] }

/-- The frame finds no room in its queue under the MAX_CELLS of its own round, and is dropped. -/
theorem queueHandoverStep_cellsRaised : frame? (queueHandoverStep 3 cellsRaised) 3 = none ∧
    dropCount (queueHandoverStep 3 cellsRaised) (.node heldNode) rsTailDrop = 1 := by decide +kernel

/-- Refutes O38: the statement compares the queue's cells with the MAX_CELLS in force at the hand-over, but a frame
sees the configuration of its governing round at every stage (R26). A commit that raises MAX_CELLS of the queue from 0
to 100 while the frame is inside the device leaves it dropped in its hand-over tick, where the statement has it
join the queue. -/
theorem not_heldFrames : ¬ Obligations.HeldFrames := by
  intro h
  have hl : Live cellsRaised := by decide +kernel
  obtain ⟨-, -, hjoins, -⟩ := h heldFrame 0 cellsRaised hl rfl rfl (Nat.zero_le _) (Nat.zero_le _) rfl rfl rfl rfl
  have htick : handoverTick cellsRaised (tagNode heldFrame.tag / 32768) heldFrame.due ≤ now cellsRaised := by
    decide +kernel
  obtain ⟨-, hframe, -⟩ := of_runs_act hl rfl (hjoins rfl (by decide +kernel) htick (by decide +kernel))
  cases queueHandoverStep_cellsRaised.1.symm.trans hframe

end Sys2Proof.Machine
end

section
/-! SUPPORT. Control descriptors of a send ring: what an accepted one leaves, the table changes that it resolves, and
the completion of MARK (R68–R73). -/

namespace Sys2Proof.Machine

open Sys2Proof

/-! ### An accepted control descriptor -/

/-- The in-band blocks of the tenancies lie above every ring's block. -/
theorem rngAddr_ne_ibAddr {r off : Nat} (hr : r < 65536) (ho : off < 0x40) (t k : Nat) :
    rngAddr r off ≠ ibAddr t k := by
  unfold rngAddr ibAddr
  omega

theorem counted_count {s : State} (hc : Canonical s) (a : Nat) : Counted a s (count s a) :=
  (word_setWord s a _ a hc.2.1).trans (if_pos rfl)

theorem wordsKept_count (s : State) (a : Nat) : WordsKept [a] s (count s a) :=
  fun x hx => word_setWord_ne s a _ x (by simpa using hx)

theorem word_congr {s u : State} (h : u.words = s.words) (a : Nat) : word u a = word s a := by
  rw [word, word, h]

/-- Items of a position that a change of that position leaves are changed ones. -/
theorem of_mem_setItem {s : State} {r pos : Nat} {f : SendItem → SendItem} {j : SendItem}
    (hj : j ∈ (ring (setItem s r pos f) r).items) (hp : j.pos = pos) : ∃ i, j = f i := by
  rw [setItem, ring_putRing] at hj
  obtain ⟨i, -, rfl⟩ := List.mem_map.1 hj
  split at hp
  case isTrue h => exact ⟨i, if_pos h⟩
  case isFalse h => exact absurd hp h

/-- The ring's overlay holds the accepted change from the round of R40 on and the tenancy's count of accepted changes
rose by one; memory, frames and the other registers are as they were (R71, R75). -/
abbrev Accepts (r : Nat) (i : SendItem) (w : OverlayWhat) (P : State → Prop) (s u : State) : Prop :=
  u.overlays = s.overlays ++
      [⟨r, ringTenancy s r, i.pos, now s, effectRound (now s), i.doorbell, ringCq s r, w, false⟩] ∧
    Counted (ibAddr (ringTenancy s r) 4) s u ∧ WordsKept [ibAddr (ringTenancy s r) 4] s u ∧ u.mem = s.mem ∧
    u.frames = s.frames ∧ P u

section
variable {s : State} {r : Nat} {i : SendItem} {d : List Byte}

theorem accepts_acceptControl (hr : r < 65536) (hc : Canonical s) (w : OverlayWhat) :
    Accepts r i w (fun u => u.changes = s.changes) s (acceptControl s r i w) := by
  have hcq : ringCq (count s (ibAddr (ringTenancy s r) 4)) r = ringCq s r :=
    rf_congr (word_setWord_ne s _ _ (rngAddr r 0x10) (rngAddr_ne_ibAddr hr (by decide) _ _)) 15 0
  have hword : ∀ a, word (acceptControl s r i w) a = word (count s (ibAddr (ringTenancy s r) 4)) a := word_congr rfl
  refine ⟨?_, (hword _).trans (counted_count hc _), fun a ha => (hword a).trans (wordsKept_count s _ a ha), rfl, rfl,
    rfl⟩
  rw [← hcq]
  rfl

/-- The same with a table change that joins those to come. -/
theorem accepts_acceptControl_accept (hr : r < 65536) (hc : Canonical s) (w : OverlayWhat) (c : Change) :
    Accepts r i w (fun u => u.changes = s.changes ++ [c]) s (acceptControl (accept s c) r i w) :=
  accepts_acceptControl (s := accept s c) hr hc w

/-- The same with the ring's buckets of a meter filled. -/
theorem accepts_fillOverlay (hr : r < 65536) (hc : Canonical s) (w : OverlayWhat) (m : Nat) :
    Accepts r i w (fun u => u.changes = s.changes) s (fillOverlay (acceptControl s r i w) r m) :=
  accepts_acceptControl hr hc w

/-! ### Processing -/

/-- A control descriptor in its format, on a ring that R72 does not hold back, is processed. -/
theorem controlStep_body {ops : List Nat} (body : State → SendItem → List Byte → List Byte → State)
    (hi : controlItem s r ops = some (i, d)) (hf : controlFormat d = true) (hb : inBandFull s r = false) :
    controlStep r ops body s = body s i d (i.operand.getD []) := by
  simp [controlStep, hi, hf, hb]

theorem resolveInsert_accepts {n part b v : Nat} {key value : List Byte} {moves : List (List Byte × Nat × Nat)}
    (static : Bool) (by_ : Writer) (tick effect : Nat) (hk : keyBad s n part key = false)
    (hv : pendingView s n part key = none) (hp : placement s n part key = some (b, v, moves)) :
    resolveInsert s n part key value static by_ tick effect = (accept s
      ⟨n, part, key, .insert value static b v, by_, tick, effect, moves, true, tick, false, 0, false⟩, tsOk) := by
  simp [resolveInsert, hk, hv, hp]

/-- A change of a present key that no lock stops is accepted. -/
theorem resolveChange_accepts {n part : Nat} {key : List Byte} {op : ChangeOp} (by_ : Writer) (tick effect : Nat)
    (hk : keyBad s n part key = false) (hv : (pendingView s n part key).isSome = true) :
    resolveChange s n part key op false by_ tick effect = (accept s
      ⟨n, part, key, op, by_, tick, effect, [], op != .read, tick, false, 0, false⟩, tsOk) := by
  obtain ⟨v, hv⟩ := Option.isSome_iff_exists.1 hv
  simp [resolveChange, hk, hv]

/-! ### Table changes -/

/-- TARGET of a control descriptor (R68). -/
abbrev controlTarget (d : List Byte) : Nat := descFld d 4 23 0

/-- The partition of the table in TARGET that a ring acts on. -/
abbrev controlPart (s : State) (r : Nat) (d : List Byte) : Nat := partOf (controlTarget d) (ringTenancy s r)

/-- The resolution of a table operation of a ring on a key, once owner, operand and lock are tested (R70). -/
def resolveControl (s : State) (r op : Nat) (i : SendItem) (n part : Nat) (key value : List Byte) (static : Bool) :
    State × Nat :=
  if op = opTableDelete then
    resolveChange s n part key .delete false (.inBand r i.pos) (now s) (effectRound (now s))
  else if op = opTableUpdate ∨ (pendingView s n part key).isSome then
    resolveChange s n part key (.update value none) false (.inBand r i.pos) (now s) (effectRound (now s))
  else resolveInsert s n part key value static (.inBand r i.pos) (now s) (effectRound (now s))

/-- A table operation that resolves to a change is accepted with it. -/
theorem controlTable_accepts {op : Nat} {key value : List Byte} {static : Bool} {c : Change}
    (hi : controlItem s r [op] = some (i, d)) (hf : controlFormat d = true) (hb : inBandFull s r = false)
    (hopen : tableOpen s i.round (controlTarget d) (ringTenancy s r) = true)
    (hlock : ∀ x, findNow s (controlTarget d) (controlPart s r d) key = some x → x.lock = false)
    (hkey : (if op = opTableDelete then operandKey s i.round (controlTarget d) (i.operand.getD [])
      else operandEntry s i.round (controlTarget d) (i.operand.getD [])) = some (key, value, static))
    (hres : resolveControl s r op i (controlTarget d) (controlPart s r d) key value static = (accept s c, tsOk)) :
    controlTable r op s = acceptControl (accept s c) r i .table := by
  unfold resolveControl at hres
  rw [controlTable, controlStep_body _ hi hf hb]
  cases hfind : findNow s (controlTarget d) (controlPart s r d) key with
  | none => simp [hopen, hkey, hfind, hres]
  | some e => simp [hopen, hkey, hfind, hlock e hfind, hres]

/-- A command of a ring whose step accepts its control descriptor. -/
theorem runs_accepts {c : Instr} {step : State → State} {u : State} {w : OverlayWhat} {P : State → Prop}
    (hl : Live s) (hx : exec c s = act s step) (hu : step s = u) (h : Accepts r i w P s u) :
    Runs c s (Accepts r i w P s) :=
  runs_act hl hx (hu ▸ h)

/-! ### MARK -/

theorem markStep_body (hi : controlItem s r [opMark] = some (i, d)) (hf : controlFormat d = true)
    (hb : inBandFull s r = false) : markStep r s =
      setItem (count s (ibAddr (ringTenancy s r) 4)) r i.pos fun j => { j with processed := true } :=
  controlStep_body _ hi hf hb

/-- Memory, frames and the items of every ring: what the writing of completions leaves. -/
def besideCompletions (s : State) : List Host.Cell × Sparse Frame × (Nat → List SendItem) :=
  (s.mem, s.frames, fun r => (ring s r).items)

theorem besideCompletions_putRing (s : State) (n : Nat) (v : RingState) (h : v.items = (ring s n).items) :
    besideCompletions (putRing s n v) = besideCompletions s := by
  have hitems : ∀ r, (ring (putRing s n v) r).items = (ring s r).items := by
    intro r
    by_cases hr : r = n
    · rw [hr, ring_putRing, h]
    · rw [ring, putRing, look_place_ne _ _ _ _ hr]
      rfl
  exact congrArg (fun x => (s.mem, s.frames, x)) (funext hitems)

theorem besideCompletions_countInterrupt (s : State) (cq : Nat) :
    besideCompletions (countInterrupt s cq) = besideCompletions s := by
  simp only [countInterrupt]
  split <;> exact besideCompletions_putRing s cq _ rfl

theorem besideCompletions_writeCompletion (s : State) (c : CplDue) :
    besideCompletions (writeCompletion s c) = besideCompletions s := by
  unfold writeCompletion
  split
  · rfl
  · split
    · rfl
    · refine (besideCompletions_countInterrupt _ _).trans ?_
      split <;> rfl

theorem besideCompletions_flushCompletions (s : State) :
    besideCompletions (flushCompletions s) = besideCompletions s := by
  refine foldl_keeps besideCompletions _ (fun u c _ => ?_) { s with cplDue := [] }
  split
  · exact besideCompletions_writeCompletion u c
  · rfl

/-- A single completion due whose ring takes none stays due. -/
theorem flushCompletions_waits {c : CplDue} (hd : s.cplDue = [c]) (hw : canWrite s c.cq = false) :
    (flushCompletions s).cplDue = [c] := by
  have hw' : canWrite { s with cplDue := [] } c.cq = false := hw
  simp [flushCompletions, hd, hw']

section
variable {o : Nat × Nat} {tick release : Nat} (hi : item? s r i.pos = some i)
include hi

theorem besideCompletions_finishControl :
    besideCompletions (finishControl s r i o tick release) = besideCompletions (withoutItem s r i.pos) := by
  simp only [finishControl, finishItem, hi]
  split <;> rfl

theorem finishControl_due {sl : Nat} (hs : i.slot = some sl) : ∃ bytes, finishControl s r i o tick release =
    { withoutItem s r i.pos with cplDue := s.cplDue ++ [⟨tick, ringCq s r, sl, bytes, r, 1⟩] } := by
  simp only [finishControl, finishItem, hi, hs]
  exact ⟨_, rfl⟩

end

/-- A position does not come before itself. -/
theorem before32_self (p : Nat) : before32 p p = false := by
  have h : sub32 p p = 0 := by unfold sub32; omega
  simp [before32, h]

section
variable (hs : (ring s r).items = [i])
include hs

theorem item?_single : item? s r i.pos = some i := by
  simp [item?, hs]

theorem withoutItem_single : (ring (withoutItem s r i.pos) r).items = [] := by
  simp [withoutItem, hs]

/-- A processed mark that is alone on its ring completes. -/
theorem markCompleteStep_single (hd : i.desc = some d) (hp : i.processed = true) (ho : controlOp d = opMark) :
    markCompleteStep r s = flushCompletions (finishControl s r i ctlAccepted (now s) (compactNow s).toNat) := by
  have ha : framesAhead s r i.pos = false := by simp [framesAhead, hs, before32_self]
  simp [markCompleteStep, hs, hd, hp, ho, ha]

theorem runs_markComplete {ring_ : Fin 65536} (hr : ring_.val = r) (hl : Live s) (hd : i.desc = some d)
    (hp : i.processed = true) (ho : controlOp d = opMark) (hdue : s.cplDue = []) :
    Runs (.markComplete ring_) s fun u => (ring u r).items = [] ∧ u.mem = s.mem ∧ u.frames = s.frames ∧
      ∀ sl, i.slot = some sl → canWrite s (ringCq s r) = false → ∃ bytes,
        u.cplDue = [⟨now s, ringCq s r, sl, bytes, r, 1⟩] := by
  subst hr
  refine runs_act hl (step := markCompleteStep ring_.val) rfl ?_
  rw [markCompleteStep_single hs hd hp ho]
  have hi := item?_single hs
  have hkept := (besideCompletions_flushCompletions _).trans
    (besideCompletions_finishControl (o := ctlAccepted) (tick := now s) (release := (compactNow s).toNat) hi)
  simp only [besideCompletions, Prod.mk.injEq] at hkept
  obtain ⟨hmem, hframes, hitems⟩ := hkept
  refine ⟨(congrFun hitems _).trans (withoutItem_single hs), hmem, hframes, fun sl hsl hw => ?_⟩
  obtain ⟨bytes, hfin⟩ := finishControl_due (o := ctlAccepted) (tick := now s) (release := (compactNow s).toNat) hi hsl
  rw [hfin, hdue]
  exact ⟨bytes, flushCompletions_waits rfl hw⟩

end

end

/-! ### The statement, one lemma for each of its parts -/

section
variable {ring_ : Fin 65536} {i : SendItem} {d : List Byte} {s : State} (hc : Canonical s)
  (hf : controlFormat d = true) (hb : inBandFull s ring_.val = false)
include hc hf hb

section
variable {key value : List Byte} {static : Bool}
  (hopen : tableOpen s i.round (controlTarget d) (ringTenancy s ring_.val) = true)
  (hk : keyBad s (controlTarget d) (controlPart s ring_.val d) key = false)
  (hlock : ∀ x, findNow s (controlTarget d) (controlPart s ring_.val d) key = some x → x.lock = false)
include hopen hk hlock

/-- An insertion of an absent key that finds a place. -/
theorem runs_tableInsert_new {b v : Nat} {moves : List (List Byte × Nat × Nat)}
    (he : operandEntry s i.round (controlTarget d) (i.operand.getD []) = some (key, value, static))
    (hv : pendingView s (controlTarget d) (controlPart s ring_.val d) key = none)
    (hp : placement s (controlTarget d) (controlPart s ring_.val d) key = some (b, v, moves))
    (hl : Live s) (hi : controlItem s ring_.val [opTableInsert] = some (i, d)) :
    Runs (.tableInsert ring_) s (Accepts ring_.val i .table (fun u => u.changes = s.changes ++
      [⟨controlTarget d, controlPart s ring_.val d, key, .insert value static b v,
        .inBand ring_.val i.pos, now s, effectRound (now s), moves, true, now s, false, 0, false⟩]) s) := by
  refine runs_accepts hl rfl (controlTable_accepts hi hf hb hopen hlock he ?_)
    (accepts_acceptControl_accept ring_.isLt hc _ _)
  rw [resolveControl, if_neg (by decide), if_neg (by simp [hv, opTableInsert, opTableUpdate])]
  exact resolveInsert_accepts _ _ _ _ hk hv hp

section
variable (hv : (pendingView s (controlTarget d) (controlPart s ring_.val d) key).isSome = true)
include hv

/-- An insertion of a present key acts as an update of it (assumption 63). -/
theorem accepts_controlTable_present {op : Nat} (ho : op ≠ opTableDelete)
    (he : operandEntry s i.round (controlTarget d) (i.operand.getD []) = some (key, value, static))
    (hi : controlItem s ring_.val [op] = some (i, d)) :
    Accepts ring_.val i .table (fun u => u.changes = s.changes ++
      [⟨controlTarget d, controlPart s ring_.val d, key, .update value none,
        .inBand ring_.val i.pos, now s, effectRound (now s), [], true, now s, false, 0, false⟩]) s
      (controlTable ring_.val op s) := by
  rw [controlTable_accepts hi hf hb hopen hlock ((if_neg ho).trans he) (by
    rw [resolveControl, if_neg ho, if_pos (.inr hv)]
    exact resolveChange_accepts _ _ _ hk hv)]
  exact accepts_acceptControl_accept ring_.isLt hc _ _

theorem runs_tableDelete
    (he : operandKey s i.round (controlTarget d) (i.operand.getD []) = some (key, value, static))
    (hl : Live s) (hi : controlItem s ring_.val [opTableDelete] = some (i, d)) :
    Runs (.tableDelete ring_) s (Accepts ring_.val i .table (fun u => u.changes = s.changes ++
      [⟨controlTarget d, controlPart s ring_.val d, key, .delete,
        .inBand ring_.val i.pos, now s, effectRound (now s), [], true, now s, false, 0, false⟩]) s) :=
  runs_accepts hl rfl (controlTable_accepts hi hf hb hopen hlock he (resolveChange_accepts _ _ _ hk hv))
    (accepts_acceptControl_accept ring_.isLt hc _ _)

end
end

section
variable (hm : controlTarget d < 2 ^ 20)
  (hown : meterOwned s i.round (ringTenancy s ring_.val) (controlTarget d) = true)
include hm hown

theorem runs_meterSet (hrates : leAt d 16 4 ≤ leAt d 20 4) (hl : Live s)
    (hi : controlItem s ring_.val [opMeterSet] = some (i, d)) :
    Runs (.meterSet ring_) s (Accepts ring_.val i
      (.meter (controlTarget d) (leAt d 16 4) (leAt d 20 4) (leAt d 24 4) (leAt d 28 4))
      (fun u => u.changes = s.changes) s) := by
  refine runs_accepts hl rfl ?_ (accepts_fillOverlay ring_.isLt hc _ (controlTarget d))
  refine (controlStep_body _ hi hf hb).trans ?_
  simp only [Nat.not_le.2 hm, hown, Nat.not_lt.2 hrates, Bool.not_true, Bool.false_eq_true, or_self, if_false]

theorem runs_meterFill (hl : Live s) (hi : controlItem s ring_.val [opMeterFill] = some (i, d)) :
    Runs (.meterFill ring_) s (Accepts ring_.val i (.meterFill (controlTarget d))
      (fun u => u.changes = s.changes) s) := by
  refine runs_accepts hl rfl ?_ (accepts_fillOverlay ring_.isLt hc _ (controlTarget d))
  refine (controlStep_body _ hi hf hb).trans ?_
  simp only [Nat.not_le.2 hm, hown, Bool.not_true, Bool.false_eq_true, or_self, if_false, if_true]

end

theorem runs_actionSet {set : RuleSet}
    (hset : ruleSetAt s i.round (ringTenancy s ring_.val) (descFld d 4 23 18) = some set)
    (hrule : (set.rules.any fun x => x.rule == descFld d 4 17 0) = true)
    (hlen : (i.operand.getD []).length = 64) (hlisted : actionListed (i.operand.getD []) = true)
    (hopen : actionOpen s i.round (ringTenancy s ring_.val)
      (setDestination (setTag newTag 0 21 12 (ringTenancy s ring_.val)) (i.operand.getD [])) (i.operand.getD []) = true)
    (hl : Live s) (hi : controlItem s ring_.val [opActionSet] = some (i, d)) :
    Runs (.actionSet ring_) s (Accepts ring_.val i
      (.action (descFld d 4 23 18) (descFld d 4 17 0) (i.operand.getD [])) (fun u => u.changes = s.changes) s) := by
  refine runs_accepts hl rfl ?_ (accepts_acceptControl ring_.isLt hc _)
  rw [controlAction, controlStep_body _ hi hf hb]
  simp only [hset, hrule, hlen, hlisted, hopen, Bool.not_true, Bool.false_eq_true, ne_eq, not_true, or_self, if_false]

theorem runs_mark (hl : Live s) (hi : controlItem s ring_.val [opMark] = some (i, d)) : Runs (.mark ring_) s fun u =>
    u = { s with words := u.words, rings := u.rings } ∧
    Counted (ibAddr (ringTenancy s ring_.val) 4) s u ∧ WordsKept [ibAddr (ringTenancy s ring_.val) 4] s u ∧
    ∀ j ∈ (ring u ring_.val).items, j.pos = i.pos → j.processed = true := by
  refine runs_act hl (step := markStep ring_.val) rfl ?_
  rw [markStep_body hi hf hb]
  refine ⟨rfl, counted_count hc _, wordsKept_count s _, fun j hj hp => ?_⟩
  obtain ⟨k, rfl⟩ := of_mem_setItem hj hp
  rfl

end

/-- Settles O28: an accepted descriptor's step is its entry in the overlay, after the table change that it resolves; a
mark alone on its ring has no frame ahead of it. -/
theorem inBandControls : Obligations.InBandControls := by
  intro ring_ i d key value set s r t n part view bs lays accepts adds same hl hc hf hb
  refine ⟨fun hopen hk hlock => ⟨fun static he => ⟨fun b v moves hv hp hi => ?_,
    fun hv => ⟨fun hi => ?_, fun hi => ?_⟩⟩, fun none_ he hv hi => ?_⟩, fun hm hown => ⟨fun hrates hi => ?_,
    fun hi => ?_⟩, fun hset hrule hlen hlisted hopen hi => ?_, fun hi => ?_, fun hs hd hp ho hdue => ?_⟩
  · exact runs_tableInsert_new hc hf hb hopen hk hlock he hv hp hl hi
  · exact runs_act hl rfl (accepts_controlTable_present hc hf hb hopen hk hlock hv (by decide) he hi)
  · exact runs_act hl rfl (accepts_controlTable_present hc hf hb hopen hk hlock hv (by decide) he hi)
  · exact runs_tableDelete hc hf hb hopen hk hlock hv he hl hi
  · exact runs_meterSet hc hf hb hm hown hrates hl hi
  · exact runs_meterFill hc hf hb hm hown hl hi
  · exact runs_actionSet hc hf hb hset hrule hlen hlisted hopen hl hi
  · exact runs_mark hc hf hb hl hi
  · exact runs_markComplete hs rfl hl hd hp ho hdue

end Sys2Proof.Machine
end

section
/-! SUPPORT. Instructions that raise a fault when they issue (R87, R107, R114, R118–R121, R124–R126). -/

namespace Sys2Proof.Machine

open Sys2Proof

/-! ### The commands of these instructions -/

section
variable (t : Tid) (rd ra : BitVec 5) (sz : MemSize) (lsb sx : Bool) (off : BitVec 12) (s : State)

theorem exec_movh (imm : Imm) : exec (.movh t rd ra imm) s = act s (movhStep t rd ra imm) := rfl
theorem exec_extf (pos lenM1 : BitVec 6) :
    exec (.extf t rd ra pos lenM1) s = act s (extfStep t rd ra pos lenM1) := rfl
theorem exec_insf (pos lenM1 : BitVec 6) :
    exec (.insf t rd ra pos lenM1) s = act s (insfStep t rd ra pos lenM1) := rfl
theorem exec_hld : exec (.hld t rd ra sz lsb sx off) s = act s (hldStep t rd ra sz lsb sx off) := rfl
theorem exec_hst : exec (.hst t rd ra sz lsb off) s = act s (hstStep t rd ra sz lsb off) := rfl
theorem exec_lld : exec (.lld t rd ra sz sx off) s = act s (lldStep t rd ra sz sx off) := rfl
theorem exec_lst : exec (.lst t rd ra sz off) s = act s (lstStep t rd ra sz off) := rfl
theorem exec_sld : exec (.sld t rd ra sz sx off) s = act s (sldStep t rd ra sz sx off) := rfl
theorem exec_sst : exec (.sst t rd ra sz off) s = act s (sstStep t rd ra sz off) := rfl
theorem exec_loop (reg : Bool) (max body : BitVec 10) :
    exec (.loop t ra reg max body) s = act s (loopStep t ra reg max body) := rfl
theorem exec_endl (back : BitVec 10) : exec (.endl t ra back) s = act s (endlStep t ra back) := rfl
theorem exec_call (cd : Cond) (target : BitVec 22) : exec (.call t cd target) s = act s (callStep t cd target) := rfl
theorem exec_ret (cd : Cond) : exec (.ret t cd) s = act s (retStep t cd) := rfl

end

/-! ### Faults of instructions that have issued -/

/-- An instruction that issues does its body on the state in which it has issued. -/
theorem issue_issues {s : State} {t : Tid} {c : Instr} {named : List Dest} {lend : Bool} (hi : Issues s t c named lend)
    (body : State → State) : issue s t c named lend body = body (markIssued s t) :=
  issue_body _ _ _ _ _ _ hi.2.1 hi.2.2

section
variable {t : Tid} {s : State}

/-- A check that an instruction makes first, and that raises the fault. -/
theorem faults_ite {p : Prop} [Decidable p] {code : Nat} {w : Word} {a : DWord} {x : State} (h : p) :
    Faults t code s (if p then raise (markIssued s t) t code w a else x) := by
  rw [if_pos h]
  exact faults_raise ..

@[simp] theorem partition_markIssued : partition (markIssued s t) t = partition s t := by
  simp only [partition, word, words_markIssued]

section
variable {rd ra : BitVec 5} {sz : MemSize} {lsb sx : Bool} {off : BitVec 12}

theorem runs_movh_reserved {imm : Imm} (h : ∃ x, imm.high = some x ∧ 2 ^ 16 ≤ x.toNat)
    (hi : Issues s t (.movh t rd ra imm) [.g rd, .g ra] true) :
    Runs (.movh t rd ra imm) s (Faults t faultIllegal s) := by
  obtain ⟨x, hx, hle⟩ := h
  refine runs_act hi.1 (exec_movh ..) ?_
  rw [movhStep, issue_issues hi]
  exact faults_ite (by rw [movhReserved, hx]; exact decide_eq_true hle)

theorem runs_extf_beyond {pos lenM1 : BitVec 6} (h : 64 < pos.toNat + lenM1.toNat + 1)
    (hi : Issues s t (.extf t rd ra pos lenM1) [.g rd, .g ra] true) :
    Runs (.extf t rd ra pos lenM1) s (Faults t faultIllegal s) := by
  refine runs_act hi.1 (exec_extf ..) ?_
  rw [extfStep, issue_issues hi]
  exact faults_ite h

theorem runs_insf_beyond {pos lenM1 : BitVec 6} (h : 64 < pos.toNat + lenM1.toNat + 1)
    (hi : Issues s t (.insf t rd ra pos lenM1) [.g rd, .g ra] true) :
    Runs (.insf t rd ra pos lenM1) s (Faults t faultIllegal s) := by
  refine runs_act hi.1 (exec_insf ..) ?_
  rw [insfStep, issue_issues hi]
  exact faults_ite h

/-! ### Loads of 8 bytes with SX -/

theorem runs_hld_double_sx (hi : Issues s t (.hld t rd ra .double lsb true off) [.g rd, .g ra] true) :
    Runs (.hld t rd ra .double lsb true off) s (Faults t faultIllegal s) := by
  refine runs_act hi.1 (exec_hld ..) ?_
  rw [hldStep, issue_issues hi]
  exact faults_ite rfl

theorem runs_lld_double_sx (hi : Issues s t (.lld t rd ra .double true off) [.g rd, .g ra] true) :
    Runs (.lld t rd ra .double true off) s (Faults t faultIllegal s) := by
  refine runs_act hi.1 (exec_lld ..) ?_
  rw [lldStep, issue_issues hi]
  exact faults_ite rfl

theorem runs_sld_double_sx (hi : Issues s t (.sld t rd ra .double true off) [.g rd, .g ra] false) :
    Runs (.sld t rd ra .double true off) s (Faults t faultIllegal s) := by
  refine runs_act hi.1 (exec_sld ..) ?_
  rw [sldStep, issue_issues hi]
  exact faults_ite rfl

/-! ### Loads and stores outside their space -/

section
variable (noExt : (sx && sz == .double) = false)
include noExt

theorem runs_hld_outside (h : 512 < (effAddr (thread s t) ra off).toNat + MemSize.bytes sz)
    (hi : Issues s t (.hld t rd ra sz lsb sx off) [.g rd, .g ra] true) :
    Runs (.hld t rd ra sz lsb sx off) s (Faults t faultBound s) := by
  refine runs_act hi.1 (exec_hld ..) ?_
  rw [hldStep, issue_issues hi, thread_markIssued, if_neg (by simp [noExt])]
  exact faults_ite h

theorem runs_lld_outside
    (h : 0x4000 < (effAddr (thread s t) ra off).toNat + MemSize.bytes sz ∨
      (effAddr (thread s t) ra off).toNat % MemSize.bytes sz ≠ 0)
    (hi : Issues s t (.lld t rd ra sz sx off) [.g rd, .g ra] true) :
    Runs (.lld t rd ra sz sx off) s (Faults t faultBound s) := by
  refine runs_act hi.1 (exec_lld ..) ?_
  rw [lldStep, issue_issues hi, thread_markIssued, if_neg (by simp [noExt])]
  exact faults_ite h

theorem runs_sld_outside
    (h : (partition s t).2 < (effAddr (thread s t) ra off).toNat + MemSize.bytes sz ∨
      (effAddr (thread s t) ra off).toNat % MemSize.bytes sz ≠ 0)
    (hi : Issues s t (.sld t rd ra sz sx off) [.g rd, .g ra] false) :
    Runs (.sld t rd ra sz sx off) s (Faults t faultBound s) := by
  refine runs_act hi.1 (exec_sld ..) ?_
  rw [sldStep, issue_issues hi, thread_markIssued, partition_markIssued, if_neg (by simp [noExt])]
  exact faults_ite h

end

theorem runs_hst_outside (h : 512 < (effAddr (thread s t) ra off).toNat + MemSize.bytes sz)
    (hi : Issues s t (.hst t rd ra sz lsb off) [.g rd, .g ra] true) :
    Runs (.hst t rd ra sz lsb off) s (Faults t faultBound s) := by
  refine runs_act hi.1 (exec_hst ..) ?_
  rw [hstStep, issue_issues hi, thread_markIssued]
  exact faults_ite h

theorem runs_lst_outside
    (h : 0x4000 < (effAddr (thread s t) ra off).toNat + MemSize.bytes sz ∨
      (effAddr (thread s t) ra off).toNat % MemSize.bytes sz ≠ 0)
    (hi : Issues s t (.lst t rd ra sz off) [.g rd, .g ra] true) :
    Runs (.lst t rd ra sz off) s (Faults t faultBound s) := by
  refine runs_act hi.1 (exec_lst ..) ?_
  rw [lstStep, issue_issues hi, thread_markIssued]
  exact faults_ite h

theorem runs_sst_outside
    (h : (partition s t).2 < (effAddr (thread s t) ra off).toNat + MemSize.bytes sz ∨
      (effAddr (thread s t) ra off).toNat % MemSize.bytes sz ≠ 0)
    (hi : Issues s t (.sst t rd ra sz off) [.g rd, .g ra] false) :
    Runs (.sst t rd ra sz off) s (Faults t faultBound s) := by
  refine runs_act hi.1 (exec_sst ..) ?_
  rw [sstStep, issue_issues hi, thread_markIssued, partition_markIssued]
  exact faults_ite h

/-! ### Loops, calls and returns -/

theorem runs_loop_reserved {reg : Bool} {max body : BitVec 10} (h : ra = 0 ∨ ra = 31 ∨ body = 0)
    (hi : Issues s t (.loop t ra reg max body) [.g ra] true) :
    Runs (.loop t ra reg max body) s (Faults t faultIllegal s) := by
  refine runs_act hi.1 (exec_loop ..) ?_
  rw [loopStep, issue_issues hi]
  exact faults_ite h

theorem runs_endl_reserved (hi : Issues s t (.endl t ra 0) [.g ra] true) :
    Runs (.endl t ra 0) s (Faults t faultIllegal s) := by
  refine runs_act hi.1 (exec_endl ..) ?_
  rw [endlStep, issue_issues hi]
  exact faults_ite rfl

end

section
variable {cd : Cond} (hc : condOf (thread s t) cd = true)
include hc

theorem runs_call_deep {target : BitVec 22} (h : 4 ≤ (thread s t).depth)
    (hi : Issues s t (.call t cd target) [.p cd.pred, .g 31] true) :
    Runs (.call t cd target) s (Faults t faultIllegal s) := by
  refine runs_act hi.1 (exec_call ..) ?_
  rw [callStep, issue_issues hi, thread_markIssued, if_pos (by rwa [condOf_issued])]
  exact faults_ite h

theorem runs_ret_shallow (h : (thread s t).depth = 0) (hi : Issues s t (.ret t cd) [.p cd.pred, .g 31] true) :
    Runs (.ret t cd) s (Faults t faultIllegal s) := by
  refine runs_act hi.1 (exec_ret ..) ?_
  rw [retStep, issue_issues hi, thread_markIssued, if_pos (by rwa [condOf_issued])]
  exact faults_ite h

end

end

/-- Settles O12: each form makes the check that fails before it does anything else. -/
theorem faultingForms : Obligations.FaultingForms := by
  refine ⟨fun t rd ra imm pos lenM1 lsb off max body reg cd target s => ?_, fun t rt ra sz lsb sx off s => ?_⟩
  · exact ⟨fun h => ⟨runs_extf_beyond h, runs_insf_beyond h⟩, runs_movh_reserved, runs_hld_double_sx,
      runs_lld_double_sx, runs_sld_double_sx, runs_loop_reserved, runs_endl_reserved,
      fun hc => ⟨runs_call_deep hc, runs_ret_shallow hc⟩⟩
  · exact ⟨fun h => ⟨fun hx => runs_hld_outside hx h, runs_hst_outside h⟩,
      fun h => ⟨fun hx => runs_lld_outside hx h, runs_lst_outside h⟩,
      fun h => ⟨fun hx => runs_sld_outside hx h, runs_sst_outside h⟩⟩

end Sys2Proof.Machine
end

section
/-! SUPPORT. What the lock unit does for locks and channels, and the ends of waits (R93–R100, R102, R158, R159). -/

namespace Sys2Proof.Machine

open Sys2Proof

/-! ### Locks and channels by number -/

theorem lock_putLock_ne (s : State) (n m : Nat) (v : Lock) (h : m ≠ n) : lock (putLock s n v) m = lock s m := by
  simp [lock, putLock, look_place_ne _ _ _ _ h]

theorem chan_putChan_ne (s : State) (n m : Nat) (v : Chan) (h : m ≠ n) : chan (putChan s n v) m = chan s m := by
  simp [chan, putChan, look_place_ne _ _ _ _ h]

/-! ### The answer of the lock unit -/

section
variable (s : State) (t : Tid) (rd : BitVec 5) (v : Nat)

theorem answer_eq : answer s t rd v = { s with threads := (answer s t rd v).threads } := rfl

@[simp] theorem now_answer : now (answer s t rd v) = now s := rfl

@[simp] theorem thread_answer : thread (answer s t rd v) t = Filled (thread s t) rd v (now s + 1) := by
  simp only [answer, thread_onThread, fillPend, Filled]

theorem thread_answer_ne {t' : Tid} (h : t' ≠ t) : thread (answer s t rd v) t' = thread s t' :=
  thread_onThread_ne _ _ _ _ h

theorem answered_answer : Answered t rd v s (answer s t rd v) :=
  ⟨answer_eq .., fun _ h => thread_answer_ne _ _ _ _ h, thread_answer ..⟩

end

theorem answered_of_eq {s u : State} {t : Tid} {rd : BitVec 5} {v : Nat} (h : u = answer s t rd v) :
    Answered t rd v s u := h ▸ answered_answer s t rd v

section
variable (s : State) (t : Tid) (n : Nat)

/-! ### A lock taken -/

/-- The state after a thread took the lock, before a lock left behind is counted. -/
def lockTaken (s : State) (t : Tid) (n : Nat) : State :=
  onThread (putLock s (lockNum t.cluster.val n)
    { lock s (lockNum t.cluster.val n) with holder := some t, abandoned := false }) t fun th =>
    { th with locks := th.locks ++ [lockNum t.cluster.val n] }

theorem takeLock_abandoned (h : (lock s (lockNum t.cluster.val n)).abandoned = true) :
    takeLock s t n = (count (lockTaken s t n) (cluAddr t.cluster.val 0x18), 4) := if_pos h

theorem takeLock_clean (h : (lock s (lockNum t.cluster.val n)).abandoned = false) :
    takeLock s t n = (lockTaken s t n, 0) := if_neg (by simp [h])

theorem takeLock_status : (takeLock s t n).2 = if (lock s (lockNum t.cluster.val n)).abandoned then 4 else 0 := by
  cases h : (lock s (lockNum t.cluster.val n)).abandoned
  · rw [takeLock_clean s t n h]
    rfl
  · rw [takeLock_abandoned s t n h]
    rfl

theorem takeLock_fst : ∃ w, (takeLock s t n).1 = { lockTaken s t n with words := w } := by
  cases h : (lock s (lockNum t.cluster.val n)).abandoned
  · rw [takeLock_clean s t n h]
    exact ⟨s.words, rfl⟩
  · rw [takeLock_abandoned s t n h, count_eq]
    exact ⟨_, rfl⟩

/-- Only a lock left behind is counted when it is taken (R100). -/
theorem words_takeLock (h : (lock s (lockNum t.cluster.val n)).abandoned = false) :
    (takeLock s t n).1.words = s.words := by
  rw [takeLock_clean s t n h]
  rfl

theorem takeLock_eq : (takeLock s t n).1 = { s with
    threads := (takeLock s t n).1.threads, locks := (takeLock s t n).1.locks
    words := (takeLock s t n).1.words } := by
  obtain ⟨w, h⟩ := takeLock_fst s t n
  rw [h]
  rfl

@[simp] theorem now_takeLock : now (takeLock s t n).1 = now s := by
  rw [takeLock_eq]
  rfl

theorem lock_takeLock : lock (takeLock s t n).1 (lockNum t.cluster.val n) =
    { lock s (lockNum t.cluster.val n) with holder := some t, abandoned := false } := by
  obtain ⟨w, h⟩ := takeLock_fst s t n
  rw [h]
  exact lock_putLock ..

theorem lock_takeLock_ne {j : Nat} (hj : j ≠ lockNum t.cluster.val n) : lock (takeLock s t n).1 j = lock s j := by
  obtain ⟨w, h⟩ := takeLock_fst s t n
  rw [h]
  exact lock_putLock_ne _ _ _ _ hj

@[simp] theorem thread_takeLock : thread (takeLock s t n).1 t =
    { thread s t with locks := (thread s t).locks ++ [lockNum t.cluster.val n] } := by
  obtain ⟨w, h⟩ := takeLock_fst s t n
  rw [h]
  show thread (lockTaken s t n) t = _
  rw [lockTaken, thread_onThread, thread_of_putLock]

theorem thread_takeLock_ne {t' : Tid} (ht : t' ≠ t) : thread (takeLock s t n).1 t' = thread s t' := by
  obtain ⟨w, h⟩ := takeLock_fst s t n
  rw [h]
  show thread (lockTaken s t n) t' = _
  rw [lockTaken, thread_onThread_ne _ _ _ _ ht, thread_of_putLock]

/-! ### A channel's event count taken -/

theorem takeChan_event (h : 0 < (chan s (chanNum t.cluster.val n)).events) :
    takeChan s t n = (putChan s (chanNum t.cluster.val n) { chan s (chanNum t.cluster.val n) with
      events := (chan s (chanNum t.cluster.val n)).events - 1 }, 256) := if_pos h

theorem takeChan_message (h : ¬0 < (chan s (chanNum t.cluster.val n)).events) : takeChan s t n = (s, 0) := if_neg h

/-! ### LOCK and LOCKW -/

theorem heldByHalted_iff {k : Nat} :
    heldByHalted s k = true ↔ ∃ h, (lock s k).holder = some h ∧ (thread s h).halted = true := by
  unfold heldByHalted
  cases (lock s k).holder <;> simp

theorem holderHalted_eq : holderHalted s t n = { s with
    words := (holderHalted s t n).words, recorder := (holderHalted s t n).recorder } := by
  have h : ∃ d ten, holderHalted s t n =
      event (count s (cluAddr t.cluster.val 0x1C)) (srcCluster (tidOf (tidNum t)).cluster.val) evWait d ten 0x37 :=
    ⟨_, _, rfl⟩
  obtain ⟨d, ten, h⟩ := h
  obtain ⟨w, r, he⟩ := exists_event_eq (count s (cluAddr t.cluster.val 0x1C)) _ evWait d ten 0x37 false
  rw [h, he, count_eq]

section
variable (rd : BitVec 5) (limit : Nat)

theorem beginWait_enters {on : WaitOn} (object : Nat) (hc : cycleSet s t on = []) :
    beginWait s t rd on limit object =
      onThread s t fun th => { th with wait := some ⟨on, now s - 1, limit, rd⟩ } := by
  unfold beginWait
  rw [hc]

theorem lockAct_held (h : lockNum t.cluster.val n ∈ (thread s t).locks) :
    lockAct s t rd n limit = answer s t rd 7 := if_pos (by simpa using h)

variable {s t n}
variable (hk : lockNum t.cluster.val n ∉ (thread s t).locks)
include hk

theorem lockAct_tooMany (h : 8 ≤ (thread s t).locks.length) : lockAct s t rd n limit = answer s t rd 8 :=
  (if_neg (by simpa using hk)).trans (if_pos h)

variable (h8 : (thread s t).locks.length < 8)
include h8

theorem lockAct_free (hf : lockFree (lock s (lockNum t.cluster.val n)) (now s) = true)
    (hw : waitersOn s t.cluster.val (.lock n) = []) :
    lockAct s t rd n limit = answer (takeLock s t n).1 t rd (takeLock s t n).2 := by
  simp [lockAct, hk, Nat.not_le.2 h8, hf, hw]

variable (hf : ¬(lockFree (lock s (lockNum t.cluster.val n)) (now s) = true ∧
  waitersOn s t.cluster.val (.lock n) = []))
include hf

theorem lockAct_haltedHolder (hh : heldByHalted s (lockNum t.cluster.val n) = true) :
    lockAct s t rd n limit = answer (holderHalted s t n) t rd 5 := by
  simp [lockAct, hk, Nat.not_le.2 h8, hf, hh, lkHolderHalted]

variable (hh : heldByHalted s (lockNum t.cluster.val n) = false)
include hh

theorem lockAct_busy : lockAct s t rd n 0 = answer s t rd 1 := by
  simp [lockAct, hk, Nat.not_le.2 h8, hf, hh, lkBusy]

theorem lockAct_waits (hl : 0 < limit) (hc : cycleSet s t (.lock n) = []) : lockAct s t rd n limit =
    onThread s t fun th => { th with wait := some (LockWait.mk (.lock n) (now s - 1) limit rd) } := by
  have h : lockAct s t rd n limit = beginWait s t rd (.lock n) limit n := by
    simp [lockAct, hk, Nat.not_le.2 h8, hf, hh, hl.ne']
  rw [h, beginWait_enters s t rd limit n hc]

end

/-! ### UNLOCK -/

theorem unlockAct_notHeld (rd : BitVec 5) (h : lockNum t.cluster.val n ∉ (thread s t).locks) :
    unlockAct s t rd n = answer s t rd 6 := by
  simp [unlockAct, h, lkNotHeld]

theorem unlockAct_held (rd : BitVec 5) (h : lockNum t.cluster.val n ∈ (thread s t).locks) : unlockAct s t rd n =
    answer (onThread (freeLock s (lockNum t.cluster.val n) (now s) false) t fun th =>
      { th with locks := th.locks.filter (· != lockNum t.cluster.val n) }) t rd 0 := by
  simp [unlockAct, h, lkOk]

end

/-! ### Requests for a lock, one case each -/

section
variable {s : State} {t : Tid} {n : Nat} {rd : BitVec 5} {limit : Nat}

section
variable (hk : lockNum t.cluster.val n ∉ (thread s t).locks) (h8 : (thread s t).locks.length < 8)
include hk h8

theorem lockUnit_lock_free (hf : lockFree (lock s (lockNum t.cluster.val n)) (now s) = true ∧
    waitersOn s t.cluster.val (.lock n) = []) :
    let l := lock s (lockNum t.cluster.val n)
    let u := lockUnit s t (.lock rd n limit)
    (lock u (lockNum t.cluster.val n) = { l with holder := some t, abandoned := false } ∧
      ∀ j, j ≠ lockNum t.cluster.val n → lock u j = lock s j) ∧ ThreadsKept t s u ∧
    u = { s with threads := u.threads, locks := u.locks, words := u.words } ∧
    thread u t = Filled { thread s t with locks := (thread s t).locks ++ [lockNum t.cluster.val n] } rd
      (if l.abandoned then 4 else 0) (now s + 1) ∧
    (l.abandoned = false → u.words = s.words) := by
  intro l u
  have hu : u = answer (takeLock s t n).1 t rd (takeLock s t n).2 := lockAct_free rd limit hk h8 hf.1 hf.2
  clear_value u
  subst hu
  refine ⟨⟨lock_takeLock .., fun j hj => lock_takeLock_ne _ _ _ hj⟩, fun t' h => ?_, ?_, ?_, words_takeLock s t n⟩
  · rw [thread_answer_ne _ _ _ _ h, thread_takeLock_ne _ _ _ h]
  · rw [answer_eq, takeLock_eq]
  · rw [thread_answer, thread_takeLock, takeLock_status, now_takeLock]

theorem lockUnit_lock_haltedHolder (hf : ¬(lockFree (lock s (lockNum t.cluster.val n)) (now s) = true ∧
      waitersOn s t.cluster.val (.lock n) = []))
    (hh : ∃ h, (lock s (lockNum t.cluster.val n)).holder = some h ∧ (thread s h).halted = true) :
    let u := lockUnit s t (.lock rd n limit)
    u = { s with threads := u.threads, words := u.words, recorder := u.recorder } ∧ ThreadsKept t s u ∧
      thread u t = Filled (thread s t) rd 5 (now s + 1) := by
  intro u
  have hu : u = answer (holderHalted s t n) t rd 5 :=
    lockAct_haltedHolder rd limit hk h8 hf ((heldByHalted_iff s).2 hh)
  clear_value u
  subst hu
  have hs := holderHalted_eq s t n
  refine ⟨?_, fun t' h => ?_, ?_⟩
  · rw [answer_eq, hs]
  · rw [thread_answer_ne _ _ _ _ h, hs]
    rfl
  · rw [thread_answer, hs]
    rfl

theorem lockUnit_lock_waits (hf : ¬(lockFree (lock s (lockNum t.cluster.val n)) (now s) = true ∧
      waitersOn s t.cluster.val (.lock n) = []))
    (hh : ¬∃ h, (lock s (lockNum t.cluster.val n)).holder = some h ∧ (thread s h).halted = true) :
    (limit = 0 → Answered t rd 1 s (lockUnit s t (.lock rd n limit))) ∧
    (0 < limit → cycleSet s t (.lock n) = [] → ThreadsKept t s (lockUnit s t (.lock rd n limit)) ∧
      lockUnit s t (.lock rd n limit) = { s with threads := (lockUnit s t (.lock rd n limit)).threads } ∧
      thread (lockUnit s t (.lock rd n limit)) t =
        { thread s t with wait := some ⟨.lock n, now s - 1, limit, rd⟩ }) := by
  have hb : heldByHalted s (lockNum t.cluster.val n) = false :=
    Bool.eq_false_iff.2 fun h => hh ((heldByHalted_iff s).1 h)
  refine ⟨fun hl => ?_, fun hl hc => ?_⟩
  · subst hl
    rw [lockUnit, lockAct_busy rd hk h8 hf hb]
    exact answered_answer ..
  · rw [lockUnit, lockAct_waits rd limit hk h8 hf hb hl hc]
    exact ⟨fun t' h => thread_onThread_ne _ _ _ _ h, rfl, thread_onThread ..⟩

end

theorem lockUnit_unlock_held (h : lockNum t.cluster.val n ∈ (thread s t).locks) :
    let u := lockUnit s t (.unlock rd n)
    (lock u (lockNum t.cluster.val n) =
        { lock s (lockNum t.cluster.val n) with holder := none, freeAt := now s } ∧
      ∀ j, j ≠ lockNum t.cluster.val n → lock u j = lock s j) ∧ ThreadsKept t s u ∧
    u = { s with threads := u.threads, locks := u.locks } ∧
    thread u t = Filled
      { thread s t with locks := (thread s t).locks.filter (· != lockNum t.cluster.val n) } rd 0 (now s + 1) := by
  intro u
  have hu := unlockAct_held s t n rd h
  refine ⟨⟨?_, fun j hj => ?_⟩, fun t' ht => ?_, ?_, ?_⟩
  · refine (congrArg (fun u => lock u _) hu).trans ((lock_putLock ..).trans ?_)
    rw [Bool.or_false]
  · exact (congrArg (fun u => lock u j) hu).trans (lock_putLock_ne _ _ _ _ hj)
  · refine (congrArg (fun u => thread u t') hu).trans ((thread_answer_ne _ _ _ _ ht).trans ?_)
    exact thread_onThread_ne _ _ _ _ ht
  · rw [show u = _ from hu]
    rfl
  · refine (congrArg (fun u => thread u t) hu).trans ((thread_answer ..).trans ?_)
    rw [thread_onThread]
    rfl

end

/-! ### Operations on their way to the lock unit -/

section
variable (t : Tid) (rd ra rb : BitVec 5) (s : State)

theorem exec_lock : exec (.lock t rd ra) s = act s (lockStep t rd ra) := rfl
theorem exec_lockw : exec (.lockw t rd ra rb) s = act s (lockwStep t rd ra rb) := rfl
theorem exec_unlock : exec (.unlock t rd ra) s = act s (unlockStep t rd ra) := rfl
theorem exec_wait : exec (.wait t rd ra rb) s = act s (waitStep t rd ra rb) := rfl
theorem exec_notify : exec (.notify t rd ra) s = act s (notifyStep t rd ra) := rfl
theorem exec_cput : exec (.cput t rd ra rb) s = act s (cputStep t rd ra rb) := rfl
theorem exec_ccommit : exec (.ccommit t rd ra) s = act s (ccommitStep t rd ra) := rfl
theorem exec_cget : exec (.cget t rd ra rb) s = act s (cgetStep t rd ra rb) := rfl
theorem exec_lockGrant : exec (.lockGrant t) s = act s (lockGrantStep t) := rfl
theorem exec_waitLimit : exec (.waitLimit t) s = act s (waitLimitStep t) := rfl

end

section
variable {s u : State} {t : Tid}

theorem onlyThread_thread (h : OnlyThread t s u) (f : Thread → Thread) : OnlyThread t s (onThread u t f) := by
  obtain ⟨hu, hothers, hcores⟩ := h
  refine ⟨?_, fun t' ht => (thread_onThread_ne _ _ _ _ ht).trans (hothers t' ht), hcores⟩
  rw [hu]
  rfl

theorem onlyThreadDue_addDue (h : OnlyThread t s u) (d : Due) : OnlyThreadDue t d s (addDue u d) := by
  obtain ⟨hu, hothers⟩ := h
  refine ⟨?_, hothers⟩
  rw [hu]
  rfl

theorem onlyThreadDue_thread {d : Due} (h : OnlyThreadDue t d s u) (f : Thread → Thread) :
    OnlyThreadDue t d s (onThread u t f) := by
  obtain ⟨hu, hothers, hcores⟩ := h
  refine ⟨?_, fun t' ht => (thread_onThread_ne _ _ _ _ ht).trans (hothers t' ht), hcores⟩
  rw [hu]
  rfl

/-- An operand in range that names an object of the thread's tenancy passes the checks (R93, R132). -/
theorem lockChecked_passes {i : Instr} {v : DWord} {top : Nat} {owned : Bool} {body : State → State}
    (h : v.toNat < top) (ho : owned = true) : lockChecked s t i v top owned body = body s := by
  simp [lockChecked, Nat.not_le.2 h, ho]

variable (s t)

@[simp] theorem lockOwned_markIssued (n : Nat) : lockOwned (markIssued s t) t n = lockOwned s t n := by
  rw [markIssued_eq]
  rfl

@[simp] theorem chanOwned_markIssued (n : Nat) : chanOwned (markIssued s t) t n = chanOwned s t n := by
  rw [markIssued_eq]
  rfl

@[simp] theorem maySend_markIssued (n : Nat) : maySend (markIssued s t) t n = maySend s t n := by
  rw [maySend, thread_markIssued, markIssued_eq]
  rfl

theorem pendTo_await (th : Thread) (rd : BitVec 5) : pendTo th (.g rd) none none = { th with pend := Awaiting th rd } := by
  unfold pendTo Awaiting
  by_cases h : rd = 0
  · rw [if_pos (.inl (congrArg _ h)), if_pos h]
  · rw [if_neg (by simpa using h), if_neg h]

/-- The operation goes to the lock unit, and the result in RD pends. -/
abbrev SentToUnit (t : Tid) (rd : BitVec 5) (phase : Nat) (who : Option Tid) (op : LockOp) (s u : State) : Prop :=
  ToLockUnit t phase who op s u ∧ Advanced t 1 s u ∧ (thread u t).pend = Awaiting (thread s t) rd

theorem thread_toLockUnit (rd : BitVec 5) (phase : Nat) (stays : Bool) (op : LockOp) :
    thread (toLockUnit s t rd phase stays op) t =
      { advance (thread s t) 1 with pend := Awaiting (thread s t) rd } := by
  show thread (onThread s t fun th => pendTo (advance th 1) (.g rd) none none) t = _
  rw [thread_onThread, pendTo_await]
  rfl

variable {s t}

theorem toLockUnit_onlyThread (h : OnlyThread t s u) (rd : BitVec 5) (phase : Nat) (stays : Bool) (op : LockOp) :
    ToLockUnit t phase (if stays then none else some t) op s (toLockUnit u t rd phase stays op) := by
  have hn : now u = now s := by
    rw [h.1]
    rfl
  rw [ToLockUnit, ← hn]
  exact onlyThreadDue_addDue (onlyThread_thread h _) _

variable (s t)

theorem onlyThread_markIssued : OnlyThread t s (markIssued s t) :=
  ⟨markIssued_eq s t, fun _ h => thread_markIssued_ne _ _ _ h, fun n h => core_markIssued_ne s t n h,
    core_markIssued s t⟩

theorem sent_toLockUnit (rd : BitVec 5) (phase : Nat) (stays : Bool) (op : LockOp) :
    SentToUnit t rd phase (if stays then none else some t) op s (toLockUnit (markIssued s t) t rd phase stays op) := by
  refine ⟨toLockUnit_onlyThread (onlyThread_markIssued s t) .., ?_, ?_⟩
  · rw [Advanced, thread_toLockUnit, thread_markIssued]
    rfl
  · rw [thread_toLockUnit, thread_markIssued]
    rfl

end

section
variable {t : Tid} {rd ra rb : BitVec 5} {s : State}

section
variable (hn : (gReg (thread s t) ra).toNat < 4096) (ho : lockOwned s t (gReg (thread s t) ra).toNat = true)
include hn ho

theorem runs_lock (hi : Issues s t (.lock t rd ra) [.g rd, .g ra] false) : Runs (.lock t rd ra) s
    (SentToUnit t rd 1 (some t) (.lock rd (gReg (thread s t) ra).toNat 0) s) := by
  refine runs_act hi.1 (exec_lock ..) ?_
  rw [lockStep, issue_issues hi, thread_markIssued, gReg_issued, lockChecked_passes hn (by rwa [lockOwned_markIssued])]
  exact sent_toLockUnit ..

theorem runs_lockw (hl : (gReg (thread s t) rb).toNat < 65536)
    (hi : Issues s t (.lockw t rd ra rb) [.g rd, .g ra, .g rb] false) : Runs (.lockw t rd ra rb) s
    (SentToUnit t rd 1 (some t) (.lock rd (gReg (thread s t) ra).toNat (gReg (thread s t) rb).toNat) s) := by
  refine runs_act hi.1 (exec_lockw ..) ?_
  rw [lockwStep, issue_issues hi, thread_markIssued, gReg_issued, gReg_issued, if_neg (Nat.not_le.2 hl),
    lockChecked_passes hn (by rwa [lockOwned_markIssued])]
  exact sent_toLockUnit ..

theorem runs_unlock (hi : Issues s t (.unlock t rd ra) [.g rd, .g ra] false) : Runs (.unlock t rd ra) s
    (SentToUnit t rd 0 (some t) (.unlock rd (gReg (thread s t) ra).toNat) s) := by
  refine runs_act hi.1 (exec_unlock ..) ?_
  rw [unlockStep, issue_issues hi, thread_markIssued, gReg_issued,
    lockChecked_passes hn (by rwa [lockOwned_markIssued])]
  exact sent_toLockUnit ..

end

section
variable (hn : (gReg (thread s t) ra).toNat < 1024) (ho : chanOwned s t (gReg (thread s t) ra).toNat = true)
include hn ho

theorem runs_wait (hl : (gReg (thread s t) rb).toNat < 65536)
    (hi : Issues s t (.wait t rd ra rb) [.g rd, .g ra, .g rb] false) : Runs (.wait t rd ra rb) s
    (SentToUnit t rd 1 (some t) (.wait rd (gReg (thread s t) ra).toNat (gReg (thread s t) rb).toNat) s) := by
  refine runs_act hi.1 (exec_wait ..) ?_
  rw [waitStep, issue_issues hi, thread_markIssued, gReg_issued, gReg_issued, if_neg (Nat.not_le.2 hl),
    lockChecked_passes hn (by rwa [chanOwned_markIssued])]
  exact sent_toLockUnit ..

theorem runs_notify (hi : Issues s t (.notify t rd ra) [.g rd, .g ra] false) : Runs (.notify t rd ra) s
    (SentToUnit t rd 1 none (.notify rd (gReg (thread s t) ra).toNat (maySend s t (gReg (thread s t) ra).toNat)) s) := by
  refine runs_act hi.1 (exec_notify ..) ?_
  rw [notifyStep, issue_issues hi, thread_markIssued, gReg_issued,
    lockChecked_passes hn (by rwa [chanOwned_markIssued]), maySend_markIssued]
  exact sent_toLockUnit ..

theorem runs_cput (hi : Issues s t (.cput t rd ra rb) [.g rd, .g ra, .g rb] false) : Runs (.cput t rd ra rb) s
    (SentToUnit t rd 1 (some t) (.cput rd (gReg (thread s t) ra).toNat (gReg (thread s t) rb)
      (maySend s t (gReg (thread s t) ra).toNat)) s) := by
  refine runs_act hi.1 (exec_cput ..) ?_
  rw [cputStep, issue_issues hi, thread_markIssued, gReg_issued,
    lockChecked_passes hn (by rwa [chanOwned_markIssued]), maySend_markIssued, thread_markIssued, gReg_issued]
  exact sent_toLockUnit ..

theorem runs_ccommit (hi : Issues s t (.ccommit t rd ra) [.g rd, .g ra] false) :
    let n := (gReg (thread s t) ra).toNat
    Runs (.ccommit t rd ra) s fun u =>
      ToLockUnit t 1 none (.ccommit rd n (((thread s t).staged.filter fun w => w.1 == n).map fun w => w.2)) s u ∧
      thread u t = { issuedThread s t with
        pc := (thread s t).pc + 4, pend := Awaiting (thread s t) rd
        staged := (thread s t).staged.filter fun w => w.1 != n } := by
  intro n
  refine runs_act hi.1 (exec_ccommit ..) ?_
  rw [ccommitStep, issue_issues hi, thread_markIssued, gReg_issued,
    lockChecked_passes hn (by rwa [chanOwned_markIssued]), thread_markIssued]
  refine ⟨toLockUnit_onlyThread (onlyThread_thread (onlyThread_markIssued s t) _) .., ?_⟩
  rw [thread_toLockUnit, thread_onThread, thread_markIssued]
  rfl

theorem runs_cget (hd : rd ≠ rb ∨ rd = 0) (hi : Issues s t (.cget t rd ra rb) [.g rd, .g ra, .g rb] false) :
    Runs (.cget t rd ra rb) s fun u => ToLockUnit t 1 (some t) (.cget rd rb (gReg (thread s t) ra).toNat) s u ∧
      Advanced t 1 s u ∧
      (thread u t).pend = Awaiting { thread s t with pend := Awaiting (thread s t) rd } rb := by
  refine runs_act hi.1 (exec_cget ..) ?_
  have hd' : ¬(rd = rb ∧ rd ≠ 0) := fun h => hd.elim (· h.1) h.2
  rw [cgetStep, issue_issues hi, thread_markIssued, gReg_issued, if_neg hd',
    lockChecked_passes hn (by rwa [chanOwned_markIssued])]
  refine ⟨onlyThreadDue_thread (toLockUnit_onlyThread (onlyThread_markIssued s t) ..) _, ?_, ?_⟩
  · rw [Advanced, thread_onThread, thread_toLockUnit, thread_markIssued, pendTo_await]
    rfl
  · rw [thread_onThread, thread_toLockUnit, thread_markIssued, pendTo_await]
    rfl

end

end

/-! ### The ends of waits -/

/-- A pending result of a thread once its wait's status `v` has come: usable from a tick on, or at the resume of a
halted thread (R95, R101). -/
def waitResult (th : Thread) (rd : BitVec 5) (v ready : Nat) (p : Pend) : Pend :=
  if p.dest = .g rd then
    (if th.halted then { p with val := some (BitVec.ofNat 64 v) } else ⟨.g rd, some (BitVec.ofNat 64 v), some ready⟩)
  else p

theorem waitResult_running {th : Thread} (rd : BitVec 5) (v ready : Nat) (h : th.halted = false) (p : Pend) :
    waitResult th rd v ready p =
      if p.dest = .g rd then ⟨.g rd, some (BitVec.ofNat 64 v), some ready⟩ else p := by simp [waitResult, h]

theorem waitResult_halted {th : Thread} (rd : BitVec 5) (v ready : Nat) (h : th.halted = true) (p : Pend) :
    waitResult th rd v ready p =
      if p.dest = .g rd then { p with val := some (BitVec.ofNat 64 v) } else p := by simp [waitResult, h]

section
variable (s : State) (t : Tid) (w : LockWait) (v : Nat)

theorem thread_endWait : thread (endWait s t w v) t = { thread s t with
    wait := none, pend := (thread s t).pend.map (waitResult (thread s t) w.rd v (now s + 1)) } := by
  rw [endWait, thread_onThread]
  cases h : (thread s t).halted
  · simp [fillPend, h, funext (waitResult_running w.rd v (now s + 1) h)]
  · simp [h, funext (waitResult_halted w.rd v (now s + 1) h)]

theorem thread_endWait_ne {t' : Tid} (h : t' ≠ t) : thread (endWait s t w v) t' = thread s t' :=
  thread_onThread_ne _ _ _ _ h

theorem words_endWait : (endWait s t w v).words = s.words := rfl

theorem endWait_eq : endWait s t w v = { s with threads := (endWait s t w v).threads } := rfl

/-- No waiter is ahead of the first one (R96). -/
theorem aheadOf_first {on : WaitOn} (h : firstWaiter s t on = true) : aheadOf s t on = 0 := by
  unfold firstWaiter at h
  unfold aheadOf
  cases hw : waitersOn s t.cluster.val on with
  | nil => rfl
  | cons x l =>
    rw [hw] at h
    have hx : x.1 = tidNum t := by simpa using h
    simp [hx]

end

section
variable {s : State} {t : Tid} {w : LockWait} {n : Nat} (hw : (thread s t).wait = some w)
include hw

section
variable (hi : w.issue < now s ∧ now s ≤ w.issue + 1 + w.limit ∧ firstWaiter s t w.on = true)
include hi

theorem lockGrantStep_lock (hon : w.on = .lock n) (hf : lockFree (lock s (lockNum t.cluster.val n)) (now s) = true) :
    lockGrantStep t s = endWait (takeLock s t n).1 t w (takeLock s t n).2 := by
  obtain ⟨hlate, hlim, hfirst⟩ := hi
  rw [hon] at hfirst
  simp [lockGrantStep, hw, Nat.not_le.2 hlate, Nat.not_lt.2 hlim, grantable, hon, hf, hfirst]

theorem lockGrantStep_chan (hon : w.on = .chan n)
    (hc : (chan s (chanNum t.cluster.val n)).messages ≠ [] ∨ 0 < (chan s (chanNum t.cluster.val n)).events) :
    lockGrantStep t s = endWait (takeChan s t n).1 t w (takeChan s t n).2 := by
  obtain ⟨hlate, hlim, hfirst⟩ := hi
  have hg : chanGrants (chan s (chanNum t.cluster.val n)) (aheadOf s t w.on) = true := by
    rw [aheadOf_first s t hfirst]
    simpa [chanGrants] using hc
  rw [hon] at hfirst hg
  simp [lockGrantStep, hw, Nat.not_le.2 hlate, Nat.not_lt.2 hlim, grantable, hon, hg, hfirst]

end

theorem waitLimitStep_past (h : w.issue + 1 + w.limit < now s) :
    waitLimitStep t s = endWait (count s (cluAddr t.cluster.val 0x20)) t w 2 := by
  simp [waitLimitStep, hw, Nat.not_lt.2 h.le, h.ne', lkWaitLimit]

/-- The state after a wait of `w` ended on `t` with status `v`, the thread holding `locks` (R95). -/
abbrev WaitEnded (t : Tid) (w : LockWait) (locks : List Nat) (v : Nat) (s u : State) : Prop :=
  ThreadsKept t s u ∧ thread u t = { thread s t with
    wait := none, locks := locks, pend := (thread s t).pend.map (waitResult (thread s t) w.rd v (now s + 1)) }

variable (hl : Live s)
include hl

theorem runs_lockGrant_lock (hon : w.on = .lock n)
    (hi : w.issue < now s ∧ now s ≤ w.issue + 1 + w.limit ∧ firstWaiter s t w.on = true)
    (hf : lockFree (lock s (lockNum t.cluster.val n)) (now s) = true) :
    let k := lockNum t.cluster.val n
    Runs (.lockGrant t) s fun u =>
      lock u k = { lock s k with holder := some t, abandoned := false } ∧ (∀ j, j ≠ k → lock u j = lock s j) ∧
      u = { s with threads := u.threads, locks := u.locks, words := u.words } ∧
      WaitEnded t w ((thread s t).locks ++ [k]) (if (lock s k).abandoned then 4 else 0) s u := by
  intro k
  refine runs_act hl (exec_lockGrant ..) ?_
  rw [lockGrantStep_lock hw hi hon hf]
  refine ⟨lock_takeLock .., fun j hj => lock_takeLock_ne _ _ _ hj, ?_, fun t' ht => ?_, ?_⟩
  · rw [endWait_eq, takeLock_eq]
  · rw [thread_endWait_ne _ _ _ _ ht, thread_takeLock_ne _ _ _ ht]
  · rw [thread_endWait, thread_takeLock, takeLock_status, now_takeLock]
    rfl

theorem runs_lockGrant_chan (hon : w.on = .chan n)
    (hi : w.issue < now s ∧ now s ≤ w.issue + 1 + w.limit ∧ firstWaiter s t w.on = true)
    (hc : (chan s (chanNum t.cluster.val n)).messages ≠ [] ∨ 0 < (chan s (chanNum t.cluster.val n)).events) :
    let q := chanNum t.cluster.val n
    let c := chan s q
    Runs (.lockGrant t) s fun u =>
      chan u q = (if 0 < c.events then { c with events := c.events - 1 } else c) ∧
      (∀ j, j ≠ q → chan u j = chan s j) ∧ u = { s with threads := u.threads, chans := u.chans } ∧
      WaitEnded t w (thread s t).locks (if 0 < c.events then 256 else 0) s u := by
  intro q c
  refine runs_act hl (exec_lockGrant ..) ?_
  rw [lockGrantStep_chan hw hi hon hc]
  by_cases he : 0 < c.events
  · rw [takeChan_event _ _ _ he, if_pos he, if_pos he]
    exact ⟨chan_putChan .., fun j hj => chan_putChan_ne _ _ _ _ hj, rfl,
      fun t' ht => thread_endWait_ne _ _ _ _ ht, thread_endWait ..⟩
  · rw [takeChan_message _ _ _ he, if_neg he, if_neg he]
    exact ⟨rfl, fun _ _ => rfl, rfl, fun t' ht => thread_endWait_ne _ _ _ _ ht, thread_endWait ..⟩

theorem runs_waitLimit (h : w.issue + 1 + w.limit < now s) : Runs (.waitLimit t) s fun u =>
    u = { s with threads := u.threads, words := u.words } ∧
    u.words = (count s (cluAddr t.cluster.val 0x20)).words ∧ WaitEnded t w (thread s t).locks 2 s u := by
  refine runs_act hl (exec_waitLimit ..) ?_
  rw [waitLimitStep_past hw h]
  refine ⟨?_, words_endWait .., fun t' ht => ?_, ?_⟩
  · rw [endWait_eq, count_eq]
  · rw [thread_endWait_ne _ _ _ _ ht, thread_of_count]
  · rw [thread_endWait, thread_of_count, now_of_count]

end

/-- Settles O20: the operations issue towards the lock unit, the lock unit answers each request for a lock by one case,
and the ends of waits go through the lock or channel that they take. -/
theorem locksAndWaits : Obligations.LocksAndWaits := by
  refine ⟨fun t rd ra rb s => ⟨fun hn ho => ?_, fun hn ho => ?_⟩, fun t rd n limit s => ?_, fun t w n s => ?_⟩
  · exact ⟨runs_lock hn ho, runs_lockw hn ho, runs_unlock hn ho⟩
  · exact ⟨runs_wait hn ho, runs_notify hn ho, runs_cput hn ho, runs_ccommit hn ho, runs_cget hn ho⟩
  · intro th k l free haltedHolder ask back newLock _
    refine ⟨fun h => ?_, fun hk h => ?_, fun hk h8 hf => lockUnit_lock_free hk h8 hf,
      fun hk h8 hf hh => lockUnit_lock_waits hk h8 hf hh, fun hk h8 hf hh => lockUnit_lock_haltedHolder hk h8 hf hh,
      fun h => ?_, lockUnit_unlock_held⟩
    · exact answered_of_eq (lockAct_held s t n rd limit h)
    · exact answered_of_eq (lockAct_tooMany rd limit hk h)
    · exact answered_of_eq (unlockAct_notHeld s t n rd h)
  · intro th k l q c filled ended inTime hl _ hw
    exact ⟨fun hon hi hf => runs_lockGrant_lock hw hl hon hi hf, fun hon hi hc => runs_lockGrant_chan hw hl hon hi hc,
      runs_waitLimit hw hl⟩

end Sys2Proof.Machine
end

section
/-! SUPPORT. What the lock unit does for channel operations (R97, R98, R158, R159). -/

namespace Sys2Proof.Machine

open Sys2Proof

variable {s : State} {t : Tid} {rd rb : BitVec 5} {n : Nat}

/-- The lock unit answered status `st` and left `c` in channel `k`, and nothing else changed (R97, R98). -/
abbrev ChanAnswered (t : Tid) (rd : BitVec 5) (k : Nat) (c : Chan) (st : Nat) (s u : State) : Prop :=
  chan u k = c ∧ (∀ j, j ≠ k → chan u j = chan s j) ∧ ThreadsKept t s u ∧
    thread u t = Filled (thread s t) rd st (now s + 1) ∧ u = { s with threads := u.threads, chans := u.chans }

theorem chanAnswered_put (s : State) (t : Tid) (rd : BitVec 5) (k : Nat) (c : Chan) (st : Nat) :
    ChanAnswered t rd k c st s (answer (putChan s k c) t rd st) :=
  ⟨chan_putChan .., fun _ h => chan_putChan_ne _ _ _ _ h, fun _ h => thread_answer_ne _ _ _ _ h, thread_answer .., rfl⟩

theorem chanAnswered_kept (s : State) (t : Tid) (rd : BitVec 5) (k st : Nat) :
    ChanAnswered t rd k (chan s k) st s (answer s t rd st) :=
  ⟨rfl, fun _ _ => rfl, fun _ h => thread_answer_ne _ _ _ _ h, thread_answer .., rfl⟩

/-! ### WAIT -/

theorem waitAct_event (limit : Nat) (h : (waitersOn s t.cluster.val (.chan n)).length <
      (chan s (chanNum t.cluster.val n)).events) :
    waitAct s t rd n limit = answer (putChan s (chanNum t.cluster.val n) { chan s (chanNum t.cluster.val n) with
      events := (chan s (chanNum t.cluster.val n)).events - 1 }) t rd 256 := by
  have hg : chanGrants (chan s (chanNum t.cluster.val n)) (waitersOn s t.cluster.val (.chan n)).length = true := by
    simp [chanGrants, h]
  simp only [waitAct, hg, h, if_true, takeChan_event s t n (Nat.zero_lt_of_lt h)]

theorem waitAct_message (limit : Nat) (hm : (chan s (chanNum t.cluster.val n)).messages ≠ [])
    (h : ¬(waitersOn s t.cluster.val (.chan n)).length < (chan s (chanNum t.cluster.val n)).events) :
    waitAct s t rd n limit = answer s t rd 0 := by
  simp [waitAct, chanGrants, hm, h, lkOk]

theorem waitAct_empty (hm : (chan s (chanNum t.cluster.val n)).messages = [])
    (h : (chan s (chanNum t.cluster.val n)).events ≤ (waitersOn s t.cluster.val (.chan n)).length) :
    waitAct s t rd n 0 = answer s t rd 9 := by
  simp [waitAct, chanGrants, hm, Nat.not_lt.2 h, lkEmpty]

/-- A WAIT behind others takes an event count that they leave, or a message (R98). -/
theorem waitAct_granted (limit : Nat)
    (h : (chan s (chanNum t.cluster.val n)).messages ≠ [] ∨
      (waitersOn s t.cluster.val (.chan n)).length < (chan s (chanNum t.cluster.val n)).events) :
    let c := chan s (chanNum t.cluster.val n)
    let ahead := (waitersOn s t.cluster.val (.chan n)).length
    ChanAnswered t rd (chanNum t.cluster.val n) (if ahead < c.events then { c with events := c.events - 1 } else c)
      (if ahead < c.events then 256 else 0) s (waitAct s t rd n limit) := by
  intro c ahead
  by_cases he : ahead < c.events
  · rw [waitAct_event limit he, if_pos he, if_pos he]
    exact chanAnswered_put ..
  · rw [waitAct_message limit (h.resolve_right he) he, if_neg he, if_neg he]
    exact chanAnswered_kept ..

/-! ### CPUT and CCOMMIT -/

theorem cputAct_full (x : DWord) (h : 64 ≤ chanUsed s t.cluster.val n ∨ 16 ≤ (thread s t).staged.length) :
    cputAct s t rd n x true = answer s t rd 10 := by
  simp [cputAct, h, lkFull]

theorem cputAct_staged (x : DWord) (hu : chanUsed s t.cluster.val n < 64) (hs : (thread s t).staged.length < 16) :
    cputAct s t rd n x true =
      answer (onThread s t fun th => { th with staged := th.staged ++ [(n, x)] }) t rd 0 := by
  simp [cputAct, Nat.not_le.2 hu, Nat.not_le.2 hs, lkOk]

theorem ccommitAct_words {words : List DWord} (h : words ≠ []) : ccommitAct s t rd n words =
    answer (putChan s (chanNum t.cluster.val n) { chan s (chanNum t.cluster.val n) with
      messages := (chan s (chanNum t.cluster.val n)).messages ++ [words] }) t rd 0 := by
  simp [ccommitAct, h, lkOk]

/-! ### CGET -/

theorem cgetAct_empty (h : (chan s (chanNum t.cluster.val n)).messages = []) :
    cgetAct s t rd rb n = answer (answer s t rd 0) t rb 9 := by
  simp [cgetAct, h, firstWord, lkEmpty]

/-- The oldest message loses its first word, and goes with its last one (R97). -/
theorem firstWord_cons (w : DWord) (ws : List DWord) (ms : List (List DWord)) :
    firstWord ((w :: ws) :: ms) = some (w, ws.isEmpty, if ws = [] then ms else ws :: ms) := by
  cases ws <;> rfl

theorem cgetAct_word {w : DWord} {ws : List DWord} {ms : List (List DWord)}
    (h : (chan s (chanNum t.cluster.val n)).messages = (w :: ws) :: ms) :
    cgetAct s t rd rb n = answer (answer (putChan s (chanNum t.cluster.val n)
      { chan s (chanNum t.cluster.val n) with messages := if ws = [] then ms else ws :: ms }) t rd w.toNat) t rb
      (if ws = [] then 256 else 0) := by
  simp [cgetAct, h, firstWord_cons, lkOk]

/-- Two answers in a row, of a state that keeps the threads of `s`. -/
theorem thread_answer_answer {u : State} (ht : thread u t = thread s t) (hn : now u = now s) (v v' : Nat) :
    thread (answer (answer u t rd v) t rb v') t =
      Filled (Filled (thread s t) rd v (now s + 1)) rb v' (now s + 1) := by
  rw [thread_answer, thread_answer, now_answer, ht, hn]

theorem thread_answer_answer_ne {u : State} {t' : Tid} (ht : t' ≠ t) (v v' : Nat) :
    thread (answer (answer u t rd v) t rb v') t' = thread u t' := by
  rw [thread_answer_ne _ _ _ _ ht, thread_answer_ne _ _ _ _ ht]

/-- Settles O21: each operation by the case of the lock unit that its channel is in. -/
theorem channelRequests : Obligations.ChannelRequests := by
  intro t rd rb n limit x words s th k c ahead runs sets cputs _
  refine ⟨waitAct_granted limit, fun hm he => answered_of_eq (waitAct_empty hm he), answered_answer ..,
    chanAnswered_put .., answered_answer .., fun h => answered_of_eq (cputAct_full x h), fun hu hs => ?_,
    fun h => ?_, fun h => ?_, fun w ws ms h => ?_⟩
  · show _ ∧ _
    rw [lockUnit, cputAct_staged x hu hs]
    refine ⟨rfl, fun t' ht => ?_, ?_⟩
    · rw [thread_answer_ne _ _ _ _ ht, thread_onThread_ne _ _ _ _ ht]
    · rw [thread_answer, thread_onThread]
      rfl
  · show ChanAnswered t rd k _ 0 s (ccommitAct s t rd n words)
    rw [ccommitAct_words h]
    exact chanAnswered_put ..
  · show _ ∧ _
    rw [lockUnit, cgetAct_empty h]
    exact ⟨rfl, fun t' ht => thread_answer_answer_ne ht 0 9, thread_answer_answer rfl rfl 0 9⟩
  · show _ ∧ _
    rw [lockUnit, cgetAct_word h]
    exact ⟨chan_putChan .., fun j hj => chan_putChan_ne _ _ _ _ hj,
      fun t' ht => (thread_answer_answer_ne ht _ _).trans (thread_of_putChan ..), rfl, thread_answer_answer rfl rfl _ _⟩

end Sys2Proof.Machine
end

section
/-! SUPPORT. Faults of threads without an instruction, the debug port, and the records, restarts and resets of cores
(R85, R90, R101, R103, R107). -/

namespace Sys2Proof.Machine

open Sys2Proof

/-! ### One thread changed -/

theorem thread_congr {s u : State} (h : u.threads = s.threads) (t : Tid) : thread u t = thread s t := by
  rw [thread, h, thread]

theorem core_congr {s u : State} (h : u.cores = s.cores) (n : Nat) : core u n = core s n := by
  rw [core, h, core]

/-- The thread is `v`, and nothing else of the machine changed. -/
abbrev ThreadIs (t : Tid) (v : Thread) (s u : State) : Prop :=
  u = { s with threads := u.threads } ∧ thread u t = v ∧ ∀ t', t' ≠ t → thread u t' = thread s t'

theorem threadIs_onThread (s : State) (t : Tid) (f : Thread → Thread) :
    ThreadIs t (f (thread s t)) s (onThread s t f) :=
  ⟨rfl, thread_onThread .., fun _ h => thread_onThread_ne _ _ _ _ h⟩

section
variable (t : Tid) (s : State)

theorem exec_budgetOverrun : exec (.budgetOverrun t) s = act s (budgetOverrunStep t) := rfl
theorem exec_illegalInstruction : exec (.illegalInstruction t) s = act s (illegalStep t) := rfl
theorem exec_debugHalt : exec (.debugHalt t) s = act s (debugHaltStep t) := rfl
theorem exec_debugResume : exec (.debugResume t) s = act s (debugResumeStep t) := rfl
theorem exec_debugStep : exec (.debugStep t) s = act s (debugStepStep t) := rfl
theorem exec_faultRecord (cl : Fin 17) (c : Fin 16) :
    exec (.faultRecord cl c) s = act s (faultRecordStep cl.val c.val) := rfl
theorem exec_coreRestart (cl : Fin 17) (c : Fin 16) :
    exec (.coreRestart cl c) s = act s (coreRestartStep cl.val c.val) := rfl
theorem exec_coreReset (fn : FnId) (cl : Fin 17) (c : Fin 16) : exec (.coreReset fn cl c) s =
    act s fun s => writeAs s fn (cluAddr cl.val 0x38) (coreResetStep fn cl.val c.val) := rfl

end

section
variable {t : Tid} {s : State}

/-! ### Faults that no instruction raises -/

theorem budgetOverrunStep_spent (hf : (thread s t).frame.isSome = true) (hb : (thread s t).budget = 0)
    (hh : (thread s t).halted = false) (hn : (thread s t).fault = none) (hs : (core s (coreNum t)).stopped = false)
    (hc : (core s (coreNum t)).fenced = false) :
    budgetOverrunStep t s =
      raise s t faultBudget (faultWord (threadCode s (thread s t)) ((thread s t).pc.toNat / 4)) 0 := by
  simp [budgetOverrunStep, hf, hb, hh, hn, hs, hc]

/-- A next word outside the code, or a reserved one without error, raises ILLEGAL_INSTRUCTION (R105, R107). -/
theorem illegalStep_raises (hr : threadReady s t = true) (hs : slotFree s t false = true)
    (h : (thread s t).pc.toNat % 4 ≠ 0 ∨ (threadCode s (thread s t)).length ≤ (thread s t).pc.toNat / 4 ∨
      (codeError s t 1 = false ∧ illegalAt ((threadCode s (thread s t)).getD ((thread s t).pc.toNat / 4) 0)
        (threadCode s (thread s t))[(thread s t).pc.toNat / 4 + 1]? = true)) :
    ∃ w, illegalStep t s = raise (markIssued s t) t faultIllegal w 0 := by
  by_cases hout : (thread s t).pc.toNat % 4 ≠ 0 ∨ (threadCode s (thread s t)).length ≤ (thread s t).pc.toNat / 4
  · exact ⟨0, by simp [illegalStep, hr, hs, hout]⟩
  · obtain ⟨he, hi⟩ := (h.resolve_left fun h => hout (.inl h)).resolve_left fun h => hout (.inr h)
    have hin : ((thread s t).pc.toNat % 4 != 0 ||
        decide ((threadCode s (thread s t)).length ≤ (thread s t).pc.toNat / 4)) = false := by simpa using hout
    refine ⟨faultWord (threadCode s (thread s t)) ((thread s t).pc.toNat / 4), ?_⟩
    simp only [illegalStep, hr, hs, hin, hi, he, Bool.and_self, Bool.not_true, Bool.false_eq_true, if_true, if_false]

/-! ### The debug port -/

theorem debugAct_unlocked (h : debugLocked s = false) (f : Thread → Thread) : debugAct t s f = onThread s t f :=
  if_neg (by simp [h])

end

/-! ### Fault records -/

section
variable (s : State) (tick time : BitVec 64) (epoch : Bool) (source code d tenancy reason : Nat) (fatal : Bool)

theorem eventAt_eq : eventAt s tick time epoch source code d tenancy reason fatal = { s with
    words := (eventAt s tick time epoch source code d tenancy reason fatal).words
    recorder := (eventAt s tick time epoch source code d tenancy reason fatal).recorder } := by
  have h : ∃ w r, eventAt s tick time epoch source code d tenancy reason fatal =
      { s with words := w, recorder := r } := by
    simp only [eventAt]
    split
    · exact ⟨_, _, rfl⟩
    · rw [count_eq (count s _), count_eq s]
      exact ⟨_, _, rfl⟩
  obtain ⟨w, r, h⟩ := h
  rw [h]

theorem word_eventAt_ne {a : Nat} (h : a ≠ 0x401000 + source * 4) (h' : a ≠ 0x400010) :
    word (eventAt s tick time epoch source code d tenancy reason fatal) a = word s a := by
  have hcount : word (count s (0x401000 + source * 4)) a = word s a := word_setWord_ne _ _ _ _ h
  have hlost : word (count (count s (0x401000 + source * 4)) 0x400010) a = word (count s (0x401000 + source * 4)) a :=
    word_setWord_ne _ _ _ _ h'
  simp only [eventAt]
  split
  · exact (word_congr rfl a).trans hcount
  · exact (word_congr rfl a).trans (hlost.trans hcount)

end

/-- Words written at the places of a list. -/
def setWords (s : State) (place : Nat → Nat) (v : Nat → Word) (l : List Nat) : State :=
  l.foldl (fun s k => setWord s (place k) (v k)) s

section
variable (place : Nat → Nat) (v : Nat → Word) (l : List Nat)

theorem setWords_eq : ∀ s : State, setWords s place v l = { s with words := (setWords s place v l).words } := by
  induction l with
  | nil => intro s; rfl
  | cons k l ih => intro s; exact ih (setWord s (place k) (v k))

theorem setWords_wf : ∀ s : State, sparseWf resetWord s.words →
    sparseWf resetWord (setWords s place v l).words := by
  induction l with
  | nil => intro s h; exact h
  | cons k l ih => intro s h; exact ih _ (setWord_wf _ _ _ h)

theorem word_setWords (hinj : ∀ j k, place j = place k → j = k) (k : Nat) : ∀ s : State,
    sparseWf resetWord s.words →
      word (setWords s place v l) (place k) = if k ∈ l then v k else word s (place k) := by
  induction l with
  | nil => intro s _; rfl
  | cons j l ih =>
    intro s h
    refine (ih (setWord s (place j) (v j)) (setWord_wf _ _ _ h)).trans ?_
    rw [word_setWord _ _ _ _ h]
    by_cases hj : k = j
    · subst hj
      simp
    · have hp : place k ≠ place j := fun e => hj (hinj _ _ e)
      simp [hj, hp]

end

theorem fld_setFld_slot (w : Word) (v : Nat) : fld (setFld w 1 0 v) 1 0 = v % 4 := by
  have := w.isLt
  simp only [fld, setFld, bits, BitVec.toNat_ofNat]
  omega

theorem fld_setFld_written (w : Word) (v : Nat) : fld (setFld w 15 8 v) 1 0 = fld w 1 0 := by
  have := w.isLt
  simp only [fld, setFld, bits, BitVec.toNat_ofNat]
  omega

/-- The slot written last and the number of records written, in the word at `a` (R104). -/
def setHead (s : State) (a slot written : Nat) : State := setRf (setRf s a 1 0 slot) a 15 8 written

theorem setHead_eq (s : State) (a slot written : Nat) :
    setHead s a slot written = { s with words := (setHead s a slot written).words } := rfl

section
variable {s : State} (h : sparseWf resetWord s.words) (a slot written : Nat)
include h

theorem word_setHead : word (setHead s a slot written) a = setFld (setFld (word s a) 1 0 slot) 15 8 written := by
  rw [setHead, setRf, word_setWord _ _ _ _ (setRf_wf _ _ _ _ _ h), if_pos rfl, setRf, word_setWord _ _ _ _ h,
    if_pos rfl]

theorem rf_setHead_slot : rf (setHead s a slot written) a 1 0 = slot % 4 := by
  rw [rf, word_setHead h, fld_setFld_written, fld_setFld_slot]

theorem rf_setHead_written : rf (setHead s a slot written) a 15 8 = written % 256 := by
  rw [rf, word_setHead h, fld_setFld_refusal]

end

theorem word_setHead_ne (s : State) {a b : Nat} (h : b ≠ a) (slot written : Nat) :
    word (setHead s a slot written) b = word s b :=
  (word_setWord_ne _ _ _ _ h).trans (word_setWord_ne _ _ _ _ h)

/-- The slot that takes a core's next record: the first one after a cluster reset, else the next in turn (R92). -/
def nextRecordSlot (s : State) (cl : Nat) : Nat :=
  if fld (word s (cluAddr cl 0x2C)) 15 8 = 0 then 0 else (fld (word s (cluAddr cl 0x2C)) 1 0 + 1) % 4

theorem nextRecordSlot_lt (s : State) (cl : Nat) : nextRecordSlot s cl < 4 := by
  unfold nextRecordSlot
  split <;> omega

/-- Place of word `k` of a slot of a cluster's fault records. -/
def recordPlace (cl slot k : Nat) : Nat := cluAddr cl (0x2000 + slot * 0x1000 + 4 * k)

/-- A record in its slot, and the head word that names it. -/
def writeRecord (s : State) (cl : Nat) (bytes : List Byte) : State :=
  setHead (setWords s (recordPlace cl (nextRecordSlot s cl)) (fun k => BitVec.ofNat 32 (leAt bytes (4 * k) 4))
    (List.range 576)) (cluAddr cl 0x2C) (nextRecordSlot s cl) (min 255 (fld (word s (cluAddr cl 0x2C)) 15 8 + 1))

theorem recordPlace_inj {cl slot j k : Nat} (h : recordPlace cl slot j = recordPlace cl slot k) : j = k := by
  simp only [recordPlace, cluAddr] at h
  omega

theorem recordPlace_ne_head (cl slot k : Nat) : recordPlace cl slot k ≠ cluAddr cl 0x2C := by
  simp only [recordPlace, cluAddr]
  omega

theorem writeRecord_eq (s : State) (cl : Nat) (bytes : List Byte) :
    writeRecord s cl bytes = { s with words := (writeRecord s cl bytes).words } := by
  unfold writeRecord
  rw [setHead_eq, setWords_eq]

section
variable {s : State} (h : sparseWf resetWord s.words) (cl : Nat) (bytes : List Byte)
include h

theorem word_writeRecord {k : Nat} (hk : k < 576) :
    word (writeRecord s cl bytes) (recordPlace cl (nextRecordSlot s cl) k) =
      BitVec.ofNat 32 (leAt bytes (4 * k) 4) := by
  rw [writeRecord, word_setHead_ne _ (recordPlace_ne_head _ _ _),
    word_setWords _ _ _ (fun _ _ => recordPlace_inj) _ _ h, if_pos (List.mem_range.2 hk)]

theorem rf_writeRecord_slot : rf (writeRecord s cl bytes) (cluAddr cl 0x2C) 1 0 = nextRecordSlot s cl := by
  rw [writeRecord, rf_setHead_slot (setWords_wf _ _ _ _ h), Nat.mod_eq_of_lt (nextRecordSlot_lt s cl)]

theorem rf_writeRecord_written : rf (writeRecord s cl bytes) (cluAddr cl 0x2C) 15 8 =
    min 255 (fld (word s (cluAddr cl 0x2C)) 15 8 + 1) := by
  rw [writeRecord, rf_setHead_written (setWords_wf _ _ _ _ h), Nat.mod_eq_of_lt (by omega)]

end

/-- FAULT_RECORD in the round after the fault: the record is written, its core keeps none, and an event follows
(R90, R92). -/
theorem faultRecordStep_due {s : State} {cl c : Nat} {bytes : List Byte}
    (hr : (core s (cl * 16 + c)).record = some bytes) (hd : (core s (cl * 16 + c)).recordRound ≤ round s) :
    ∃ v tick time epoch d tenancy, v = { core s (cl * 16 + c) with record := none } ∧
      faultRecordStep cl c s = eventAt (putCore (writeRecord s cl bytes) (cl * 16 + c) v) tick time epoch
        (srcCore cl c) evFault d tenancy 0 false := by
  have hcore : core (writeRecord s cl bytes) (cl * 16 + c) = core s (cl * 16 + c) :=
    core_congr (by rw [writeRecord_eq]) _
  have hstep : ∃ tick time epoch d tenancy, faultRecordStep cl c s =
      eventAt (putCore (writeRecord s cl bytes) (cl * 16 + c)
        { core (writeRecord s cl bytes) (cl * 16 + c) with record := none }) tick time epoch (srcCore cl c) evFault d
        tenancy 0 false := by
    simp only [faultRecordStep, hr, Nat.not_lt.2 hd, if_false]
    exact ⟨_, _, _, _, _, rfl⟩
  obtain ⟨tick, time, epoch, d, tenancy, hstep⟩ := hstep
  exact ⟨_, tick, time, epoch, d, tenancy, by rw [hcore], hstep⟩

/-- The places of a record and of its head word lie above the counts that an event touches. -/
theorem cluAddr_above (cl o : Nat) : 0x500000 ≤ cluAddr cl o := by
  unfold cluAddr
  omega

/-- The core is `w`, and other cores, memory and frames are as they were. -/
abbrev CoreIs (n : Nat) (w : CoreState) (s u : State) : Prop :=
  core u n = w ∧ (∀ m, m ≠ n → core u m = core s m) ∧ u.mem = s.mem ∧ u.frames = s.frames

/-- A core changed in a state that differs from `s` in register words only, and an event after it. -/
theorem coreIs_event {s v : State} (hv : v = { s with words := v.words }) (n : Nat) (x : CoreState)
    (tick time : BitVec 64) (epoch : Bool) {source : Nat} (code d tenancy reason : Nat) (fatal : Bool)
    (hs : source < 1000) :
    let u := eventAt (putCore v n x) tick time epoch source code d tenancy reason fatal
    CoreIs n x s u ∧ u.threads = s.threads ∧
      u = { s with words := u.words, cores := u.cores, recorder := u.recorder } ∧
      ∀ a, 0x500000 ≤ a → word u a = word v a := by
  intro u
  have hu : u = { putCore v n x with words := u.words, recorder := u.recorder } := eventAt_eq ..
  have hword : ∀ a, 0x500000 ≤ a → word u a = word v a := fun a ha => by
    refine (word_eventAt_ne _ _ _ _ _ _ _ _ _ _ (by omega) (by omega)).trans ?_
    rw [word, putCore_words, word]
  clear_value u
  have hcore : ∀ m, core u m = core (putCore v n x) m := core_congr (by rw [hu])
  have hcores : ∀ m, core v m = core s m := core_congr (by rw [hv])
  have hframe : u = { s with words := u.words, cores := u.cores, recorder := u.recorder } := by
    calc u = { v with words := u.words, cores := u.cores, recorder := u.recorder } := by
          rw [hu]
          rfl
      _ = _ := by rw [hv]
  refine ⟨⟨(hcore n).trans (core_putCore ..), fun m hm => ?_, by rw [hframe], by rw [hframe]⟩, by rw [hframe], hframe,
    hword⟩
  rw [hcore, core_putCore_ne _ _ _ _ hm, hcores]

theorem runs_faultRecord {s : State} {cl : Fin 17} {c : Fin 16} {bytes : List Byte} (hl : Live s)
    (hr : (core s (cl.val * 16 + c.val)).record = some bytes)
    (hd : (core s (cl.val * 16 + c.val)).recordRound ≤ round s) (hc : Canonical s) :
    Runs (.faultRecord cl c) s fun u =>
      CoreIs (cl.val * 16 + c.val) { core s (cl.val * 16 + c.val) with record := none } s u ∧ u.threads = s.threads ∧
      u = { s with words := u.words, cores := u.cores, recorder := u.recorder } ∧
      (∀ k, k < 576 → word u (recordPlace cl.val (nextRecordSlot s cl.val) k) =
        BitVec.ofNat 32 (leAt bytes (4 * k) 4)) ∧
      rf u (cluAddr cl.val 0x2C) 1 0 = nextRecordSlot s cl.val ∧
      rf u (cluAddr cl.val 0x2C) 15 8 = min 255 (fld (word s (cluAddr cl.val 0x2C)) 15 8 + 1) := by
  obtain ⟨-, hw, -⟩ := hc
  obtain ⟨v, tick, time, epoch, d, tenancy, hv, hstep⟩ := faultRecordStep_due hr hd
  have hsrc : srcCore cl.val c.val < 1000 := by
    unfold srcCore
    omega
  obtain ⟨hcoreIs, hthreads, hframe, hkept⟩ := coreIs_event (writeRecord_eq s cl.val bytes) (cl.val * 16 + c.val) v
    tick time epoch evFault d tenancy 0 false hsrc
  refine runs_act hl (exec_faultRecord ..) ?_
  rw [hstep, ← hv]
  refine ⟨hcoreIs, hthreads, hframe, fun k hk => ?_, ?_, ?_⟩
  · rw [hkept (recordPlace ..) (cluAddr_above ..), word_writeRecord hw _ _ hk]
  · rw [rf_congr (hkept _ (cluAddr_above ..)), rf_writeRecord_slot hw]
  · rw [rf_congr (hkept _ (cluAddr_above ..)), rf_writeRecord_written hw]

/-! ### A core's restart -/

/-- A core's thread taken off its frame, its slice to be reloaded and its mailbox pair reset (R90, R160). -/
def clearThread (s : State) (t : Tid) : State :=
  let s := idleThread s t (now s)
  resetPair { s with sliceOf := remove s.sliceOf (tidNum t) } (.ofThread t)

theorem clearCore_eq (s : State) (cl c : Nat) :
    clearCore s cl c = ((List.range 8).map fun i => threadOf cl c i).foldl clearThread s := by
  rw [List.foldl_map]
  rfl

/-- What the clearing of a thread that keeps no buffer cells changes: the thread, its slice's mark, its mailbox pair and
the events of that. -/
theorem clearThread_keeps {s : State} {t : Tid} (h : (thread s t).cells = none) :
    (clearThread s t).threads = (putThread s t { freeFrom := now s, lastStart := (thread s t).lastStart }).threads ∧
    (clearThread s t).mem = s.mem ∧ (clearThread s t).frames = s.frames ∧ (clearThread s t).cores = s.cores ∧
    (clearThread s t).tick = s.tick := by
  have hidle : idleThread s t (now s) = putThread s t { freeFrom := now s, lastStart := (thread s t).lastStart } := by
    simp only [idleThread, releaseCells, h]
  have hpair := keeps_resetPair (fun s => (s.threads, s.mem, s.frames, s.cores, s.tick)) t
    { idleThread s t (now s) with sliceOf := remove (idleThread s t (now s)).sliceOf (tidNum t) } (fun _ _ _ => rfl)
    (fun s d tenancy reason => by rw [event_eq])
  simp only [Prod.mk.injEq, hidle] at hpair
  simp only [clearThread, hidle]
  exact hpair

theorem foldl_clearThread (l : List Tid) : ∀ s : State, (∀ t ∈ l, (thread s t).cells = none) →
    (∀ t, thread (l.foldl clearThread s) t =
      if t ∈ l then { freeFrom := now s, lastStart := (thread s t).lastStart } else thread s t) ∧
    (l.foldl clearThread s).mem = s.mem ∧ (l.foldl clearThread s).frames = s.frames ∧
    (l.foldl clearThread s).cores = s.cores := by
  induction l with
  | nil => intro s _; exact ⟨fun _ => rfl, rfl, rfl, rfl⟩
  | cons a l ih =>
    intro s h
    obtain ⟨hthreads, hmem, hframes, hcores, htick⟩ := clearThread_keeps (h a (List.mem_cons_self ..))
    have hself : thread (clearThread s a) a = { freeFrom := now s, lastStart := (thread s a).lastStart } := by
      rw [thread, hthreads]
      exact thread_putThread ..
    have hne : ∀ t, t ≠ a → thread (clearThread s a) t = thread s t := fun t ht => by
      rw [thread, hthreads]
      exact thread_putThread_ne _ _ _ _ ht
    have hnow : now (clearThread s a) = now s := by rw [now, htick, now]
    obtain ⟨ht, hm, hf, hc⟩ := ih (clearThread s a) fun t ht => by
      by_cases e : t = a
      · rw [e, hself]
      · rw [hne t e]
        exact h t (List.mem_cons_of_mem _ ht)
    refine ⟨fun t => (ht t).trans ?_, hm.trans hmem, hf.trans hframes, hc.trans hcores⟩
    by_cases e : t = a
    · subst e
      simp [hself, hnow]
    · simp [hne t e, hnow, e]

theorem mem_threadsOf_core {cl : Fin 17} {c : Fin 16} {t : Tid} :
    t ∈ (List.range 8).map (fun i => threadOf cl.val c.val i) ↔ coreNum t = cl.val * 16 + c.val := by
  obtain ⟨cl', c', i⟩ := t
  simp only [List.mem_map, List.mem_range, coreNum]
  constructor
  · rintro ⟨k, hk, h⟩
    simp only [threadOf, tidOf, Tid.mk.injEq, Fin.ext_iff] at h
    omega
  · intro h
    refine ⟨i.val, i.isLt, ?_⟩
    simp only [threadOf, tidOf, Tid.mk.injEq, Fin.ext_iff]
    omega

section
variable {s : State} {cl : Fin 17} {c : Fin 16}

theorem setRf_setRf_eq (s : State) (a hi lo v b hi' lo' v' : Nat) : setRf (setRf s a hi lo v) b hi' lo' v' =
    { s with words := (setRf (setRf s a hi lo v) b hi' lo' v').words } := rfl

theorem showCore_eq (s : State) (cl c : Nat) : showCore s cl c = { s with words := (showCore s cl c).words } :=
  setRf_setRf_eq ..

theorem coreRestartStep_due (hs : (core s (cl.val * 16 + c.val)).stopped = true)
    (hf : (core s (cl.val * 16 + c.val)).fenced = false) (hr : (core s (cl.val * 16 + c.val)).restart ≤ round s) :
    coreRestartStep cl.val c.val s = showCore (clearCore (putCore s (cl.val * 16 + c.val)
      { core s (cl.val * 16 + c.val) with stopped := false }) cl.val c.val) cl.val c.val := by
  simp [coreRestartStep, hs, hf, hr]

theorem runs_coreRestart (hl : Live s) (hs : (core s (cl.val * 16 + c.val)).stopped = true)
    (hf : (core s (cl.val * 16 + c.val)).fenced = false) (hr : (core s (cl.val * 16 + c.val)).restart ≤ round s)
    (hcells : ∀ t : Tid, coreNum t = cl.val * 16 + c.val → (thread s t).cells = none) :
    Runs (.coreRestart cl c) s fun u =>
      CoreIs (cl.val * 16 + c.val) { core s (cl.val * 16 + c.val) with stopped := false } s u ∧
      (∀ t : Tid, coreNum t = cl.val * 16 + c.val →
        thread u t = { freeFrom := now s, lastStart := (thread s t).lastStart }) ∧
      ∀ t : Tid, coreNum t ≠ cl.val * 16 + c.val → thread u t = thread s t := by
  refine runs_act hl (exec_coreRestart ..) ?_
  rw [coreRestartStep_due hs hf hr]
  generalize ({ core s (cl.val * 16 + c.val) with stopped := false } : CoreState) = w
  have hclear := foldl_clearThread ((List.range 8).map fun i => threadOf cl.val c.val i)
    (putCore s (cl.val * 16 + c.val) w) fun t ht => by
      rw [thread_of_putCore]
      exact hcells t (mem_threadsOf_core.1 ht)
  rw [← clearCore_eq] at hclear
  generalize clearCore (putCore s (cl.val * 16 + c.val) w) cl.val c.val = v at hclear ⊢
  obtain ⟨ht, hm, hfr, hc⟩ := hclear
  have hshow := showCore_eq v cl.val c.val
  generalize showCore v cl.val c.val = u at hshow ⊢
  have hcore : ∀ n, core u n = core (putCore s (cl.val * 16 + c.val) w) n := core_congr (by rw [hshow, ← hc])
  have hthread : ∀ t, thread u t = thread v t := thread_congr (by rw [hshow])
  refine ⟨⟨?_, fun m hne => ?_, ?_, ?_⟩, fun t h => ?_, fun t h => ?_⟩
  · rw [hcore, core_putCore]
  · rw [hcore, core_putCore_ne _ _ _ _ hne]
  · rw [hshow]
    exact hm
  · rw [hshow]
    exact hfr
  · rw [hthread, ht, if_pos (mem_threadsOf_core.2 h), now_of_putCore, thread_of_putCore]
  · rw [hthread, ht, if_neg fun e => h (mem_threadsOf_core.1 e), thread_of_putCore]

theorem runs_coreReset (hw : MayWrite s pf0 (cluAddr cl.val 0x38))
    (hs : (core s (cl.val * 16 + c.val)).stopped = false) (hf : (core s (cl.val * 16 + c.val)).fenced = false) :
    Runs (.coreReset pf0 cl c) s fun u =>
      CoreIs (cl.val * 16 + c.val) { core s (cl.val * 16 + c.val) with resetNow := true } s u ∧
      u = { s with cores := u.cores } := by
  refine runs_go (exec_coreReset ..) hw ?_
  have h : coreResetStep pf0 cl.val c.val s = putCore s (cl.val * 16 + c.val)
      { core s (cl.val * 16 + c.val) with resetNow := true } := by simp [coreResetStep, hs, hf]
  rw [h]
  exact ⟨⟨core_putCore .., fun m hm => core_putCore_ne _ _ _ _ hm, rfl, rfl⟩, rfl⟩

end

/-- Settles O22: each command is the one case of its step that its premises leave. -/
theorem threadsAndCores : Obligations.ThreadsAndCores := by
  refine ⟨fun t s => ?_, fun cl c bytes s => ⟨?_, ?_, ?_⟩⟩
  · intro th k code c from_ delivered becomes hl
    refine ⟨fun hf hb hh hn hs hc => ?_, fun hr hs h => ?_, fun hd => ⟨?_, ?_, ?_⟩⟩
    · refine runs_act hl (exec_budgetOverrun ..) ?_
      rw [budgetOverrunStep_spent hf hb hh hn hs hc]
      exact threadIs_onThread ..
    · obtain ⟨w, hw⟩ := illegalStep_raises hr hs h
      refine runs_act hl (exec_illegalInstruction ..) ?_
      rw [hw]
      exact faults_raise ..
    · refine runs_act hl (exec_debugHalt ..) ?_
      rw [debugHaltStep, debugAct_unlocked hd]
      exact threadIs_onThread ..
    · refine runs_act hl (exec_debugResume ..) ?_
      rw [debugResumeStep, debugAct_unlocked hd]
      exact threadIs_onThread ..
    · refine runs_act hl (exec_debugStep ..) ?_
      rw [debugStepStep, debugAct_unlocked hd]
      exact threadIs_onThread ..
  · exact fun hl hr hd hc => runs_faultRecord hl hr hd hc
  · exact fun hl hs hf hr hcells => runs_coreRestart hl hs hf hr hcells
  · exact fun hw hs hf => runs_coreReset hw hs hf

end Sys2Proof.Machine
end

section
/-! SUPPORT. How EMIT and DONE hand frames on, and the end of a thread (R66, R86, R127, R151–R153). -/

namespace Sys2Proof.Machine

open Sys2Proof

/-! ### Parts of the state that are as they were -/

theorem frame_congr {s u : State} (h : u.frames = s.frames) (k : Nat) : frame? u k = frame? s k := by
  rw [frame?, h, frame?]

theorem lock_congr {s u : State} (h : u.locks = s.locks) (k : Nat) : lock u k = lock s k := by
  rw [lock, h, lock]

theorem now_congr {s u : State} (h : u.tick = s.tick) : now u = now s := by
  rw [now, h, now]

/-! ### A frame handed on -/

theorem count_count_eq (s : State) (a b : Nat) :
    count (count s a) b = { s with words := (count (count s a) b).words } := rfl

theorem countAppend_eq (s : State) (t : Tid) (th : Thread) (tenancy : Nat) :
    countAppend s t th tenancy = { s with words := (countAppend s t th tenancy).words } := by
  have h : ∃ w, countAppend s t th tenancy = { s with words := w } := by
    unfold countAppend
    split
    · exact ⟨_, rfl⟩
    · exact ⟨_, count_count_eq ..⟩
  obtain ⟨w, h⟩ := h
  rw [h]

theorem mem_addDue (s : State) (d : Due) : d ∈ (addDue s d).due := by simp [addDue]

/-- The frame with its assembled bytes and its due tick put off by `e` ticks (R151, R153). -/
def emittedFrame (f : Frame) (g : Tag) (bytes : List Byte) (e : Nat) : Frame :=
  { f with stage := .emitted, bytes := bytes, tag := dueTag (setTag g 7 15 0 bytes.length) e, due := f.due + e }

/-- The frame goes to the release engine at the end of the next tick, and other frames and memory are as they were
(R152). -/
abbrev Handed (t : Tid) (f v : Frame) (s u : State) : Prop :=
  frame? u f.id = some v ∧ ⟨now s + 1, 2, tidNum t, .emitTaken t f.id, none⟩ ∈ u.due ∧
    (∀ k, k ≠ f.id → frame? u k = frame? s k) ∧ u.mem = s.mem

section
variable {s : State} {t : Tid} {f : Frame} (bytes : List Byte) (g : Tag) (d : Nat)

section
variable (hf : (thread s t).frame = some f.id) (hs : frame? s f.id = some f)
include hf hs

theorem handOnFrame_eq : ∃ w, handOnFrame s t bytes g d =
    { sendOn (onThread (putFrame s (emittedFrame f g bytes d)) t fun th => { th with handedOn := true }) t f.id with
      words := w } := by
  refine ⟨_, Eq.trans ?_ (countAppend_eq _ t (thread s t) (tagTenancy g))⟩
  simp only [handOnFrame, hf, hs, Option.bind_some]
  rfl

theorem handed_handOnFrame : Handed t f (emittedFrame f g bytes d) s (handOnFrame s t bytes g d) := by
  obtain ⟨w, h⟩ := handOnFrame_eq bytes g d hf hs
  rw [h]
  exact ⟨frame_putFrame s (emittedFrame f g bytes d), mem_addDue .., fun k hk => frame_putFrame_ne s _ k hk, rfl⟩

theorem handOnFrame_fields : (handOnFrame s t bytes g d).tick = s.tick ∧ (handOnFrame s t bytes g d).locks = s.locks ∧
    (handOnFrame s t bytes g d).threads = (putThread s t { thread s t with handedOn := true }).threads := by
  obtain ⟨w, h⟩ := handOnFrame_eq bytes g d hf hs
  rw [h]
  exact ⟨rfl, rfl, rfl⟩

end

/-- The tag of a copy, from the thread's program and without CAPTURE and flags of its frame (R152). -/
def programCopyTag (th : Thread) : Tag :=
  dueTag (setTag (setTag64 (setTag (setTag (setTag g 0 11 0 (0xE00 + th.cls)) 7 27 27 0) 7 17 17 0) 13 0) 7 15 0
    bytes.length) d

/-- A copy of the thread's frame, numbered `n` (R152). -/
def programCopy (th : Thread) (f : Frame) (n : Nat) : Frame :=
  { f with
    id := n, stage := .emitted, src := .program th.cls, bytes := bytes, tag := programCopyTag bytes g d th
    due := f.due + d, sendPos := none, buffered := none, origin := f.id + 1 }

theorem handOnCopy_eq (hb : (thread s t).base = some f) : ∃ w, handOnCopy s t bytes g d =
    { sendOn (onThread (putFrame { s with nextFrame := s.nextFrame + 1 }
        (programCopy bytes g d (thread s t) f s.nextFrame)) t fun th => { th with copies := th.copies + 1 }) t
        s.nextFrame with words := w } := by
  refine ⟨_, Eq.trans ?_ (countAppend_eq _ t (thread s t) (tagTenancy (programCopyTag bytes g d (thread s t))))⟩
  simp only [handOnCopy, hb]
  rfl

/-- A copy is a new frame, and other frames and memory are as they were (R152). -/
theorem handOnCopy_copies (hb : (thread s t).base = some f) :
    let u := handOnCopy s t bytes g d
    frame? u s.nextFrame = some (programCopy bytes g d (thread s t) f s.nextFrame) ∧
      (∀ k, k ≠ s.nextFrame → frame? u k = frame? s k) ∧ u.mem = s.mem ∧ u.tick = s.tick ∧
      u.threads = (putThread s t { thread s t with copies := (thread s t).copies + 1 }).threads := by
  intro u
  obtain ⟨w, h⟩ := handOnCopy_eq bytes g d hb
  rw [show u = _ from h]
  exact ⟨frame_putFrame _ (programCopy bytes g d (thread s t) f s.nextFrame),
    fun k hk => frame_putFrame_ne { s with nextFrame := s.nextFrame + 1 } _ k hk, rfl, rfl, rfl⟩

end

/-! ### The checks of EMIT -/

theorem exec_emit (t : Tid) (rd ra rb : BitVec 5) (copy override headLen : Bool) (s : State) :
    exec (.emit t rd ra rb copy override headLen) s = act s (emitStep t rd ra rb copy override headLen) := rfl
theorem exec_done (t : Tid) (cd : Cond) (drop : Bool) (s : State) :
    exec (.done t cd drop) s = act s (doneStep t cd drop) := rfl

section
variable (s : State) (t : Tid) (override : Bool) (ra : BitVec 5)

/-- The greatest override that the thread's program may ask for (R153). -/
def overrideTop : Nat := match threadProgram s (thread s t) with | some p => p.overrideMax | none => 0

/-- The destination is a sequence group or a fan-out list, for which no override counts (R153). -/
abbrev laneBound : Prop := tagDestKind (liveTag (thread s t)) = 3 ∨ tagDestKind (liveTag (thread s t)) = 4

/-- Ticks by which EMIT puts off the due tick (R153). -/
def emitDelay : Nat :=
  if override = true ∧ ¬laneBound s t then min (gReg (thread s t) ra).toNat (overrideTop s t) else 0

/-- Status of an EMIT that hands on (R151, R153). -/
def emitStatus : Nat :=
  if override = false then 0 else if laneBound s t then 2
  else if overrideTop s t < (gReg (thread s t) ra).toNat then 1 else 0

/-- Head length of EMIT (R151). -/
def emitHead (th : Thread) (headLen : Bool) (rb : BitVec 5) : Nat :=
  if headLen then (gReg th rb).toNat else headPart th

end

section
variable {s : State} {t : Tid} {rd ra rb : BitVec 5} {copy override headLen : Bool}

theorem markIssued_state (s : State) (t : Tid) : ∃ c th, markIssued s t = { s with cores := c, threads := th } :=
  ⟨_, _, markIssued_eq s t⟩

theorem frames_locks_markIssued (s : State) (t : Tid) :
    (markIssued s t).frames = s.frames ∧ (markIssued s t).locks = s.locks := by
  obtain ⟨c, th, h⟩ := markIssued_state s t
  rw [h]
  exact ⟨rfl, rfl⟩

/-- What EMIT reads beside the thread is as it was before the issue. -/
theorem emit_reads_issued (s : State) (t : Tid) (g : Tag) :
    threadRound (markIssued s t) (issuedThread s t) = threadRound s (thread s t) ∧
    threadProgram (markIssued s t) (issuedThread s t) = threadProgram s (thread s t) ∧
    (∀ a n, hdrError (markIssued s t) t a n = hdrError s t a n) ∧
    (∀ r, destOk (markIssued s t) r g = destOk s r g) ∧ (∀ r, flowCtxOk (markIssued s t) r g = flowCtxOk s r g) := by
  obtain ⟨c, th, h⟩ := markIssued_state s t
  rw [h]
  exact ⟨rfl, rfl, fun _ _ => rfl, fun _ => rfl, fun _ => rfl⟩

/-- What EMIT does once its checks have passed, on the state in which it has issued (R151, R152). -/
def emitChecked (s : State) (t : Tid) (rd : BitVec 5) (copy : Bool) (bytes : List Byte) (d st : Nat) : State :=
  let th := thread s t
  if copy = false ∧ th.handedOn = true then statusG s t rd 3 2
  else if copy = true ∧ 8 ≤ th.copies then statusG s t rd 4 2
  else statusG (if copy then handOnCopy s t bytes (liveTag th) d else handOnFrame s t bytes (liveTag th) d) t rd st 2

theorem emitStep_checked (hi : Issues s t (.emit t rd ra rb copy override headLen) [.g rd, .g ra, .g rb] false)
    (hscan : (thread s t).scanUntil ≤ now s) (hb : headLen = true ∨ rb = 0) (ha : override = true ∨ ra = 0)
    (hh : emitHead (thread s t) headLen rb ≤ 448)
    (hmin : 60 ≤ (assemble (thread s t) (emitHead (thread s t) headLen rb)).length)
    (hmax : (assemble (thread s t) (emitHead (thread s t) headLen rb)).length ≤ maxLength)
    (hkind : tagDestKind (liveTag (thread s t)) ≤ 10)
    (herr : hdrError s t 0 (64 + emitHead (thread s t) headLen rb) = false)
    (hdest : destOk s (threadRound s (thread s t)) (liveTag (thread s t)) = true)
    (hflow : flowCtxOk s (threadRound s (thread s t)) (liveTag (thread s t)) = true) :
    emitStep t rd ra rb copy override headLen s = emitChecked (markIssued s t) t rd copy
      (assemble (thread s t) (emitHead (thread s t) headLen rb)) (emitDelay s t override ra)
      (emitStatus s t override ra) := by
  obtain ⟨hround, hprog, hhdr, hdests, hflows⟩ := emit_reads_issued s t (liveTag (thread s t))
  have hlive : liveTag (issuedThread s t) = liveTag (thread s t) := rfl
  have hasm : ∀ h, assemble (issuedThread s t) h = assemble (thread s t) h := fun _ => rfl
  have hpart : headPart (issuedThread s t) = headPart (thread s t) := rfl
  have hcopies : (issuedThread s t).copies = (thread s t).copies := rfl
  have hon : (issuedThread s t).handedOn = (thread s t).handedOn := rfl
  have hlanes : (tagDestKind (liveTag (thread s t)) == dkSequence || tagDestKind (liveTag (thread s t)) == dkFanout) =
      true ↔ laneBound s t := by simp [laneBound, dkSequence, dkFanout]
  have hlanes' : (tagDestKind (liveTag (thread s t)) == dkSequence || tagDestKind (liveTag (thread s t)) == dkFanout) =
      false ↔ ¬laneBound s t := by rw [← hlanes, Bool.not_eq_true]
  have hhead : (if headLen = true then (gReg (thread s t) rb).toNat else headPart (thread s t)) =
      emitHead (thread s t) headLen rb := rfl
  unfold emitStep
  rw [if_neg (Nat.not_lt.2 hscan)]
  change issue s t _ _ false _ = _
  rw [issue_issues hi]
  simp only [thread_markIssued, gReg_issued, hlive, hround, hprog, hhdr, hdests, hflows, hasm, hpart]
  rw [hhead, if_neg (by rcases hb with h | h <;> rcases ha with h' | h' <;> simp [h, h']),
    if_neg (Nat.not_lt.2 hh), if_neg (by simp [herr]), if_neg (not_or.2 ⟨Nat.not_lt.2 hmin, Nat.not_lt.2 hmax⟩),
    if_neg (by simpa [kindReserved] using hkind), if_neg (by simp [hdest, hflow])]
  simp only [emitChecked, emitDelay, emitStatus, thread_markIssued, hlive, hcopies, hon, hlanes, Bool.and_eq_true,
    Bool.not_eq_true', decide_eq_true_eq, hlanes']
  rfl

end

/-! ### What EMIT does -/

section
variable {s : State} {t : Tid} {rd : BitVec 5} {copy : Bool} {bytes : List Byte} {d st : Nat}

theorem issued_statusG (v l : Nat) : OnlyThread t s (statusG (markIssued s t) t rd v l) ∧
    Status t rd v l s (statusG (markIssued s t) t rd v l) := by
  refine ⟨?_, pends_resultG ..⟩
  rw [statusG, resultG]
  exact onlyThread_onThread ..

/-- The thread after a status, where the work before it left the thread `v`. -/
theorem thread_statusG {u : State} {v : Thread} (h : thread u t = v) (x l : Nat) :
    thread (statusG u t rd x l) t =
      { advance v 1 with pend := PendsAfter (advance v 1) (.g rd) (some (BitVec.ofNat 64 x)) (now u + l) } := by
  rw [statusG, resultG, thread_onThread, pendTo_eq, h]

theorem handed_markIssued {f v : Frame} {u : State} (h : Handed t f v (markIssued s t) u) : Handed t f v s u := by
  obtain ⟨c, th, hm⟩ := markIssued_state s t
  rw [hm] at h
  exact h

theorem emitChecked_again (hc : copy = false) (hon : (thread s t).handedOn = true) :
    let u := emitChecked (markIssued s t) t rd copy bytes d st
    OnlyThread t s u ∧ Status t rd 3 2 s u := by
  rw [emitChecked, thread_markIssued]
  dsimp only
  rw [if_pos ⟨hc, hon⟩]
  exact issued_statusG 3 2

theorem emitChecked_limit (hc : copy = true) (hn : 8 ≤ (thread s t).copies) :
    let u := emitChecked (markIssued s t) t rd copy bytes d st
    OnlyThread t s u ∧ Status t rd 4 2 s u := by
  rw [emitChecked, thread_markIssued]
  dsimp only
  rw [if_neg (by simp [hc]), if_pos ⟨hc, hn⟩]
  exact issued_statusG 4 2

theorem emitChecked_handsOn {f : Frame} (hc : copy = false) (hon : (thread s t).handedOn = false)
    (hf : (thread s t).frame = some f.id) (hs : frame? s f.id = some f) :
    let u := emitChecked (markIssued s t) t rd copy bytes d st
    Handed t f (emittedFrame f (liveTag (thread s t)) bytes d) s u ∧ (thread u t).handedOn = true ∧
      (thread u t).pc = (thread s t).pc + 4 ∧
      (thread u t).pend = PendsAfter (thread s t) (.g rd) (some (BitVec.ofNat 64 st)) (now s + 2) := by
  have hf' : (thread (markIssued s t) t).frame = some f.id := by rw [thread_markIssued]; exact hf
  have hs' : frame? (markIssued s t) f.id = some f := (frame_congr (frames_locks_markIssued s t).1 _).trans hs
  have hhanded := handed_markIssued (handed_handOnFrame bytes (liveTag (thread s t)) d hf' hs')
  obtain ⟨htick, -, hthreads⟩ := handOnFrame_fields bytes (liveTag (thread s t)) d hf' hs'
  have hstep : emitChecked (markIssued s t) t rd copy bytes d st =
      statusG (handOnFrame (markIssued s t) t bytes (liveTag (thread s t)) d) t rd st 2 := by
    rw [emitChecked, thread_markIssued]
    rw [if_neg (by simp [hon, issuedThread]), if_neg (by simp [hc]), if_neg (by simp [hc])]
    rfl
  rw [hstep]
  clear hstep
  generalize handOnFrame (markIssued s t) t bytes (liveTag (thread s t)) d = x at *
  have hthread : thread x t = { issuedThread s t with handedOn := true } := by
    rw [thread_congr hthreads, thread_putThread, thread_markIssued]
  have hnow : now x = now s := (now_congr htick).trans (now_markIssued s t)
  refine ⟨hhanded, ?_⟩
  rw [thread_statusG hthread, hnow]
  exact ⟨rfl, rfl, rfl⟩

theorem emitChecked_copies {f : Frame} (hc : copy = true) (hn : (thread s t).copies < 8)
    (hb : (thread s t).base = some f) :
    let u := emitChecked (markIssued s t) t rd copy bytes d st
    frame? u s.nextFrame = some (programCopy bytes (liveTag (thread s t)) d (thread s t) f s.nextFrame) ∧
      (∀ k, k ≠ s.nextFrame → frame? u k = frame? s k) ∧ (thread u t).copies = (thread s t).copies + 1 ∧
      u.mem = s.mem := by
  have hb' : (thread (markIssued s t) t).base = some f := by rw [thread_markIssued]; exact hb
  have hnext : (markIssued s t).nextFrame = s.nextFrame := by
    obtain ⟨c, th, hm⟩ := markIssued_state s t
    rw [hm]
  obtain ⟨hcopy, hkept, hmem, -, hthreads⟩ := handOnCopy_copies bytes (liveTag (thread s t)) d hb'
  have hstep : emitChecked (markIssued s t) t rd copy bytes d st =
      statusG (handOnCopy (markIssued s t) t bytes (liveTag (thread s t)) d) t rd st 2 := by
    rw [emitChecked, thread_markIssued]
    rw [if_neg (by simp [hc]), if_neg (fun h => Nat.not_le.2 hn h.2), if_pos hc]
    rfl
  rw [hstep]
  clear hstep
  generalize handOnCopy (markIssued s t) t bytes (liveTag (thread s t)) d = x at *
  rw [hnext, thread_markIssued] at hcopy
  have hthread : thread x t = { issuedThread s t with copies := (thread s t).copies + 1 } := by
    rw [thread_congr hthreads, thread_putThread, thread_markIssued]
    rfl
  refine ⟨hcopy, fun k hk => ?_, ?_, hmem.trans (mem_markIssued s t)⟩
  · exact (hkept k (by rwa [hnext])).trans (frame_congr (frames_locks_markIssued s t).1 k)
  · rw [thread_statusG hthread]
    rfl

end

/-! ### The end of a thread -/

section
variable {s : State} {t : Tid}

/-- The locks of `l` freed from the next tick on, without the ABANDONED mark. -/
def freeLocks (s : State) (l : List Nat) : State := l.foldl (fun s n => freeLock s n (now s + 1) false) s

theorem freeLocks_eq (l : List Nat) : ∀ s, freeLocks s l = { s with locks := (freeLocks s l).locks } := by
  induction l with
  | nil => exact fun _ => rfl
  | cons n l ih => exact fun s => ih (freeLock s n (now s + 1) false)

theorem lock_freeLocks_not_mem {l : List Nat} : ∀ {s : State} {n : Nat}, n ∉ l →
    lock (freeLocks s l) n = lock s n := by
  induction l with
  | nil => exact fun _ => rfl
  | cons a l ih =>
    intro s n h
    rw [List.mem_cons, not_or] at h
    exact (ih h.2).trans (lock_putLock_ne s a n _ h.1)

theorem lock_freeLocks_mem {l : List Nat} : ∀ {s : State} {n : Nat}, n ∈ l →
    (lock (freeLocks s l) n).holder = none ∧ (lock (freeLocks s l) n).freeAt = now s + 1 := by
  induction l with
  | nil => exact fun h => absurd h List.not_mem_nil
  | cons a l ih =>
    intro s n h
    by_cases hl : n ∈ l
    · exact ih (s := freeLock s a (now s + 1) false) hl
    · obtain rfl : n = a := (List.mem_cons.1 h).resolve_right hl
      have hlock : lock (freeLocks s (n :: l)) n = lock (freeLock s n (now s + 1) false) n :=
        lock_freeLocks_not_mem hl
      rw [hlock, freeLock, lock_putLock]
      exact ⟨rfl, rfl⟩

/-- A thread that has ended: it is free, with its locks, from the next tick; `w` is what the debug port keeps of it. -/
abbrev EndsThread (t : Tid) (w : Thread) (s u : State) : Prop :=
  thread u t = {
    freeFrom := now s + 1, lastStart := w.lastStart, halted := w.halted, haltFrom := w.haltFrom
    stepping := w.stepping } ∧
  (∀ t', t' ≠ t → thread u t' = thread s t') ∧
  (∀ k ∈ w.locks, (lock u k).holder = none ∧ (lock u k).freeAt = now s + 1) ∧
  (∀ k, k ∉ w.locks → lock u k = lock s k) ∧ u.mem = s.mem

/-- A count and an event, or neither, touch register words and the recorder only. -/
theorem countedEvent_words (v : State) (b : Bool) (a source code d tenancy : Nat) : ∃ w r,
    (if b then v else event (count v a) source code d tenancy) = { v with words := w, recorder := r } := by
  cases b
  · obtain ⟨w, r, he⟩ := exists_event_eq (count v a) source code d tenancy 0 false
    exact ⟨w, r, he⟩
  · exact ⟨_, _, rfl⟩

theorem endThread_eq (h : (thread s t).cells = none) : ∃ w r, endThread s t =
    onThread (putThread { s with
        locks := (freeLocks s (thread s t).locks).locks
        due := (discardWork s t).due
        words := w
        recorder := r } t
      { freeFrom := now s + 1, lastStart := (thread s t).lastStart }) t fun v => { v with
        halted := (thread s t).halted, haltFrom := (thread s t).haltFrom, stepping := (thread s t).stepping } := by
  have hidle : ∀ v : State, v.threads = s.threads → idleThread v t (now s + 1) =
      putThread v t { freeFrom := now s + 1, lastStart := (thread s t).lastStart } := fun v hv => by
    have ht : thread v t = thread s t := thread_congr hv t
    simp only [idleThread, releaseCells, ht, h]
  have hv : discardWork (freeLocks s (thread s t).locks) t =
      { s with locks := (freeLocks s (thread s t).locks).locks, due := (discardWork s t).due } := by
    rw [freeLocks_eq]
    rfl
  simp only [endThread]
  unfold freeLocks at hv ⊢
  generalize discardWork (List.foldl _ s (thread s t).locks) t = v at *
  obtain ⟨w, r, hx⟩ := countedEvent_words v ((thread s t).locks.isEmpty && (thread s t).staged.isEmpty)
    (cluAddr t.cluster.val 0x24) (srcCore t.cluster.val t.core.val) evState
    (detail (tidNum t) (thread s t).locks.length) (tidTenancy v t)
  rw [hx]
  subst hv
  refine ⟨w, r, ?_⟩
  congr 1
  exact hidle _ rfl

theorem endsThread_endThread (h : (thread s t).cells = none) : EndsThread t (thread s t) s (endThread s t) ∧
    (endThread s t).frames = s.frames ∧ (endThread s t).due = (discardWork s t).due := by
  obtain ⟨w, r, he⟩ := endThread_eq h
  rw [he]
  refine ⟨⟨?_, fun t' ht => ?_, fun k hk => ?_, fun k hk => ?_, rfl⟩, rfl, rfl⟩
  · rw [thread_onThread, thread_putThread]
  · rw [thread_onThread_ne _ _ _ _ ht, thread_putThread_ne _ _ _ _ ht]
    rfl
  · exact lock_freeLocks_mem (s := s) hk
  · exact lock_freeLocks_not_mem (s := s) hk

/-- The release of a frame is no work that ends with the thread (R86). -/
theorem emitTaken_discardWork {tick phase n id : Nat} (h : ⟨tick, phase, n, .emitTaken t id, none⟩ ∈ s.due) :
    ⟨tick, phase, n, .emitTaken t id, none⟩ ∈ (discardWork s t).due :=
  List.mem_map.2 ⟨_, List.mem_filter.2 ⟨h, rfl⟩, rfl⟩

theorem handed_endThread {f v : Frame} {x : State} (h : Handed t f v s x) (hc : (thread x t).cells = none) :
    Handed t f v s (endThread x t) := by
  obtain ⟨hframe, hdue, hkept, hmem⟩ := h
  obtain ⟨⟨-, -, -, -, hm⟩, hf, hd⟩ := endsThread_endThread hc
  refine ⟨(frame_congr hf _).trans hframe, ?_, fun k hk => (frame_congr hf k).trans (hkept k hk), hm.trans hmem⟩
  rw [hd]
  exact emitTaken_discardWork hdue

/-- The end of the thread in a state that differs from `s` in neither other threads nor locks nor memory. -/
theorem endsThread_endThread_of {x : State} {w : Thread} (hw : thread x t = w) (hc : w.cells = none) (hn : now x = now s)
    (ht : ∀ t', t' ≠ t → thread x t' = thread s t') (hl : x.locks = s.locks) (hm : x.mem = s.mem) :
    EndsThread t w s (endThread x t) := by
  subst hw
  obtain ⟨⟨hthread, hothers, hlocks, hkept, hmem⟩, -, -⟩ := endsThread_endThread hc
  rw [hn] at hthread hlocks
  exact ⟨hthread, fun t' h => (hothers t' h).trans (ht t' h), hlocks, fun k hk => (hkept k hk).trans (lock_congr hl k),
    hmem.trans hm⟩

/-! ### What DONE does -/

theorem settleDone_handedOn (drop : Bool) (h : (thread s t).handedOn = true) :
    settleDone s t drop = .ok (endThread s t) := if_pos h

/-- DONE of a frame that the program has left as it came hands it on by its tag (R127). -/
theorem settleDone_handsOn (h : (thread s t).handedOn = false) (hd : (thread s t).destWritten = false)
    (h0 : tagDestKind (liveTag (thread s t)) ≠ dkUnset) (h6 : tagDestKind (liveTag (thread s t)) ≠ dkDiscard)
    (htag : hdrError s t 0 64 = false) (hhead : hdrError s t 64 (headPart (thread s t)) = false)
    (hmin : 60 ≤ (assemble (thread s t) (headPart (thread s t))).length)
    (hmax : (assemble (thread s t) (headPart (thread s t))).length ≤ maxLength) :
    settleDone s t false = .ok (endThread (handOnFrame s t (assemble (thread s t) (headPart (thread s t)))
      (liveTag (thread s t)) 0) t) := by
  unfold settleDone
  dsimp only
  rw [if_neg (by simp [h]), if_neg Bool.false_ne_true, if_neg (by simp [htag]), if_neg (not_or.2 ⟨h0, h6⟩),
    if_neg (by simp [hd]), if_neg (by simp [hhead]), if_neg (not_or.2 ⟨Nat.not_lt.2 hmin, Nat.not_lt.2 hmax⟩),
    if_neg (by simp [hd])]

theorem doneStep_settles {cd : Cond} {u : State} (hi : Issues s t (.done t cd false) [.p cd.pred] false)
    (hcond : condOf (thread s t) cd = true) (hscan : (thread s t).scanUntil ≤ now s)
    (hu : settleDone (markIssued s t) t false = .ok u) : doneStep t cd false s = u := by
  unfold doneStep
  dsimp only
  rw [if_neg (by simp [Nat.not_lt.2 hscan]), issue_issues hi, if_pos (by rwa [thread_markIssued, condOf_issued]), hu]

section
variable {cd : Cond} (hi : Issues s t (.done t cd false) [.p cd.pred] false) (hcond : condOf (thread s t) cd = true)
  (hscan : (thread s t).scanUntil ≤ now s) (hc : (thread s t).cells = none)
include hi hcond hscan hc

theorem runs_done_handedOn (hon : (thread s t).handedOn = true) :
    Runs (.done t cd false) s fun u => EndsThread t (issuedThread s t) s u ∧ u.frames = s.frames := by
  have hc' : (thread (markIssued s t) t).cells = none := by rw [thread_markIssued]; exact hc
  obtain ⟨hframes, hlocks⟩ := frames_locks_markIssued s t
  obtain ⟨-, hend, -⟩ := endsThread_endThread hc'
  refine runs_act hi.1 (exec_done ..) ?_
  rw [doneStep_settles hi hcond hscan (settleDone_handedOn false (by rw [thread_markIssued]; exact hon))]
  exact ⟨endsThread_endThread_of (thread_markIssued s t) hc (now_markIssued s t) (thread_markIssued_ne s t) hlocks
    (mem_markIssued s t), hend.trans hframes⟩

theorem runs_done_handsOn {f : Frame} (hon : (thread s t).handedOn = false) (hf : (thread s t).frame = some f.id)
    (hs : frame? s f.id = some f) (hd : (thread s t).destWritten = false)
    (h0 : tagDestKind (liveTag (thread s t)) ≠ dkUnset) (h6 : tagDestKind (liveTag (thread s t)) ≠ dkDiscard)
    (htag : hdrError s t 0 64 = false) (hhead : hdrError s t 64 (headPart (thread s t)) = false)
    (hmin : 60 ≤ (assemble (thread s t) (headPart (thread s t))).length)
    (hmax : (assemble (thread s t) (headPart (thread s t))).length ≤ maxLength) :
    Runs (.done t cd false) s fun u => EndsThread t { issuedThread s t with handedOn := true } s u ∧
      Handed t f (emittedFrame f (liveTag (thread s t)) (assemble (thread s t) (headPart (thread s t))) 0) s u := by
  obtain ⟨-, -, hhdr, -, -⟩ := emit_reads_issued s t (liveTag (thread s t))
  obtain ⟨hframes, hlocks⟩ := frames_locks_markIssued s t
  have hthread := thread_markIssued s t
  have hsettle := settleDone_handsOn (s := markIssued s t) (t := t) (by rw [hthread]; exact hon)
    (by rw [hthread]; exact hd) (by rw [hthread]; exact h0) (by rw [hthread]; exact h6) ((hhdr ..).trans htag)
    (by rw [hthread]; exact (hhdr ..).trans hhead) (by rw [hthread]; exact hmin) (by rw [hthread]; exact hmax)
  have hf' : (thread (markIssued s t) t).frame = some f.id := by rw [hthread]; exact hf
  have hs' : frame? (markIssued s t) f.id = some f := (frame_congr hframes _).trans hs
  rw [hthread] at hsettle
  have hhanded := handed_markIssued (handed_handOnFrame (assemble (issuedThread s t) (headPart (issuedThread s t)))
    (liveTag (issuedThread s t)) 0 hf' hs')
  obtain ⟨htick, hl, hthreads⟩ := handOnFrame_fields (assemble (issuedThread s t) (headPart (issuedThread s t)))
    (liveTag (issuedThread s t)) 0 hf' hs'
  refine runs_act hi.1 (exec_done ..) ?_
  rw [doneStep_settles hi hcond hscan hsettle]
  generalize handOnFrame (markIssued s t) t _ _ 0 = x at *
  have hown : thread x t = { issuedThread s t with handedOn := true } := by
    rw [thread_congr hthreads, thread_putThread, hthread]
  refine ⟨endsThread_endThread_of hown hc ((now_congr htick).trans (now_markIssued s t)) (fun t' ht => ?_)
    (hl.trans hlocks) hhanded.2.2.2, handed_endThread hhanded (by rw [hown]; exact hc)⟩
  rw [thread_congr hthreads, thread_putThread_ne _ _ _ _ ht, thread_markIssued_ne _ _ _ ht]

end

end

/-- Settles O18: each EMIT passes its checks and ends in one of its four cases, and DONE ends its thread after the
frame has been handed on, by the program or by DONE. -/
theorem emitAndDone : Obligations.EmitAndDone := by
  unfold Obligations.EmitAndDone
  intro t rd ra rb copy override headLen cd f s th g c h bytes r top asked lanes d handed free ended
  refine ⟨fun hi hscan hb ha hh hmin hmax hkind herr hdest hflow => ?_, fun hi hcond hscan hc =>
    ⟨fun hon => ?_, fun hon hf hs hd h0 h6 htag hhead hmin hmax => ?_⟩⟩
  · have hrun : ∀ P : State → Prop, P (emitChecked (markIssued s t) t rd copy bytes (emitDelay s t override ra)
        (emitStatus s t override ra)) → Runs c s P := fun P hP => runs_act hi.1 (exec_emit ..) (by
      rw [emitStep_checked hi hscan hb ha hh hmin hmax hkind herr hdest hflow]
      exact hP)
    refine ⟨fun hc hon => hrun _ (emitChecked_again hc hon), fun hc hon hf hs => hrun _ ?_,
      fun hc hn => hrun _ (emitChecked_limit hc hn), fun hc hn hb => hrun _ (emitChecked_copies hc hn hb)⟩
    obtain ⟨hhanded, hon, hpc, hpend⟩ := emitChecked_handsOn (rd := rd) (bytes := bytes)
      (d := emitDelay s t override ra) (st := emitStatus s t override ra) hc hon hf hs
    refine ⟨hhanded, hon, hpc, hpend.trans ?_⟩
    simp only [emitStatus, apply_ite (BitVec.ofNat 64)]
    rfl
  · exact runs_done_handedOn hi hcond hscan hc hon
  · exact runs_done_handsOn hi hcond hscan hc hon hf hs hd h0 h6 htag hhead hmin hmax

end Sys2Proof.Machine
end

section
/-! SUPPORT. Words of Falfimi instructions and their fields (R106–R109, R112–R137): a word is the encoding of given
operands exactly when each of its fields holds its operand, so encoding and decoding are read off one equivalence for
each format. -/

namespace Sys2Proof.Machine

open Sys2Proof

/-! ### Fields -/

section
variable {n lo k : Nat} {w : Word}

theorem fieldAt_eq_iff {b : BitVec n} : fieldAt n w lo = b ↔ w.toNat / 2 ^ lo % 2 ^ n = b.toNat := by
  rw [← BitVec.toNat_inj, fieldAt, BitVec.toNat_ofNat]

theorem flagAt_eq_iff {b : Bool} : flagAt w k = b ↔ w.toNat / 2 ^ k % 2 = b.toNat := by
  rw [flagAt, BitVec.getLsbD, Nat.testBit_eq_decide_div_mod_eq]
  cases b <;> simp

theorem gdOf_eq_iff {gd : Guard} :
    gdOf w = gd ↔ w.toNat / 2 ^ 8 % 2 ^ 3 = gd.pq.toNat ∧ w.toNat / 2 ^ 7 % 2 = gd.pn.toNat := by
  obtain ⟨pq, pn⟩ := gd
  rw [gdOf, Guard.mk.injEq, fieldAt_eq_iff, flagAt_eq_iff]

theorem cdOf_eq_iff {cd : Cond} :
    cdOf w = cd ↔ w.toNat / 2 ^ 23 % 2 ^ 3 = cd.pred.toNat ∧ w.toNat / 2 ^ 22 % 2 = cd.neg.toNat := by
  obtain ⟨pred, neg⟩ := cd
  rw [cdOf, Cond.mk.injEq, fieldAt_eq_iff, flagAt_eq_iff]

theorem szOf_eq_iff {sz : MemSize} : szOf w = sz ↔ w.toNat / 2 ^ 14 % 2 ^ 2 = MemSize.code sz := by
  have h : w.toNat / 2 ^ 14 % 2 ^ 2 < 4 := Nat.mod_lt _ (by decide)
  simp only [szOf, fieldAt, BitVec.toNat_ofNat]
  generalize w.toNat / 2 ^ 14 % 2 ^ 2 = v at *
  interval_cases v <;> cases sz <;> simp [MemSize.code]

theorem polyField_eq_iff {p : CheckPoly} : polyField w = p ↔ w.toNat % 2 ^ 2 = CheckPoly.code p := by
  have h : w.toNat % 2 ^ 2 < 4 := Nat.mod_lt _ (by decide)
  simp only [polyField, fieldAt, BitVec.toNat_ofNat, pow_zero, Nat.div_one]
  generalize w.toNat % 2 ^ 2 = v at *
  interval_cases v <;> cases p <;> simp [CheckPoly.code]

theorem code_lt_four (sz : MemSize) : MemSize.code sz < 4 := by cases sz <;> decide

theorem packed_eq_iff {fs : List (Nat × Nat)} :
    packed fs = w ↔ fs.foldl (fun a f => a + f.1 * 2 ^ f.2) 0 % 2 ^ 32 = w.toNat := by
  rw [← BitVec.toNat_inj, packed, BitVec.toNat_ofNat]

end

/-! ### Formats -/

section
variable {op fn : Nat} {rd ra rb : BitVec 5} {pd : BitVec 3} {gd : Guard} {w : Word}

theorem wordA_eq_iff (ho : op < 64) (hf : fn < 128) :
    wordA op rd ra rb gd fn = w ↔ wfld w 31 26 = op ∧ rdOf w = rd ∧ raOf w = ra ∧ rbOf w = rb ∧ gdOf w = gd ∧
      wfld w 6 0 = fn := by
  have := gd.pn.toNat_lt
  rw [wordA, packed_eq_iff]
  simp only [rdOf, raOf, rbOf, fieldAt_eq_iff, gdOf_eq_iff, wfld, List.foldl]
  omega

theorem wordCmp_eq_iff (hf : fn < 128) :
    wordCmp pd ra rb gd fn = w ↔ wfld w 31 26 = 2 ∧ pdOf w = pd ∧ wfld w 22 21 = 0 ∧ raOf w = ra ∧ rbOf w = rb ∧
      gdOf w = gd ∧ wfld w 6 0 = fn := by
  have := gd.pn.toNat_lt
  rw [wordCmp, packed_eq_iff]
  simp only [pdOf, raOf, rbOf, fieldAt_eq_iff, gdOf_eq_iff, wfld, List.foldl]
  omega

theorem wordPrd_eq_iff {pa pb : BitVec 3} (hf : fn < 128) :
    wordPrd pd pa pb gd fn = w ↔ wfld w 31 26 = 3 ∧ pdOf w = pd ∧ wfld w 22 21 = 0 ∧ fieldAt 3 w 18 = pa ∧
      wfld w 17 16 = 0 ∧ fieldAt 3 w 13 = pb ∧ wfld w 12 11 = 0 ∧ gdOf w = gd ∧ wfld w 6 0 = fn := by
  have := gd.pn.toNat_lt
  rw [wordPrd, packed_eq_iff]
  simp only [pdOf, fieldAt_eq_iff, gdOf_eq_iff, wfld, List.foldl]
  omega

theorem encode_pnz_iff {t : Tid} :
    encodeInstr (.pnz t pd ra gd) = [w] ↔ wfld w 31 26 = 3 ∧ pdOf w = pd ∧ wfld w 22 21 = 0 ∧ raOf w = ra ∧
      wfld w 15 11 = 0 ∧ gdOf w = gd ∧ wfld w 6 0 = 5 := by
  have := gd.pn.toNat_lt
  rw [encodeInstr, List.singleton_inj, packed_eq_iff]
  simp only [pdOf, raOf, fieldAt_eq_iff, gdOf_eq_iff, wfld, List.foldl]
  omega

theorem encode_pget_iff {t : Tid} :
    encodeInstr (.pget t rd gd) = [w] ↔ wfld w 31 26 = 3 ∧ rdOf w = rd ∧ wfld w 20 11 = 0 ∧ gdOf w = gd ∧
      wfld w 6 0 = 6 := by
  have := gd.pn.toNat_lt
  rw [encodeInstr, List.singleton_inj, packed_eq_iff]
  simp only [rdOf, fieldAt_eq_iff, gdOf_eq_iff, wfld, List.foldl]
  omega

theorem encode_pput_iff {t : Tid} :
    encodeInstr (.pput t ra gd) = [w] ↔ wfld w 31 26 = 3 ∧ wfld w 25 21 = 0 ∧ raOf w = ra ∧ wfld w 15 11 = 0 ∧
      gdOf w = gd ∧ wfld w 6 0 = 7 := by
  have := gd.pn.toNat_lt
  rw [encodeInstr, List.singleton_inj, packed_eq_iff]
  simp only [raOf, fieldAt_eq_iff, gdOf_eq_iff, wfld, List.foldl]
  omega

/-- Format I with a destination register and 16 bits of immediate. -/
theorem wordI_rd_eq_iff {low : BitVec 16} (ho : op < 64) :
    wordI op rd.toNat ra low.toNat = w ↔ wfld w 31 26 = op ∧ rdOf w = rd ∧ raOf w = ra ∧ fieldAt 16 w 0 = low := by
  rw [wordI, packed_eq_iff]
  simp only [rdOf, raOf, fieldAt_eq_iff, wfld, List.foldl]
  omega

/-- Format I with a destination predicate and 16 bits of immediate. -/
theorem wordI_pd_eq_iff {low : BitVec 16} (ho : op < 64) :
    wordI op (pd.toNat * 4) ra low.toNat = w ↔ wfld w 31 26 = op ∧ pdOf w = pd ∧ wfld w 22 21 = 0 ∧ raOf w = ra ∧
      fieldAt 16 w 0 = low := by
  rw [wordI, packed_eq_iff]
  simp only [pdOf, raOf, fieldAt_eq_iff, wfld, List.foldl]
  omega

/-- Format I of a shift by an immediate. -/
theorem wordI_shift_eq_iff {sh : BitVec 6} (ho : op < 64) :
    wordI op rd.toNat ra sh.toNat = w ↔ wfld w 31 26 = op ∧ rdOf w = rd ∧ raOf w = ra ∧ wfld w 15 6 = 0 ∧
      fieldAt 6 w 0 = sh := by
  rw [wordI, packed_eq_iff]
  simp only [rdOf, raOf, fieldAt_eq_iff, wfld, List.foldl]
  omega

/-- Format I of a field's position and length. -/
theorem wordI_span_eq_iff {pos lenM1 : BitVec 6} (ho : op < 64) :
    wordI op rd.toNat ra (pos.toNat + lenM1.toNat * 64) = w ↔ wfld w 31 26 = op ∧ rdOf w = rd ∧ raOf w = ra ∧
      wfld w 15 12 = 0 ∧ fieldAt 6 w 6 = lenM1 ∧ fieldAt 6 w 0 = pos := by
  rw [wordI, packed_eq_iff]
  simp only [rdOf, raOf, fieldAt_eq_iff, wfld, List.foldl]
  omega

/-- The X word. -/
theorem wordX_eq_iff {x : BitVec 26} :
    packed [(0x3E, 26), (x.toNat, 0)] = w ↔ wfld w 31 26 = 0x3E ∧ fieldAt 26 w 0 = x := by
  rw [packed_eq_iff]
  simp only [fieldAt_eq_iff, wfld, List.foldl]
  omega

theorem wordM_eq_iff {sz : MemSize} {lsb sx : Bool} {off : BitVec 12} (ho : op < 64) :
    wordM op rd ra sz lsb sx off = w ↔ wfld w 31 26 = op ∧ rdOf w = rd ∧ raOf w = ra ∧ szOf w = sz ∧
      flagAt w 13 = lsb ∧ flagAt w 12 = sx ∧ fieldAt 12 w 0 = off := by
  have := lsb.toNat_lt
  have := sx.toNat_lt
  have := code_lt_four sz
  rw [wordM, packed_eq_iff]
  simp only [rdOf, raOf, fieldAt_eq_iff, flagAt_eq_iff, szOf_eq_iff, wfld, List.foldl]
  omega

theorem wordB_eq_iff {cd : Cond} {low : Nat} (ho : op < 64) (hl : low < 2 ^ 22) :
    wordB op cd low = w ↔ wfld w 31 26 = op ∧ cdOf w = cd ∧ wfld w 21 0 = low := by
  have := cd.neg.toNat_lt
  rw [wordB, packed_eq_iff]
  simp only [cdOf_eq_iff, wfld, List.foldl]
  omega

theorem encode_loop_iff {t : Tid} {reg : Bool} {max body : BitVec 10} :
    encodeInstr (.loop t rd reg max body) = [w] ↔ wfld w 31 26 = 0x21 ∧ rdOf w = rd ∧ flagAt w 20 = reg ∧
      fieldAt 10 w 10 = max ∧ fieldAt 10 w 0 = body := by
  have := reg.toNat_lt
  rw [encodeInstr, List.singleton_inj, packed_eq_iff]
  simp only [rdOf, fieldAt_eq_iff, flagAt_eq_iff, wfld, List.foldl]
  omega

theorem encode_endl_iff {t : Tid} {back : BitVec 10} :
    encodeInstr (.endl t rd back) = [w] ↔ wfld w 31 26 = 0x22 ∧ rdOf w = rd ∧ wfld w 20 10 = 0 ∧
      fieldAt 10 w 0 = back := by
  rw [encodeInstr, List.singleton_inj, packed_eq_iff]
  simp only [rdOf, fieldAt_eq_iff, wfld, List.foldl]
  omega

theorem wordD_eq_iff {md : Nat} (hm : md < 8) (hf : fn < 256) :
    wordD rd ra rb md fn = w ↔ wfld w 31 26 = 0x38 ∧ rdOf w = rd ∧ raOf w = ra ∧ rbOf w = rb ∧ wfld w 10 8 = md ∧
      wfld w 7 0 = fn := by
  rw [wordD, packed_eq_iff]
  simp only [rdOf, raOf, rbOf, fieldAt_eq_iff, wfld, List.foldl]
  omega

theorem wordN_eq_iff {n : BitVec 8} (hf : fn < 256) :
    wordN rd ra n fn = w ↔ wfld w 31 26 = 0x38 ∧ rdOf w = rd ∧ raOf w = ra ∧ numOf w = n ∧ wfld w 7 0 = fn := by
  rw [wordN, wordD_eq_iff (Nat.mod_lt _ (by decide)) hf]
  simp only [rdOf, raOf, rbOf, numOf, fieldAt_eq_iff, BitVec.toNat_ofNat, wfld]
  omega

end

end Sys2Proof.Machine
end

section
/-! SUPPORT. Decoding the words of Falfimi instructions (R106–R109, R112–R137): what each format's word decodes to, and
which words an instruction that was decoded has. -/

namespace Sys2Proof.Machine

open Sys2Proof

/-! ### MOD and FN of format D -/

section
variable {w : Word}

theorem mod_flag_iff {m : Bool} : wfld w 10 8 = m.toNat ↔ flagAt w 8 = m ∧ wfld w 10 8 < 2 := by
  have := m.toNat_lt
  simp only [flagAt_eq_iff, wfld]
  omega

theorem mod_field_iff {m : BitVec 3} : wfld w 10 8 = m.toNat ↔ fieldAt 3 w 8 = m := fieldAt_eq_iff.symm

theorem mod_hash_iff {f : BitVec 2} {h : Bool} :
    wfld w 10 8 = f.toNat + 4 * h.toNat ↔ fieldAt 2 w 8 = f ∧ flagAt w 10 = h := by
  have := h.toNat_lt
  simp only [fieldAt_eq_iff, flagAt_eq_iff, wfld]
  omega

theorem mod_emit_iff {c o h : Bool} :
    wfld w 10 8 = c.toNat + 2 * o.toNat + 4 * h.toNat ↔ flagAt w 8 = c ∧ flagAt w 9 = o ∧ flagAt w 10 = h := by
  have := c.toNat_lt
  have := o.toNat_lt
  have := h.toNat_lt
  simp only [flagAt_eq_iff, wfld]
  omega

theorem mod_flag_lt (m : Bool) : m.toNat < 8 := Nat.lt_trans m.toNat_lt (by decide)

theorem mod_hash_lt (f : BitVec 2) (h : Bool) : f.toNat + 4 * h.toNat < 8 := by
  have := f.isLt
  have := h.toNat_lt
  omega

theorem mod_emit_lt (c o h : Bool) : c.toNat + 2 * o.toNat + 4 * h.toNat < 8 := by
  have := c.toNat_lt
  have := o.toNat_lt
  have := h.toNat_lt
  omega

theorem mod_header_lt (h : Bool) : 4 * h.toNat < 8 := by have := h.toNat_lt; omega

theorem low_field_iff {d : BitVec 22} : wfld w 21 0 = d.toNat ↔ fieldAt 22 w 0 = d := fieldAt_eq_iff.symm

/-- A format B word whose low field is one bit. -/
theorem low_flag_iff {b : Bool} : wfld w 21 0 = b.toNat ↔ flagAt w 0 = b ∧ wfld w 21 1 = 0 := by
  have := b.toNat_lt
  simp only [flagAt_eq_iff, wfld]
  omega

theorem mod_header_iff {h : Bool} :
    wfld w 10 8 = 4 * h.toNat ↔ flagAt w 10 = h ∧ wfld w 10 8 % 4 = 0 := by
  have := h.toNat_lt
  simp only [flagAt_eq_iff, wfld]
  omega

theorem polyCode_lt_four (p : CheckPoly) : CheckPoly.code p < 4 := by cases p <;> decide

/-- FN of a check operation: its function in FN[7:2], its polynomial in FN[1:0] (R137). -/
theorem fn_poly_iff {p : CheckPoly} {k : Nat} (hk : k % 4 = 0) :
    wfld w 7 0 = k + CheckPoly.code p ↔ k ≤ wfld w 7 0 ∧ wfld w 7 0 ≤ k + 3 ∧ polyField w = p := by
  have := polyCode_lt_four p
  simp only [polyField_eq_iff, wfld]
  omega

theorem rbOf_eq_zero_iff : rbOf w = 0 ↔ wfld w 15 11 = 0 := fieldAt_eq_iff
theorem raOf_eq_zero_iff : raOf w = 0 ↔ wfld w 20 16 = 0 := fieldAt_eq_iff
theorem rdOf_eq_zero_iff : rdOf w = 0 ↔ wfld w 25 21 = 0 := fieldAt_eq_iff

end

/-! ### From operands to words and back -/

section
variable {t : Tid} {c : Instr} {w : Word}

theorem okWords_of_wf (h : c.wf = true) : okWords (encodeInstr c) = true := (Bool.and_eq_true_iff.1 h).1

/-- The opcodes that an X word may widen, and the X word's own (R108). -/
def wideOps : List Nat := [0x04, 0x05, 0x06, 0x07, 0x0B, 0x0C, 0x0D, 0x0E, 0x0F, 0x10, 0x11, 0x3E]

theorem decodeWide_eq_none {x : Option Word} (h : wfld w 31 26 ∉ wideOps) : decodeWide t x w = none := by
  simp only [wideOps, List.mem_cons, List.not_mem_nil, or_false, not_or] at h
  unfold decodeWide
  split
  case h_12 => rfl
  all_goals omega

/-- An instruction of one word that no X word widens. -/
theorem decodeInstr_plain {op : Nat} (hwf : c.wf = true) (he : encodeInstr c = [w]) (hop : wfld w 31 26 = op)
    (ho : op ∉ wideOps) (hp : decodePlain t w = some c) : decodeInstr t (encodeInstr c) = some c := by
  have hl := okWords_of_wf hwf
  have hx : wfld w 31 26 ≠ 0x3E := fun h => ho (by rw [← hop, h]; decide)
  rw [he] at hl ⊢
  simp only [okWords, Bool.not_eq_true'] at hl
  simp [decodeInstr, hl, hx, decodeWide_eq_none (hop ▸ ho), hp]

section
variable {op fn : Nat} {rd ra rb : BitVec 5} {pd : BitVec 3} {gd : Guard}

theorem decode_alu (hwf : c.wf = true) (he : encodeInstr c = [wordA 1 rd ra rb gd fn]) (hf : fn < 128)
    (hc : ∀ w, rdOf w = rd → raOf w = ra → rbOf w = rb → gdOf w = gd → wfld w 6 0 = fn → decodeAlu t w = some c) :
    decodeInstr t (encodeInstr c) = some c := by
  obtain ⟨hop, hrd, hra, hrb, hgd, hfn⟩ := (wordA_eq_iff (by decide) hf).1 (Eq.refl (wordA 1 rd ra rb gd fn))
  refine decodeInstr_plain hwf he hop (by decide) ?_
  simp only [decodePlain, hop]
  exact hc _ hrd hra hrb hgd hfn

theorem decode_cmp (hwf : c.wf = true) (he : encodeInstr c = [wordCmp pd ra rb gd fn]) (hf : fn < 128)
    (hc : ∀ w, pdOf w = pd → raOf w = ra → rbOf w = rb → gdOf w = gd → wfld w 6 0 = fn → decodeCmp t w = some c) :
    decodeInstr t (encodeInstr c) = some c := by
  obtain ⟨hop, hpd, -, hra, hrb, hgd, hfn⟩ := (wordCmp_eq_iff hf).1 (Eq.refl (wordCmp pd ra rb gd fn))
  refine decodeInstr_plain hwf he hop (by decide) ?_
  simp only [decodePlain, hop]
  exact hc _ hpd hra hrb hgd hfn

theorem decode_prd {pa pb : BitVec 3} (hwf : c.wf = true) (he : encodeInstr c = [wordPrd pd pa pb gd fn])
    (hf : fn < 128) (hc : ∀ w, pdOf w = pd → fieldAt 3 w 18 = pa → fieldAt 3 w 13 = pb → gdOf w = gd →
      wfld w 6 0 = fn → decodePrd t w = some c) :
    decodeInstr t (encodeInstr c) = some c := by
  obtain ⟨hop, hpd, -, hpa, -, hpb, -, hgd, hfn⟩ := (wordPrd_eq_iff hf).1 (Eq.refl (wordPrd pd pa pb gd fn))
  refine decodeInstr_plain hwf he hop (by decide) ?_
  simp only [decodePlain, hop]
  exact hc _ hpd hpa hpb hgd hfn

theorem decode_dev {md : Nat} (hwf : c.wf = true) (he : encodeInstr c = [wordD rd ra rb md fn]) (hm : md < 8)
    (hf : fn < 256) (hc : ∀ w, rdOf w = rd → raOf w = ra → rbOf w = rb → wfld w 10 8 = md → wfld w 7 0 = fn →
      decodeDev t w = some c) :
    decodeInstr t (encodeInstr c) = some c := by
  obtain ⟨hop, hrd, hra, hrb, hmd, hfn⟩ := (wordD_eq_iff hm hf).1 (Eq.refl (wordD rd ra rb md fn))
  refine decodeInstr_plain hwf he hop (by decide) ?_
  simp only [decodePlain, hop]
  exact hc _ hrd hra hrb hmd hfn

theorem decode_num {n : BitVec 8} (hwf : c.wf = true) (he : encodeInstr c = [wordN rd ra n fn])
    (hf : fn < 256) (hc : ∀ w, rdOf w = rd → raOf w = ra → numOf w = n → wfld w 7 0 = fn → decodeDev t w = some c) :
    decodeInstr t (encodeInstr c) = some c := by
  obtain ⟨hop, hrd, hra, hn, hfn⟩ := (wordN_eq_iff hf).1 (Eq.refl (wordN rd ra n fn))
  refine decodeInstr_plain hwf he hop (by decide) ?_
  simp only [decodePlain, hop]
  exact hc _ hrd hra hn hfn

theorem decode_mem {sz : MemSize} {lsb sx : Bool} {off : BitVec 12} (hwf : c.wf = true)
    (he : encodeInstr c = [wordM op rd ra sz lsb sx off]) (ho : op < 64 ∧ op ∉ wideOps)
    (hc : ∀ w, wfld w 31 26 = op → rdOf w = rd → raOf w = ra → szOf w = sz → flagAt w 13 = lsb → flagAt w 12 = sx →
      fieldAt 12 w 0 = off → decodePlain t w = some c) :
    decodeInstr t (encodeInstr c) = some c := by
  obtain ⟨hop, hrd, hra, hsz, hlsb, hsx, hoff⟩ :=
    (wordM_eq_iff ho.1).1 (Eq.refl (wordM op rd ra sz lsb sx off))
  exact decodeInstr_plain hwf he hop ho.2 (hc _ hop hrd hra hsz hlsb hsx hoff)

theorem decode_shift {sh : BitVec 6} (hwf : c.wf = true) (he : encodeInstr c = [wordI op rd.toNat ra sh.toNat])
    (ho : op < 64 ∧ op ∉ wideOps) (hc : ∀ w, wfld w 31 26 = op → rdOf w = rd → raOf w = ra → fieldAt 6 w 0 = sh →
      decodePlain t w = some c) :
    decodeInstr t (encodeInstr c) = some c := by
  obtain ⟨hop, hrd, hra, -, hsh⟩ := (wordI_shift_eq_iff ho.1).1 (Eq.refl (wordI op rd.toNat ra sh.toNat))
  exact decodeInstr_plain hwf he hop ho.2 (hc _ hop hrd hra hsh)

theorem decode_span {pos lenM1 : BitVec 6} (hwf : c.wf = true)
    (he : encodeInstr c = [wordI op rd.toNat ra (pos.toNat + lenM1.toNat * 64)]) (ho : op < 64 ∧ op ∉ wideOps)
    (hc : ∀ w, wfld w 31 26 = op → rdOf w = rd → raOf w = ra → fieldAt 6 w 6 = lenM1 → fieldAt 6 w 0 = pos →
      decodePlain t w = some c) :
    decodeInstr t (encodeInstr c) = some c := by
  obtain ⟨hop, hrd, hra, -, hlen, hpos⟩ :=
    (wordI_span_eq_iff ho.1).1 (Eq.refl (wordI op rd.toNat ra (pos.toNat + lenM1.toNat * 64)))
  exact decodeInstr_plain hwf he hop ho.2 (hc _ hop hrd hra hlen hpos)

theorem decode_branch {cd : Cond} {low : Nat} (hwf : c.wf = true) (he : encodeInstr c = [wordB op cd low])
    (ho : op < 64 ∧ op ∉ wideOps) (hl : low < 2 ^ 22)
    (hc : ∀ w, wfld w 31 26 = op → cdOf w = cd → wfld w 21 0 = low → decodePlain t w = some c) :
    decodeInstr t (encodeInstr c) = some c := by
  obtain ⟨hop, hcd, hlow⟩ := (wordB_eq_iff ho.1 hl).1 (Eq.refl (wordB op cd low))
  exact decodeInstr_plain hwf he hop ho.2 (hc _ hop hcd hlow)

/-- The words of an instruction with a widenable immediate. -/
theorem decode_wide {top : Nat} {imm : Imm} (hwf : c.wf = true) (he : encodeInstr c = wordsI op top ra imm)
    (hw : wordI op top ra imm.low.toNat = w) (hx : wfld w 31 26 ≠ 0x3E) (hlow : fieldAt 16 w 0 = imm.low)
    (hc : ∀ x, immOf x w = imm → decodeWide t x w = some c) : decodeInstr t (encodeInstr c) = some c := by
  have hl := okWords_of_wf hwf
  obtain ⟨low, _ | x⟩ := imm
  · simp only [he, wordsI, hw, okWords, Bool.not_eq_true'] at hl ⊢
    simp [decodeInstr, hl, hx, hc none (by simp [immOf, hlow])]
  · generalize hX : packed [(0x3E, 26), (x.toNat, 0)] = X
    obtain ⟨hop, hx'⟩ := wordX_eq_iff.1 hX
    simp only [he, wordsI, hw, hX, okWords, Bool.not_eq_true'] at hl ⊢
    simp [decodeInstr, hl, hop, hc (some X) (by simp [immOf, hlow, hx'])]

theorem decode_wide_rd {imm : Imm} (hwf : c.wf = true) (he : encodeInstr c = wordsI op rd.toNat ra imm)
    (ho : op < 0x3E) (hc : ∀ x w, wfld w 31 26 = op → rdOf w = rd → raOf w = ra → immOf x w = imm →
      decodeWide t x w = some c) :
    decodeInstr t (encodeInstr c) = some c := by
  obtain ⟨hop, hrd, hra, hlow⟩ := (wordI_rd_eq_iff (by omega)).1 (Eq.refl (wordI op rd.toNat ra imm.low.toNat))
  exact decode_wide hwf he rfl (by omega) hlow fun x hx => hc x _ hop hrd hra hx

theorem decode_wide_pd {imm : Imm} (hwf : c.wf = true) (he : encodeInstr c = wordsI op (pd.toNat * 4) ra imm)
    (ho : op < 0x3E) (hc : ∀ x w, wfld w 31 26 = op → pdOf w = pd → raOf w = ra → immOf x w = imm →
      decodeWide t x w = some c) :
    decodeInstr t (encodeInstr c) = some c := by
  obtain ⟨hop, hpd, -, hra, hlow⟩ :=
    (wordI_pd_eq_iff (by omega)).1 (Eq.refl (wordI op (pd.toNat * 4) ra imm.low.toNat))
  exact decode_wide hwf he rfl (by omega) hlow fun x hx => hc x _ hop hpd hra hx

end

end

/-- The words of a well-formed instruction decode to it, for the thread that it names. -/
theorem decode_encode {i : Instr} (h : i.wf = true) (hn : encodeInstr i ≠ []) :
    ∃ t, decodeInstr t (encodeInstr i) = some i := by
  cases i with
  | add t rd ra rb gd | sub t rd ra rb gd | mul t rd ra rb gd | mulhu t rd ra rb gd | and_ t rd ra rb gd
  | or_ t rd ra rb gd | xor_ t rd ra rb gd | andn t rd ra rb gd | shl t rd ra rb gd | shr t rd ra rb gd
  | sar t rd ra rb gd | rol t rd ra rb gd | min_ t rd ra rb gd | max_ t rd ra rb gd | minu t rd ra rb gd
  | maxu t rd ra rb gd | sel t rd ra rb gd | clz t rd ra gd | ctz t rd ra gd | popc t rd ra gd
  | bsw16 t rd ra gd | bsw32 t rd ra gd | bsw64 t rd ra gd =>
    exact ⟨t, decode_alu h rfl (by decide) fun w hrd hra hrb hgd hfn => by simp [decodeAlu, *]⟩
  | ceq t pd ra rb gd | cne t pd ra rb gd | clt t pd ra rb gd | cltu t pd ra rb gd | cle t pd ra rb gd
  | cleu t pd ra rb gd | tst t pd ra rb gd | tstz t pd ra rb gd =>
    exact ⟨t, decode_cmp h rfl (by decide) fun w hpd hra hrb hgd hfn => by simp [decodeCmp, *]⟩
  | pand t pd pa pb gd | por t pd pa pb gd | pxor t pd pa pb gd | pandn t pd pa pb gd | pnot t pd pa gd =>
    exact ⟨t, decode_prd h rfl (by decide) fun w hpd hpa hpb hgd hfn => by simp [decodePrd, *]⟩
  | pnz t pd ra gd =>
    obtain ⟨hop, hpd, -, hra, -, hgd, hfn⟩ := encode_pnz_iff.1 (Eq.refl (encodeInstr (.pnz t pd ra gd)))
    exact ⟨t, decodeInstr_plain h rfl hop (by decide) (by simp [decodePlain, decodePrd, *])⟩
  | pget t rd gd =>
    obtain ⟨hop, hrd, -, hgd, hfn⟩ := encode_pget_iff.1 (Eq.refl (encodeInstr (.pget t rd gd)))
    exact ⟨t, decodeInstr_plain h rfl hop (by decide) (by simp [decodePlain, decodePrd, *])⟩
  | pput t ra gd =>
    obtain ⟨hop, -, hra, -, hgd, hfn⟩ := encode_pput_iff.1 (Eq.refl (encodeInstr (.pput t ra gd)))
    exact ⟨t, decodeInstr_plain h rfl hop (by decide) (by simp [decodePlain, decodePrd, *])⟩
  | addi t rd ra imm | andi t rd ra imm | ori t rd ra imm | xori t rd ra imm | movh t rd ra imm =>
    exact ⟨t, decode_wide_rd h rfl (by decide) fun x w hop hrd hra hx => by simp [decodeWide, *]⟩
  | ceqi t pd ra imm | cnei t pd ra imm | clti t pd ra imm | cltui t pd ra imm | cgti t pd ra imm
  | cgtui t pd ra imm =>
    exact ⟨t, decode_wide_pd h rfl (by decide) fun x w hop hpd hra hx => by simp [decodeWide, *]⟩
  | shli t rd ra sh | shri t rd ra sh | sari t rd ra sh =>
    exact ⟨t, decode_shift h rfl (by decide) fun w hop hrd hra hsh => by simp [decodePlain, *]⟩
  | extf t rd ra pos lenM1 | insf t rd ra pos lenM1 =>
    exact ⟨t, decode_span h rfl (by decide) fun w hop hrd hra hlen hpos => by simp [decodePlain, *]⟩
  | hld t rt ra sz lsb sx off | hst t rt ra sz lsb off | lld t rt ra sz sx off | lst t rt ra sz off
  | sld t rt ra sz sx off | sst t rt ra sz off =>
    exact ⟨t, decode_mem h rfl (by decide) fun w hop hrt hra hsz hlsb hsx hoff => by simp [decodePlain, *]⟩
  | br t cd disp | call t cd disp =>
    exact ⟨t, decode_branch h rfl (by decide) disp.isLt fun w hop hcd hd => by
      simp [decodePlain, hop, hcd, low_field_iff.1 hd]⟩
  | ret t cd =>
    exact ⟨t, decode_branch h rfl (by decide) (by decide) fun w hop hcd _ => by simp [decodePlain, *]⟩
  | done t cd drop =>
    exact ⟨t, decode_branch h rfl (by decide) (Nat.lt_trans drop.toNat_lt (by decide)) fun w hop hcd hd => by
      simp [decodePlain, hop, hcd, (low_flag_iff.1 hd).1]⟩
  | loop t gc reg max body =>
    obtain ⟨hop, hgc, hreg, hmax, hbody⟩ := encode_loop_iff.1 (Eq.refl (encodeInstr (.loop t gc reg max body)))
    exact ⟨t, decodeInstr_plain h rfl hop (by decide) (by simp [decodePlain, *])⟩
  | endl t gc back =>
    obtain ⟨hop, hgc, -, hback⟩ := encode_endl_iff.1 (Eq.refl (encodeInstr (.endl t gc back)))
    exact ⟨t, decodeInstr_plain h rfl hop (by decide) (by simp [decodePlain, *])⟩
  | lookup t rd ra n | insert t rd ra n | delete t rd ra n | classify t rd ra n =>
    exact ⟨t, decode_num h rfl (by decide) fun w hrd hra hn hfn => by simp [decodeDev, *]⟩
  | learn t rd ra rb | cadd t rd ra | lock t rd ra | lockw t rd ra rb | unlock t rd ra | wait t rd ra rb
  | notify t rd ra | cput t rd ra rb | ccommit t rd ra | cget t rd ra rb | mbsend t rd ra | mbrecv t rd ra
  | mbwdraw t rd =>
    exact ⟨t, decode_dev h rfl (by decide) (by decide) fun w hrd hra hrb hmd hfn => by simp [decodeDev, *]⟩
  | hash t rd ra rb f hdr =>
    exact ⟨t, decode_dev h rfl (mod_hash_lt f hdr) (by decide) fun w hrd hra hrb hmd hfn => by
      simp [decodeDev, *, mod_hash_iff.1 hmd]⟩
  | fcld t rd ra rb m | fcst t rd ra rb m | fcstv t rd ra rb m | crd t rd ra m | capture t rd ra m =>
    exact ⟨t, decode_dev h rfl (mod_flag_lt m) (by decide) fun w hrd hra hrb hmd hfn => by
      simp [decodeDev, *, (mod_flag_iff.1 hmd).1]⟩
  | fetch t rd ra rb m | time t rd ra m =>
    exact ⟨t, decode_dev h rfl m.isLt (by decide) fun w hrd hra hrb hmd hfn => by
      simp [decodeDev, *, mod_field_iff.1 hmd]⟩
  | emit t rd ra rb copy override hdr =>
    exact ⟨t, decode_dev h rfl (mod_emit_lt copy override hdr) (by decide) fun w hrd hra hrb hmd hfn => by
      simp [decodeDev, *, mod_emit_iff.1 hmd]⟩
  | chks t p rd ra rb hdr | chkc t p rd ra rb hdr =>
    exact ⟨t, decode_dev h rfl (mod_header_lt hdr) (by cases p <;> decide) fun w hrd hra hrb hmd hfn => by
      obtain ⟨-, -, hp⟩ := (fn_poly_iff (by decide)).1 hfn
      cases p <;> simp [decodeDev, *, CheckPoly.code, mod_header_iff.1 hmd]⟩
  | chka t p rd ra | chkv t p rd ra =>
    exact ⟨t, decode_dev h rfl (by decide) (by cases p <;> decide) fun w hrd hra hrb hmd hfn => by
      obtain ⟨-, -, hp⟩ := (fn_poly_iff (by decide)).1 hfn
      cases p <;> simp [decodeDev, *, CheckPoly.code]⟩
  | _ => exact absurd rfl hn
end Sys2Proof.Machine
end

section
/-! SUPPORT. The words that decode are the words of the instruction that they decode to (R106–R109, R112–R137), so no
bit of a legal word is dropped. -/

namespace Sys2Proof.Machine

open Sys2Proof

/-- The words are those of the instruction, and nothing but their legality is asked of it to be well formed. -/
def Spells (c : Instr) (ws : List Word) : Prop := encodeInstr c = ws ∧ c.wf = okWords (encodeInstr c)

section
variable {t : Tid} {c : Instr} {v w : Word}

theorem pb_of_zero (h : wfld w 15 11 = 0) : fieldAt 3 w 13 = 0 ∧ wfld w 12 11 = 0 := by
  have h0 : (0 : BitVec 3).toNat = 0 := rfl
  simp only [fieldAt_eq_iff, wfld] at *
  omega

theorem flag_of_zero {k : Nat} (h : wfld w k k = 0) : flagAt w k = false := by
  rw [flagAt_eq_iff]
  simpa [wfld] using h

theorem flags_of_zero (h : wfld w 13 12 = 0) : flagAt w 13 = false ∧ flagAt w 12 = false := by
  simp only [flagAt_eq_iff, wfld, Bool.toNat_false] at *
  omega

theorem spells_word (hv : v = w) (he : encodeInstr c = [v] := by rfl)
    (hwf : c.wf = okWords (encodeInstr c) := by exact Bool.and_true _) : Spells c [w] := ⟨hv ▸ he, hwf⟩

theorem decodeAlu_spells (hop : wfld w 31 26 = 1) (hl : legalWord w = true) (h : decodeAlu t w = some c) :
    Spells c [w] := by
  have hrb : wfld w 6 0 < 0x11 ∨ rbOf w = 0 := by
    simp only [legalWord, hop, Bool.and_eq_true, Bool.or_eq_true, decide_eq_true_eq, beq_iff_eq] at hl
    exact hl.2.imp_right rbOf_eq_zero_iff.2
  unfold decodeAlu at h
  split at h
  case h_24 => cases h
  iterate 17
    next hfn =>
      cases h
      exact spells_word ((wordA_eq_iff (by decide) (by decide)).2 ⟨hop, rfl, rfl, rfl, rfl, hfn⟩)
  iterate 6
    next hfn =>
      cases h
      exact spells_word ((wordA_eq_iff (by decide) (by decide)).2
        ⟨hop, rfl, rfl, hrb.resolve_left (by omega), rfl, hfn⟩)

theorem decodeCmp_spells (hop : wfld w 31 26 = 2) (hl : legalWord w = true) (h : decodeCmp t w = some c) :
    Spells c [w] := by
  have hz : wfld w 22 21 = 0 := by
    simp only [legalWord, hop, Bool.and_eq_true, beq_iff_eq] at hl
    exact hl.2
  unfold decodeCmp at h
  split at h
  case h_9 => cases h
  iterate 8
    next hfn =>
      cases h
      exact spells_word ((wordCmp_eq_iff (by decide)).2 ⟨hop, rfl, hz, rfl, rfl, rfl, hfn⟩)

theorem decodePrd_spells (hop : wfld w 31 26 = 3) (hl : legalWord w = true) (h : decodePrd t w = some c) :
    Spells c [w] := by
  simp only [legalWord, hop] at hl
  unfold decodePrd at h
  simp only at h
  split at h
  case h_9 => cases h
  iterate 4
    next hfn =>
      cases h
      obtain ⟨⟨hz, ha⟩, hb⟩ : (wfld w 22 21 = 0 ∧ wfld w 17 16 = 0) ∧ wfld w 12 11 = 0 := by simpa [hfn] using hl
      exact spells_word ((wordPrd_eq_iff (by decide)).2 ⟨hop, rfl, hz, rfl, ha, rfl, hb, rfl, hfn⟩)
  case h_5 hfn =>
    cases h
    obtain ⟨⟨hz, ha⟩, hb⟩ : (wfld w 22 21 = 0 ∧ wfld w 17 16 = 0) ∧ wfld w 15 11 = 0 := by simpa [hfn] using hl
    obtain ⟨hpb, hb⟩ := pb_of_zero hb
    exact spells_word ((wordPrd_eq_iff (by decide)).2 ⟨hop, rfl, hz, rfl, ha, hpb, hb, rfl, hfn⟩)
  case h_6 hfn =>
    cases h
    obtain ⟨hz, hb⟩ : wfld w 22 21 = 0 ∧ wfld w 15 11 = 0 := by simpa [hfn] using hl
    exact ⟨encode_pnz_iff.2 ⟨hop, rfl, hz, rfl, hb, rfl, hfn⟩, Bool.and_true _⟩
  case h_7 hfn =>
    cases h
    have hz : wfld w 20 11 = 0 := by simpa [hfn] using hl
    exact ⟨encode_pget_iff.2 ⟨hop, rfl, hz, rfl, hfn⟩, Bool.and_true _⟩
  case h_8 hfn =>
    cases h
    obtain ⟨hz, hb⟩ : wfld w 25 21 = 0 ∧ wfld w 15 11 = 0 := by simpa [hfn] using hl
    exact ⟨encode_pput_iff.2 ⟨hop, hz, rfl, hb, rfl, hfn⟩, Bool.and_true _⟩

/-- A check operation's word, of the functions from FN 0x40 on (R137). -/
theorem chk_word {k : Nat} {ra rb : BitVec 5} {md : Nat} (hop : wfld w 31 26 = 0x38) (hm : md < 8) (hk : k % 4 = 0)
    (hk' : k < 0x50) (hra : raOf w = ra) (hrb : rbOf w = rb) (hmd : wfld w 10 8 = md)
    (hfn : k ≤ wfld w 7 0 ∧ wfld w 7 0 ≤ k + 3) :
    wordD (rdOf w) ra rb md (k + CheckPoly.code (polyField w)) = w :=
  (wordD_eq_iff hm (by have := polyCode_lt_four (polyField w); omega)).2
    ⟨hop, rfl, hra, hrb, hmd, (fn_poly_iff hk).2 ⟨hfn.1, hfn.2, rfl⟩⟩

theorem decodeDev_spells (hop : wfld w 31 26 = 0x38) (hl : legalWord w = true) (h : decodeDev t w = some c) :
    Spells c [w] := by
  simp only [legalWord, hop, legalDev] at hl
  unfold decodeDev at h
  simp only at h
  split at h
  case h_1 hfn | h_2 hfn | h_3 hfn | h_5 hfn =>
    cases h
    exact spells_word ((wordN_eq_iff (by decide)).2 ⟨hop, rfl, rfl, rfl, hfn⟩)
  case h_4 hfn | h_16 hfn | h_18 hfn | h_20 hfn =>
    cases h
    have hmd : wfld w 10 8 = 0 := by simpa [hfn] using hl
    exact spells_word ((wordD_eq_iff (by decide) (by decide)).2 ⟨hop, rfl, rfl, rfl, hmd, hfn⟩)
  case h_22 hfn =>
    cases h
    obtain ⟨hmd, -⟩ : wfld w 10 8 = 0 ∧ _ := by simpa [hfn] using hl
    exact spells_word ((wordD_eq_iff (by decide) (by decide)).2 ⟨hop, rfl, rfl, rfl, hmd, hfn⟩)
  case h_15 hfn | h_17 hfn | h_19 hfn | h_21 hfn | h_23 hfn | h_24 hfn =>
    cases h
    obtain ⟨hrb, hmd⟩ : wfld w 15 11 = 0 ∧ wfld w 10 8 = 0 := by simpa [hfn] using hl
    exact spells_word ((wordD_eq_iff (by decide) (by decide)).2
      ⟨hop, rfl, rfl, rbOf_eq_zero_iff.2 hrb, hmd, hfn⟩)
  case h_25 hfn =>
    cases h
    obtain ⟨⟨hra, hrb⟩, hmd⟩ : (wfld w 20 16 = 0 ∧ wfld w 15 11 = 0) ∧ wfld w 10 8 = 0 := by simpa [hfn] using hl
    exact spells_word ((wordD_eq_iff (by decide) (by decide)).2
      ⟨hop, rfl, raOf_eq_zero_iff.2 hra, rbOf_eq_zero_iff.2 hrb, hmd, hfn⟩)
  case h_13 hfn =>
    cases h
    obtain ⟨hrd, hmd⟩ : wfld w 25 21 = 0 ∧ wfld w 10 8 = 0 := by simpa [hfn] using hl
    exact spells_word ((wordD_eq_iff (by decide) (by decide)).2
      ⟨hop, rdOf_eq_zero_iff.2 hrd, rfl, rfl, hmd, hfn⟩)
  case h_6 hfn =>
    cases h
    exact spells_word ((wordD_eq_iff (mod_hash_lt _ _) (by decide)).2
      ⟨hop, rfl, rfl, rfl, mod_hash_iff.2 ⟨rfl, rfl⟩, hfn⟩)
  case h_7 hfn | h_8 hfn | h_9 hfn =>
    cases h
    obtain ⟨hmd, -⟩ : wfld w 10 8 < 2 ∧ _ := by simpa [hfn] using hl
    exact spells_word ((wordD_eq_iff (mod_flag_lt _) (by decide)).2
      ⟨hop, rfl, rfl, rfl, mod_flag_iff.2 ⟨rfl, hmd⟩, hfn⟩)
  case h_14 hfn =>
    cases h
    obtain ⟨hrb, hmd⟩ : wfld w 15 11 = 0 ∧ wfld w 10 8 < 2 := by simpa [hfn] using hl
    exact spells_word ((wordD_eq_iff (mod_flag_lt _) (by decide)).2
      ⟨hop, rfl, rfl, rbOf_eq_zero_iff.2 hrb, mod_flag_iff.2 ⟨rfl, hmd⟩, hfn⟩)
  case h_26 hfn =>
    cases h
    obtain ⟨hra, hmd⟩ : wfld w 20 16 = 0 ∧ wfld w 10 8 < 2 := by simpa [hfn] using hl
    exact spells_word ((wordD_eq_iff (mod_flag_lt _) (by decide)).2
      ⟨hop, rfl, raOf_eq_zero_iff.2 hra, rfl, mod_flag_iff.2 ⟨rfl, hmd⟩, hfn⟩)
  case h_10 hfn =>
    cases h
    exact spells_word ((wordD_eq_iff (BitVec.isLt _) (by decide)).2
      ⟨hop, rfl, rfl, rfl, mod_field_iff.2 rfl, hfn⟩)
  case h_12 hfn =>
    cases h
    have hra : wfld w 20 16 = 0 := by simp [hfn] at hl; exact hl.1.1.1
    exact spells_word ((wordD_eq_iff (BitVec.isLt _) (by decide)).2
      ⟨hop, rfl, raOf_eq_zero_iff.2 hra, rfl, mod_field_iff.2 rfl, hfn⟩)
  case h_11 hfn =>
    cases h
    exact spells_word ((wordD_eq_iff (mod_emit_lt _ _ _) (by decide)).2
      ⟨hop, rfl, rfl, rfl, mod_emit_iff.2 ⟨rfl, rfl, rfl⟩, hfn⟩)
  case h_27 =>
    have scan : 0x40 ≤ wfld w 7 0 ∧ wfld w 7 0 ≤ 0x47 → wfld w 10 8 % 4 = 0 := fun hfn => by
      simpa [hfn] using hl
    have whole : 0x48 ≤ wfld w 7 0 ∧ wfld w 7 0 ≤ 0x4F → rbOf w = 0 ∧ wfld w 10 8 = 0 := fun hfn => by
      rw [rbOf_eq_zero_iff]
      simpa [hfn, show ¬wfld w 7 0 ≤ 0x47 by omega] using hl
    split_ifs at h with h40 h44 h48 h4C
    · cases h
      exact spells_word (chk_word hop (mod_header_lt _) (by decide) (by decide) rfl rfl
        (mod_header_iff.2 ⟨rfl, scan (by omega)⟩) h40)
    · cases h
      exact spells_word (chk_word hop (mod_header_lt _) (by decide) (by decide) rfl rfl
        (mod_header_iff.2 ⟨rfl, scan (by omega)⟩) h44)
    · cases h
      obtain ⟨hrb, hmd⟩ := whole (by omega)
      exact spells_word (chk_word hop (by decide) (by decide) (by decide) rfl hrb hmd h48)
    · cases h
      obtain ⟨hrb, hmd⟩ := whole (by omega)
      exact spells_word (chk_word hop (by decide) (by decide) (by decide) rfl hrb hmd h4C)

theorem decodePlain_spells (hl : legalWord w = true) (h : decodePlain t w = some c) : Spells c [w] := by
  unfold decodePlain at h
  split at h
  case h_1 hop => exact decodeAlu_spells hop hl h
  case h_2 hop => exact decodeCmp_spells hop hl h
  case h_3 hop => exact decodePrd_spells hop hl h
  case h_4 hop | h_5 hop | h_6 hop =>
    cases h
    have hz : wfld w 15 6 = 0 := by simpa [legalWord, hop] using hl
    exact spells_word ((wordI_shift_eq_iff (by decide)).2 ⟨hop, rfl, rfl, hz, rfl⟩)
  case h_7 hop | h_8 hop =>
    cases h
    obtain ⟨hz, -⟩ : wfld w 15 12 = 0 ∧ _ := by simpa [legalWord, hop] using hl
    exact spells_word ((wordI_span_eq_iff (by decide)).2 ⟨hop, rfl, rfl, hz, rfl, rfl⟩)
  case h_9 hop =>
    cases h
    exact spells_word ((wordM_eq_iff (by decide)).2 ⟨hop, rfl, rfl, rfl, rfl, rfl, rfl⟩)
  case h_10 hop =>
    cases h
    have hz : wfld w 12 12 = 0 := by simpa [legalWord, hop] using hl
    exact spells_word ((wordM_eq_iff (by decide)).2 ⟨hop, rfl, rfl, rfl, rfl, flag_of_zero hz, rfl⟩)
  case h_11 hop | h_13 hop =>
    cases h
    obtain ⟨hz, -⟩ : wfld w 13 13 = 0 ∧ _ := by simpa [legalWord, hop] using hl
    exact spells_word ((wordM_eq_iff (by decide)).2 ⟨hop, rfl, rfl, rfl, flag_of_zero hz, rfl, rfl⟩)
  case h_12 hop | h_14 hop =>
    cases h
    obtain ⟨hlsb, hsx⟩ := flags_of_zero (w := w) (by simpa [legalWord, hop] using hl)
    exact spells_word ((wordM_eq_iff (by decide)).2 ⟨hop, rfl, rfl, rfl, hlsb, hsx, rfl⟩)
  case h_15 hop | h_18 hop =>
    cases h
    exact spells_word ((wordB_eq_iff (by decide) (BitVec.isLt _)).2 ⟨hop, rfl, low_field_iff.2 rfl⟩)
  case h_16 hop =>
    cases h
    exact ⟨encode_loop_iff.2 ⟨hop, rfl, rfl, rfl, rfl⟩, Bool.and_true _⟩
  case h_17 hop =>
    cases h
    obtain ⟨hz, -⟩ : wfld w 20 10 = 0 ∧ _ := by simpa [legalWord, hop] using hl
    exact ⟨encode_endl_iff.2 ⟨hop, rfl, hz, rfl⟩, Bool.and_true _⟩
  case h_19 hop =>
    cases h
    have hz : wfld w 21 0 = 0 := by simpa [legalWord, hop] using hl
    exact spells_word ((wordB_eq_iff (by decide) (by decide)).2 ⟨hop, rfl, hz⟩)
  case h_20 hop =>
    cases h
    have hz : wfld w 21 1 = 0 := by simpa [legalWord, hop] using hl
    exact spells_word ((wordB_eq_iff (by decide) (Nat.lt_trans (Bool.toNat_lt _) (by decide))).2
      ⟨hop, rfl, low_flag_iff.2 ⟨rfl, hz⟩⟩)
  case h_21 hop => exact decodeDev_spells hop hl h
  case h_22 => cases h

theorem wordsI_eq {op top : Nat} {ra : BitVec 5} {low : BitVec 16} {x : Option Word}
    (hw : wordI op top ra low.toNat = w) (hx : ∀ v ∈ x, wfld v 31 26 = 0x3E) :
    wordsI op top ra ⟨low, x.map fun v => fieldAt 26 v 0⟩ = x.toList ++ [w] := by
  cases x with
  | none => simp [wordsI, hw]
  | some v => simp [wordsI, hw, wordX_eq_iff.2 ⟨hx v rfl, rfl⟩]

theorem decodeWide_spells {x : Option Word} (hx : ∀ v ∈ x, wfld v 31 26 = 0x3E) (hl : legalWord w = true)
    (h : decodeWide t x w = some c) : Spells c (x.toList ++ [w]) := by
  simp only [legalWord] at hl
  unfold decodeWide at h
  simp only at h
  split at h
  case h_1 hop | h_2 hop | h_3 hop | h_4 hop | h_11 hop =>
    cases h
    exact ⟨wordsI_eq ((wordI_rd_eq_iff (by decide)).2 ⟨hop, rfl, rfl, rfl⟩) hx, Bool.and_true _⟩
  case h_5 hop | h_6 hop | h_7 hop | h_8 hop | h_9 hop | h_10 hop =>
    cases h
    have hz : wfld w 22 21 = 0 := by simpa [hop] using hl
    exact ⟨wordsI_eq ((wordI_pd_eq_iff (by decide)).2 ⟨hop, rfl, hz, rfl, rfl⟩) hx, Bool.and_true _⟩
  case h_12 => cases h

/-- The words that decode to an instruction begin with that instruction's. -/
theorem decodeInstr_spells {ws : List Word} (h : decodeInstr t ws = some c) :
    ∃ us rest, ws = us ++ rest ∧ us ≠ [] ∧ Spells c us ∧ okWords us = true := by
  cases ws with
  | nil => cases h
  | cons w rest =>
    simp only [decodeInstr] at h
    split_ifs at h with hill hx
    · obtain _ | ⟨v, rest⟩ := rest
      · cases h
      · have hp : legalPair w v = true := by simpa [illegalAt, hx] using hill
        have hl : legalWord v = true := by simp only [legalPair, Bool.and_eq_true] at hp; exact hp.1.2
        exact ⟨[w, v], rest, rfl, by simp, decodeWide_spells (x := some w) (by simpa using hx) hl h,
          by simpa [okWords] using hill⟩
    · have hl : legalWord w = true := by simpa [illegalAt, hx] using hill
      refine ⟨[w], rest, rfl, by simp, ?_, by simpa [okWords, illegalAt, hx] using hl⟩
      split at h
      next hw =>
        cases h
        exact decodeWide_spells (x := none) (by simp) hl hw
      next => exact decodePlain_spells hl h

end

/-- Settles O6: an instruction's words decode by the fields that they hold, and a word that decodes has no field beside
the instruction's operands and the fields that its legality holds at 0. -/
theorem wordsRoundTrip : Obligations.WordsRoundTrip := by
  refine ⟨fun i => decode_encode, fun t ws i h => ?_⟩
  obtain ⟨us, rest, rfl, hne, ⟨he, hwf⟩, hok⟩ := decodeInstr_spells h
  exact ⟨by rw [he, List.take_left' rfl], he ▸ hne, by rw [hwf, he, hok]⟩

end Sys2Proof.Machine
end

section
/-! SUPPORT. What the ALU instructions compute (R113). -/

namespace Sys2Proof.Machine

open Sys2Proof

/-! ### Byte swaps -/

theorem leNat_lt (bs : List Byte) : leNat bs < 256 ^ bs.length := by
  induction bs with
  | nil => simp [leNat]
  | cons b bs ih =>
    have hb : b.toNat < 256 := b.isLt
    simp only [leNat, List.length_cons, pow_succ]
    omega

@[simp] theorem length_le (n v : Nat) : (le n v).length = n := by simp [le]
@[simp] theorem length_be (n v : Nat) : (be n v).length = n := by simp [be]

theorem le_succ (n v : Nat) : le (n + 1) v = BitVec.ofNat 8 v :: le n (v / 256) := by
  simp only [le, List.range_succ_eq_map, List.map_cons, List.map_map, pow_zero, Nat.div_one]
  congr 1
  refine List.map_congr_left fun i _ => ?_
  simp [Nat.div_div_eq_div_mul, pow_succ']

/-- The bytes of the number that bytes spell are those bytes. -/
theorem le_leNat (bs : List Byte) : le bs.length (leNat bs) = bs := by
  induction bs with
  | nil => rfl
  | cons b bs ih =>
    have hb : b.toNat < 256 := b.isLt
    rw [List.length_cons, le_succ, leNat, show (b.toNat + 256 * leNat bs) / 256 = leNat bs by omega, ih]
    congr 1
    apply BitVec.eq_of_toNat_eq
    rw [BitVec.toNat_ofNat]
    omega

/-- The bytes of a number depend on its low bytes only. -/
theorem le_mod (n v : Nat) : le n (v % 256 ^ n) = le n v := by
  induction n generalizing v with
  | zero => rfl
  | succ n ih =>
    rw [le_succ, le_succ, pow_succ', Nat.mod_mul_right_div_self, ih]
    congr 1
    apply BitVec.eq_of_toNat_eq
    simp only [BitVec.toNat_ofNat]
    exact Nat.mod_mul_right_mod v 256 _

theorem byteSwap_toNat {n : Nat} (hn : n ≤ 8) (a : DWord) :
    (byteSwap n a).toNat = leNat (be n a.toNat) := by
  have hlt : leNat (be n a.toNat) < 2 ^ 64 :=
    Nat.lt_of_lt_of_le (leNat_lt _) (by rw [length_be]; exact Nat.pow_le_pow_right (n := 256) (by decide) hn)
  rw [byteSwap, be, le_mod, ← be, BitVec.toNat_ofNat, Nat.mod_eq_of_lt hlt]

theorem le_byteSwap {n : Nat} (hn : n ≤ 8) (a : DWord) : le n (byteSwap n a).toNat = be n a.toNat := by
  rw [byteSwap_toNat hn]
  simpa using le_leNat (be n a.toNat)

theorem byteSwap_lt {n : Nat} (hn : n ≤ 8) (a : DWord) : (byteSwap n a).toNat < 256 ^ n := by
  rw [byteSwap_toNat hn]
  simpa using leNat_lt (be n a.toNat)

/-! ### Counts of bits -/

/-- Counting by a fold over the positions. -/
theorem foldl_count {α : Type} (p : α → Bool) (l : List α) (n : Nat) :
    l.foldl (fun n i => if p i then n + 1 else n) n = n + l.countP p := by
  induction l generalizing n with
  | nil => rfl
  | cons i l ih =>
    rw [List.foldl_cons, ih, List.countP_cons]
    split <;> omega

theorem popc64_eq (a : DWord) : popc64 a = (List.range 64).countP fun i => a.getLsbD i := by
  rw [popc64, foldl_count, Nat.zero_add]

/-- The highest position below `k` that holds a 1, by the fold of CLZ. -/
theorem foldl_highest (a : DWord) (k : Nat) :
    (∃ j < k, a.getLsbD j = true ∧ (∀ i, j < i → i < k → a.getLsbD i = false) ∧
      (List.range k).foldl (fun n i => if a.getLsbD i then 63 - i else n) 64 = 63 - j) ∨
    ((∀ i < k, a.getLsbD i = false) ∧
      (List.range k).foldl (fun n i => if a.getLsbD i then 63 - i else n) 64 = 64) := by
  induction k with
  | zero => simp
  | succ k ih =>
    rw [List.range_succ, List.foldl_append, List.foldl_cons, List.foldl_nil]
    cases hk : a.getLsbD k with
    | true => exact .inl ⟨k, by omega, hk, fun i _ _ => by omega, rfl⟩
    | false =>
      refine ih.imp ?_ ?_
      · rintro ⟨j, hj, hb, hz, hf⟩
        exact ⟨j, by omega, hb, fun i _ _ => if h : i = k then h ▸ hk else hz i (by omega) (by omega),
          by simpa using hf⟩
      · rintro ⟨hz, hf⟩
        exact ⟨fun i _ => if h : i = k then h ▸ hk else hz i (by omega), by simpa using hf⟩

/-- The lowest position below `k` that holds a 1, by the fold of CTZ. -/
theorem foldr_lowest (a : DWord) (k n : Nat) :
    (∃ j < k, a.getLsbD j = true ∧ (∀ i < j, a.getLsbD i = false) ∧
      (List.range k).foldr (fun i n => if a.getLsbD i then i else n) n = j) ∨
    ((∀ i < k, a.getLsbD i = false) ∧
      (List.range k).foldr (fun i n => if a.getLsbD i then i else n) n = n) := by
  induction k generalizing n with
  | zero => simp
  | succ k ih =>
    rw [List.range_succ, List.foldr_append, List.foldr_cons, List.foldr_nil]
    obtain ⟨j, hj, hb, hz, hf⟩ | ⟨hz, hf⟩ := ih (if a.getLsbD k then k else n)
    · exact .inl ⟨j, by omega, hb, hz, hf⟩
    · rw [hf]
      cases hk : a.getLsbD k with
      | true => exact .inl ⟨k, by omega, hk, hz, rfl⟩
      | false => exact .inr ⟨fun i _ => if h : i = k then h ▸ hk else hz i (by omega), rfl⟩

theorem eq_zero_of_bits {a : DWord} (h : ∀ i < 64, a.getLsbD i = false) : a = 0 :=
  BitVec.eq_of_getLsbD_eq fun i hi => by simpa using h i hi

theorem clz64_zero : clz64 0 = 64 := by decide

theorem ctz64_zero : ctz64 0 = 64 := by decide

theorem clz64_spec {a : DWord} (h : a ≠ 0) :
    clz64 a < 64 ∧ 2 ^ (63 - clz64 a) ≤ a.toNat ∧ a.toNat < 2 ^ (64 - clz64 a) := by
  obtain ⟨j, hj, hb, hz, hf⟩ | ⟨hz, -⟩ := foldl_highest a 64
  · rw [clz64, hf]
    have h63 : 63 - (63 - j) = j := by omega
    have h64 : 64 - (63 - j) = j + 1 := by omega
    rw [h63, h64]
    refine ⟨by omega, Nat.ge_two_pow_of_testBit hb, Nat.lt_pow_two_of_testBit _ fun i hi => ?_⟩
    rcases Nat.lt_or_ge i 64 with h | h
    · exact hz i (by omega) h
    · exact BitVec.getLsbD_of_ge a i h
  · exact absurd (eq_zero_of_bits hz) h

theorem ctz64_spec {a : DWord} (h : a ≠ 0) :
    ctz64 a < 64 ∧ a.toNat % 2 ^ ctz64 a = 0 ∧ a.toNat / 2 ^ ctz64 a % 2 = 1 := by
  have hfold : ctz64 a = (List.range 64).foldr (fun i n => if a.getLsbD i then i else n) 64 := by
    rw [ctz64, List.foldl_reverse]
  obtain ⟨j, hj, hb, hz, hf⟩ | ⟨hz, -⟩ := foldr_lowest a 64 64
  · rw [hfold, hf]
    refine ⟨hj, Nat.eq_of_testBit_eq fun i => ?_, ?_⟩
    · rw [Nat.testBit_mod_two_pow, Nat.zero_testBit]
      rcases Nat.lt_or_ge i j with h | h
      · rw [decide_eq_true h, Bool.true_and]
        exact hz i h
      · simp [Nat.not_lt.2 h]
    · simpa [BitVec.getLsbD, Nat.testBit_eq_decide_div_mod_eq] using hb
  · exact absurd (eq_zero_of_bits hz) h

/-! ### The instructions -/

section
variable {t : Tid} {s : State} {c : Instr} {rd ra rb : BitVec 5} {gd : Guard}

theorem runs_alu {f : DWord → DWord → DWord} {v : DWord} (h : exec c s = act s (alu c t rd ra rb gd f))
    (hv : f (gReg (thread s t) ra) (gReg (thread s t) rb) = v)
    (hi : Issues s t c [.g rd, .g ra, .g rb, .p gd.pq] true) :
    Runs c s (OneResult t (.g rd) (if guardOf (thread s t) gd then some v else none) 1 s) :=
  runs_oneG hi h (by simp [hv])

theorem runs_sel (hi : Issues s t (.sel t rd ra rb gd) [.g rd, .g ra, .g rb, .p gd.pq] true) :
    Runs (.sel t rd ra rb gd) s (OneResult t (.g rd)
      (some (if guardOf (thread s t) gd then gReg (thread s t) ra else gReg (thread s t) rb)) 1 s) :=
  runs_oneG hi rfl (by simp)

theorem aluMin_eq (a b : DWord) : aluMin a b = if a.toInt < b.toInt then a else b := by
  simp [aluMin, BitVec.slt]
theorem aluMax_eq (a b : DWord) : aluMax a b = if a.toInt < b.toInt then b else a := by
  simp [aluMax, BitVec.slt]
theorem aluMinu_eq (a b : DWord) : aluMinu a b = if a.toNat < b.toNat then a else b := by
  simp [aluMinu, BitVec.ult]
theorem aluMaxu_eq (a b : DWord) : aluMaxu a b = if a.toNat < b.toNat then b else a := by
  simp [aluMaxu, BitVec.ult]

theorem aluClz_toNat (a b : DWord) (h : a ≠ 0) : (aluClz a b).toNat = clz64 a := by
  rw [aluClz, BitVec.toNat_ofNat, Nat.mod_eq_of_lt (Nat.lt_trans (clz64_spec h).1 (by decide))]

theorem aluCtz_toNat (a b : DWord) (h : a ≠ 0) : (aluCtz a b).toNat = ctz64 a := by
  rw [aluCtz, BitVec.toNat_ofNat, Nat.mod_eq_of_lt (Nat.lt_trans (ctz64_spec h).1 (by decide))]

end

/-- Settles O7: each instruction pends its function of g[RA] and g[RB], and the counts and swaps are what R113 says. -/
theorem aluResults : Obligations.AluResults := by
  refine ⟨fun t rd ra rb gd s => ?_, fun t rd ra rb gd s => ?_⟩
  · exact ⟨runs_alu rfl rfl, runs_alu rfl rfl, runs_alu rfl rfl, runs_alu rfl rfl, runs_alu rfl rfl, runs_alu rfl rfl,
      runs_alu rfl rfl, runs_alu rfl rfl, runs_alu rfl rfl, runs_alu rfl rfl, runs_alu rfl rfl, runs_alu rfl rfl,
      runs_alu rfl (aluMin_eq ..), runs_alu rfl (aluMax_eq ..), runs_alu rfl (aluMinu_eq ..),
      runs_alu rfl (aluMaxu_eq ..)⟩
  · refine ⟨runs_sel, ⟨_, runs_alu rfl rfl, fun h => ?_, fun h => ?_⟩,
      ⟨_, runs_alu rfl rfl, fun h => ?_, fun h => ?_⟩, runs_alu rfl (congrArg _ (popc64_eq _)),
      ⟨_, runs_alu rfl rfl, le_byteSwap (by decide) _, byteSwap_lt (by decide) _⟩,
      ⟨_, runs_alu rfl rfl, le_byteSwap (by decide) _, byteSwap_lt (by decide) _⟩,
      ⟨_, runs_alu rfl rfl, le_byteSwap (by decide) _⟩⟩
    · rw [h, aluClz, clz64_zero]; rfl
    · rw [aluClz_toNat _ _ h]; exact clz64_spec h
    · rw [h, aluCtz, ctz64_zero]; rfl
    · rw [aluCtz_toNat _ _ h]; exact ctz64_spec h

end Sys2Proof.Machine
end

section
/-! SUPPORT. What the immediate and field instructions compute (R108, R114). -/

namespace Sys2Proof.Machine

open Sys2Proof

section
variable {t : Tid} {s : State} {c : Instr} {rd ra : BitVec 5} {imm : Imm} {pos lenM1 : BitVec 6}

theorem runs_aluI {f : DWord → DWord} {v : DWord} {words : Nat} (h : exec c s = act s (aluI c t rd ra words f))
    (hv : f (gReg (thread s t) ra) = v) (hi : Issues s t c [.g rd, .g ra] true) :
    Runs c s (OneResult t (.g rd) (some v) words s) :=
  runs_oneG hi h (by simp [hv])

theorem movhReserved_eq_false (h : ∀ x, imm.high = some x → x.toNat < 2 ^ 16) : movhReserved imm = false := by
  unfold movhReserved
  split
  next x hx => exact decide_eq_false (Nat.not_le.2 (h x hx))
  next => rfl

/-- The low halves of two values side by side, as a number. -/
theorem halves_eq (v a : DWord) :
    BitVec.ofNat 64 (a.toNat % 2 ^ 32 + v.toNat % 2 ^ 32 * 2 ^ 32) =
      (v.truncate 32 : BitVec 32) ++ (a.truncate 32 : BitVec 32) := by
  apply BitVec.eq_of_toNat_eq
  have hlt : a.toNat % 2 ^ 32 < 2 ^ 32 := Nat.mod_lt _ (by decide)
  rw [BitVec.toNat_append, BitVec.truncate_eq_setWidth, BitVec.truncate_eq_setWidth, BitVec.toNat_setWidth,
    BitVec.toNat_setWidth, ← Nat.shiftLeft_add_eq_or_of_lt hlt, Nat.shiftLeft_eq, BitVec.toNat_ofNat]
  omega

theorem runs_movh (h : ∀ x, imm.high = some x → x.toNat < 2 ^ 16)
    (hi : Issues s t (.movh t rd ra imm) [.g rd, .g ra] true) :
    Runs (.movh t rd ra imm) s (OneResult t (.g rd)
      (some (((immS imm).truncate 32 : BitVec 32) ++ ((gReg (thread s t) ra).truncate 32 : BitVec 32)))
      (immWords imm) s) := by
  refine runs_act hi.1 (exec_movh ..) ?_
  rw [movhStep, issue_issues hi, thread_markIssued, movhReserved_eq_false h, ← halves_eq]
  exact oneResult_resultG ..

theorem width_of_span (lo n : Nat) : lo + n + 1 - lo = n + 1 := by omega

theorem runs_extf (h : pos.toNat + lenM1.toNat + 1 ≤ 64)
    (hi : Issues s t (.extf t rd ra pos lenM1) [.g rd, .g ra] true) :
    Runs (.extf t rd ra pos lenM1) s (OneResult t (.g rd)
      (some (BitVec.ofNat 64 ((gReg (thread s t) ra).toNat / 2 ^ pos.toNat % 2 ^ (lenM1.toNat + 1)))) 1 s) := by
  refine runs_act hi.1 (exec_extf ..) ?_
  rw [extfStep, issue_issues hi, if_neg (Nat.not_lt.2 h)]
  simp only [thread_markIssued, gReg_issued, bits, width_of_span]
  exact oneResult_resultG ..

/-- A value with `n` bits from bit `lo` on replaced by the low bits of another. -/
def inserted (d a : DWord) (lo n : Nat) : DWord :=
  BitVec.ofNat 64 (d.toNat - d.toNat / 2 ^ lo % 2 ^ n * 2 ^ lo + a.toNat % 2 ^ n * 2 ^ lo)

/-- A number by its low bits, a field above them and the rest. -/
theorem split_field (d lo n : Nat) :
    d = 2 ^ lo * (2 ^ n * (d / 2 ^ lo / 2 ^ n) + d / 2 ^ lo % 2 ^ n) + d % 2 ^ lo := by
  rw [Nat.div_add_mod, Nat.div_add_mod]

theorem inserted_eq (d a : DWord) (lo n : Nat) : inserted d a lo n = BitVec.ofNat 64
    (2 ^ lo * (2 ^ n * (d.toNat / 2 ^ lo / 2 ^ n) + a.toNat % 2 ^ n) + d.toNat % 2 ^ lo) := by
  have h := split_field d.toNat lo n
  rw [inserted]
  congr 1
  rw [Nat.mul_add] at h ⊢
  rw [Nat.mul_comm (d.toNat / 2 ^ lo % 2 ^ n), Nat.mul_comm (a.toNat % 2 ^ n)]
  omega

theorem getLsbD_inserted (d a : DWord) {lo n i : Nat} (hi : i < 64) :
    (inserted d a lo n).getLsbD i = if lo ≤ i ∧ i < lo + n then a.getLsbD (i - lo) else d.getLsbD i := by
  rw [inserted_eq, BitVec.getLsbD_ofNat, decide_eq_true hi, Bool.true_and,
    Nat.testBit_two_pow_mul_add _ (Nat.mod_lt _ (Nat.two_pow_pos _)),
    Nat.testBit_two_pow_mul_add _ (Nat.mod_lt _ (Nat.two_pow_pos _))]
  simp only [Nat.testBit_mod_two_pow, Nat.testBit_div_two_pow]
  rcases Nat.lt_or_ge i lo with h | h
  · rw [if_pos h, if_neg (by omega), decide_eq_true h, Bool.true_and]
    rfl
  rw [if_neg (Nat.not_lt.2 h)]
  rcases Nat.lt_or_ge i (lo + n) with h' | h'
  · have hin : i - lo < n := by omega
    rw [if_pos hin, if_pos ⟨h, h'⟩, decide_eq_true hin, Bool.true_and]
    rfl
  · rw [if_neg (by omega), if_neg (by omega), show i - lo - n + n + lo = i by omega]
    rfl

theorem runs_insf (h : pos.toNat + lenM1.toNat + 1 ≤ 64)
    (hi : Issues s t (.insf t rd ra pos lenM1) [.g rd, .g ra] true) :
    Runs (.insf t rd ra pos lenM1) s (OneResult t (.g rd) (some
      (inserted (gReg (thread s t) rd) (gReg (thread s t) ra) pos.toNat (lenM1.toNat + 1))) 1 s) := by
  refine runs_act hi.1 (exec_insf ..) ?_
  rw [insfStep, issue_issues hi, if_neg (Nat.not_lt.2 h)]
  simp only [thread_markIssued, gReg_issued, bits, width_of_span, pow_zero, Nat.div_one, Nat.sub_zero]
  exact oneResult_resultG ..

end

/-- Settles O8: each instruction pends its function of g[RA], and INSF's has the field's bits from g[RA] and the others
from g[RD]. -/
theorem immediateResults : Obligations.ImmediateResults := by
  intro t rd ra imm sh pos lenM1 s
  refine ⟨runs_aluI rfl rfl, runs_aluI rfl rfl, runs_aluI rfl rfl, runs_aluI rfl rfl, runs_aluI rfl rfl,
    runs_aluI rfl rfl, runs_aluI rfl rfl, runs_movh, fun h => ⟨runs_extf h, _, runs_insf h, fun i hi => ?_⟩⟩
  simp only [getLsbD_inserted _ _ hi, ← Nat.add_assoc, Nat.lt_succ_iff]

end Sys2Proof.Machine
end

section
/-! SUPPORT. What the compare and predicate instructions compute (R112, R115–R117). -/

namespace Sys2Proof.Machine

open Sys2Proof

/-! ### Compares (R115, R116) -/

section
variable {t : Tid} {s : State} {c : Instr} {pd : BitVec 3} {ra rb : BitVec 5} {gd : Guard} {imm : Imm}
  {f : DWord → DWord → Bool} {v : Bool}

theorem bit_of_guard (b v : Bool) : ((if b then some v else none).map fun v => if v then (1 : DWord) else 0) =
    if b then some (if v then 1 else 0) else none := by
  cases b <;> rfl

theorem runs_compareA (h : exec c s = act s (compareA c t pd ra rb gd f))
    (hv : f (gReg (thread s t) ra) (gReg (thread s t) rb) = v)
    (hi : Issues s t c [.p pd, .g ra, .g rb, .p gd.pq] true) :
    Runs c s (OneResult t (.p pd) (if guardOf (thread s t) gd then some (if v then 1 else 0) else none) 1 s) :=
  runs_oneP hi h (by simp [hv]) (bit_of_guard ..)

theorem runs_compareI {k : DWord} (h : exec c s = act s (compareI c t pd ra imm k f))
    (hv : f (gReg (thread s t) ra) k = v) (hi : Issues s t c [.p pd, .g ra] true) :
    Runs c s (OneResult t (.p pd) (some (if v then 1 else 0)) (immWords imm) s) :=
  runs_oneP (v := some v) hi h (by simp [hv]) rfl

end

section
variable (a b : DWord)

theorem cmpEq_eq : cmpEq a b = decide (a = b) := rfl
theorem cmpNe_eq : cmpNe a b = decide (a ≠ b) := by by_cases h : a = b <;> simp [cmpNe, h]
theorem cmpLt_eq : cmpLt a b = decide (a.toInt < b.toInt) := rfl
theorem cmpLtu_eq : cmpLtu a b = decide (a.toNat < b.toNat) := rfl
theorem cmpLe_eq : cmpLe a b = decide (a.toInt ≤ b.toInt) := rfl
theorem cmpLeu_eq : cmpLeu a b = decide (a.toNat ≤ b.toNat) := rfl
theorem cmpTst_eq : cmpTst a b = decide (a &&& b ≠ 0) := cmpNe_eq ..
theorem cmpTstz_eq : cmpTstz a b = decide (a &&& b = 0) := rfl

end

/-- Settles O9: each compare pends its condition of a and b, or of a and the immediate. -/
theorem compareResults : Obligations.CompareResults := by
  intro t pd ra rb gd imm s
  exact ⟨runs_compareA rfl (cmpEq_eq ..), runs_compareA rfl (cmpNe_eq ..), runs_compareA rfl (cmpLt_eq ..),
    runs_compareA rfl (cmpLtu_eq ..), runs_compareA rfl (cmpLe_eq ..), runs_compareA rfl (cmpLeu_eq ..),
    runs_compareA rfl (cmpTst_eq ..), runs_compareA rfl (cmpTstz_eq ..), runs_compareI rfl (cmpEq_eq ..),
    runs_compareI rfl (cmpNe_eq ..), runs_compareI rfl (cmpLt_eq ..), runs_compareI rfl (cmpLtu_eq ..),
    runs_compareI rfl (cmpLt_eq ..), runs_compareI rfl (cmpLtu_eq ..)⟩

/-! ### Predicate functions (R117) -/

section
variable {t : Tid} {s : State} {c : Instr} {pd pa pb : BitVec 3} {rd ra : BitVec 5} {gd : Guard}

theorem runs_predicate2 {f : Bool → Bool → Bool} {v : Bool} (h : exec c s = act s (predicate2 c t pd pa pb gd f))
    (hv : f (pReg (thread s t) pa) (pReg (thread s t) pb) = v)
    (hi : Issues s t c [.p pd, .p pa, .p pb, .p gd.pq] true) :
    Runs c s (OneResult t (.p pd) (if guardOf (thread s t) gd then some (if v then 1 else 0) else none) 1 s) :=
  runs_oneP hi h (by simp [hv]) (bit_of_guard ..)

theorem runs_pnz (hi : Issues s t (.pnz t pd ra gd) [.p pd, .g ra, .p gd.pq] true) :
    Runs (.pnz t pd ra gd) s (OneResult t (.p pd) (if guardOf (thread s t) gd then
      some (if decide (gReg (thread s t) ra ≠ 0) then 1 else 0) else none) 1 s) :=
  runs_oneP hi rfl (by simp [bne]; rfl) (bit_of_guard ..)

theorem runs_pget (hi : Issues s t (.pget t rd gd) (.g rd :: .p gd.pq :: allPreds) true) :
    Runs (.pget t rd gd) s (OneResult t (.g rd)
      (if guardOf (thread s t) gd then some (((thread s t).p ||| 1#8).zeroExtend 64) else none) 1 s) :=
  runs_oneG hi rfl (by simp; rfl)

theorem getLsbD_allPreds (th : Thread) (n : BitVec 3) :
    ((th.p ||| 1#8).zeroExtend 64 : DWord).getLsbD n.toNat = pReg th n := by
  have hn : n.toNat < 64 := by have := n.isLt; omega
  have h0 : (1#8).getLsbD n.toNat = (n == 0) := by
    revert n; decide
  rw [BitVec.zeroExtend_eq_setWidth, BitVec.getLsbD_setWidth, decide_eq_true hn, Bool.true_and, BitVec.getLsbD_or, h0,
    Bool.or_comm, pReg]

theorem runs_pput (hi : Issues s t (.pput t ra gd) (.g ra :: .p gd.pq :: allPreds) true) :
    Runs (.pput t ra gd) s fun u => OnlyThread t s u ∧ Advanced t 1 s u ∧
        (thread u t).pend = (thread s t).pend ++ [1, 2, 3, 4, 5, 6, 7].map fun n : BitVec 3 =>
          ⟨.p n, if guardOf (thread s t) gd then some (if (gReg (thread s t) ra).getLsbD n.toNat then 1 else 0)
            else none, some (now s + 1)⟩ :=
  runs_issue hi _ rfl ⟨onlyThread_onThread s t _, by simp [Advanced, pendTo, advance], by simp [pendTo, advance]⟩

end

/-- Settles O10: each function pends its value for its destination, PGET's bits are the predicates, and PPUT pends one
value for each of p1 to p7. -/
theorem predicateResults : Obligations.PredicateResults := by
  intro t pd pa pb rd ra gd s
  exact ⟨runs_predicate2 rfl rfl, runs_predicate2 rfl rfl, runs_predicate2 rfl (congrFun₂ Bool.bne_eq_xor _ _),
    runs_predicate2 rfl rfl, runs_predicate2 rfl rfl, runs_pnz,
    fun hi => ⟨_, runs_pget hi, getLsbD_allPreds _⟩, runs_pput⟩

end Sys2Proof.Machine
end

section
/-! SUPPORT. Where the control-flow instructions go (R123–R126). -/

namespace Sys2Proof.Machine

open Sys2Proof

/-- The thread issued its last instruction of the tick and goes on at `pc`, with the results pending and the depth of
calls as given, and nothing else of the machine changed (R110, R123). -/
def GoesTo (t : Tid) (pc : Word) (pend : List Pend) (depth : Nat) (s u : State) : Prop :=
  OnlyThread t s u ∧ thread u t =
    { issuedThread s t with pc := pc, pend := pend, depth := depth, lastOfTick := some (now s) }

section
variable {t : Tid} {s : State} {cd : Cond} {gc : BitVec 5}

@[simp] theorem depth_issued : (issuedThread s t).depth = (thread s t).depth := rfl

theorem goesTo_onThread {f : Thread → Thread} {pc : Word} {pend : List Pend} {depth : Nat}
    (hf : f (issuedThread s t) =
      { issuedThread s t with pc := pc, pend := pend, depth := depth, lastOfTick := some (now s) }) :
    GoesTo t pc pend depth s (onThread (markIssued s t) t f) :=
  ⟨onlyThread_onThread .., by rw [thread_onThread, thread_markIssued, hf]⟩

/-- An instruction whose condition fails goes on with the next word. -/
theorem goesTo_next : GoesTo t ((thread s t).pc + 4) (thread s t).pend (thread s t).depth s
    (onThread (markIssued s t) t fun th => lastIn (markIssued s t) (advance th 1)) :=
  goesTo_onThread (by rw [lastIn, now_markIssued]; rfl)

theorem runs_br {disp : BitVec 22} (hi : Issues s t (.br t cd disp) [.p cd.pred] true) :
    Runs (.br t cd disp) s (GoesTo t
      (if condOf (thread s t) cd then (thread s t).pc + BitVec.ofNat 32 (4 * (1 + disp.toNat))
        else (thread s t).pc + 4) (thread s t).pend (thread s t).depth s) := by
  refine runs_act hi.1 rfl ?_
  rw [brStep, issue_issues hi]
  refine goesTo_onThread ?_
  rw [condOf_issued, lastIn, now_markIssued]
  split <;> rfl

/-- The count that a LOOP begins with (R124). -/
def loopCount (th : Thread) (gc : BitVec 5) (reg : Bool) (max : BitVec 10) : Nat :=
  if reg then min (gReg th gc).toNat max.toNat else max.toNat

theorem runs_loop {reg : Bool} {max body : BitVec 10} (h0 : gc ≠ 0) (h31 : gc ≠ 31) (hb : body ≠ 0)
    (hi : Issues s t (.loop t gc reg max body) [.g gc] true) :
    Runs (.loop t gc reg max body) s (GoesTo t
      (if loopCount (thread s t) gc reg max = 0 then (thread s t).pc + BitVec.ofNat 32 (4 * (1 + body.toNat))
        else (thread s t).pc + 4)
      (if loopCount (thread s t) gc reg max = 0 then (thread s t).pend
        else PendsAfter (thread s t) (.g gc) (some (BitVec.ofNat 64 (loopCount (thread s t) gc reg max))) (now s + 1))
      (thread s t).depth s) := by
  refine runs_act hi.1 (exec_loop ..) ?_
  rw [loopStep, issue_issues hi, if_neg (not_or.2 ⟨h0, not_or.2 ⟨h31, hb⟩⟩)]
  refine goesTo_onThread ?_
  generalize hn : loopCount (thread s t) gc reg max = n
  rw [loopCount] at hn
  simp only [lastIn, gReg_issued, now_markIssued, pendTo_eq, hn]
  split <;> rfl

theorem runs_endl {back : BitVec 10} (hb : back ≠ 0) (hi : Issues s t (.endl t gc back) [.g gc] true) :
    Runs (.endl t gc back) s (GoesTo t
      (if (gReg (thread s t) gc).toNat ≤ 1 then (thread s t).pc + 4
        else (thread s t).pc + 4 - BitVec.ofNat 32 (4 * back.toNat))
      (PendsAfter (thread s t) (.g gc) (some (if (gReg (thread s t) gc).toNat ≤ 1 then 0
        else BitVec.ofNat 64 ((gReg (thread s t) gc).toNat - 1))) (now s + 1)) (thread s t).depth s) := by
  refine runs_act hi.1 (exec_endl ..) ?_
  rw [endlStep, issue_issues hi, if_neg hb]
  refine goesTo_onThread ?_
  simp only [lastIn, gReg_issued, now_markIssued, pendTo_eq]
  split <;> rfl

section
variable (hc : condOf (thread s t) cd = true)
include hc

theorem runs_call_taken {target : BitVec 22} (hd : (thread s t).depth < 4)
    (hi : Issues s t (.call t cd target) [.p cd.pred, .g 31] true) :
    Runs (.call t cd target) s (GoesTo t (BitVec.ofNat 32 (4 * target.toNat))
      (PendsAfter (thread s t) (.g 31) (some (((thread s t).pc + 4).zeroExtend 64)) (now s + 1))
      ((thread s t).depth + 1) s) := by
  refine runs_act hi.1 (exec_call ..) ?_
  rw [callStep, issue_issues hi, thread_markIssued, if_pos (show condOf (issuedThread s t) cd = true from hc),
    depth_issued, if_neg (Nat.not_le.2 hd)]
  refine goesTo_onThread ?_
  simp only [lastIn, now_markIssued, pendTo_eq]
  rfl

theorem runs_ret_taken (hd : 0 < (thread s t).depth) (hi : Issues s t (.ret t cd) [.p cd.pred, .g 31] true) :
    Runs (.ret t cd) s (GoesTo t
      (if (gReg (thread s t) 31).toNat < 2 ^ 32 then (gReg (thread s t) 31).truncate 32 else 0xFFFFFFFC)
      (thread s t).pend ((thread s t).depth - 1) s) := by
  refine runs_act hi.1 (exec_ret ..) ?_
  rw [retStep, issue_issues hi, thread_markIssued, if_pos (show condOf (issuedThread s t) cd = true from hc),
    depth_issued, if_neg (Nat.ne_of_gt hd), gReg_issued]
  rcases Nat.lt_or_ge (gReg (thread s t) 31).toNat (2 ^ 32) with h | h
  · simp only [h, if_true, Nat.not_le.2 h, if_false]
    exact goesTo_onThread (by rw [lastIn, now_markIssued]; rfl)
  · simp only [h, if_true, Nat.not_lt.2 h, if_false]
    exact goesTo_onThread (by rw [lastIn, now_markIssued]; rfl)

end

section
variable (hc : condOf (thread s t) cd = false)
include hc

theorem runs_call_passed {target : BitVec 22} (hi : Issues s t (.call t cd target) [.p cd.pred, .g 31] true) :
    Runs (.call t cd target) s (GoesTo t ((thread s t).pc + 4) (thread s t).pend (thread s t).depth s) := by
  refine runs_act hi.1 (exec_call ..) ?_
  rw [callStep, issue_issues hi, thread_markIssued, if_neg (by simp [hc])]
  exact goesTo_next

theorem runs_ret_passed (hi : Issues s t (.ret t cd) [.p cd.pred, .g 31] true) :
    Runs (.ret t cd) s (GoesTo t ((thread s t).pc + 4) (thread s t).pend (thread s t).depth s) := by
  refine runs_act hi.1 (exec_ret ..) ?_
  rw [retStep, issue_issues hi, thread_markIssued, if_neg (by simp [hc])]
  exact goesTo_next

end

end

/-- Settles O13: each instruction by its step, CALL and RET by whether their condition holds. -/
theorem controlFlow : Obligations.ControlFlow := by
  intro t cd disp target gc reg max body back s
  refine ⟨runs_br, runs_loop, runs_endl, fun hd hi => ?_, fun hd hi => ?_⟩
  · cases hc : condOf (thread s t) cd with
    | true =>
      simp only [if_true]
      exact runs_call_taken hc (hd.resolve_right (by simp [hc])) hi
    | false =>
      simp only [if_false, Bool.false_eq_true]
      exact runs_call_passed hc hi
  · cases hc : condOf (thread s t) cd with
    | true =>
      simp only [if_true]
      exact runs_ret_taken hc (hd.resolve_right (by simp [hc])) hi
    | false =>
      simp only [if_false, Bool.false_eq_true]
      exact runs_ret_passed hc hi

end Sys2Proof.Machine
end

section
/-! SUPPORT. A load over an error that its access corrects (R104, R120, R466). -/

namespace Sys2Proof.Machine

open Sys2Proof

/-- Thread 0 of core 0 of cluster 0. -/
def firstThread : Tid := ⟨0, 0, 0⟩

/-- LLD of byte 0 of the local slice into g1. -/
def loadByte : Instr := .lld firstThread 1 0 .byte false 0

/-- The program of this one instruction. -/
def loadProgram : Program :=
  { tenancy := 0, entries := [(0, 10)], code := encodeInstr loadByte, data := [], parse := [], budget := 100
    parseWc := 2, rate := 0, overrideMax := 0, tblUses := 0, hbmUses := 0, clsUses := 0, chkUses := 0, buildId := 0
    res := [] }

/-- A device whose thread holds a frame of path class 1, which runs the program. The first granule of the thread's
slice holds an error that its next access corrects, and no granule holds an uncorrectable error. -/
def correctable : State := { State.reset with
  classes := [{ round := 0, cls := 1, program := some loadProgram }]
  threads := [(0, { frame := some 0, cls := 1, budget := 9 })], errors := { corrected := [0] } }

theorem issues_correctable : Issues correctable firstThread loadByte [.g 1, .g 0] true := by decide +kernel

/-- The load writes the granule back corrected, and counts that in CLU_ECC_CORRECTED. -/
theorem lldStep_correctable : (lldStep firstThread 1 0 .byte false 0 correctable).errors.corrected = [] ∧
    word (lldStep firstThread 1 0 .byte false 0 correctable) (cluAddr 0 0x28) = 1 := by decide +kernel

/-- Refutes O11: the statement has an LLD over memory without uncorrectable errors change nothing but its thread and
core, but an error that the access can correct is written back corrected and counted (R466). In this state a load of
byte 0 of the slice ends the granule's corrected error and raises CLU_ECC_CORRECTED. -/
theorem not_loadsAndStores : ¬ Obligations.LoadsAndStores := by
  intro h
  have hp : (effAddr (thread correctable firstThread) 0 0).toNat + MemSize.bytes .byte ≤ 0x4000 ∧
      (effAddr (thread correctable firstThread) 0 0).toNat % MemSize.bytes .byte = 0 ∧
      memError correctable (sliceAddr firstThread (effAddr (thread correctable firstThread) 0 0).toNat)
        (MemSize.bytes .byte) = false := by decide +kernel
  obtain ⟨hbound, halign, herr⟩ := hp
  obtain ⟨-, -, hload, -⟩ := h firstThread 1 0 .byte false false 0 correctable
  obtain ⟨⟨hu, -⟩, -⟩ :=
    of_runs_act issues_correctable.1 (exec_lld ..) (hload issues_correctable rfl hbound halign herr)
  have herrors : (lldStep firstThread 1 0 .byte false 0 correctable).errors.corrected = correctable.errors.corrected :=
    congrArg (fun u => u.errors.corrected) hu
  rw [lldStep_correctable.1] at herrors
  cases herrors

end Sys2Proof.Machine
end

section
/-! SUPPORT. Device operations that have issued: what they read is as before the issue, and what their answers leave
as it was (R131–R136). -/

namespace Sys2Proof.Machine

open Sys2Proof

/-! ### What a device operation reads -/

section
variable (s : State) (t : Tid)

/-- A reading of neither threads nor cores gives after an issue what it gave before. -/
theorem reads_markIssued {α : Type} (f : State → α) (h : ∀ c th, f { s with cores := c, threads := th } = f s) :
    f (markIssued s t) = f s := by
  rw [markIssued_eq]
  exact h _ _

@[simp] theorem tick_markIssued : (markIssued s t).tick = s.tick := (markIssued_fields s t).1
@[simp] theorem threadRound_markIssued (th : Thread) : threadRound (markIssued s t) th = threadRound s th :=
  reads_markIssued s t (threadRound · th) fun _ _ => rfl
@[simp] theorem threadRound_issued : threadRound s (issuedThread s t) = threadRound s (thread s t) := rfl
@[simp] theorem tidTenancy_markIssued (t' : Tid) : tidTenancy (markIssued s t) t' = tidTenancy s t' :=
  reads_markIssued s t (tidTenancy · t') fun _ _ => rfl
@[simp] theorem roundTen_markIssued :
    roundTen (markIssued s t) t = (threadRound s (thread s t), tidTenancy s t) := by simp [roundTen]
@[simp] theorem readBytes_markIssued (a n : Nat) : readBytes (markIssued s t) a n = readBytes s a n :=
  reads_markIssued s t (readBytes · a n) fun _ _ => rfl
@[simp] theorem memError_markIssued (a n : Nat) : memError (markIssued s t) a n = memError s a n :=
  reads_markIssued s t (memError · a n) fun _ _ => rfl
@[simp] theorem hdrError_markIssued (t' : Tid) (a n : Nat) : hdrError (markIssued s t) t' a n = hdrError s t' a n :=
  reads_markIssued s t (hdrError · t' a n) fun _ _ => rfl
@[simp] theorem spaceError_markIssued (header : Bool) (a n : Nat) :
    spaceError (markIssued s t) t header a n = spaceError s t header a n := by simp [spaceError]
@[simp] theorem base_issued : (issuedThread s t).base = (thread s t).base := rfl
@[simp] theorem liveTag_issued : liveTag (issuedThread s t) = liveTag (thread s t) := rfl

/-- A slice block within the slice (R135). -/
theorem blockOk_eq {a : DWord} {n : Nat} (h : a.toNat % 8 = 0) (h' : a.toNat + n ≤ 0x4000) : blockOk a n = true := by
  simp [blockOk, h, h']

/-- The bytes of an operand that lies within the slice or the header buffer (R135). -/
theorem spaceBytes_issued {header : Bool} {a n : Nat} (h : a + n ≤ if header then 512 else 0x4000) :
    spaceBytes (markIssued s t) t header a n =
      some (if header then hdrBytes (thread s t) a n else readBytes s (sliceAddr t a) n) := by
  cases header <;> simpa [spaceBytes] using h

end

/-! ### What an answer leaves as it was -/

/-- A status in RD, and nothing but the thread and its core changed. -/
abbrev Answers (t : Tid) (rd : BitVec 5) (v l : Nat) (s u : State) : Prop := OnlyThread t s u ∧ Status t rd v l s u

/-- A status in RD, and nothing but the thread, its core and the work due changed. -/
abbrev AnswersDue (t : Tid) (d : Due) (rd : BitVec 5) (v l : Nat) (s u : State) : Prop :=
  OnlyThreadDue t d s u ∧ Status t rd v l s u

/-- What pends after one more result follows from what pended before. -/
theorem pendsAfter_congr {a b : Thread} {d : Dest} {v : Option DWord} {r : Nat} (h : a.pend = b.pend) :
    PendsAfter a d v r = PendsAfter b d v r := by simp only [PendsAfter, h]

section
variable {s x : State} {t : Tid} {c : Instr} {named : List Dest} {rd : BitVec 5} {v l : Nat}

theorem deviceOp_issues (hi : Issues s t c named false) (body : State → State) :
    deviceOp c t named body s = body (markIssued s t) := issue_issues hi body

@[simp] theorem now_statusG : now (statusG x t rd v l) = now x := rfl
@[simp] theorem due_statusG : (statusG x t rd v l).due = x.due := rfl
@[simp] theorem frame_statusG (k : Nat) : frame? (statusG x t rd v l) k = frame? x k := rfl
@[simp] theorem mailbox_statusG (k : Nat) : mailbox (statusG x t rd v l) k = mailbox x k := rfl

theorem othersKept_addDue (h : OthersKept t s x) (d : Due) : OthersKept t s (addDue x d) := h

theorem status_addDue (h : Status t rd v l s x) (d : Due) : Status t rd v l s (addDue x d) := h

theorem answersDue_addDue (h : Answers t rd v l s x) (d : Due) : AnswersDue t d rd v l s (addDue x d) :=
  ⟨onlyThreadDue_addDue h.1 d, status_addDue h.2 d⟩

theorem answersDue_statusG (d : Due) : AnswersDue t d rd v l s (addDue (statusG (markIssued s t) t rd v l) d) :=
  answersDue_addDue (issued_statusG v l) d

/-- Result bytes are written at the end of the last tick of the operation's latency (R135). -/
theorem answersDue_sliceResult (s : State) (t : Tid) (rd : BitVec 5) (v l off : Nat) (bs : List Byte) :
    AnswersDue t ⟨now s + l - 1, 5, tidNum t, .sliceWrite t off bs, some t⟩ rd v l s
      (sliceResult (statusG (markIssued s t) t rd v l) t off l bs) := by
  rw [sliceResult, now_statusG, now_markIssued]
  exact answersDue_statusG _

/-- A result that a later tick gives pends like a status of 0. -/
theorem pendLater_eq (s : State) (t : Tid) (rd : BitVec 5) (l : Nat) : pendLater s t rd l = statusG s t rd 0 l := rfl

theorem othersKept_markIssued (s : State) (t : Tid) : OthersKept t s (markIssued s t) := (onlyThread_markIssued s t).2

theorem othersKept_thread (h : OthersKept t s x) (f : Thread → Thread) : OthersKept t s (onThread x t f) :=
  ⟨fun t' ht => (thread_onThread_ne _ _ _ _ ht).trans (h.1 t' ht), h.2⟩

theorem othersKept_statusG (h : OthersKept t s x) : OthersKept t s (statusG x t rd v l) := othersKept_thread h _

/-- Threads and cores alone decide whether the others are as they were. -/
theorem othersKept_congr {u : State} (hc : u.cores = x.cores) (ht : u.threads = x.threads) (h : OthersKept t s x) :
    OthersKept t s u := by
  obtain ⟨hothers, hcores, n, k, hcore⟩ := h
  have hc' : ∀ n, core u n = core x n := fun n => by rw [core, hc, core]
  exact ⟨fun t' h => (thread_congr ht t').trans (hothers t' h), fun n h => (hc' n).trans (hcores n h), n, k,
    (hc' _).trans hcore⟩

theorem onlyThread_statusG (h : OnlyThread t s x) : OnlyThread t s (statusG x t rd v l) := by
  rw [statusG, resultG]
  exact onlyThread_thread h _

/-- A status of an operation that has changed more of its thread. -/
theorem statusG_onThread (s : State) (t : Tid) (rd : BitVec 5) (v l : Nat) (f : Thread → Thread) :
    let u := statusG (onThread (markIssued s t) t f) t rd v l
    let th := advance (f (issuedThread s t)) 1
    OnlyThread t s u ∧
      thread u t = { th with pend := PendsAfter th (.g rd) (some (BitVec.ofNat 64 v)) (now s + l) } := by
  intro u th
  have hthread : thread (onThread (markIssued s t) t f) t = f (issuedThread s t) := by
    rw [thread_onThread, thread_markIssued]
  refine ⟨onlyThread_statusG (onlyThread_onThread s t f), ?_⟩
  rw [thread_statusG hthread, now_of_onThread, now_markIssued]

/-- A status of an operation whose work before it touched neither threads nor cores nor time. -/
theorem status_after (hc : x.cores = (markIssued s t).cores) (ht : x.threads = (markIssued s t).threads)
    (hk : x.tick = s.tick) : OthersKept t s (statusG x t rd v l) ∧ Status t rd v l s (statusG x t rd v l) := by
  have hthread : thread x t = issuedThread s t := (thread_congr ht t).trans (thread_markIssued s t)
  refine ⟨othersKept_statusG (othersKept_congr hc ht (othersKept_markIssued s t)), ?_⟩
  rw [Status, Pends, Advanced, thread_statusG hthread, now_congr hk]
  exact ⟨rfl, rfl⟩

end

end Sys2Proof.Machine
end

section
/-! SUPPORT. LOOKUP, INSERT and DELETE: what a thread's operation asks of the tables, and what the update engine
resolves it to (R138, R141–R143). -/

namespace Sys2Proof.Machine

open Sys2Proof

section
variable (t : Tid) (rd ra : BitVec 5) (table : BitVec 8) (s : State)

theorem exec_lookup : exec (.lookup t rd ra table) s = act s (lookupStep t rd ra table) := rfl
theorem exec_insert : exec (.insert t rd ra table) s = act s (insertStep t rd ra table) := rfl
theorem exec_delete : exec (.delete t rd ra table) s = act s (deleteStep t rd ra table) := rfl

end

/-! ### What a table operation reads -/

section
variable (s : State) (t : Tid)

@[simp] theorem tableOpen_markIssued (r n ten : Nat) : tableOpen (markIssued s t) r n ten = tableOpen s r n ten :=
  reads_markIssued s t (tableOpen · r n ten) fun _ _ => rfl
@[simp] theorem tblKeyBytes_markIssued (r n : Nat) : tblKeyBytes (markIssued s t) r n = tblKeyBytes s r n :=
  reads_markIssued s t (tblKeyBytes · r n) fun _ _ => rfl
@[simp] theorem tblValueBytes_markIssued (r n : Nat) : tblValueBytes (markIssued s t) r n = tblValueBytes s r n :=
  reads_markIssued s t (tblValueBytes · r n) fun _ _ => rfl
@[simp] theorem tableLatency_markIssued (r n : Nat) : tableLatency (markIssued s t) r n = tableLatency s r n :=
  reads_markIssued s t (tableLatency · r n) fun _ _ => rfl
@[simp] theorem keyBad_markIssued (n part : Nat) (key : List Byte) :
    keyBad (markIssued s t) n part key = keyBad s n part key :=
  reads_markIssued s t (keyBad · n part key) fun _ _ => rfl
@[simp] theorem lookupFor_markIssued (f : Frame) (n part : Nat) (key : List Byte) :
    lookupFor (markIssued s t) f n part key = lookupFor s f n part key :=
  reads_markIssued s t (lookupFor · f n part key) fun _ _ => rfl

end

/-- The operands of a table operation pass its checks: a table of R140 open to the thread's tenancy, and a slice block
without error (R132, R135). -/
abbrev TableOk (s : State) (t : Tid) (ra : BitVec 5) (table : BitVec 8) : Prop :=
  table.toNat < 72 ∧ (gReg (thread s t) ra).toNat % 8 = 0 ∧ (gReg (thread s t) ra).toNat + 128 ≤ 0x4000 ∧
    tableOpen s (threadRound s (thread s t)) table.toNat (tidTenancy s t) = true ∧
    memError s (sliceAddr t (gReg (thread s t) ra).toNat) 128 = false

/-- Key of a table operation: bytes of its slice block (R141). -/
abbrev opKey (s : State) (t : Tid) (ra : BitVec 5) (table : BitVec 8) : List Byte :=
  readBytes s (sliceAddr t (gReg (thread s t) ra).toNat) (tblKeyBytes s (threadRound s (thread s t)) table.toNat)
/-- Value of an INSERT: bytes of its slice block from byte 64 on (R143). -/
abbrev opValue (s : State) (t : Tid) (ra : BitVec 5) (table : BitVec 8) : List Byte :=
  readBytes s (sliceAddr t ((gReg (thread s t) ra).toNat + 64))
    (tblValueBytes s (threadRound s (thread s t)) table.toNat)
/-- Latency of a table operation of the thread (R137). -/
abbrev opTicks (s : State) (t : Tid) (table : BitVec 8) : Nat :=
  tableLatency s (threadRound s (thread s t)) table.toNat

/-! ### The operations of a thread -/

/-- An operation goes to an engine, which takes it in the next tick (R143, R144). -/
theorem answersDue_toTableUnit (s : State) (t : Tid) (rd : BitVec 5) (v l : Nat) (op : TableOp) :
    AnswersDue t ⟨now s + 1, 0, tidNum t, .tableUnit t op, none⟩ rd v l s
      (toTableUnit (statusG (markIssued s t) t rd v l) t op) := by
  rw [toTableUnit, now_statusG, now_markIssued]
  exact answersDue_statusG _

section
variable {s : State} {t : Tid} {rd ra : BitVec 5} {table : BitVec 8} (hok : TableOk s t ra table)
include hok

theorem tableOp_passes {c : Instr} (hi : Issues s t c [.g rd, .g ra] false)
    (body : State → List Byte → Nat → State) :
    tableOp c t rd ra table body s = body (markIssued s t) (opKey s t ra table) (opTicks s t table) := by
  obtain ⟨hn, halign, hbound, hopen, herr⟩ := hok
  rw [tableOp, deviceOp_issues hi]
  simp only [thread_markIssued, gReg_issued, roundTen_markIssued, tableOpen_markIssued, memError_markIssued,
    readBytes_markIssued, tblKeyBytes_markIssued, tableLatency_markIssued]
  rw [if_neg (Nat.not_le.2 hn), if_neg (by simp [blockOk_eq halign hbound]), if_neg (by simp [hopen]),
    if_neg (by simp [herr])]

section
variable (hi : Issues s t (.lookup t rd ra table) [.g rd, .g ra] false)
  (hgood : keyBad s table.toNat (partOf table.toNat (tidTenancy s t)) (opKey s t ra table) = false)
include hi hgood

/-- A LOOKUP that meets no error answers by what it finds (R142). -/
theorem lookupStep_eq {found : Option (List Byte × Bool × Bool)}
    (hfound : ((thread s t).base.bind fun f => lookupFor s f table.toNat (partOf table.toNat (tidTenancy s t))
      (opKey s t ra table)) = found) :
    lookupStep t rd ra table s = match found with
      | none => statusG (markIssued s t) t rd 1 (opTicks s t table)
      | some v => sliceResult (statusG (markIssued s t) t rd ((if v.2.1 then 256 else 0) + if v.2.2 then 512 else 0)
          (opTicks s t table)) t ((gReg (thread s t) ra).toNat + 64) (opTicks s t table)
        (slice v.1 0 (tblValueBytes s (threadRound s (thread s t)) table.toNat)) := by
  rw [lookupStep, tableOp_passes hok hi]
  simp only [thread_markIssued, gReg_issued, base_issued, roundTen_markIssued, keyBad_markIssued,
    lookupFor_markIssued, tblValueBytes_markIssued, hgood, hfound, Bool.false_eq_true, if_false]
  cases found with
  | none => rfl
  | some v =>
    dsimp only
    rw [tsOk, Nat.zero_add]

theorem runs_lookup_miss (hfound : ((thread s t).base.bind fun f => lookupFor s f table.toNat
      (partOf table.toNat (tidTenancy s t)) (opKey s t ra table)) = none) :
    Runs (.lookup t rd ra table) s (Answers t rd 1 (opTicks s t table) s) := by
  refine runs_act hi.1 (exec_lookup ..) ?_
  rw [lookupStep_eq hok hi hgood hfound]
  exact issued_statusG ..

theorem runs_lookup_found {v : List Byte} {static lock : Bool} (hfound : ((thread s t).base.bind fun f =>
      lookupFor s f table.toNat (partOf table.toNat (tidTenancy s t)) (opKey s t ra table)) = some (v, static, lock)) :
    Runs (.lookup t rd ra table) s (AnswersDue t
      ⟨now s + opTicks s t table - 1, 5, tidNum t, .sliceWrite t ((gReg (thread s t) ra).toNat + 64)
        (slice v 0 (tblValueBytes s (threadRound s (thread s t)) table.toNat)), some t⟩ rd
      ((if static then 256 else 0) + if lock then 512 else 0) (opTicks s t table) s) := by
  refine runs_act hi.1 (exec_lookup ..) ?_
  rw [lookupStep_eq hok hi hgood hfound]
  exact answersDue_sliceResult ..

end

theorem runs_insert (hi : Issues s t (.insert t rd ra table) [.g rd, .g ra] false) :
    Runs (.insert t rd ra table) s (AnswersDue t ⟨now s + 1, 0, tidNum t, .tableUnit t (.insert rd table.toNat
      (partOf table.toNat (tidTenancy s t)) (opKey s t ra table) (opValue s t ra table) (opTicks s t table)), none⟩
      rd 0 (opTicks s t table) s) := by
  refine runs_act hi.1 (exec_insert ..) ?_
  rw [insertStep, tableOp_passes hok hi]
  simp only [thread_markIssued, gReg_issued, roundTen_markIssued, readBytes_markIssued, tblValueBytes_markIssued,
    pendLater_eq]
  exact answersDue_toTableUnit ..

theorem runs_delete (hi : Issues s t (.delete t rd ra table) [.g rd, .g ra] false) :
    Runs (.delete t rd ra table) s (AnswersDue t ⟨now s + 1, 0, tidNum t, .tableUnit t (.delete rd table.toNat
      (partOf table.toNat (tidTenancy s t)) (opKey s t ra table) (opTicks s t table)), none⟩
      rd 0 (opTicks s t table) s) := by
  refine runs_act hi.1 (exec_delete ..) ?_
  rw [deleteStep, tableOp_passes hok hi]
  simp only [roundTen_markIssued, pendLater_eq]
  exact answersDue_toTableUnit ..

end

/-! ### The update engine -/

section
variable {s : State} {t : Tid} {rd : BitVec 5} {n part : Nat} {key value : List Byte} {l : Nat}

/-- The update engine answers an operation of the last tick, and the accepted changes are `changes` (R143). -/
abbrev Resolves (t : Tid) (rd : BitVec 5) (v l : Nat) (changes : List Change) (s u : State) : Prop :=
  u = { s with threads := u.threads, changes := changes } ∧ ThreadsKept t s u ∧
    thread u t = Filled (thread s t) rd v (now s - 1 + l)

theorem resolves_tableAnswer (changes : List Change) {v : Nat} (hv : v ≠ tsError) :
    Resolves t rd v l changes s (tableAnswer ({ s with changes := changes }, v) t rd n l) := by
  rw [tableAnswer, if_neg hv]
  exact ⟨rfl, fun _ h => thread_onThread_ne _ _ _ _ h, thread_onThread ..⟩

/-- A change of the thread's own, accepted in the tick after its issue (R143). -/
abbrev ownChange (s : State) (t : Tid) (n part : Nat) (key : List Byte) (op : ChangeOp)
    (moves : List (List Byte × Nat × Nat)) : Change :=
  ⟨n, part, key, op, .thread (tidNum t), now s - 1, effectRound (now s - 1), moves, true, now s - 1, false, 0, false⟩

variable (hgood : keyBad s n part key = false)
include hgood

theorem insert_exists (h : (pendingView s n part key).isSome = true) :
    Resolves t rd tsExists l s.changes s (tableUnit s t (.insert rd n part key value l)) := by
  rw [tableUnit, insertAct, resolveInsert, hgood, if_neg Bool.false_ne_true, if_pos h]
  exact resolves_tableAnswer s.changes (by decide)

theorem insert_placed {b v : Nat} {moves : List (List Byte × Nat × Nat)} (h : pendingView s n part key = none)
    (hp : placement s n part key = some (b, v, moves)) :
    Resolves t rd tsOk l (s.changes ++ [ownChange s t n part key (.insert value false b v) moves]) s
      (tableUnit s t (.insert rd n part key value l)) := by
  rw [tableUnit, insertAct, resolveInsert, hgood, if_neg Bool.false_ne_true, h, if_neg (by simp), hp]
  exact resolves_tableAnswer _ (by decide)

theorem delete_absent (h : pendingView s n part key = none) :
    Resolves t rd tsAbsent l s.changes s (tableUnit s t (.delete rd n part key l)) := by
  rw [tableUnit, deleteAct, resolveChange, hgood, if_neg Bool.false_ne_true, h]
  exact resolves_tableAnswer s.changes (by decide)

theorem delete_present {v : List Byte} {static lock : Bool} (h : pendingView s n part key = some (v, static, lock)) :
    Resolves t rd (if lock then tsLocked else tsOk) l
      (if lock then s.changes else s.changes ++ [ownChange s t n part key .delete []]) s
      (tableUnit s t (.delete rd n part key l)) := by
  rw [tableUnit, deleteAct, resolveChange, hgood, if_neg Bool.false_ne_true, h]
  cases lock with
  | true => exact resolves_tableAnswer s.changes (by decide)
  | false => exact resolves_tableAnswer _ (by decide)

end

/-- Settles O14: LOOKUP by what it finds, INSERT and DELETE by what goes to the update engine, and the update engine
by what the pending view of the key holds. -/
theorem tableOperations : Obligations.TableOperations := by
  unfold Obligations.TableOperations
  refine ⟨fun t rd ra table s hi hn halign hbound hopen herr hgood => ?_,
    fun t rd ra table s hn halign hbound hopen herr => ?_,
    fun t rd n part key value l s hgood => ?_⟩
  · have hok : TableOk s t ra table := ⟨hn, halign, hbound, hopen, herr⟩
    exact ⟨runs_lookup_miss hok hi hgood, fun v static lock hfound =>
      let ⟨u, hu, hdue, hstatus⟩ := runs_lookup_found hok hi hgood hfound
      ⟨u, hu, hstatus, hdue⟩⟩
  · have hok : TableOk s t ra table := ⟨hn, halign, hbound, hopen, herr⟩
    exact ⟨runs_insert hok, runs_delete hok⟩
  · exact ⟨insert_exists hgood, fun b v moves => insert_placed hgood, delete_absent hgood,
      fun v static lock => delete_present hgood⟩

end Sys2Proof.Machine
end

section
/-! SUPPORT. LEARN with the learning engine's part of it, CLASSIFY and HASH (R144–R146, R226, R228, R231). -/

namespace Sys2Proof.Machine

open Sys2Proof

section
variable (t : Tid) (rd ra rb : BitVec 5) (s : State)

theorem exec_learn : exec (.learn t rd ra rb) s = act s (learnStep t rd ra rb) := rfl
theorem exec_classify (num : BitVec 8) :
    exec (.classify t rd ra num) s = act s (classifyOpStep t rd ra num) := rfl
theorem exec_hash (func : BitVec 2) (header : Bool) :
    exec (.hash t rd ra rb func header) s = act s (hashStep t rd ra rb func header) := rfl

@[simp] theorem bdTenancy_markIssued (r b : Nat) : bdTenancy (markIssued s t) r b = bdTenancy s r b :=
  reads_markIssued s t (bdTenancy · r b) fun _ _ => rfl
@[simp] theorem ruleSetAt_markIssued (r ten num : Nat) : ruleSetAt (markIssued s t) r ten num = ruleSetAt s r ten num :=
  reads_markIssued s t (ruleSetAt · r ten num) fun _ _ => rfl
@[simp] theorem actionFor_markIssued (f : Frame) (set : RuleSet) (r : Rule) :
    actionFor (markIssued s t) f set r = actionFor s f set r :=
  reads_markIssued s t (actionFor · f set r) fun _ _ => rfl
@[simp] theorem hashOf_markIssued (r kind cls : Nat) (bs : List Byte) :
    hashOf (markIssued s t) r kind cls bs = hashOf s r kind cls bs :=
  reads_markIssued s t (hashOf · r kind cls bs) fun _ _ => rfl
@[simp] theorem cls_issued : (issuedThread s t).cls = (thread s t).cls := rfl

end

/-! ### LEARN -/

section
variable {s : State} {t : Tid} {rd ra rb : BitVec 5} {f : Frame}

section
variable (hi : Issues s t (.learn t rd ra rb) [.g rd, .g ra, .g rb] false)
  (hbd : (gReg (thread s t) ra).toNat < 4096) (hmac : (gReg (thread s t) rb).toNat < 2 ^ 48)
  (hown : bdTenancy s (threadRound s (thread s t)) (gReg (thread s t) ra).toNat = tidTenancy s t)
  (hbase : (thread s t).base = some f)
include hi hbd hmac hown hbase

/-- A LEARN that passes its checks is one of the device's own frames, or goes to the learning engine (R144). -/
theorem learnStep_eq : learnStep t rd ra rb s =
    if tagSrcKind f.tag = 3 then statusG (markIssued s t) t rd tsNoSource 2
    else toTableUnit (statusG (markIssued s t) t rd tsOk 2) t
      (.learn (gReg (thread s t) ra).toNat (BitVec.ofNat 48 (gReg (thread s t) rb).toNat) (tagSource f.tag)
        (tag64 f.tag 1) f.id f.round) := by
  rw [learnStep, deviceOp_issues hi]
  simp only [thread_markIssued, gReg_issued, base_issued, roundTen_markIssued, bdTenancy_markIssued, hbase]
  rw [if_neg (Nat.not_le.2 hbd), if_neg (Nat.not_le.2 hmac), if_neg (not_not.2 hown)]

theorem runs_learn_ownSource (hsrc : tagSrcKind f.tag = 3) :
    Runs (.learn t rd ra rb) s (Answers t rd tsNoSource 2 s) := by
  refine runs_act hi.1 (exec_learn ..) ?_
  rw [learnStep_eq hi hbd hmac hown hbase, if_pos hsrc]
  exact issued_statusG ..

theorem runs_learn_sent (hsrc : tagSrcKind f.tag ≠ 3) :
    Runs (.learn t rd ra rb) s (AnswersDue t ⟨now s + 1, 0, tidNum t, .tableUnit t
      (.learn (gReg (thread s t) ra).toNat (BitVec.ofNat 48 (gReg (thread s t) rb).toNat) (tagSource f.tag)
        (tag64 f.tag 1) f.id f.round), none⟩ rd tsOk 2 s) := by
  refine runs_act hi.1 (exec_learn ..) ?_
  rw [learnStep_eq hi hbd hmac hown hbase, if_neg hsrc]
  exact answersDue_toTableUnit ..

end

end

/-! ### The learning engine -/

section
variable {s : State} {t : Tid} {bd src ingress f r : Nat} {mac : BitVec 48}

/-- Learning is on for the bridge domain and the source's limit is not 0 (R226). -/
abbrev LearningOn (s : State) (bd src : Nat) : Prop :=
  (learnTable s (round s) bd).isSome = true ∧ word s (srcAddr (sourceNumber src) 0) ≠ 0

theorem learnDiscarded_iff : learnDiscarded s bd src = true ↔ ¬LearningOn s bd src := by
  rw [learnDiscarded, Bool.or_eq_true, Option.isNone_iff_eq_none, beq_iff_eq, not_and_or, Bool.not_eq_true,
    Option.isSome_eq_false_iff, Option.isNone_iff_eq_none, not_not]

theorem learn_off (h : ¬LearningOn s bd src) : tableUnit s t (.learn bd mac src ingress f r) = s := by
  rw [tableUnit, learnAct, if_pos (learnDiscarded_iff.2 h)]

/-- A source that does not mark frames at its limit marks none (R231). -/
theorem markLearn_unmarked (h : bit (wordAt s r (srcAddr (sourceNumber src) 4)) 1 = false) :
    markLearn s f r bd mac src = s := by simp [markLearn, h]

theorem learn_on (h : LearningOn s bd src) (hroom : (s.learns.filter fun l => l.round == round s).length < 4096)
    (hmark : bit (wordAt s r (srcAddr (sourceNumber src) 4)) 1 = false) :
    tableUnit s t (.learn bd mac src ingress f r) = { s with
      learns := s.learns ++ [⟨round s, bd, mac, BitVec.ofNat 12 src, ingress,
        (s.learns.filter fun l => l.round == round s).length⟩] } := by
  rw [tableUnit, learnAct, if_neg (mt learnDiscarded_iff.1 (not_not.2 h)), collectLearn, if_neg (Nat.not_le.2 hroom)]
  exact markLearn_unmarked hmark

end

/-! ### CLASSIFY and HASH -/

section
variable {s : State} {t : Tid} {rd ra rb : BitVec 5}

/-- CLASSIFY's answer by the rule that matches the key (R145). -/
def classifyAnswer (s : State) (f : Frame) (set : RuleSet) (num : Nat) : Option Rule → Nat
  | some r => r.rule + num * 2 ^ 20 + 2 ^ 31 + leAt (actionFor s f set r) 4 4 * 2 ^ 32
  | none => num * 2 ^ 20

section
variable {num : BitVec 8} {set : RuleSet} {f : Frame} (hbase : (thread s t).base = some f)
  (hset : ruleSetAt s (threadRound s (thread s t)) (tidTenancy s t) num.toNat = some set)
include hbase hset

theorem classifyResult_markIssued (key : List Byte) : classifyResult (markIssued s t) t num.toNat key =
    classifyAnswer s f set num.toNat (classifyKey set key) := by
  simp only [classifyResult, thread_markIssued, base_issued, roundTen_markIssued, ruleSetAt_markIssued,
    actionFor_markIssued, hset, hbase]
  cases classifyKey set key <;> rfl

theorem runs_classify (hnum : num.toNat < 64) (halign : (gReg (thread s t) ra).toNat % 8 = 0)
    (hbound : (gReg (thread s t) ra).toNat + 80 ≤ 0x4000)
    (herr : memError s (sliceAddr t (gReg (thread s t) ra).toNat) 80 = false)
    (hi : Issues s t (.classify t rd ra num) [.g rd, .g ra] false) :
    Runs (.classify t rd ra num) s (Answers t rd (classifyAnswer s f set num.toNat
      (classifyKey set (readBytes s (sliceAddr t (gReg (thread s t) ra).toNat) 80))) 24 s) := by
  refine runs_act hi.1 (exec_classify ..) ?_
  rw [classifyOpStep, deviceOp_issues hi]
  simp only [thread_markIssued, gReg_issued, memError_markIssued, readBytes_markIssued,
    classifyResult_markIssued hbase hset]
  rw [if_neg (Nat.not_le.2 hnum), if_neg (by simp [blockOk_eq halign hbound]), if_neg (by simp [herr])]
  exact issued_statusG ..

end

theorem runs_hash {func : BitVec 2} {header : Bool} (hfunc : func.toNat < 2) (hn : (gReg (thread s t) rb).toNat ≤ 48)
    (hbound : (gReg (thread s t) ra).toNat + (gReg (thread s t) rb).toNat ≤ if header then 512 else 0x4000)
    (herr : spaceError s t header (gReg (thread s t) ra).toNat (gReg (thread s t) rb).toNat = false)
    (hi : Issues s t (.hash t rd ra rb func header) [.g rd, .g ra, .g rb] false) :
    Runs (.hash t rd ra rb func header) s (Answers t rd
      (hashOf s (threadRound s (thread s t)) func.toNat (thread s t).cls
        (if header then hdrBytes (thread s t) (gReg (thread s t) ra).toNat (gReg (thread s t) rb).toNat
          else readBytes s (sliceAddr t (gReg (thread s t) ra).toNat) (gReg (thread s t) rb).toNat)) 3 s) := by
  refine runs_act hi.1 (exec_hash ..) ?_
  rw [hashStep, deviceOp_issues hi]
  simp only [thread_markIssued, gReg_issued, cls_issued, threadRound_markIssued, threadRound_issued,
    spaceError_markIssued, hashOf_markIssued, spaceBytes_issued s t hbound, herr, Bool.false_eq_true, if_false]
  rw [if_neg (Nat.not_le.2 hfunc), if_neg (Nat.not_lt.2 hn)]
  exact issued_statusG ..

end

/-- Settles O15: LEARN by the source of its frame, the learning engine by whether learning is on, CLASSIFY by the rule
that matches. A learn that the engine discards marks no frame either, which entry 152 of the assumption log deduces. -/
theorem learnClassifyHash : Obligations.LearnClassifyHash := by
  unfold Obligations.LearnClassifyHash
  refine ⟨⟨fun t rd ra rb f s hi hbd hmac hown hbase => ?_, fun t bd src ingress f r mac s => ?_⟩,
    fun t rd ra rb num func header set f s => ⟨fun hnum halign hbound herr hbase hset => ?_, ?_⟩⟩
  · exact ⟨runs_learn_ownSource hi hbd hmac hown hbase, fun hsrc =>
      let ⟨u, hu, hdue, hstatus⟩ := runs_learn_sent hi hbd hmac hown hbase hsrc
      ⟨u, hu, hstatus, hdue⟩⟩
  · exact ⟨learn_off, learn_on⟩
  · have hrun := runs_classify (rd := rd) hbase hset hnum halign hbound herr
    exact ⟨fun h => by rwa [h] at hrun, fun r h => by rwa [h] at hrun⟩
  · exact runs_hash

end Sys2Proof.Machine
end

section
/-! SUPPORT. Flow contexts, program counters, FETCH and TIME (R147–R150, R157). -/

namespace Sys2Proof.Machine

open Sys2Proof

section
variable (t : Tid) (rd ra rb : BitVec 5) (s : State)

theorem exec_fcld (fromTag : Bool) : exec (.fcld t rd ra rb fromTag) s = act s (fcldStep t rd ra rb fromTag) := rfl
theorem exec_fcst (fromTag : Bool) : exec (.fcst t rd ra rb fromTag) s = act s (fcstStep t rd ra rb fromTag) := rfl
theorem exec_fcstv (fromTag : Bool) : exec (.fcstv t rd ra rb fromTag) s = act s (fcstvStep t rd ra rb fromTag) := rfl
theorem exec_cadd : exec (.cadd t ra rb) s = act s (caddStep t ra rb) := rfl
theorem exec_crd (bytes : Bool) : exec (.crd t rd ra bytes) s = act s (crdStep t rd ra bytes) := rfl
theorem exec_fetch (blocksM1 : BitVec 3) :
    exec (.fetch t rd ra rb blocksM1) s = act s (fetchStep t rd ra rb blocksM1) := rfl
theorem exec_time (mode : BitVec 3) : exec (.time t rd rb mode) s = act s (timeStep t rd rb mode) := rfl

@[simp] theorem fcOwned_markIssued (r ten c : Nat) : fcOwned (markIssued s t) r ten c = fcOwned s r ten c :=
  reads_markIssued s t (fcOwned · r ten c) fun _ _ => rfl
@[simp] theorem ctrOwned_markIssued (r ten c : Nat) : ctrOwned (markIssued s t) r ten c = ctrOwned s r ten c :=
  reads_markIssued s t (ctrOwned · r ten c) fun _ _ => rfl
@[simp] theorem compactNow_markIssued : compactNow (markIssued s t) = compactNow s :=
  reads_markIssued s t compactNow fun _ _ => rfl
@[simp] theorem fullUnits_markIssued : fullUnits (markIssued s t) = fullUnits s :=
  reads_markIssued s t fullUnits fun _ _ => rfl
@[simp] theorem source_issued : (issuedThread s t).source = (thread s t).source := rfl

end

section
variable {s : State} {t : Tid} {rd ra rb : BitVec 5}

/-! ### Flow contexts -/

/-- The context that a flow-context operation names: the live tag's or the one in RB (R147). -/
def namedContext (th : Thread) (rb : BitVec 5) (fromTag : Bool) : Nat :=
  if fromTag then tagFlow (liveTag th) else (gReg th rb).toNat

/-- The operands of a flow-context operation pass its checks but for the block's size (R132, R135, R147). -/
abbrev FlowOk (s : State) (t : Tid) (ra rb : BitVec 5) (fromTag : Bool) : Prop :=
  (fromTag = true → rb = 0 ∧ hdrError s t 32 4 = false) ∧ namedContext (thread s t) rb fromTag < 2 ^ 24 ∧
    (gReg (thread s t) ra).toNat % 8 = 0 ∧
    fcOwned s (threadRound s (thread s t)) (tidTenancy s t) (namedContext (thread s t) rb fromTag) = true

section
variable {fromTag : Bool} (hok : FlowOk s t ra rb fromTag)
include hok

theorem flowOp_passes {c : Instr} {n : Nat} (hbound : (gReg (thread s t) ra).toNat + n ≤ 0x4000)
    (hi : Issues s t c [.g rd, .g ra, .g rb] false) (body : State → Nat → Nat → State) :
    flowOp c t rd ra rb fromTag n body s =
      body (markIssued s t) (gReg (thread s t) ra).toNat (namedContext (thread s t) rb fromTag) := by
  obtain ⟨htag, hctx, halign, hown⟩ := hok
  have hv : (if fromTag then BitVec.ofNat 64 (tagFlow (liveTag (thread s t))) else gReg (thread s t) rb).toNat =
      namedContext (thread s t) rb fromTag := by
    cases fromTag with
    | false => rfl
    | true => exact (BitVec.toNat_ofNat ..).trans (Nat.mod_eq_of_lt (Nat.lt_trans hctx (by decide)))
  rw [flowOp, deviceOp_issues hi]
  simp only [thread_markIssued, gReg_issued, liveTag_issued, roundTen_markIssued, hdrError_markIssued,
    fcOwned_markIssued, hv]
  rw [if_neg (by simp only [Bool.and_eq_true, bne_iff_ne]; exact fun h => h.2 (htag h.1).1),
    if_neg (by simp only [Bool.and_eq_true]; exact fun h => Bool.false_ne_true ((htag h.1).2.symm.trans h.2)),
    if_neg (Nat.not_le.2 hctx), if_neg (by simp [blockOk_eq halign hbound]), if_neg (by simp [hown])]

theorem runs_fcld (hbound : (gReg (thread s t) ra).toNat + 128 ≤ 0x4000)
    (hi : Issues s t (.fcld t rd ra rb fromTag) [.g rd, .g ra, .g rb] false) :
    Runs (.fcld t rd ra rb fromTag) s (AnswersDue t ⟨now s + 24, 4, tidNum t, .fcRead t rd
      (namedContext (thread s t) rb fromTag) (gReg (thread s t) ra).toNat (now s + 48), some t⟩ rd 0 48 s) := by
  refine runs_act hi.1 (exec_fcld ..) ?_
  rw [fcldStep, flowOp_passes hok hbound hi, pendLater_eq, now_markIssued]
  exact answersDue_statusG _

theorem runs_fcst (hbound : (gReg (thread s t) ra).toNat + 128 ≤ 0x4000)
    (herr : memError s (sliceAddr t (gReg (thread s t) ra).toNat) 128 = false)
    (hi : Issues s t (.fcst t rd ra rb fromTag) [.g rd, .g ra, .g rb] false) :
    Runs (.fcst t rd ra rb fromTag) s (AnswersDue t ⟨now s + 24, 3, tidNum t, .fcWrite
      (namedContext (thread s t) rb fromTag) (readBytes s (sliceAddr t (gReg (thread s t) ra).toNat) 128), none⟩
      rd 0 48 s) := by
  refine runs_act hi.1 (exec_fcst ..) ?_
  rw [fcstStep, flowOp_passes hok hbound hi, memError_markIssued, if_neg (by simp [herr]), now_markIssued,
    readBytes_markIssued]
  exact answersDue_statusG _

theorem runs_fcstv (hbound : (gReg (thread s t) ra).toNat + 136 ≤ 0x4000)
    (herr : memError s (sliceAddr t (gReg (thread s t) ra).toNat) 136 = false)
    (hi : Issues s t (.fcstv t rd ra rb fromTag) [.g rd, .g ra, .g rb] false) :
    let block := readBytes s (sliceAddr t (gReg (thread s t) ra).toNat) 136
    Runs (.fcstv t rd ra rb fromTag) s (AnswersDue t ⟨now s + 24, 3, tidNum t, .fcCompare t rd
      (namedContext (thread s t) rb fromTag) (gReg (thread s t) ra).toNat (block.drop 128) (block.take 128)
      (now s + 48) true, none⟩ rd 0 48 s) := by
  intro block
  refine runs_act hi.1 (exec_fcstv ..) ?_
  rw [fcstvStep, flowOp_passes hok hbound hi, memError_markIssued, if_neg (by simp [herr]), now_markIssued,
    readBytes_markIssued, pendLater_eq]
  exact answersDue_statusG _

end

/-! ### Program counters -/

section
variable (hc : (gReg (thread s t) ra).toNat < 2 ^ 24)
  (hown : ctrOwned s (threadRound s (thread s t)) (tidTenancy s t) (gReg (thread s t) ra).toNat = true)
include hc hown

theorem counterOp_passes {c : Instr} {named : List Dest} (hi : Issues s t c named false) (body : State → Nat → State) :
    counterOp c t named ra body s = body (markIssued s t) (gReg (thread s t) ra).toNat := by
  rw [counterOp, deviceOp_issues hi]
  simp only [thread_markIssued, gReg_issued, roundTen_markIssued, ctrOwned_markIssued]
  rw [if_neg (show ¬16777216 ≤ _ from Nat.not_le.2 hc), if_neg (by simp [hown])]

theorem runs_cadd (hi : Issues s t (.cadd t ra rb) [.g ra, .g rb] false) : Runs (.cadd t ra rb) s fun u =>
    OnlyThreadDue t ⟨now s + 24, 3, tidNum t, .counterAdd (gReg (thread s t) ra).toNat (gReg (thread s t) rb), none⟩
      s u ∧
    thread u t = { issuedThread s t with pc := (thread s t).pc + 4, lastOfTick := some (now s) } := by
  refine runs_act hi.1 (exec_cadd ..) ?_
  rw [caddStep, counterOp_passes hc hown hi, thread_markIssued, gReg_issued, now_markIssued]
  refine ⟨onlyThreadDue_addDue (onlyThread_onThread ..) _, ?_⟩
  rw [thread_of_addDue, thread_onThread, thread_markIssued, lastIn, now_markIssued]
  rfl

theorem runs_crd {bytes : Bool} (hi : Issues s t (.crd t rd ra bytes) [.g rd, .g ra] false) :
    Runs (.crd t rd ra bytes) s (AnswersDue t ⟨now s + 24, 4, tidNum t, .counterRead t rd
      (gReg (thread s t) ra).toNat bytes (now s + 48), some t⟩ rd 0 48 s) := by
  refine runs_act hi.1 (exec_crd ..) ?_
  rw [crdStep, counterOp_passes hc hown hi, pendLater_eq, now_markIssued]
  exact answersDue_statusG _

end

/-! ### FETCH -/

theorem runs_fetch {blocksM1 : BitVec 3} (halign : (gReg (thread s t) ra).toNat % 8 = 0)
    (hbound : (gReg (thread s t) ra).toNat + 64 * (blocksM1.toNat + 1) ≤ 0x4000)
    (hoff : (gReg (thread s t) rb).toNat < (thread s t).source.length)
    (hi : Issues s t (.fetch t rd ra rb blocksM1) [.g rd, .g ra, .g rb] false) :
    Runs (.fetch t rd ra rb blocksM1) s (AnswersDue t
      ⟨now s + 8 * (blocksM1.toNat + 1) - 1, 5, tidNum t, .sliceWrite t (gReg (thread s t) ra).toNat
        (slice (thread s t).source (gReg (thread s t) rb).toNat (64 * (blocksM1.toNat + 1))), some t⟩ rd
      (min (64 * (blocksM1.toNat + 1)) ((thread s t).source.length - (gReg (thread s t) rb).toNat))
      (8 * (blocksM1.toNat + 1)) s) := by
  refine runs_act hi.1 (exec_fetch ..) ?_
  rw [fetchStep, deviceOp_issues hi]
  simp only [thread_markIssued, gReg_issued, source_issued]
  rw [if_neg (by simp [blockOk_eq halign hbound]), if_neg (Nat.not_le.2 hoff)]
  exact answersDue_sliceResult ..

/-! ### TIME -/

theorem runs_time_compact (hi : Issues s t (.time t rd 0 0) [.g rd, .g 0] false) :
    Runs (.time t rd 0 0) s (OneResult t (.g rd) (some (compactNow s)) 1 s) := by
  refine runs_act hi.1 (exec_time ..) ?_
  rw [timeStep, deviceOp_issues hi, if_neg (by simp), if_pos (show (0 : BitVec 3).toNat = 0 from rfl),
    compactNow_markIssued]
  exact oneResult_resultG ..

theorem runs_time_ticks (hi : Issues s t (.time t rd 0 1) [.g rd, .g 0] false) :
    Runs (.time t rd 0 1) s (OneResult t (.g rd) (some s.tick) 1 s) := by
  refine runs_act hi.1 (exec_time ..) ?_
  rw [timeStep, deviceOp_issues hi, if_neg (by simp), if_neg (by decide),
    if_pos (show (1 : BitVec 3).toNat = 1 from rfl), tick_markIssued]
  exact oneResult_resultG ..

/-- Full time gives two results, usable in the next tick (R157). -/
theorem runs_time_full (hd : rb ≠ rd ∨ rd = 0) (hi : Issues s t (.time t rd rb 2) [.g rd, .g rb] false) :
    let p := fullParts (fullUnits s)
    Runs (.time t rd rb 2) s fun u => OnlyThread t s u ∧ Advanced t 1 s u ∧
      (thread u t).pend = PendsAfter { thread s t with
        pend := PendsAfter (thread s t) (.g rd) (some (BitVec.ofNat 64 (p.2.1 * 256 + p.2.2))) (now s + 1) } (.g rb)
          (some (BitVec.ofNat 64 (p.1 % 2 ^ 48))) (now s + 1) := by
  intro p
  refine runs_act hi.1 (exec_time ..) ?_
  have hmode : ¬(2 < (2 : BitVec 3).toNat ∨ ((2 : BitVec 3).toNat ≠ 2 ∧ rb ≠ 0) ∨
      ((2 : BitVec 3).toNat = 2 ∧ rb = rd ∧ rd ≠ 0)) :=
    not_or.2 ⟨by decide, not_or.2 ⟨fun h => h.1 rfl, fun ⟨_, hsame, hne⟩ => hd.elim (· hsame) hne⟩⟩
  rw [timeStep, deviceOp_issues hi, if_neg hmode, if_neg (by decide), if_neg (by decide),
    fullUnits_markIssued]
  obtain ⟨hone, hadv, hpend⟩ := oneResult_resultG s t rd (some (BitVec.ofNat 64 (p.2.1 * 256 + p.2.2))) 1
  have hnow : now (resultG (markIssued s t) t rd (some (BitVec.ofNat 64 (p.2.1 * 256 + p.2.2))) 1 1) = now s :=
    now_markIssued s t
  refine ⟨onlyThread_thread hone _, ?_, ?_⟩
  · rw [Advanced, thread_onThread, pendTo_eq, hadv]
  · rw [thread_onThread, pendTo_eq, hnow]
    exact pendsAfter_congr hpend

end

/-- Settles O16: each operation passes its checks, and what it leaves due is work of the tick that R148 to R150 give. -/
theorem contextsCountersTime : Obligations.ContextsCountersTime := by
  unfold Obligations.ContextsCountersTime
  refine ⟨fun t rd ra rb fromTag s => ⟨runs_fcld, runs_fcst, runs_fcstv⟩, fun t rd ra rb bytes blocksM1 s =>
    ⟨fun hc hown => ⟨runs_cadd hc hown, runs_crd hc hown⟩, runs_fetch, runs_time_compact, runs_time_ticks,
      runs_time_full⟩⟩

end Sys2Proof.Machine
end

section
/-! SUPPORT. CAPTURE, and the mailbox operations of a thread (R154, R160, R472, R473, R476). -/

namespace Sys2Proof.Machine

open Sys2Proof

section
variable (t : Tid) (rd ra : BitVec 5) (s : State)

theorem exec_capture (rb : BitVec 5) (atOnce : Bool) :
    exec (.capture t rd rb atOnce) s = act s (captureStep t rd rb atOnce) := rfl
theorem exec_mbsend : exec (.mbsend t rd ra) s = act s (mbsendStep t rd ra) := rfl
theorem exec_mbrecv : exec (.mbrecv t rd ra) s = act s (mbrecvStep t rd ra) := rfl
theorem exec_mbwdraw : exec (.mbwdraw t rd) s = act s (mbwdrawStep t rd) := rfl

@[simp] theorem mailbox_markIssued (k : Nat) : mailbox (markIssued s t) k = mailbox s k :=
  reads_markIssued s t (mailbox · k) fun _ _ => rfl
@[simp] theorem frame_markIssued (k : Nat) : frame? (markIssued s t) k = frame? s k :=
  reads_markIssued s t (frame? · k) fun _ _ => rfl
@[simp] theorem postMsg_markIssued (c : Channel) (m : Msg) : postMsg (markIssued s t) c m = postMsg s c m := by
  simp [postMsg]
@[simp] theorem frame_issued : (issuedThread s t).frame = (thread s t).frame := rfl
@[simp] theorem handedOn_issued : (issuedThread s t).handedOn = (thread s t).handedOn := rfl
@[simp] theorem records_issued : (issuedThread s t).records = (thread s t).records := rfl
@[simp] theorem headPart_issued : headPart (issuedThread s t) = headPart (thread s t) := rfl
@[simp] theorem assemble_issued (h : Nat) : assemble (issuedThread s t) h = assemble (thread s t) h := rfl

theorem mailbox_putMailbox_ne {n k : Nat} (v : Mailbox) (h : k ≠ n) : mailbox (putMailbox s n v) k = mailbox s k := by
  simp [mailbox, putMailbox, look_place_ne _ _ _ _ h]

end

section
variable {s : State} {t : Tid} {rd ra rb : BitVec 5}

/-! ### CAPTURE -/

/-- A status of an operation that has changed a frame and leaves work due. -/
theorem frameSet_statusG (s : State) (t : Tid) (rd : BitVec 5) (n l : Nat) (v : Frame) (d : Due) :
    let u := addDue (statusG (putFrame (markIssued s t) v) t rd n l) d
    u = { s with cores := u.cores, threads := u.threads, frames := u.frames, due := (addDue s d).due } ∧
      OthersKept t s u ∧ Status t rd n l s u ∧ frame? u v.id = some v ∧
      ∀ k, k ≠ v.id → frame? u k = frame? s k := by
  intro u
  have hframes : ∀ k, frame? u k = frame? (putFrame (markIssued s t) v) k :=
    fun k => (frame_of_addDue ..).trans (frame_statusG k)
  obtain ⟨hothers, hstatus⟩ := status_after (rd := rd) (v := n) (l := l) (putFrame_cores (markIssued s t) v)
    (putFrame_threads ..) ((putFrame_tick ..).trans (tick_markIssued s t))
  refine ⟨?_, othersKept_addDue hothers d, status_addDue hstatus d, (hframes _).trans (frame_putFrame _ v),
    fun k hk => (hframes k).trans ((frame_putFrame_ne _ v k hk).trans (frame_markIssued ..))⟩
  obtain ⟨c, th, h⟩ := markIssued_state s t
  dsimp only [u]
  rw [h]
  rfl

section
variable (hsnap : (gReg (thread s t) rb).toNat ≤ 16384)
include hsnap

section
variable (hi : Issues s t (.capture t rd rb false) [.g rd, .g rb] false)
include hi

theorem runs_capture_handedOn (hon : (thread s t).handedOn = true) :
    Runs (.capture t rd rb false) s (Answers t rd 1 2 s) := by
  refine runs_act hi.1 (exec_capture ..) ?_
  rw [captureStep, deviceOp_issues hi]
  simp only [thread_markIssued, gReg_issued, handedOn_issued, hon, if_true, Bool.not_false]
  rw [if_neg (Nat.not_lt.2 hsnap)]
  exact issued_statusG ..

/-- A CAPTURE at the release marks the thread's frame, and the tag's bit follows at the end of the next tick (R154). -/
theorem runs_capture_marks {id : Nat} {f : Frame} (hon : (thread s t).handedOn = false)
    (hf : (thread s t).frame = some id) (hs : frame? s id = some f) :
    Runs (.capture t rd rb false) s fun u =>
      u = { s with
        cores := u.cores, threads := u.threads, frames := u.frames
        due := (addDue s ⟨now s + 1, 6, tidNum t, .tagField t 7 20 20 1, none⟩).due } ∧
      OthersKept t s u ∧ Status t rd 0 2 s u ∧
      frame? u f.id = some { f with snap := some (gReg (thread s t) rb).toNat } ∧
      ∀ k, k ≠ f.id → frame? u k = frame? s k := by
  have hstep : captureStep t rd rb false s =
      addDue (statusG (putFrame (markIssued s t) { f with snap := some (gReg (thread s t) rb).toNat }) t rd 0 2)
        ⟨now s + 1, 6, tidNum t, .tagField t 7 20 20 1, none⟩ := by
    rw [captureStep, deviceOp_issues hi]
    simp only [thread_markIssued, gReg_issued, handedOn_issued, frame_issued, hon, hf, Option.bind_some,
      frame_markIssued, hs, if_true, Bool.not_false, Bool.false_eq_true, if_false]
    rw [if_neg (Nat.not_lt.2 hsnap), now_of_putFrame, now_markIssued]
  refine runs_act hi.1 (exec_capture ..) ?_
  rw [hstep]
  exact frameSet_statusG s t rd 0 2 { f with snap := some (gReg (thread s t) rb).toNat } _

end

section
variable (hi : Issues s t (.capture t rd rb true) [.g rd, .g rb] false)
include hi

theorem runs_capture_full (hrec : 4 ≤ (thread s t).records) :
    Runs (.capture t rd rb true) s (Answers t rd 2 2 s) := by
  refine runs_act hi.1 (exec_capture ..) ?_
  rw [captureStep, deviceOp_issues hi]
  simp only [thread_markIssued, gReg_issued, records_issued, hrec, if_true, Bool.not_true, Bool.false_eq_true, if_false]
  rw [if_neg (Nat.not_lt.2 hsnap)]
  exact issued_statusG ..

/-- A CAPTURE at once counts for its frame, and its record is written 2 ticks on (R154). -/
theorem runs_capture_atOnce {b : Frame} (hrec : (thread s t).records < 4)
    (herr : hdrError s t 0 (64 + headPart (thread s t)) = false) (hb : (thread s t).base = some b) :
    let bytes := assemble (thread s t) (headPart (thread s t))
    Runs (.capture t rd rb true) s fun u =>
      OnlyThreadDue t ⟨now s + 2, 7, tidNum t, .captureRecord { b with
        bytes := bytes, tag := setTag (liveTag (thread s t)) 7 15 0 bytes.length
        snap := some (gReg (thread s t) rb).toNat }, none⟩ s u ∧
      (thread u t).records = (thread s t).records + 1 ∧
      (thread u t).pend = PendsAfter (thread s t) (.g rd) (some 0) (now s + 2) ∧
      (thread u t).pc = (thread s t).pc + 4 := by
  intro bytes
  refine runs_act hi.1 (exec_capture ..) ?_
  rw [captureStep, deviceOp_issues hi]
  simp only [thread_markIssued, gReg_issued, records_issued, base_issued, headPart_issued, assemble_issued,
    liveTag_issued, hdrError_markIssued, hb, herr, Nat.not_le.2 hrec, Bool.not_true, Bool.false_eq_true, if_false]
  rw [if_neg (Nat.not_lt.2 hsnap), now_of_onThread, now_markIssued]
  obtain ⟨honly, hthread⟩ := statusG_onThread s t rd 0 2 fun th => { th with records := th.records + 1 }
  refine ⟨onlyThreadDue_addDue honly _, ?_⟩
  rw [thread_of_addDue, hthread]
  exact ⟨rfl, rfl, rfl⟩

end

end

/-! ### Mailboxes -/

/-- Mailbox `k` holds `m`, and beside it, the thread, its core and the work due nothing changed. -/
abbrev MailboxSet (t : Tid) (k : Nat) (m : Mailbox) (s u : State) : Prop :=
  u = { s with cores := u.cores, threads := u.threads, mailboxes := u.mailboxes, due := u.due } ∧ OthersKept t s u ∧
    mailbox u k = m ∧ ∀ j, j ≠ k → mailbox u j = mailbox s j

/-- A status of an operation that has set a mailbox. -/
theorem mailboxSet_statusG (s : State) (t : Tid) (rd : BitVec 5) (k v l : Nat) (m : Mailbox) :
    let u := statusG (putMailbox (markIssued s t) k m) t rd v l
    MailboxSet t k m s u ∧ u.due = s.due ∧ Status t rd v l s u := by
  intro u
  have hkept : ∀ j, mailbox u j = mailbox (putMailbox (markIssued s t) k m) j := fun j => mailbox_statusG j
  obtain ⟨hothers, hstatus⟩ := status_after (rd := rd) (v := v) (l := l) (putMailbox_cores (markIssued s t) k m)
    (putMailbox_threads ..) ((putMailbox_tick ..).trans (tick_markIssued s t))
  refine ⟨⟨?_, hothers, (hkept k).trans (mailbox_putMailbox ..), fun j hj => (hkept j).trans
    ((mailbox_putMailbox_ne _ m hj).trans (mailbox_markIssued ..))⟩, ?_, hstatus⟩
  · obtain ⟨c, th, h⟩ := markIssued_state s t
    dsimp only [u]
    rw [h]
    rfl
  · rw [due_statusG, putMailbox_due, due_markIssued]

/-- The message area of a mailbox operation (R472). -/
abbrev msgArea (s : State) (t : Tid) (ra : BitVec 5) : List Byte :=
  readBytes s (sliceAddr t (gReg (thread s t) ra).toNat) 520

/-- The message in an area: its cookie, and as many payload bytes as its header says (R472). -/
abbrev areaMsg (area : List Byte) : Msg := ⟨BitVec.ofNat 32 (leAt area 4 4), slice area 8 (leAt area 0 2 % 1024)⟩

section
variable (halign : (gReg (thread s t) ra).toNat % 8 = 0) (hbound : (gReg (thread s t) ra).toNat + 520 ≤ 0x4000)
include halign hbound

section
variable (herr : memError s (sliceAddr t (gReg (thread s t) ra).toNat) 520 = false)
  (hlen : leAt (msgArea s t ra) 0 2 % 1024 ≤ 512) (hi : Issues s t (.mbsend t rd ra) [.g rd, .g ra] false)
include herr hlen hi

/-- An MBSEND that passes its checks posts the area's message, or shows why it cannot (R473, R478). -/
theorem mbsendStep_eq : mbsendStep t rd ra s =
    let k := pairNum (.ofThread t)
    let m := mailbox s k
    let set := fun up => putMailbox (markIssued s t) k { m with up := up }
    if m.up.full then statusG (set { m.up with reason := busyReason m.up }) t rd (1 + busyReason m.up * 256) 13
    else statusG (set (postMsg s m.up (areaMsg (msgArea s t ra)))) t rd 0 13 := by
  rw [mbsendStep, deviceOp_issues hi]
  simp only [thread_markIssued, gReg_issued, readBytes_markIssued, memError_markIssued, mailbox_markIssued,
    postMsg_markIssued]
  rw [if_neg (by simp [blockOk_eq halign hbound]), if_neg (by simp [herr]), if_neg (Nat.not_lt.2 hlen)]

theorem runs_mbsend_busy (hfull : (mailbox s (pairNum (.ofThread t))).up.full = true) :
    let k := pairNum (.ofThread t)
    let m := mailbox s k
    Runs (.mbsend t rd ra) s fun u => MailboxSet t k { m with up := { m.up with reason := busyReason m.up } } s u ∧
      u.due = s.due ∧ Status t rd (1 + busyReason m.up * 256) 13 s u := by
  intro k m
  refine runs_act hi.1 (exec_mbsend ..) ?_
  rw [mbsendStep_eq halign hbound herr hlen hi]
  dsimp only
  rw [if_pos hfull]
  exact mailboxSet_statusG ..

theorem runs_mbsend_posts (hfull : (mailbox s (pairNum (.ofThread t))).up.full = false) :
    let k := pairNum (.ofThread t)
    let m := mailbox s k
    Runs (.mbsend t rd ra) s fun u => MailboxSet t k { m with up := postMsg s m.up (areaMsg (msgArea s t ra)) } s u ∧
      u.due = s.due ∧ Status t rd 0 13 s u := by
  intro k m
  refine runs_act hi.1 (exec_mbsend ..) ?_
  rw [mbsendStep_eq halign hbound herr hlen hi]
  dsimp only
  rw [if_neg (by simp [hfull])]
  exact mailboxSet_statusG ..

end

section
variable (hi : Issues s t (.mbrecv t rd ra) [.g rd, .g ra] false)
include hi

theorem runs_mbrecv_empty (hfull : (mailbox s (pairNum (.ofThread t))).down.full = false) :
    Runs (.mbrecv t rd ra) s (Answers t rd 2 13 s) := by
  refine runs_act hi.1 (exec_mbrecv ..) ?_
  rw [mbrecvStep, deviceOp_issues hi]
  simp only [thread_markIssued, gReg_issued, mailbox_markIssued, hfull]
  rw [if_neg (by simp [blockOk_eq halign hbound])]
  exact issued_statusG ..

/-- An MBRECV takes the posted message of the firmware into the area: its header and the payload's bytes (R160, R474;
entry 102 of the assumption log). -/
theorem runs_mbrecv_takes {msg : Msg} (hfull : (mailbox s (pairNum (.ofThread t))).down.full = true)
    (hmsg : (mailbox s (pairNum (.ofThread t))).down.msg = some msg) :
    let k := pairNum (.ofThread t)
    let m := mailbox s k
    Runs (.mbrecv t rd ra) s fun u => MailboxSet t k { m with down := takeMsg m.down } s u ∧
      Status t rd (msg.payload.length * 65536) 13 s u ∧
      u.due = (addDue s ⟨now s + 12, 5, tidNum t, .sliceWrite t (gReg (thread s t) ra).toNat
        ((msgBytes msg).take (8 + msg.payload.length)), some t⟩).due := by
  intro k m
  refine runs_act hi.1 (exec_mbrecv ..) ?_
  rw [mbrecvStep, deviceOp_issues hi]
  simp only [thread_markIssued, gReg_issued, mailbox_markIssued, hfull, hmsg]
  rw [if_neg (by simp [blockOk_eq halign hbound])]
  rw [sliceResult, now_statusG, now_of_putMailbox, now_markIssued]
  obtain ⟨⟨hu, hothers, hset, hkept⟩, hdue, hstatus⟩ :=
    mailboxSet_statusG s t rd k (msg.payload.length * 65536) 13 { m with down := takeMsg m.down }
  dsimp only [k, m] at hu hothers hset hkept hdue hstatus
  generalize statusG _ t rd (msg.payload.length * 65536) 13 = x at *
  refine ⟨⟨?_, othersKept_addDue hothers _, hset, hkept⟩, status_addDue hstatus _, ?_⟩
  · rw [hu]
    rfl
  · rw [addDue, hdue]
    rfl

end

end

section
variable (hi : Issues s t (.mbwdraw t rd) [.g rd] false)
include hi

theorem runs_mbwdraw_posted (hfull : (mailbox s (pairNum (.ofThread t))).up.full = true)
    (hopen : (mailbox s (pairNum (.ofThread t))).up.opened = false) :
    let k := pairNum (.ofThread t)
    let m := mailbox s k
    Runs (.mbwdraw t rd) s fun u => MailboxSet t k { m with up := withdrawMsg m.up } s u ∧ u.due = s.due ∧
      Status t rd 0 2 s u := by
  intro k m
  refine runs_act hi.1 (exec_mbwdraw ..) ?_
  rw [mbwdrawStep, deviceOp_issues hi]
  simp only [mailbox_markIssued, hfull, hopen, Bool.not_false, Bool.and_self, if_true]
  exact mailboxSet_statusG ..

theorem runs_mbwdraw_none (h : (mailbox s (pairNum (.ofThread t))).up.full = false ∨
      (mailbox s (pairNum (.ofThread t))).up.opened = true) :
    Runs (.mbwdraw t rd) s (Answers t rd 2 2 s) := by
  refine runs_act hi.1 (exec_mbwdraw ..) ?_
  rw [mbwdrawStep, deviceOp_issues hi]
  simp only [mailbox_markIssued]
  rw [if_neg (by rcases h with h | h <;> simp [h])]
  exact issued_statusG ..

end

end

/-- Settles O17: CAPTURE by its kind and what the thread has done before, the mailbox operations by what the thread's
pair holds. That MBRECV writes no more than the header and the payload's bytes is entry 102 of the assumption log. -/
theorem captureAndMailbox : Obligations.CaptureAndMailbox := by
  unfold Obligations.CaptureAndMailbox
  refine ⟨fun t rd rb id f b s hsnap => ⟨fun hi => ?_, fun hi => ?_⟩, fun t rd ra msg s => ⟨?_, ?_, fun hi => ?_⟩⟩
  · exact ⟨runs_capture_handedOn hsnap hi, runs_capture_marks hsnap hi⟩
  · exact ⟨runs_capture_full hsnap hi, runs_capture_atOnce hsnap hi⟩
  · exact fun halign hbound herr hlen hi =>
      ⟨runs_mbsend_busy halign hbound herr hlen hi, runs_mbsend_posts halign hbound herr hlen hi⟩
  · exact fun halign hbound hi => ⟨runs_mbrecv_empty halign hbound hi, runs_mbrecv_takes halign hbound hi⟩
  · exact ⟨runs_mbwdraw_posted hi, runs_mbwdraw_none hi⟩

end Sys2Proof.Machine
end

section
/-! SUPPORT. Check values: what a scan holds, counts and answers, and what CHKA and CHKV leave to the end of their
latency (R155, R156, R356–R360). -/

namespace Sys2Proof.Machine

open Sys2Proof

section
variable (t : Tid) (p : CheckPoly) (rd ra rb : BitVec 5) (header : Bool) (s : State)

theorem exec_chks : exec (.chks t p rd ra rb header) s =
    act s (scanStep (.chks t p rd ra rb header) t p rd ra rb header false) := rfl
theorem exec_chkc : exec (.chkc t p rd ra rb header) s =
    act s (scanStep (.chkc t p rd ra rb header) t p rd ra rb header true) := rfl
theorem exec_chka : exec (.chka t p rd ra) s = act s (chkaStep t p rd ra) := rfl
theorem exec_chkv : exec (.chkv t p rd ra) s = act s (chkvStep t p rd ra) := rfl

@[simp] theorem liveBytes_issued : liveBytes (issuedThread s t) = liveBytes (thread s t) := rfl
@[simp] theorem headScanError_markIssued (off n : Nat) :
    headScanError (markIssued s t) t off n = headScanError s t off n := by simp [headScanError]

end

/-! ### What a scan does -/

/-- The scan of `n` bytes holds the thread's lane for its latency and is counted, and `v` pends for RD; `P` says more of
the state (R155, R358, R364). -/
abbrev Scans (t : Tid) (rd : BitVec 5) (v n : Nat) (P : State → Prop) (s u : State) : Prop :=
  OthersKept t s u ∧ u.mem = s.mem ∧
    u = { s with cores := u.cores, threads := u.threads, due := u.due, words := u.words } ∧
    (thread u t).pc = (thread s t).pc + 4 ∧ (thread u t).laneUntil = now s + 4 + ceilDiv n 64 ∧
    (thread u t).pend = PendsAfter (thread s t) (.g rd) (some (BitVec.ofNat 64 v)) (now s + 4 + ceilDiv n 64) ∧ P u

/-- A state before a scan's own effects: the thread is at the instruction with nothing new pending, and beside it, its
core and the work due nothing changed. -/
abbrev BeforeScan (t : Tid) (s x : State) : Prop :=
  x = { s with cores := x.cores, threads := x.threads, due := x.due } ∧ OthersKept t s x ∧
    (thread x t).pc = (thread s t).pc ∧ (thread x t).pend = (thread s t).pend

section
variable {s x : State} {t : Tid} {rd : BitVec 5} {v n : Nat}

theorem beforeScan_markIssued (s : State) (t : Tid) : BeforeScan t s (markIssued s t) := by
  refine ⟨?_, othersKept_markIssued s t, ?_, ?_⟩
  · obtain ⟨c, th, h⟩ := markIssued_state s t
    rw [h]
  · rw [thread_markIssued, pc_issued]
  · rw [thread_markIssued, pend_issued]

/-- The state with a scan of `n` bytes counted and the thread's lane held for its latency (R358, R364). -/
def laneHeld (x : State) (t : Tid) (n : Nat) : State :=
  onThread (countScan x t n) t fun th => { th with laneUntil := now x + scanTicks n }

theorem scanned_eq : scanned x t rd v n = statusG (laneHeld x t n) t rd v (scanTicks n) := rfl

/-- Counting a scan changes register words only. -/
theorem countScan_words (x : State) (t : Tid) (n : Nat) : ∃ w, countScan x t n = { x with words := w } := ⟨_, rfl⟩

/-- Holding the lane changes the thread and register words only. -/
theorem laneHeld_threads (x : State) (t : Tid) (n : Nat) :
    ∃ th w, laneHeld x t n = { x with threads := th, words := w } := by
  obtain ⟨w, h⟩ := countScan_words x t n
  rw [laneHeld, h]
  exact ⟨_, w, rfl⟩

theorem thread_laneHeld (x : State) (t : Tid) (n : Nat) :
    thread (laneHeld x t n) t = { thread x t with laneUntil := now x + scanTicks n } := by
  obtain ⟨w, h⟩ := countScan_words x t n
  rw [laneHeld, thread_onThread, h]
  rfl

theorem othersKept_laneHeld (h : OthersKept t s x) (n : Nat) : OthersKept t s (laneHeld x t n) := by
  obtain ⟨w, hw⟩ := countScan_words x t n
  rw [laneHeld, hw]
  exact othersKept_thread (othersKept_congr (u := { x with words := w }) rfl rfl h) _

theorem add_scanTicks (k n : Nat) : k + scanTicks n = k + 4 + ceilDiv n 64 := (Nat.add_assoc ..).symm

theorem scans_scanned {P : State → Prop} (h : BeforeScan t s x) (hP : ∀ u : State, u.due = x.due → P u) :
    Scans t rd v n P s (scanned x t rd v n) := by
  obtain ⟨hx, hothers, hpc, hpend⟩ := h
  obtain ⟨th, w, hheld⟩ := laneHeld_threads x t n
  have hnow : now x = now s := now_congr (by rw [hx])
  have hnow' : now (laneHeld x t n) = now s := by
    rw [hheld]
    exact hnow
  rw [scanned_eq]
  refine ⟨othersKept_statusG (othersKept_laneHeld hothers n), ?_, ?_, ?_, ?_, ?_, hP _ ?_⟩
  · rw [hheld, hx]
    rfl
  · rw [hheld, hx]
    rfl
  · rw [thread_statusG (thread_laneHeld x t n)]
    exact congrArg (· + 4) hpc
  · rw [thread_statusG (thread_laneHeld x t n), hnow, add_scanTicks]
    rfl
  · rw [thread_statusG (thread_laneHeld x t n), hnow, hnow', add_scanTicks]
    exact pendsAfter_congr hpend
  · rw [due_statusG, hheld]

end

/-! ### CHKS and CHKC -/

section
variable {s : State} {t : Tid} {p : CheckPoly} {rd ra rb : BitVec 5} (hlane : (thread s t).laneUntil ≤ now s)
include hlane

/-- A check operation of a thread whose lane is free issues (R358). -/
theorem checkOp_issues {c : Instr} {named : List Dest} (hi : Issues s t c named false) (body : State → State) :
    checkOp c t named body s = body (markIssued s t) := by
  rw [checkOp, if_neg (Nat.not_lt.2 hlane), deviceOp_issues hi]

section
variable {header : Bool} (hn : (gReg (thread s t) rb).toNat ≤ 0x4000)
  (hbound : (gReg (thread s t) ra).toNat + (gReg (thread s t) rb).toNat ≤ if header then 512 else 0x4000)
  (herr : spaceError s t header (gReg (thread s t) ra).toNat (gReg (thread s t) rb).toNat = false)
include hn hbound herr

/-- The bytes that CHKS and CHKC scan (R155). -/
abbrev scannedBytes (s : State) (t : Tid) (ra rb : BitVec 5) (header : Bool) : List Byte :=
  if header then hdrBytes (thread s t) (gReg (thread s t) ra).toNat (gReg (thread s t) rb).toNat
  else readBytes s (sliceAddr t (gReg (thread s t) ra).toNat) (gReg (thread s t) rb).toNat

theorem scanStep_eq {c : Instr} {cont : Bool} (hi : Issues s t c [.g rd, .g ra, .g rb] false) :
    scanStep c t p rd ra rb header cont s = scanned (markIssued s t) t rd
      (crcFrom p (if cont then (gReg (thread s t) rd).toNat % 2 ^ (8 * crcWidth p) else 0)
        (scannedBytes s t ra rb header)) (gReg (thread s t) rb).toNat := by
  rw [scanStep, checkOp_issues hlane hi]
  simp only [thread_markIssued, gReg_issued, spaceError_markIssued, spaceBytes_issued s t hbound, herr,
    Bool.false_eq_true, if_false]
  rw [if_neg (Nat.not_lt.2 hn)]

theorem runs_chks (hi : Issues s t (.chks t p rd ra rb header) [.g rd, .g ra, .g rb] false) :
    Runs (.chks t p rd ra rb header) s (Scans t rd (crcFrom p 0 (scannedBytes s t ra rb header))
      (gReg (thread s t) rb).toNat (fun u => u.due = s.due) s) := by
  refine runs_act hi.1 (exec_chks ..) ?_
  rw [scanStep_eq hlane hn hbound herr hi]
  exact scans_scanned (beforeScan_markIssued s t) fun u hu => hu.trans (due_markIssued s t)

theorem runs_chkc (hi : Issues s t (.chkc t p rd ra rb header) [.g rd, .g ra, .g rb] false) :
    Runs (.chkc t p rd ra rb header) s (Scans t rd
      (crcFrom p ((gReg (thread s t) rd).toNat % 2 ^ (8 * crcWidth p)) (scannedBytes s t ra rb header))
      (gReg (thread s t) rb).toNat (fun u => u.due = s.due) s) := by
  refine runs_act hi.1 (exec_chkc ..) ?_
  rw [scanStep_eq hlane hn hbound herr hi]
  exact scans_scanned (beforeScan_markIssued s t) fun u hu => hu.trans (due_markIssued s t)

end

end

/-! ### CHKA and CHKV -/

section
variable {s x : State} {t : Tid}

theorem mem_addDue_of_mem {d e : Due} (h : d ∈ x.due) : d ∈ (addDue x e).due := by
  simp only [addDue, List.mem_append, List.mem_filter, h, true_and, Bool.not_eq_true']
  rw [or_right_comm]
  exact .inl (Bool.eq_false_or_eq_true _)

/-- More work due changes nothing that a scan builds on. -/
theorem beforeScan_addDue (h : BeforeScan t s x) (d : Due) : BeforeScan t s (addDue x d) := by
  obtain ⟨hx, hothers, hpc, hpend⟩ := h
  refine ⟨?_, othersKept_addDue hothers d, hpc, hpend⟩
  rw [hx]
  rfl

theorem beforeScan_thread (h : BeforeScan t s x) {f : Thread → Thread} (hpc : (f (thread x t)).pc = (thread x t).pc)
    (hpend : (f (thread x t)).pend = (thread x t).pend) : BeforeScan t s (onThread x t f) := by
  obtain ⟨hx, hothers, hpc', hpend'⟩ := h
  refine ⟨?_, othersKept_thread hothers f, ?_, ?_⟩
  · rw [hx]
    rfl
  · rw [thread_onThread, hpc, hpc']
  · rw [thread_onThread, hpend, hpend']

/-- The effect of CHKA and CHKV at the end of a scan of `n` bytes (R360). -/
abbrev scanEnd (s : State) (t : Tid) (n : Nat) (append : List Byte) (strip : Nat) (mismatch : Option Bool) : Due :=
  ⟨now s + 3 + ceilDiv n 64, 6, tidNum t, .checkDone t append strip mismatch, some t⟩

theorem lastTick_eq (k n : Nat) : k + scanTicks n - 1 = k + 3 + ceilDiv n 64 := by
  rw [add_scanTicks]
  omega

/-- The effect of CHKA and CHKV is left to the end of the latency, and nothing else of the scan has come about. -/
theorem checkEffect_leaves (s : State) (t : Tid) (n status : Nat) (append : List Byte) (strip : Nat)
    (mismatch : Option Bool) :
    let x := checkEffect (markIssued s t) t n status append strip mismatch
    BeforeScan t s x ∧ scanEnd s t n append strip mismatch ∈ x.due := by
  have hheld := beforeScan_thread (beforeScan_markIssued s t)
    (f := fun th => { th with scanUntil := now s + scanTicks n }) rfl rfl
  rw [checkEffect, now_markIssued, lastTick_eq]
  dsimp only
  generalize onThread (markIssued s t) t _ = x at *
  have hleft := beforeScan_addDue (beforeScan_addDue hheld (scanEnd s t n append strip mismatch))
    ⟨now s + 3 + ceilDiv n 64, 6, tidNum t, .tagField t 15 23 20 status, some t⟩
  have hmem := mem_addDue_of_mem (e := ⟨now s + 3 + ceilDiv n 64, 6, tidNum t, .tagField t 15 23 20 status, some t⟩)
    (mem_addDue x (scanEnd s t n append strip mismatch))
  split
  · exact ⟨beforeScan_addDue hleft _, mem_addDue_of_mem hmem⟩
  · exact ⟨hleft, hmem⟩

end

section
variable {s : State} {t : Tid} {p : CheckPoly} {rd ra : BitVec 5} (hlane : (thread s t).laneUntil ≤ now s)
  (hoff : (gReg (thread s t) ra).toNat < (liveBytes (thread s t)).length)
  (herr : headScanError s t (gReg (thread s t) ra).toNat
    ((liveBytes (thread s t)).length - (gReg (thread s t) ra).toNat) = false)
include hlane hoff herr

theorem runs_chka (hi : Issues s t (.chka t p rd ra) [.g rd, .g ra] false) :
    let a := (gReg (thread s t) ra).toNat
    let whole := liveBytes (thread s t)
    Runs (.chka t p rd ra) s (Scans t rd (crc p (whole.drop a)) (whole.length - a)
      (fun u => scanEnd s t (whole.length - a) (crcBytes p (crc p (whole.drop a))) 0 none ∈ u.due) s) := by
  intro a whole
  refine runs_act hi.1 (exec_chka ..) ?_
  rw [chkaStep, checkOp_issues hlane hi]
  simp only [thread_markIssued, gReg_issued, liveBytes_issued, headScanError_markIssued]
  rw [if_neg (Nat.not_le.2 hoff), if_neg (by simp [herr])]
  obtain ⟨hbefore, hdue⟩ :=
    checkEffect_leaves s t (whole.length - a) 1 (crcBytes p (crc p (whole.drop a))) 0 none
  exact scans_scanned hbefore fun u hu => hu ▸ hdue

theorem runs_chkv (hwidth : (gReg (thread s t) ra).toNat + crcWidth p ≤ (liveBytes (thread s t)).length)
    (hi : Issues s t (.chkv t p rd ra) [.g rd, .g ra] false) :
    let a := (gReg (thread s t) ra).toNat
    let whole := liveBytes (thread s t)
    let w := crcWidth p
    let len := whole.length - w - a
    let bad := crc p (slice whole a len) ≠ crcOf p (whole.drop (whole.length - w))
    Runs (.chkv t p rd ra) s (Scans t rd (if bad then 1 else 0) len
      (fun u => scanEnd s t len [] w (some (decide bad)) ∈ u.due) s) := by
  intro a whole w len bad
  have hbad : (crc p (slice whole a len) != crcOf p (whole.drop (whole.length - w))) = decide bad :=
    Bool.eq_iff_iff.2 (by rw [bne_iff_ne, decide_eq_true_eq])
  have hstatus : (if decide bad then 1 else 0) = if bad then 1 else 0 := by simp only [decide_eq_true_eq]
  refine runs_act hi.1 (exec_chkv ..) ?_
  have hstep : chkvStep t p rd ra s = scanned (checkEffect (markIssued s t) t len (if decide bad then 3 else 2) [] w
      (some (decide bad))) t rd (if decide bad then 1 else 0) len := by
    rw [chkvStep, checkOp_issues hlane hi, ← hbad]
    simp only [thread_markIssued, gReg_issued, liveBytes_issued, headScanError_markIssued, herr, Bool.false_eq_true,
      if_false]
    exact if_neg (not_or.2 ⟨Nat.not_le.2 hoff, Nat.not_lt.2 (Nat.add_comm _ _ ▸ hwidth)⟩)
  rw [hstep, hstatus]
  obtain ⟨hbefore, hdue⟩ :=
    checkEffect_leaves s t len (if decide bad then 3 else 2) [] w (some (decide bad))
  exact scans_scanned hbefore fun u hu => hu ▸ hdue

end

/-- Settles O19: CHKS and CHKC scan at once, CHKA and CHKV leave their effect due as well. That CHKC of no bytes gives
the low bits of RD is entry 102 of the assumption log. -/
theorem checkOperations : Obligations.CheckOperations := by
  unfold Obligations.CheckOperations
  intro t p rd ra rb header s th a n bs whole w scans hlane
  refine ⟨fun hn hbound herr => ⟨runs_chks hlane hn hbound herr, runs_chkc hlane hn hbound herr⟩,
    fun hoff herr => runs_chka hlane hoff herr, fun hwidth hoff herr => runs_chkv hlane hoff herr hwidth⟩

end Sys2Proof.Machine
end

section
/-! SUPPORT. Requests of the firmware and reads of host memory: which message a request is, what the loader's answer
touches, and what a read that is asked for touches (R170, R171, R400, R479). -/

namespace Sys2Proof.Machine

open Sys2Proof

/-! ### Reads that are asked for -/

/-- A state without its endpoints, which are all that an issued read touches. -/
def besideEndpoints (s : State) : State := { s with endpoints := [] }

theorem eq_of_besideEndpoints {s u : State} (h : besideEndpoints u = besideEndpoints s) :
    u = { s with endpoints := u.endpoints } :=
  congrArg (fun x : State => { x with endpoints := u.endpoints }) h

theorem besideEndpoints_putEndpoint (s : State) (e : Endpoint) (v : EndpointState) :
    besideEndpoints (putEndpoint s e v) = besideEndpoints s := rfl

theorem besideEndpoints_issueRead (s : State) (e : Endpoint) (r : FnId × ReadOp × Nat × BitVec 64 × Nat) :
    besideEndpoints (issueRead s e r) = besideEndpoints s := by
  dsimp only [issueRead]
  split
  · exact besideEndpoints_putEndpoint ..
  · split
    · exact besideEndpoints_putEndpoint ..
    · exact (besideEndpoints_putEndpoint ..).trans (besideEndpoints_putEndpoint ..)

theorem besideEndpoints_issueReads (s : State) (e : Endpoint) :
    besideEndpoints (issueReads s e) = besideEndpoints s :=
  (foldl_keeps besideEndpoints _ (fun s r _ => besideEndpoints_issueRead s e r) _).trans
    (besideEndpoints_putEndpoint ..)

theorem askRead_eq (s : State) (fn : FnId) (op : ReadOp) (addr len part : Nat) :
    askRead s fn op addr len part = { s with endpoints := (askRead s fn op addr len part).endpoints } :=
  eq_of_besideEndpoints ((besideEndpoints_issueReads ..).trans (besideEndpoints_putEndpoint ..))

/-! ### Answers -/

/-- A message of the firmware touches the mailboxes, or, when it is discarded, the books of that. -/
theorem fwAnswer_eq (s : State) (fn : FnId) (m : Msg) :
    ∃ w r b, fwAnswer s fn m = { s with words := w, recorder := r, mailboxes := b } := by
  dsimp only [fwAnswer]
  split
  · exact ⟨_, _, _, rfl⟩
  · rw [event_eq]
    exact ⟨_, _, _, rfl⟩

theorem queue_fwAnswer {s : State} {fn : FnId} (m : Msg) (h : (mailbox s (fnNum fn)).queue.length < 64) :
    (mailbox (fwAnswer s fn m) (fnNum fn)).queue = (mailbox s (fnNum fn)).queue ++ [m] := by
  rw [fwAnswer, if_pos h, mailbox_putMailbox]

/-- The loader's message to the sender of a request (R171). -/
def answerMsg (j : LoadJob) (status object rnd : Nat) : Msg :=
  ⟨j.cookie, le 1 j.req ++ le 1 status ++ le 2 0 ++ le 4 object ++ le 8 rnd⟩

/-- An answer enters the counters and the recorder, and sends its message unless the sender was reset (R171, R176). -/
theorem loaderAnswer_sends (s : State) (j : LoadJob) (status object rnd : Nat) :
    ∃ w r, loaderAnswer s j status object rnd = if j.discard then { s with words := w, recorder := r } else
      fwAnswer { s with words := w, recorder := r } j.fn (answerMsg j status object rnd) := by
  have hcount : ∀ a b : Nat, ∃ w, (if status = ldDone then count s a else count s b) = { s with words := w } :=
    fun a b => by split <;> exact ⟨_, rfl⟩
  dsimp only [loaderAnswer]
  obtain ⟨w, hw⟩ := hcount (0x60C0000 + fnTenancy s j.fn * 0x10) (0x60C0000 + fnTenancy s j.fn * 0x10 + 4)
  rw [hw, event_eq]
  exact ⟨_, _, rfl⟩

theorem loaderAnswer_eq (s : State) (j : LoadJob) (status object rnd : Nat) :
    ∃ w r b, loaderAnswer s j status object rnd = { s with words := w, recorder := r, mailboxes := b } := by
  obtain ⟨w, r, h⟩ := loaderAnswer_sends s j status object rnd
  rw [h]
  split
  · exact ⟨_, _, _, rfl⟩
  · exact fwAnswer_eq ..

theorem queue_loaderAnswer {s : State} {j : LoadJob} (status object rnd : Nat) (hd : j.discard = false)
    (hq : (mailbox s (fnNum j.fn)).queue.length < 64) :
    (mailbox (loaderAnswer s j status object rnd) (fnNum j.fn)).queue =
      (mailbox s (fnNum j.fn)).queue ++ [answerMsg j status object rnd] := by
  obtain ⟨w, r, h⟩ := loaderAnswer_sends s j status object rnd
  rw [h, hd]
  exact queue_fwAnswer (s := { s with words := w, recorder := r }) _ hq

@[simp] theorem loaderAnswer_jobs (s : State) (j : LoadJob) (status object rnd : Nat) :
    (loaderAnswer s j status object rnd).jobs = s.jobs := by
  obtain ⟨w, r, b, h⟩ := loaderAnswer_eq s j status object rnd
  rw [h]

@[simp] theorem loaderAnswer_taken (s : State) (j : LoadJob) (status object rnd : Nat) :
    (loaderAnswer s j status object rnd).taken = s.taken := by
  obtain ⟨w, r, b, h⟩ := loaderAnswer_eq s j status object rnd
  rw [h]

/-! ### Requests that have been taken -/

theorem firmwareWorks_iff {s : State} : firmwareWorks s = true ↔ s.handover = none ∧ stage s = 2 := by
  simp [firmwareWorks]

section
variable {s : State} {fn : FnId} {cookie : BitVec 32} {req : Nat} {fits : List Byte → Bool} {t : Taken}

theorem takenRequest_spells (h : takenRequest s fn cookie req fits = some t) :
    t.fn = fn ∧ fits t.msg.payload = true := by
  have hfound := List.find?_some h
  simp only [Bool.and_eq_true, beq_iff_eq] at hfound
  obtain ⟨⟨⟨hfn, -⟩, -⟩, hfits⟩ := hfound
  exact ⟨hfn, hfits⟩

theorem onTaken_untaken (f : Taken → State → State) (h : s.taken = []) : onTaken fn cookie req fits f s = s := by
  simp [onTaken, takenRequest, h]

theorem onTaken_taken (f : Taken → State → State) (hw : firmwareWorks s = true)
    (h : takenRequest s fn cookie req fits = some t) :
    onTaken fn cookie req fits f s = f t { s with taken := s.taken.erase t } := by
  rw [onTaken, (firmwareWorks_iff.1 hw).1, h]
  rfl

end

end Sys2Proof.Machine
end

section
/-! SUPPORT. The loader's requests: which are refused and how, which send a commit, and what a LOAD does before and
after its image has arrived (R170–R173, R175). -/

namespace Sys2Proof.Machine

open Sys2Proof

theorem exec_unload (fn : FnId) (cookie : BitVec 32) (cls : Nat) (s : State) : exec (.unload fn cookie cls) s =
    act s (onTaken fn cookie rqUnload (fun m => leAt m 16 1 == cls) unloadStep) := rfl
theorem exec_load (fn : FnId) (cookie : BitVec 32) (addr : BitVec 64) (len cls : Nat) (s : State) :
    exec (.load fn cookie addr len cls) s = act s (onTaken fn cookie rqLoad
      (fun m => leAt m 4 8 == addr.toNat && leAt m 12 4 == len && leAt m 16 1 == cls) loadStep) := rfl
theorem exec_classRequest (fn : FnId) (cookie : BitVec 32) (p : ClassPayload) (s : State) :
    exec (.classRequest fn cookie p) s = act s (onTaken fn cookie rqClass (fun m => classPayload m 0 == p) classStep) :=
  rfl
theorem exec_imageReadDone (cls : Fin 64) (im : List Byte) (fail : Option ReadFail) (s : State) :
    exec (.imageReadDone cls im fail) s = act s (imageReadDoneStep cls.val im fail) := rfl

/-- A request that no taken message spells changes nothing. -/
theorem exec_untaken {s : State} {c : Instr} {fn : FnId} {cookie : BitVec 32} {req : Nat} {fits : List Byte → Bool}
    {f : Taken → State → State} (hl : Live s) (h : exec c s = act s (onTaken fn cookie req fits f))
    (hnone : s.taken = []) : exec c s = .next s := by
  rw [h, act_live _ _ hl.1 hl.2, onTaken_untaken f hnone]

/-- The job was refused: its sender is told the status and the object, and no class, commit, memory or frame
changed. -/
abbrev Refuses (j : LoadJob) (status object : Nat) (s u : State) : Prop :=
  u.classes = s.classes ∧ u.commits = s.commits ∧ u.mem = s.mem ∧ u.frames = s.frames ∧
    (j.discard = false → (mailbox s (fnNum j.fn)).queue.length < 64 →
      (mailbox u (fnNum j.fn)).queue = (mailbox s (fnNum j.fn)).queue ++ [answerMsg j status object 0])

theorem refuses_loaderAnswer (s : State) (j : LoadJob) (status object : Nat) :
    Refuses j status object s (loaderAnswer s j status object 0) := by
  obtain ⟨w, r, b, h⟩ := loaderAnswer_eq s j status object 0
  refine ⟨?_, ?_, ?_, ?_, fun hd hq => queue_loaderAnswer status object 0 hd hq⟩ <;> rw [h]

/-- A refused job ends. -/
theorem refuses_refuseJob (s : State) (op : ReadOp) (j : LoadJob) (status object : Nat) :
    let u := refuseJob (dropDelivered s op) j (status, object)
    Refuses j status object s u ∧ u.jobs = s.jobs.filter fun x => x.cls != j.cls :=
  ⟨refuses_loaderAnswer (endJob (dropDelivered s op) j.cls) j status object, loaderAnswer_jobs ..⟩

/-! ### The check of a request -/

section
variable {s : State} {t : Taken} (go : LoadJob → State)

theorem beginRequest_passes (hs : stage s = 2) (h : requestFault s (jobOf t) = none) :
    beginRequest t s go = go (jobOf t) := by
  simp only [beginRequest, hs, h, ne_eq, not_true_eq_false, if_false]

theorem beginRequest_refused (hs : stage s = 2) {status object : Nat}
    (h : requestFault s (jobOf t) = some (status, object)) :
    beginRequest t s go = loaderAnswer s (jobOf t) status object 0 := by
  simp only [beginRequest, hs, h, ne_eq, not_true_eq_false, if_false]

end

/-- The state in which a taken request is served. -/
abbrev served (s : State) (t : Taken) : State := { s with taken := s.taken.erase t }

section
variable {s : State} {t : Taken} {fn : FnId} {cookie : BitVec 32} {req : Nat} {fits : List Byte → Bool} {c : Instr}
  {step : Taken → State → State} (hl : Live s) (hw : firmwareWorks s = true)
  (h : exec c s = act s (onTaken fn cookie req fits step)) (ht : takenRequest s fn cookie req fits = some t)
include hl hw h ht

theorem runs_taken {P : State → Prop} (hp : P (step t (served s t))) : Runs c s P :=
  runs_act hl h (by rwa [onTaken_taken step hw ht])

/-- A request that passes step 1 goes on. -/
theorem runs_taken_passes {go : LoadJob → State} (hstep : step t (served s t) = beginRequest t (served s t) go)
    (hpass : requestFault (served s t) (jobOf t) = none) {P : State → Prop} (hp : P (go (jobOf t))) : Runs c s P :=
  runs_taken hl hw h ht <| by
    rwa [hstep, beginRequest_passes go (s := served s t) (firmwareWorks_iff.1 hw).2 hpass]

/-- A request that step 1 refuses is taken and answered, and starts no job. -/
theorem runs_taken_refused {go : LoadJob → State} (hstep : step t (served s t) = beginRequest t (served s t) go)
    {status object : Nat} (hfault : requestFault (served s t) (jobOf t) = some (status, object)) :
    Runs c s fun u => Refuses (jobOf t) status object s u ∧ u.jobs = s.jobs ∧ u.taken = s.taken.erase t :=
  runs_taken hl hw h ht <| by
    rw [hstep, beginRequest_refused go (s := served s t) (firmwareWorks_iff.1 hw).2 hfault]
    exact ⟨refuses_loaderAnswer (served s t) .., loaderAnswer_jobs .., loaderAnswer_taken ..⟩

end

/-! ### UNLOAD, LOAD and CLASS -/

/-- The configuration that a CLASS request asks for, over the class's newest version (R42, R170). -/
abbrev askedClass (s : State) (p : ClassPayload) : PathClass :=
  { newest (planned s) p.cls with
    owner := p.owner, k := p.k, s := p.s, a := p.a, cAsked := p.c, sequenced := p.sequenced,
    group := p.group, cores := p.cores }

section
variable {s : State} {t : Taken} {fn : FnId} {cookie : BitVec 32} (hl : Live s) (hw : firmwareWorks s = true)
include hl hw

theorem runs_unload_sends {cls : Nat}
    (ht : takenRequest s fn cookie 2 (fun m => leAt m 16 1 == cls) = some t)
    (hpass : requestFault (served s t) (jobOf t) = none) : Runs (.unload fn cookie cls) s fun u =>
      u = sendClass (served s t) (jobOf t) { newest (planned (served s t)) cls with program := none } [] := by
  have hcls : (jobOf t).cls = cls := beq_iff_eq.1 (takenRequest_spells ht).2
  exact runs_taken_passes hl hw (exec_unload ..) ht rfl hpass (by rw [hcls])

theorem runs_load_asks {addr : BitVec 64} {len cls : Nat} (ht : takenRequest s fn cookie 1
      (fun m => leAt m 4 8 == addr.toNat && leAt m 12 4 == len && leAt m 16 1 == cls) = some t)
    (hpass : requestFault (served s t) (jobOf t) = none) (halign : addr.toNat % 64 = 0) :
    Runs (.load fn cookie addr len cls) s fun u =>
      let n := { jobOf t with len := len, parts := (readParts (served s t) fn addr.toNat len).length }
      u = askRead { served s t with jobs := s.jobs ++ [n] } fn (.image cls) addr.toNat len := by
  obtain ⟨hfn, hfits⟩ := takenRequest_spells ht
  simp only [Bool.and_eq_true, beq_iff_eq] at hfits
  obtain ⟨⟨haddr, hlen⟩, hcls⟩ := hfits
  have hjfn : (jobOf t).fn = fn := hfn
  have hjcls : (jobOf t).cls = cls := hcls
  refine runs_taken_passes hl hw (exec_load ..) ht rfl hpass ?_
  simp only [haddr, hlen, hjfn, hjcls, halign, ne_eq, not_true_eq_false, if_false]

section
variable {p : ClassPayload} (ht : takenRequest s fn cookie 3 (fun m => classPayload m 0 == p) = some t)
  (hpass : requestFault (served s t) (jobOf t) = none)
include ht hpass

theorem runs_classRequest_sends (hpay : payloadFault p = none)
    (hgroup : p.sequenced = true → groupOpen (served s t) (round s) p.owner p.group = true)
    (hcls : classFault (served s t) (askedClass (served s t) p) [] 0 = none) :
    Runs (.classRequest fn cookie p) s fun u =>
      u = sendClass (served s t) (jobOf t) (askedClass (served s t) p) [] := by
  have hp : classPayload t.msg.payload 0 = p := beq_iff_eq.1 (takenRequest_spells ht).2
  have hopen : (p.sequenced && !groupOpen (served s t) (round (served s t)) p.owner p.group) = false := by
    simp only [Bool.and_eq_false_imp, Bool.not_eq_false']
    exact hgroup
  refine runs_taken_passes hl hw (exec_classRequest ..) ht rfl hpass ?_
  simp only [hp, hpay, hopen, hcls, Bool.false_eq_true, if_false]

theorem runs_classRequest_payload {status object : Nat} (hpay : payloadFault p = some (status, object)) :
    Runs (.classRequest fn cookie p) s (Refuses (jobOf t) status object s) := by
  have hp : classPayload t.msg.payload 0 = p := beq_iff_eq.1 (takenRequest_spells ht).2
  refine runs_taken_passes hl hw (exec_classRequest ..) ht rfl hpass ?_
  simp only [hp, hpay]
  exact refuses_loaderAnswer (served s t) ..

end

end

/-! ### The end of an image's read -/

section
variable {s : State} {j : LoadJob} {cls : Fin 64} {im : List Byte} (hl : Live s)
  (hjob : (s.jobs.find? fun x => x.cls == cls.val && x.req == rqLoad && !x.sent) = some j)
include hl hjob

theorem runs_imageReadDone_failed (fail : ReadFail) (hfailed : j.failed = true) :
    Runs (.imageReadDone cls im (some fail)) s fun u =>
      Refuses j ldReadFailed 0 s u ∧ u.jobs = s.jobs.filter fun x => x.cls != j.cls := by
  refine runs_act hl (exec_imageReadDone ..) ?_
  simp only [imageReadDoneStep, hjob, hfailed, Option.isSome_some, if_true]
  exact refuses_refuseJob ..

section
variable (hread : j.failed = false) (hdel : deliveredFor s (.image cls.val) j.parts = some im)
include hread hdel

theorem runs_imageReadDone_sends {c : PathClass} {sets : List RuleSet}
    (hcheck : imageCheck (dropDelivered s (.image cls.val)) j im = .ok (c, sets)) :
    Runs (.imageReadDone cls im none) s fun u => u = sendClass (dropDelivered s (.image cls.val)) j c sets := by
  refine runs_act hl (exec_imageReadDone ..) ?_
  simp [imageReadDoneStep, hjob, hread, hdel, hcheck]

theorem runs_imageReadDone_refused {status object : Nat}
    (hcheck : imageCheck (dropDelivered s (.image cls.val)) j im = .error (status, object)) :
    Runs (.imageReadDone cls im none) s fun u =>
      Refuses j status object s u ∧ u.jobs = s.jobs.filter fun x => x.cls != j.cls := by
  refine runs_act hl (exec_imageReadDone ..) ?_
  simp only [imageReadDoneStep, hjob, hread, hdel, hcheck, Option.isSome_none, Bool.false_eq_true, ne_eq,
    not_true_eq_false, or_self, if_false]
  exact refuses_refuseJob ..

end

end

/-- Settles O25: a request that passes sends its class, or asks for its image; a refused one is answered. That a
request which was not taken changes nothing is entry 201 of the assumption log. -/
theorem loaderRequests : Obligations.LoaderRequests := by
  unfold Obligations.LoaderRequests
  intro fn cookie addr len cls p im t j fail v s asked s' job new sent refused hl hw
  refine ⟨fun hnone => ⟨exec_untaken hl (exec_unload ..) hnone, exec_untaken hl (exec_load ..) hnone,
    exec_untaken hl (exec_classRequest ..) hnone⟩, fun ht => ⟨fun hpass => ?_, fun st o hfault => ?_⟩,
    fun ht => ⟨fun hpass halign => ?_, fun st o hfault => ?_⟩,
    fun ht => ⟨fun hpass hpay hgroup hcls => ?_, fun st o hfault => ?_⟩,
    fun hjob => ⟨fun hfailed => ?_, fun hread hdel hv => ⟨fun c sets hcheck => ?_, fun st o hcheck => ?_⟩⟩⟩
  · exact runs_unload_sends hl hw ht hpass
  · exact runs_taken_refused hl hw (exec_unload ..) ht rfl hfault
  · obtain ⟨u, hexec, rfl⟩ := runs_load_asks hl hw ht hpass halign
    refine ⟨_, hexec, rfl, ?_⟩
    rw [askRead_eq]
    exact ⟨rfl, rfl, rfl, rfl⟩
  · obtain ⟨u, hexec, hrefused, -⟩ := runs_taken_refused hl hw (exec_load ..) ht rfl hfault
    exact ⟨u, hexec, hrefused⟩
  · exact runs_classRequest_sends hl hw ht hpass hpay hgroup hcls
  · obtain hfault | ⟨hpass, hpay⟩ := hfault
    · obtain ⟨u, hexec, hrefused, -⟩ := runs_taken_refused hl hw (exec_classRequest ..) ht rfl hfault
      exact ⟨u, hexec, hrefused⟩
    · exact runs_classRequest_payload hl hw ht hpass hpay
  · exact runs_imageReadDone_failed hl hjob fail hfailed
  · subst hv
    exact runs_imageReadDone_sends hl hjob hread hdel hcheck
  · subst hv
    exact runs_imageReadDone_refused hl hjob hread hdel hcheck

end Sys2Proof.Machine
end

section
/-! SUPPORT. The DMA table access engine: the status of a function's block, the fetch of its list, the results, and the
resolution of each command (R219–R223). -/

namespace Sys2Proof.Machine

open Sys2Proof

/-! ### The status of a block -/

theorem fld_setFld_state (w : Word) (v : Nat) : fld (setFld w 28 16 v) 1 0 = fld w 1 0 := by
  have := w.isLt
  simp only [fld, setFld, bits, BitVec.toNat_ofNat]
  omega

theorem fld_setFld_reason (w : Word) (v : Nat) : fld (setFld w 28 16 v) 15 8 = fld w 15 8 := by
  have := w.isLt
  simp only [fld, setFld, bits, BitVec.toNat_ofNat]
  omega

theorem fld_setFld_done (w : Word) (v : Nat) : fld (setFld w 28 16 v) 28 16 = v % 8192 := by
  have := w.isLt
  simp only [fld, setFld, bits, BitVec.toNat_ofNat]
  omega

/-- Offset of the status word of a function's DMA block. -/
abbrev dmaStatusAddr (fn : FnId) : Nat := dmaAddr fn 0x18

theorem exists_setDmaStatus_eq (s : State) (fn : FnId) (state reason done : Nat) :
    ∃ w, setDmaStatus s fn state reason done = { s with words := w } := by
  rw [setDmaStatus, setRf_eq, setRf_setRf_eq]
  exact ⟨_, rfl⟩

theorem wordsKept_setDmaStatus (s : State) (fn : FnId) (state reason done : Nat) :
    WordsKept [dmaStatusAddr fn] s (setDmaStatus s fn state reason done) := by
  intro a ha
  have ha : a ≠ dmaStatusAddr fn := by simpa using ha
  exact (word_setWord_ne _ _ _ _ ha).trans ((word_setWord_ne _ _ _ _ ha).trans (word_setWord_ne _ _ _ _ ha))

theorem word_setDmaStatus {s : State} (h : sparseWf resetWord s.words) (fn : FnId) (state reason done : Nat) :
    word (setDmaStatus s fn state reason done) (dmaStatusAddr fn) =
      setFld (setFld (setFld (word s (dmaStatusAddr fn)) 1 0 state) 15 8 reason) 28 16 done := by
  have h₁ := setRf_wf s (dmaStatusAddr fn) 1 0 state h
  have h₂ := setRf_wf _ (dmaStatusAddr fn) 15 8 reason h₁
  rw [setDmaStatus, setRf, word_setWord _ _ _ _ h₂, if_pos rfl, setRf, word_setWord _ _ _ _ h₁, if_pos rfl, setRf,
    word_setWord _ _ _ _ h, if_pos rfl]

/-- A queue set with its status touches the queues and the register words only. -/
theorem putDma_setDmaStatus_eq (s : State) (fn : FnId) (q : DmaQueue) (state reason done : Nat) :
    putDma (setDmaStatus s fn state reason done) fn q = { s with
      dma := (putDma (setDmaStatus s fn state reason done) fn q).dma
      words := (putDma (setDmaStatus s fn state reason done) fn q).words } := by
  obtain ⟨w, hw⟩ := exists_setDmaStatus_eq s fn state reason done
  rw [hw]
  rfl

@[simp] theorem dmaQueue_putDma (s : State) (fn : FnId) (q : DmaQueue) : dmaQueue (putDma s fn q) fn = q := by
  simp [dmaQueue, putDma]

/-- The function's queue is `q`, and its block shows STATE, REASON and DONE; the other registers, memory, table changes
and entries are as they were. -/
abbrev DmaBecomes (fn : FnId) (q : DmaQueue) (state reason done : Nat) (s u : State) : Prop :=
  dmaQueue u fn = q ∧ rf u (dmaStatusAddr fn) 1 0 = state ∧ rf u (dmaStatusAddr fn) 15 8 = reason ∧
    rf u (dmaStatusAddr fn) 28 16 = done ∧ WordsKept [dmaStatusAddr fn] s u ∧ u.mem = s.mem ∧ u.changes = s.changes ∧
    u.entries = s.entries

/-- A queue set with the status of its block; each number fits its field. -/
theorem dmaBecomes_putDma {s : State} (h : sparseWf resetWord s.words) (fn : FnId) (q : DmaQueue)
    {state reason done : Nat} (hs : state < 4) (hr : reason < 256) (hd : done < 8192) :
    DmaBecomes fn q state reason done s (putDma (setDmaStatus s fn state reason done) fn q) := by
  have hstatus := word_setDmaStatus h fn state reason done
  have hkept := wordsKept_setDmaStatus s fn state reason done
  obtain ⟨w, hw⟩ := exists_setDmaStatus_eq s fn state reason done
  rw [hw] at hstatus hkept ⊢
  have hword := fun a => word_congr (s := { s with words := w }) (u := putDma { s with words := w } fn q) rfl a
  refine ⟨dmaQueue_putDma .., ?_, ?_, ?_, fun a ha => (hword a).trans (hkept a ha), rfl, rfl, rfl⟩
  · rw [rf, hword, hstatus, fld_setFld_state, fld_setFld_written, fld_setFld_slot, Nat.mod_eq_of_lt hs]
  · rw [rf, hword, hstatus, fld_setFld_reason, fld_setFld_refusal, Nat.mod_eq_of_lt hr]
  · rw [rf, hword, hstatus, fld_setFld_done, Nat.mod_eq_of_lt hd]

theorem failReason_lt (f : ReadFail) : failReason f < 256 := by
  cases f <;> decide

/-! ### GO, the fetch of the list and the results -/

section
variable {s : State} {fn : FnId} (hc : Canonical s)
include hc

theorem runs_tblDmaGo (hw : MayWrite s fn (dmaAddr fn 0x14)) (hb : (dmaQueue s fn).busy = false)
    (hn : rf s (dmaAddr fn 0x10) 12 0 ≠ 0) : Runs (.tblDmaGo fn) s fun u =>
      DmaBecomes fn { busy := true } 1 0 0 s u ∧ u = { s with dma := u.dma, words := u.words } := by
  refine runs_go (step := tblDmaGoStep fn) rfl hw ?_
  rw [tblDmaGoStep, if_neg (by simp [hb]), if_neg hn]
  exact ⟨dmaBecomes_putDma hc.2.1 fn _ (by decide) (by decide) (by decide),
    putDma_setDmaStatus_eq ..⟩

theorem runs_dmaListFetched_failed (hl : Live s) (hb : (dmaQueue s fn).busy = true)
    (hf : (dmaQueue s fn).fetched = false) (hm : mayRequest s fn = true) (list : List (List Byte × List Byte))
    (fail : ReadFail) : Runs (.dmaListFetched fn list (some fail)) s fun u =>
      DmaBecomes fn {} 3 (failReason fail) 0 s u ∧ u = { s with dma := u.dma, words := u.words } := by
  refine runs_act hl (step := dmaListFetchedStep fn list (some fail)) rfl ?_
  rw [dmaListFetchedStep, if_neg (by simp [hb, hf, hm])]
  exact ⟨dmaBecomes_putDma hc.2.1 fn _ (by decide) (failReason_lt fail) (by decide),
    putDma_setDmaStatus_eq ..⟩

end

theorem runs_dmaListFetched {s : State} {fn : FnId} {list : List (List Byte × List Byte)} (hl : Live s)
    (hb : (dmaQueue s fn).busy = true) (hf : (dmaQueue s fn).fetched = false) (hm : mayRequest s fn = true)
    (hn : list.length = rf s (dmaAddr fn 0x10) 12 0) : Runs (.dmaListFetched fn list none) s fun u =>
      dmaQueue u fn = { dmaQueue s fn with list := list, fetched := true, resolved := now s } ∧
      u = { s with dma := u.dma } := by
  refine runs_act hl (step := dmaListFetchedStep fn list none) rfl ?_
  have hstep : dmaListFetchedStep fn list none s =
      putDma s fn { dmaQueue s fn with list := list, fetched := true, resolved := now s } := by
    simp [dmaListFetchedStep, hb, hf, hm, hn]
  rw [hstep]
  exact ⟨dmaQueue_putDma .., rfl⟩

theorem besideEndpoints_writeBuffer (s : State) (fn : FnId) (addr : Nat) (data : List Byte) (ro : Bool) :
    besideEndpoints (writeBuffer s fn addr data ro) = besideEndpoints s :=
  foldl_keeps besideEndpoints _ (fun _ _ _ => besideEndpoints_putEndpoint ..) s

/-- The results leave over the function's endpoint, and the block is free again. -/
theorem runs_dmaResultsWrite {s : State} {fn : FnId} (hc : Canonical s) (hl : Live s)
    (ha : (dmaQueue s fn).applied = true) (hm : mayRequest s fn = true) (hcr : (endpoint s fn.ep).noCredit = false)
    (hlen : (dmaQueue s fn).results.length < 8192) : Runs (.dmaResultsWrite fn) s fun u =>
      DmaBecomes fn {} 2 0 (dmaQueue s fn).results.length s u ∧
      u = { s with dma := u.dma, words := u.words, endpoints := u.endpoints } := by
  refine runs_act hl (step := dmaResultsStep fn) rfl ?_
  simp only [dmaResultsStep, ha, hm, hcr, Bool.not_true, Bool.or_self, Bool.false_eq_true, if_false]
  rw [eq_of_besideEndpoints (foldl_keeps besideEndpoints _ (fun s r _ => besideEndpoints_writeBuffer s fn _ _ _) s)]
  refine ⟨dmaBecomes_putDma hc.2.1 fn {} (by decide) (by decide) hlen, ?_⟩
  rw [putDma_setDmaStatus_eq]

/-! ### A command resolved -/

/-- The change belongs to a list of the function. -/
def ofList (fn : FnId) (x : Change) : Bool := match x.by_ with
  | .dma f _ => f == fn
  | _ => false

/-- A change that waits for its list's effect round takes it, with the list's commit tick (R221). -/
def fixEffect (s : State) (fn : FnId) (x : Change) : Change :=
  if ofList fn x && x.effect == noRound then { x with tick := now s, effect := effectRound (now s) } else x

/-- The next command of the function's list is resolved with status `st` and leaves `added` among the changes to come;
the last one of the list fixes the commit tick and the effect round of all of them (R221). -/
abbrev DmaResolves (fn : FnId) (st : Nat) (added : List Change) (s u : State) : Prop :=
  dmaQueue u fn = { dmaQueue s fn with
    next := (dmaQueue s fn).next + 1, results := (dmaQueue s fn).results ++ [(st, 0, [])], resolved := now s,
    effect := if (dmaQueue s fn).list.length ≤ (dmaQueue s fn).next + 1 then effectRound (now s)
      else (dmaQueue s fn).effect } ∧
  u.changes = (if (dmaQueue s fn).list.length ≤ (dmaQueue s fn).next + 1 then
    (s.changes ++ added).map (fixEffect s fn) else s.changes ++ added) ∧
  u = { s with dma := u.dma, changes := u.changes }

section
variable {s : State} {fn : FnId} {c bs : List Byte}

/-- A resolution that adds changes advances the list. -/
theorem resolves_dmaCommand {ops : Nat → Bool} {st : Nat} {added : List Change}
    (hf : (dmaQueue s fn).fetched = true) (ht : (dmaQueue s fn).resolved < now s)
    (hc : (dmaQueue s fn).list[(dmaQueue s fn).next]? = some (c, bs)) (hops : ops (dmaOp c) = true)
    (hres : dmaResolve s fn (dmaQueue s fn).next c bs = ({ s with changes := s.changes ++ added }, st)) :
    DmaResolves fn st added s (dmaCommand fn ops s) := by
  have hready : ¬(!(dmaQueue s fn).fetched || decide (now s ≤ (dmaQueue s fn).resolved)) = true := by
    simp [hf, ht]
  dsimp only [dmaCommand]
  rw [if_neg hready]
  simp only [hc, hops, hres, Bool.not_true, Bool.false_eq_true, if_false]
  by_cases hlast : (dmaQueue s fn).list.length ≤ (dmaQueue s fn).next + 1
  · simp only [DmaResolves, if_pos hlast, if_neg (Nat.not_lt.2 hlast)]
    exact ⟨dmaQueue_putDma .., rfl, rfl⟩
  · simp only [DmaResolves, if_neg hlast, if_pos (Nat.not_le.1 hlast)]
    exact ⟨dmaQueue_putDma .., rfl, rfl⟩

/-- The partition, key and value of a table command, and the key as the list's next change finds it (R220, R221). -/
abbrev dmaPart (s : State) (fn : FnId) (c : List Byte) : Nat := partOf (dmaTarget c) (fnTenancy s fn)
abbrev dmaKey (s : State) (c bs : List Byte) : List Byte := slice bs 0 (tblKeyBytes s (round s) (dmaTarget c))
abbrev dmaValue (s : State) (c bs : List Byte) : List Byte := slice bs 64 (tblValueBytes s (round s) (dmaTarget c))
abbrev dmaView (s : State) (fn : FnId) (c bs : List Byte) : Option (List Byte × Bool × Bool) :=
  pendingView s (dmaTarget c) (dmaPart s fn c) (dmaKey s c bs)

/-- STATIC of a command. -/
abbrev dmaStatic (c : List Byte) : Bool := leAt c 1 1 == 1

/-- The change of a table command, whose effect round its list has still to fix. -/
abbrev dmaChange (s : State) (fn : FnId) (k : Nat) (c bs : List Byte) (op : ChangeOp)
    (moves : List (List Byte × Nat × Nat)) : Change :=
  ⟨dmaTarget c, dmaPart s fn c, dmaKey s c bs, op, .dma fn k, now s, noRound, moves, op != .read, now s, false, 0,
    false⟩

/-- A change of an absent key is none. -/
theorem resolveChange_absent {n part : Nat} {key : List Byte} (op : ChangeOp) (by_ : Writer) (tick effect : Nat)
    (hk : keyBad s n part key = false) (hv : pendingView s n part key = none) :
    resolveChange s n part key op false by_ tick effect = (s, tsAbsent) := by
  simp [resolveChange, hk, hv]

theorem resolveInsert_present {n part : Nat} {key value : List Byte} (static : Bool) (by_ : Writer)
    (tick effect : Nat) (hk : keyBad s n part key = false) (hv : (pendingView s n part key).isSome = true) :
    resolveInsert s n part key value static by_ tick effect = (s, tsExists) := by
  simp [resolveInsert, hk, hv]

/-- A command's change of the key with its status. -/
def resolveDma (s : State) (fn : FnId) (k : Nat) (c bs : List Byte) (op : ChangeOp) : State × Nat :=
  let x := resolveChange s (dmaTarget c) (dmaPart s fn c) (dmaKey s c bs) op false (.dma fn k) (now s) noRound
  (x.1, dmaStatus x.2)

/-- The same for a command that takes the lock bit away. -/
def resolveUnlocking (s : State) (fn : FnId) (k : Nat) (c bs : List Byte) (op : ChangeOp) : State × Nat :=
  match dmaView s fn c bs with
  | some v => if v.2.2 then resolveDma s fn k c bs op else (s, dsNotLocked)
  | none => (s, dsAbsent)

/-- The same for the command that sets it. -/
def resolveLocking (s : State) (fn : FnId) (k : Nat) (c bs : List Byte) : State × Nat :=
  match dmaView s fn c bs with
  | some v => if v.2.2 then (s, dsAlreadyLocked) else resolveDma s fn k c bs .setLock
  | none => (s, dsAbsent)

section
variable (hk : keyBad s (dmaTarget c) (dmaPart s fn c) (dmaKey s c bs) = false) (k : Nat)

theorem dmaResolveTable_insert (hop : dmaOp c = 1) : dmaResolveTable s fn k c bs =
    let x := resolveInsert s (dmaTarget c) (dmaPart s fn c) (dmaKey s c bs) (dmaValue s c bs) (dmaStatic c) (.dma fn k)
      (now s) noRound
    (x.1, dmaStatus x.2) := by
  simp [dmaResolveTable, hop]

theorem dmaResolveTable_update (hop : dmaOp c = 2) : dmaResolveTable s fn k c bs =
    resolveDma s fn k c bs (.update (dmaValue s c bs) (some (dmaStatic c))) := by
  simp [dmaResolveTable, resolveDma, hop]

theorem dmaResolveTable_delete (hop : dmaOp c = 3) :
    dmaResolveTable s fn k c bs = resolveDma s fn k c bs .delete := by
  simp [dmaResolveTable, resolveDma, hop]

theorem dmaResolveTable_scan (hop : dmaOp c = 8) : dmaResolveTable s fn k c bs = (s, dsOk) := by
  simp [dmaResolveTable, hop]

theorem resolveLocking_absent (hv : dmaView s fn c bs = none) : resolveLocking s fn k c bs = (s, dsAbsent) := by
  simp [resolveLocking, hv]

theorem resolveLocking_locked {v : List Byte} {st : Bool} (hv : dmaView s fn c bs = some (v, st, true)) :
    resolveLocking s fn k c bs = (s, dsAlreadyLocked) := by
  simp [resolveLocking, hv]

theorem resolveUnlocking_absent (op : ChangeOp) (hv : dmaView s fn c bs = none) :
    resolveUnlocking s fn k c bs op = (s, dsAbsent) := by
  simp [resolveUnlocking, hv]

theorem resolveUnlocking_open {v : List Byte} {st : Bool} (op : ChangeOp)
    (hv : dmaView s fn c bs = some (v, st, false)) : resolveUnlocking s fn k c bs op = (s, dsNotLocked) := by
  simp [resolveUnlocking, hv]

include hk

theorem dmaResolveTable_read (hop : dmaOp c = 4) :
    dmaResolveTable s fn k c bs = (s, if (dmaView s fn c bs).isSome then dsOk else dsAbsent) := by
  simp [dmaResolveTable, hop, hk]

theorem dmaResolveTable_lockRead (hop : dmaOp c = 5) :
    dmaResolveTable s fn k c bs = resolveLocking s fn k c bs := by
  cases hv : dmaView s fn c bs <;> simp [dmaResolveTable, resolveLocking, resolveDma, hop, hk, hv]

theorem dmaResolveTable_writeUnlock (hop : dmaOp c = 6) :
    dmaResolveTable s fn k c bs = resolveUnlocking s fn k c bs (.writeUnlock (dmaValue s c bs)) := by
  cases hv : dmaView s fn c bs <;> simp [dmaResolveTable, resolveUnlocking, resolveDma, hop, hk, hv]

theorem dmaResolveTable_unlock (hop : dmaOp c = 7) :
    dmaResolveTable s fn k c bs = resolveUnlocking s fn k c bs .unlock := by
  cases hv : dmaView s fn c bs <;> simp [dmaResolveTable, resolveUnlocking, resolveDma, hop, hk, hv]

theorem resolveDma_absent (op : ChangeOp) (hv : dmaView s fn c bs = none) :
    resolveDma s fn k c bs op = (s, dsAbsent) := by
  rw [resolveDma, resolveChange_absent _ _ _ _ hk hv]
  rfl

theorem resolveDma_present (op : ChangeOp) (hv : (dmaView s fn c bs).isSome = true) :
    resolveDma s fn k c bs op = (accept s (dmaChange s fn k c bs op []), dsOk) := by
  rw [resolveDma, resolveChange_accepts _ _ _ hk hv]
  rfl

theorem resolveLocking_open {v : List Byte} {st : Bool} (hv : dmaView s fn c bs = some (v, st, false)) :
    resolveLocking s fn k c bs = (accept s (dmaChange s fn k c bs .setLock []), dsOk) := by
  rw [← resolveDma_present hk k .setLock (by rw [hv]; rfl)]
  simp [resolveLocking, hv]

theorem resolveUnlocking_locked {v : List Byte} {st : Bool} (op : ChangeOp)
    (hv : dmaView s fn c bs = some (v, st, true)) :
    resolveUnlocking s fn k c bs op = (accept s (dmaChange s fn k c bs op []), dsOk) := by
  rw [← resolveDma_present hk k op (by rw [hv]; rfl)]
  simp [resolveUnlocking, hv]

end

/-- The next command of the function's list: it may be resolved in this tick, and no check refuses it (R220–R222). -/
structure NextCommand (s : State) (fn : FnId) (c bs : List Byte) : Prop where
  fetched : (dmaQueue s fn).fetched = true
  later : (dmaQueue s fn).resolved < now s
  next : (dmaQueue s fn).list[(dmaQueue s fn).next]? = some (c, bs)
  listed : dmaBad c = false
  allowed : dmaOpen s fn c = true
  within : scanBeyond s (dmaPart s fn c) c = false
  sound : keyBad s (dmaTarget c) (dmaPart s fn c) (dmaKey s c bs) = false

namespace NextCommand

variable (h : NextCommand s fn c bs)
include h

theorem dmaResolve_table (k : Nat) (hop : dmaOp c ≤ 8) :
    dmaResolve s fn k c bs = dmaResolveTable s fn k c bs := by
  simp [dmaResolve, h.listed, h.allowed, h.within, hop]

theorem dmaResolve_memory (k : Nat) (hop : 8 < dmaOp c) : dmaResolve s fn k c bs = (s, dsOk) := by
  simp [dmaResolve, h.listed, h.allowed, h.within, Nat.not_le.2 hop]

variable (hl : Live s) {i : Instr} {ops : Nat → Bool} {op st : Nat} (hx : exec i s = act s (dmaCommand fn ops))
  (hop : dmaOp c = op) (hops : ops op = true)
include hl hx hop hops

theorem runs_resolves {added : List Change}
    (hres : dmaResolve s fn (dmaQueue s fn).next c bs = ({ s with changes := s.changes ++ added }, st)) :
    Runs i s (DmaResolves fn st added s) :=
  runs_act hl hx (resolves_dmaCommand h.fetched h.later h.next (hop ▸ hops) hres)

theorem runs_unchanged (hres : dmaResolve s fn (dmaQueue s fn).next c bs = (s, st)) :
    Runs i s (DmaResolves fn st [] s) :=
  h.runs_resolves hl hx hop hops (hres.trans (by simp))

theorem runs_memory (hgt : 8 < op) : Runs i s (DmaResolves fn dsOk [] s) :=
  h.runs_unchanged hl hx hop hops (h.dmaResolve_memory _ (hop ▸ hgt))

variable (hle : op ≤ 8)
include hle

theorem runs_answers (hres : dmaResolveTable s fn (dmaQueue s fn).next c bs = (s, st)) :
    Runs i s (DmaResolves fn st [] s) :=
  h.runs_unchanged hl hx hop hops ((h.dmaResolve_table _ (hop ▸ hle)).trans hres)

theorem runs_accepts {x : Change} (hres : dmaResolveTable s fn (dmaQueue s fn).next c bs = (accept s x, st)) :
    Runs i s (DmaResolves fn st [x] s) :=
  h.runs_resolves hl hx hop hops ((h.dmaResolve_table _ (hop ▸ hle)).trans hres)

end NextCommand

/-! ### The commands, one lemma for each of what they find -/

section
variable (h : NextCommand s fn c bs) (hl : Live s)
include h hl

theorem runs_dmaInsert_exists (hv : (dmaView s fn c bs).isSome = true) (hop : dmaOp c = 1) :
    Runs (.dmaInsert fn) s (DmaResolves fn dsExists [] s) := by
  refine h.runs_answers hl rfl hop rfl (by decide) ?_
  rw [dmaResolveTable_insert _ hop, resolveInsert_present _ _ _ _ h.sound hv]
  rfl

theorem runs_dmaInsert_placed {b v : Nat} {moves : List (List Byte × Nat × Nat)} (hv : dmaView s fn c bs = none)
    (hp : placement s (dmaTarget c) (dmaPart s fn c) (dmaKey s c bs) = some (b, v, moves)) (hop : dmaOp c = 1) :
    Runs (.dmaInsert fn) s (DmaResolves fn dsOk
      [dmaChange s fn (dmaQueue s fn).next c bs (.insert (dmaValue s c bs) (dmaStatic c) b v) moves] s) := by
  refine h.runs_accepts hl rfl hop rfl (by decide) ?_
  rw [dmaResolveTable_insert _ hop, resolveInsert_accepts _ _ _ _ h.sound hv hp]
  rfl

end

/-- The change that the next command makes, without moves. -/
abbrev nextChange (s : State) (fn : FnId) (c bs : List Byte) (op : ChangeOp) : Change :=
  dmaChange s fn (dmaQueue s fn).next c bs op []

section
variable (h : NextCommand s fn c bs) (hl : Live s)
include h hl

/-- What finds its key absent changes nothing. -/
theorem runs_dma_absent (hv : dmaView s fn c bs = none) :
    (dmaOp c = 2 → Runs (.dmaUpdate fn) s (DmaResolves fn dsAbsent [] s)) ∧
    (dmaOp c = 3 → Runs (.dmaDelete fn) s (DmaResolves fn dsAbsent [] s)) ∧
    (dmaOp c = 4 → Runs (.dmaRead fn) s (DmaResolves fn dsAbsent [] s)) ∧
    (dmaOp c = 5 → Runs (.lockRead fn) s (DmaResolves fn dsAbsent [] s)) ∧
    (dmaOp c = 6 → Runs (.writeUnlock fn) s (DmaResolves fn dsAbsent [] s)) ∧
    (dmaOp c = 7 → Runs (.dmaUnlock fn) s (DmaResolves fn dsAbsent [] s)) := by
  refine ⟨fun hop => ?_, fun hop => ?_, fun hop => ?_, fun hop => ?_, fun hop => ?_, fun hop => ?_⟩ <;>
    refine h.runs_answers hl rfl hop rfl (by decide) ?_
  · exact (dmaResolveTable_update _ hop).trans (resolveDma_absent h.sound _ _ hv)
  · exact (dmaResolveTable_delete _ hop).trans (resolveDma_absent h.sound _ _ hv)
  · rw [dmaResolveTable_read h.sound _ hop, hv]
    rfl
  · exact (dmaResolveTable_lockRead h.sound _ hop).trans (resolveLocking_absent _ hv)
  · exact (dmaResolveTable_writeUnlock h.sound _ hop).trans (resolveUnlocking_absent _ _ hv)
  · exact (dmaResolveTable_unlock h.sound _ hop).trans (resolveUnlocking_absent _ _ hv)

theorem runs_dma_present (hv : (dmaView s fn c bs).isSome = true) :
    (dmaOp c = 2 → Runs (.dmaUpdate fn) s (DmaResolves fn dsOk
      [nextChange s fn c bs (.update (dmaValue s c bs) (some (dmaStatic c)))] s)) ∧
    (dmaOp c = 3 → Runs (.dmaDelete fn) s (DmaResolves fn dsOk [nextChange s fn c bs .delete] s)) ∧
    (dmaOp c = 4 → Runs (.dmaRead fn) s (DmaResolves fn dsOk [] s)) := by
  refine ⟨fun hop => h.runs_accepts hl rfl hop rfl (by decide) ?_,
    fun hop => h.runs_accepts hl rfl hop rfl (by decide) ?_,
    fun hop => h.runs_answers hl rfl hop rfl (by decide) ?_⟩
  · exact (dmaResolveTable_update _ hop).trans (resolveDma_present h.sound _ _ hv)
  · exact (dmaResolveTable_delete _ hop).trans (resolveDma_present h.sound _ _ hv)
  · rw [dmaResolveTable_read h.sound _ hop, if_pos hv]

section
variable {v : List Byte} {st : Bool}

theorem runs_dma_locked (hv : dmaView s fn c bs = some (v, st, true)) :
    (dmaOp c = 5 → Runs (.lockRead fn) s (DmaResolves fn dsAlreadyLocked [] s)) ∧
    (dmaOp c = 6 → Runs (.writeUnlock fn) s (DmaResolves fn dsOk
      [nextChange s fn c bs (.writeUnlock (dmaValue s c bs))] s)) ∧
    (dmaOp c = 7 → Runs (.dmaUnlock fn) s (DmaResolves fn dsOk [nextChange s fn c bs .unlock] s)) := by
  refine ⟨fun hop => h.runs_answers hl rfl hop rfl (by decide) ?_,
    fun hop => h.runs_accepts hl rfl hop rfl (by decide) ?_,
    fun hop => h.runs_accepts hl rfl hop rfl (by decide) ?_⟩
  · exact (dmaResolveTable_lockRead h.sound _ hop).trans (resolveLocking_locked _ hv)
  · exact (dmaResolveTable_writeUnlock h.sound _ hop).trans (resolveUnlocking_locked h.sound _ _ hv)
  · exact (dmaResolveTable_unlock h.sound _ hop).trans (resolveUnlocking_locked h.sound _ _ hv)

theorem runs_dma_notLocked (hv : dmaView s fn c bs = some (v, st, false)) :
    (dmaOp c = 5 → Runs (.lockRead fn) s (DmaResolves fn dsOk [nextChange s fn c bs .setLock] s)) ∧
    (dmaOp c = 6 → Runs (.writeUnlock fn) s (DmaResolves fn dsNotLocked [] s)) ∧
    (dmaOp c = 7 → Runs (.dmaUnlock fn) s (DmaResolves fn dsNotLocked [] s)) := by
  refine ⟨fun hop => h.runs_accepts hl rfl hop rfl (by decide) ?_,
    fun hop => h.runs_answers hl rfl hop rfl (by decide) ?_,
    fun hop => h.runs_answers hl rfl hop rfl (by decide) ?_⟩
  · exact (dmaResolveTable_lockRead h.sound _ hop).trans (resolveLocking_open h.sound _ hv)
  · exact (dmaResolveTable_writeUnlock h.sound _ hop).trans (resolveUnlocking_open _ _ hv)
  · exact (dmaResolveTable_unlock h.sound _ hop).trans (resolveUnlocking_open _ _ hv)

end

end

end

/-- Settles O27: each command advances the list once, with the status that its key in the pending view gives. -/
theorem dmaLists : Obligations.DmaLists := by
  unfold Obligations.DmaLists
  constructor
  · intro fn list fail s q status becomes hc
    refine ⟨fun hw hb hn => ?_, fun hl hb hf hm => ⟨fun hn => ?_, ?_⟩, fun hl ha hm hcr hlen => ?_⟩
    · exact runs_tblDmaGo hc hw hb hn
    · exact runs_dmaListFetched hl hb hf hm hn
    · exact runs_dmaListFetched_failed hc hl hb hf hm list fail
    · exact runs_dmaResultsWrite hc hl ha hm hcr hlen
  · intro fn c bs s q t n part key value view last e change resolves locked hl hf ht hnext hbad hopen hwithin hk
    have h : NextCommand s fn c bs := ⟨hf, ht, hnext, hbad, hopen, hwithin, hk⟩
    refine ⟨fun hv => runs_dmaInsert_exists h hl hv, fun b v moves hv hp => runs_dmaInsert_placed h hl hv hp,
      fun hv => runs_dma_absent h hl hv, fun hv => runs_dma_present h hl hv,
      fun ⟨v, st, hv⟩ => runs_dma_locked h hl hv, fun ⟨v, st, hv⟩ => runs_dma_notLocked h hl hv,
      fun hop => ?_, fun hop => ?_, fun hop => ?_, fun hop => ?_, fun hop => ?_⟩
    · exact h.runs_answers hl rfl hop rfl (by decide) (dmaResolveTable_scan _ hop)
    · exact h.runs_memory hl rfl hop rfl (by decide)
    · exact h.runs_memory hl rfl hop rfl (by decide)
    · exact h.runs_memory hl rfl hop rfl (by decide)
    · exact h.runs_memory hl rfl hop rfl (by decide)

end Sys2Proof.Machine
end

section
/-! SUPPORT. The upkeep of the tables: the update engine's moves, the batch of learns, aging and lost buckets (R214,
R227–R235). -/

namespace Sys2Proof.Machine

open Sys2Proof

/-! ### The update engine -/

/-- An engine that may write makes the next move of its change. -/
theorem runs_chainMoveWrite {s : State} {tb : Fin 72} {c : Change} {m : List Byte × Nat × Nat}
    {moves : List (List Byte × Nat × Nat)} (hl : Live s) (hc : engineChange s tb.val = some c)
    (hm : c.moves = m :: moves) (hw : mayWrite s tb.val = true) : Runs (.chainMoveWrite tb) s fun u =>
      u = { moveEntry s tb.val c.part m with
        changes := s.changes.map fun x => if x = c then { c with moves := moves, written := now s } else x } := by
  refine runs_act hl (step := chainMoveStep tb.val) rfl ?_
  simp only [chainMoveStep, hc, hm, hw, Bool.not_true, Bool.false_eq_true, if_false]
  rfl

/-! ### Entries that go out of force -/

/-- Table, partition and key of an entry. -/
def entryKey (e : Entry) : Nat × Nat × List Byte := (e.table, e.part, e.key)

/-- An entry in force whose key is that of one of `l` goes out of force at round `r`. -/
def closedBy (l : List Entry) (r : Nat) (x : Entry) : Entry :=
  if x.until_ = none ∧ ∃ e ∈ l, entryKey x = entryKey e then { x with until_ := some r } else x

theorem closedBy_closes {l : List Entry} {e x : Entry} (r : Nat) (hx : inForce x = true) (he : e ∈ l)
    (hkey : entryKey x = entryKey e) : closedBy l r x = { x with until_ := some r } :=
  if_pos ⟨Option.isNone_iff_eq_none.1 hx, e, he, hkey⟩

theorem closedBy_keeps {l : List Entry} {x : Entry} (r : Nat) (h : ∀ e ∈ l, entryKey e ≠ entryKey x) :
    closedBy l r x = x :=
  if_neg fun ⟨_, e, he, hkey⟩ => h e he hkey.symm

theorem closedBy_cons (e : Entry) (l : List Entry) (r : Nat) (x : Entry) :
    closedBy l r (closedBy [e] r x) = closedBy (e :: l) r x := by
  by_cases he : entryKey x = entryKey e
  · by_cases hx : x.until_ = none
    · simp [closedBy, hx, he]
    · simp [closedBy, hx]
  · rw [closedBy_keeps (l := [e]) r (by simpa using Ne.symm he)]
    simp [closedBy, he]

theorem closeEntry_eq (s : State) (e : Entry) (r : Nat) :
    closeEntry s e.table e.part e.key r = { s with entries := s.entries.map (closedBy [e] r) } := by
  have hmap : (fun x : Entry => if x.table = e.table ∧ x.part = e.part ∧ x.key = e.key ∧ x.until_ = none then
      { x with until_ := some r } else x) = closedBy [e] r := by
    funext x
    refine if_congr ?_ rfl rfl
    simp only [List.mem_singleton, exists_eq_left, entryKey, Prod.mk.injEq]
    tauto
  rw [closeEntry, hmap]

/-- A fold that closes entries one after another, and adds changes for each, closes all of them. -/
theorem foldl_closes {f : State → Entry → State} {g : Nat → Entry → List Change}
    (hf : ∀ s e, ∃ w, f s e = { s with
      entries := s.entries.map (closedBy [e] (round s)), changes := s.changes ++ g (now s) e, words := w })
    (l : List Entry) : ∀ s : State, ∃ w, l.foldl f s = { s with
      entries := s.entries.map (closedBy l (round s)), changes := s.changes ++ l.flatMap (g (now s)), words := w } := by
  induction l with
  | nil =>
    intro s
    refine ⟨s.words, ?_⟩
    have hid : s.entries.map (closedBy [] (round s)) = s.entries :=
      List.map_id'' (fun x => closedBy_keeps _ (by simp)) _
    simp [hid]
  | cons e l ih =>
    intro s
    obtain ⟨w, hw⟩ := hf s e
    obtain ⟨w', hw'⟩ := ih (f s e)
    refine ⟨w', ?_⟩
    have hcons : closedBy l (round s) ∘ closedBy [e] (round s) = closedBy (e :: l) (round s) :=
      funext (closedBy_cons e l (round s))
    rw [List.foldl_cons, hw', hw, List.flatMap_cons, ← List.append_assoc, ← hcons, ← List.map_map]
    rfl

/-! ### Learning -/

/-- Where an insertion goes does not depend on the learns that wait. -/
theorem planChain_learns (s : State) (ls : List Learn) (n part k b : Nat) (moved : List (List Byte))
    (plan : List (List Byte × Nat × Nat)) :
    planChain { s with learns := ls } n part k b moved plan = planChain s n part k b moved plan := by
  induction k generalizing b moved plan with
  | zero => rfl
  | succ k ih =>
    simp only [planChain, ih]
    rfl

theorem placement_learns (s : State) (ls : List Learn) (n part : Nat) (key : List Byte) :
    placement { s with learns := ls } n part key = placement s n part key := by
  simp only [placement, planChain_learns]
  rfl

/-- A key that has no entry in force closes none. -/
theorem closeEntry_of_findNow_none {s : State} {n part : Nat} {key : List Byte} (h : findNow s n part key = none)
    (r : Nat) : closeEntry s n part key r = s := by
  have hnone := List.find?_eq_none.1 h
  have hid : s.entries.map (fun e => if e.table = n ∧ e.part = part ∧ e.key = key ∧ e.until_ = none then
      { e with until_ := some r } else e) = s.entries := by
    refine (List.map_congr_left fun e he => if_neg fun ⟨ht, hp, hk, hu⟩ => hnone e he ?_).trans (List.map_id _)
    simp [ht, hp, hk, hu, inForce]
  rw [closeEntry, hid]

/-- The write of an entry that learning or aging leaves to the engine (R214, R227). -/
abbrev engineWrite (tick n part : Nat) (key : List Byte) : Change :=
  ⟨n, part, key, .read, .engine, tick, roundOf tick, [], true, tick, false, 0, false⟩

/-- The partition that a learn is for (R225). -/
abbrev learnPart (s : State) (l : Learn) : Nat := rfAt s l.round (0x1810000 + l.bd * 0x10) 9 0

/-- The entry that a learn inserts (R228). -/
def learntEntry (s : State) (n part b v : Nat) (key : List Byte) (src unit : Nat) : Entry where
  table := n
  part := part
  bucket := b
  slot := v
  key := key
  value := le 2 src ++ le 6 0
  lastSeen := unit
  since := round s

section
variable {s : State} {l : Learn} {n : Nat}

/-- A single learn is the batch's only winner. -/
theorem learnBatchStep_single (ht : now s % 256 = 0) (hd : s.changes.any (changeDue s) = false) (hs : s.learns = [l])
    (hr : l.round < round s) (ho : l.order < 4096) : learnBatchStep s = applyLearn { s with learns := [] } l := by
  simp [learnBatchStep, ht, hd, hs, hr, ho, sortBy, insertBy]

theorem limitOpen_unlimited {sn : Nat} (hlimit : word s (srcAddr sn 0) = 0xFFFFFFFF)
    (hat : bit (word s (srcAddr sn 4)) 1 = false) : limitOpen s sn = (s, true) := by
  simp [limitOpen, hlimit, hat]

/-- A learn of an address that its table does not hold inserts it, where its source has no limit. -/
theorem applyLearn_new (hn : learnTable s l.round l.bd = some n)
    (hf : findNow s n (learnPart s l) (learnKey l.bd l.mac) = none)
    (hlimit : word s (srcAddr (sourceNumber l.source.toNat) 0) = 0xFFFFFFFF)
    (hat : bit (word s (srcAddr (sourceNumber l.source.toNat) 4)) 1 = false) :
    applyLearn s l = learnInsert s n (learnPart s l) (learnKey l.bd l.mac) l.source.toNat (ageUnit l.round) := by
  simp [applyLearn, hn, hf, limitOpen_unlimited hlimit hat]

/-- With its place free the learnt entry is in force at once, and its write is left to the engine. -/
theorem learnInsert_placed {part src unit b v : Nat} {key : List Byte} (hk : keyBad s n part key = false)
    (hf : findNow s n part key = none) (hp : placement s n part key = some (b, v, [])) :
    learnInsert s n part key src unit = engineWrites { s with
      entries := s.entries ++ [learntEntry s n part b v key src unit] } n part key [] := by
  simp only [learnInsert, hk, hp, Bool.false_eq_true, if_false, replaceEntry, closeEntry_of_findNow_none hf]
  rfl

theorem runs_learnBatchApply {b v : Nat} (hl : Live s) (ht : now s % 256 = 0)
    (hd : s.changes.any (changeDue s) = false) (hs : s.learns = [l]) (hr : l.round < round s) (ho : l.order < 4096)
    (hn : learnTable s l.round l.bd = some n) (hf : findNow s n (learnPart s l) (learnKey l.bd l.mac) = none)
    (hlimit : word s (srcAddr (sourceNumber l.source.toNat) 0) = 0xFFFFFFFF)
    (hat : bit (word s (srcAddr (sourceNumber l.source.toNat) 4)) 1 = false)
    (hk : keyBad s n (learnPart s l) (learnKey l.bd l.mac) = false)
    (hp : placement s n (learnPart s l) (learnKey l.bd l.mac) = some (b, v, [])) :
    Runs .learnBatchApply s fun u => u = { s with
      learns := [], changes := s.changes ++ [engineWrite (now s) n (learnPart s l) (learnKey l.bd l.mac)]
      entries := s.entries ++
        [learntEntry s n (learnPart s l) b v (learnKey l.bd l.mac) l.source.toNat (ageUnit l.round)] } := by
  refine runs_act hl (step := learnBatchStep) rfl ?_
  have hp' := (placement_learns s [] n (learnPart s l) (learnKey l.bd l.mac)).trans hp
  rw [learnBatchStep_single ht hd hs hr ho, applyLearn_new (s := { s with learns := [] }) hn hf hlimit hat]
  exact learnInsert_placed (s := { s with learns := [] }) hk hf hp'

end

/-! ### Aging -/

/-- Nothing keeps the entry in force, and it has not been seen for its table's AGE: it is neither static nor locked,
and no accepted change of its key waits (R232). -/
abbrev Aged (s : State) (x : Entry) : Prop :=
  inForce x = true ∧ x.static = false ∧ x.lock = false ∧ rf s (tblAddr x.table 0x10) 15 0 ≠ 0 ∧
    (∀ y ∈ s.changes, y.done = false → y.by_ ≠ .engine → (y.table, y.part, y.key) ≠ entryKey x) ∧
    ageLimit (rf s (tblAddr x.table 0x10) 15 0) + 1 ≤ (ageUnit (round s) + 65536 - x.lastSeen % 65536) % 65536

/-- The test that aging makes of an entry. -/
def ages (s : State) (e : Entry) : Bool :=
  inForce e && !e.static && !e.lock && rf s (tblAddr e.table 0x10) 15 0 != 0 &&
    !(s.changes.any fun c =>
      !c.done && c.by_ != .engine && c.table == e.table && c.part == e.part && c.key == e.key) &&
    decide (ageLimit (rf s (tblAddr e.table 0x10) 15 0) + 1 ≤
      (ageUnit (round s) + 65536 - e.lastSeen % 65536) % 65536)

theorem ages_iff (s : State) (e : Entry) : ages s e = true ↔ Aged s e := by
  simp [ages, Aged, entryKey, and_assoc]

/-- An entry that aging takes out of force, with the write that is left to the engine. -/
def ageEntry (s : State) (e : Entry) : State :=
  engineWrites (closeEntry (count s (tblAddr e.table 0x3C)) e.table e.part e.key (round s)) e.table e.part e.key []

theorem ageEntry_eq (s : State) (e : Entry) : ∃ w, ageEntry s e = { s with
    entries := s.entries.map (closedBy [e] (round s))
    changes := s.changes ++ [engineWrite (now s) e.table e.part e.key], words := w } := by
  rw [ageEntry, closeEntry_eq]
  exact ⟨_, rfl⟩

theorem agingStep_due {s : State} (ht : now s % 256 = 0) (hr : round s % 2 ^ 20 = 0)
    (hd : s.changes.any (changeDue s) = false)
    (hs : (s.learns.any fun x => decide (x.round < round s)) = false) :
    agingStep s = (s.entries.filter (ages s)).foldl ageEntry s := by
  rw [agingStep, if_neg (by simp only [ht, hr, hd, hs]; decide)]
  rfl

/-- Every entry that ages goes out of force, and no other one of another key. -/
theorem runs_aging {s : State} {e : Entry} (hl : Live s) (ht : now s % 256 = 0) (hr : round s % 2 ^ 20 = 0)
    (hd : s.changes.any (changeDue s) = false)
    (hs : (s.learns.any fun x => decide (x.round < round s)) = false) : Runs .aging s fun u =>
      u = { s with entries := u.entries, words := u.words, changes := u.changes } ∧
      (e ∈ s.entries → Aged s e → { e with until_ := some (round s) } ∈ u.entries ∧
        engineWrite (now s) e.table e.part e.key ∈ u.changes) ∧
      (∀ y ∈ s.changes, y ∈ u.changes) ∧
      (e ∈ s.entries → (∀ x ∈ s.entries, Aged s x → entryKey x ≠ entryKey e) → e ∈ u.entries) := by
  refine runs_act hl (step := agingStep) rfl ?_
  obtain ⟨w, hw⟩ := foldl_closes (g := fun t e => [engineWrite t e.table e.part e.key]) ageEntry_eq
    (s.entries.filter (ages s)) s
  rw [agingStep_due ht hr hd hs, hw]
  refine ⟨rfl, fun he ha => ?_, fun y hy => List.mem_append_left _ hy, fun he hother => ?_⟩
  · have hold : e ∈ s.entries.filter (ages s) := List.mem_filter.2 ⟨he, (ages_iff s e).2 ha⟩
    refine ⟨?_, List.mem_append_right _ (List.mem_flatMap.2 ⟨e, hold, List.mem_singleton_self _⟩)⟩
    exact List.mem_map.2 ⟨e, he, closedBy_closes _ ha.1 hold rfl⟩
  · refine List.mem_map.2 ⟨e, he, closedBy_keeps _ fun x hx => ?_⟩
    obtain ⟨hx, hages⟩ := List.mem_filter.1 hx
    exact hother x hx ((ages_iff s x).1 hages)

/-! ### Buckets with an error -/

/-- The entries in force of a bucket of a table. -/
def inBucket (n b : Nat) (e : Entry) : Bool := e.table == n && inForce e && e.bucket == b

theorem inBucket_iff {n b : Nat} {e : Entry} :
    inBucket n b e = true ↔ e.table = n ∧ inForce e = true ∧ e.bucket = b := by
  simp [inBucket, and_assoc]

/-- The loss of a bucket's entries touches the entries, the mark of its error and the books of the event (R235). -/
theorem bucketInvalidateStep_bad {s : State} {n b : Nat} (ht : now s % 256 = 0) (hb : bucketBad s n b = true) :
    ∃ w r, bucketInvalidateStep n b s = { s with
      entries := s.entries.map (closedBy (s.entries.filter (inBucket n b)) (round s))
      errors := { s.errors with buckets := s.errors.buckets.filter (· != (n, b)) }, words := w, recorder := r } := by
  obtain ⟨w, hw⟩ := foldl_closes (f := fun s e => closeEntry s e.table e.part e.key (round s)) (g := fun _ _ => [])
    (fun s e => ⟨s.words, by simp [closeEntry_eq]⟩) (s.entries.filter (inBucket n b)) s
  have hlost : (s.entries.filter fun e => e.table == n && inForce e && e.bucket == b) =
    s.entries.filter (inBucket n b) := rfl
  rw [List.flatMap_eq_nil_iff.2 fun _ _ => rfl, List.append_nil] at hw
  rw [bucketInvalidateStep, if_neg (by simp [ht, hb]), hlost]
  dsimp only
  rw [hw, event_eq]
  exact ⟨_, _, rfl⟩

theorem runs_bucketInvalidate {s : State} {tb : Fin 72} {b : Nat} {e : Entry} (hl : Live s) (ht : now s % 256 = 0)
    (hb : bucketBad s tb.val b = true) : Runs (.bucketInvalidate tb b) s fun u =>
      u.errors.buckets = s.errors.buckets.filter (· != (tb.val, b)) ∧ u.mem = s.mem ∧ u.changes = s.changes ∧
      (e ∈ s.entries → e.table = tb.val → inForce e = true → e.bucket = b →
        { e with until_ := some (round s) } ∈ u.entries) ∧
      (e ∈ s.entries → e.table ≠ tb.val → e ∈ u.entries) := by
  refine runs_act hl (step := bucketInvalidateStep tb.val b) rfl ?_
  obtain ⟨w, r, hstep⟩ := bucketInvalidateStep_bad ht hb
  rw [hstep]
  refine ⟨rfl, rfl, rfl, fun he htable hforce hbucket => ?_, fun he htable => ?_⟩
  · have hlost := List.mem_filter.2 ⟨he, inBucket_iff.2 ⟨htable, hforce, hbucket⟩⟩
    exact List.mem_map.2 ⟨e, he, closedBy_closes _ hforce hlost rfl⟩
  · refine List.mem_map.2 ⟨e, he, closedBy_keeps _ fun x hx hkey => htable ?_⟩
    obtain ⟨hx, -⟩ := inBucket_iff.1 (List.mem_filter.1 hx).2
    exact (congrArg Prod.fst hkey).symm.trans hx

/-- Settles O26: the entries that a fold closes are closed whatever closed before them. That learns and aging are in
force at the boundary, with their writes left to the engine, is entry 184 of the assumption log. -/
theorem tableMaintenance : Obligations.TableMaintenance := by
  unfold Obligations.TableMaintenance
  intro tb b v c m moves l e s n writes aged src part learnt hl
  refine ⟨fun hc hm hw => ?_, fun ht hd hs hr ho hn hf hlimit hat hk hp => ?_, fun ht hr hd hs => ?_, fun ht hb => ?_⟩
  · exact runs_chainMoveWrite hl hc hm hw
  · exact runs_learnBatchApply hl ht hd hs hr ho hn hf hlimit hat hk hp
  · exact runs_aging hl ht hr hd hs
  · exact runs_bucketInvalidate hl ht hb

end Sys2Proof.Machine
end

section
/-! SUPPORT. Fields of register words: a field set and a field beside it (R10). -/

namespace Sys2Proof.Machine

open Sys2Proof

/-! ### Fields of a word -/

/-- A number cut at a field: the part above it, the field and the part below it. -/
theorem cut_at_field (v hi lo : Nat) :
    v = (v / 2 ^ lo / 2 ^ (hi + 1 - lo) * 2 ^ (hi + 1 - lo) + bits v hi lo) * 2 ^ lo + v % 2 ^ lo := by
  rw [bits, Nat.div_add_mod', Nat.div_add_mod']

/-- A word whose field is set: the part above the field, the new field and the part below it. -/
theorem toNat_setFld (w : Word) {hi lo : Nat} (v : Nat) (hw : hi < 32) (hl : lo ≤ hi) : (setFld w hi lo v).toNat =
    (w.toNat / 2 ^ lo / 2 ^ (hi + 1 - lo) * 2 ^ (hi + 1 - lo) + v % 2 ^ (hi + 1 - lo)) * 2 ^ lo +
      w.toNat % 2 ^ lo := by
  have hcut := cut_at_field w.toNat hi lo
  have hb := Nat.mod_lt v (Nat.two_pow_pos (hi + 1 - lo))
  have hlow := Nat.mod_lt w.toNat (Nat.two_pow_pos lo)
  have hsize : 2 ^ 32 = 2 ^ (31 - hi) * 2 ^ (hi + 1 - lo) * 2 ^ lo := by
    rw [← Nat.pow_add, ← Nat.pow_add]
    congr 1
    omega
  have hh : w.toNat / 2 ^ lo / 2 ^ (hi + 1 - lo) < 2 ^ (31 - hi) := by
    rw [Nat.div_div_eq_div_mul, Nat.div_lt_iff_lt_mul (by positivity)]
    calc w.toNat < 2 ^ 32 := w.isLt
      _ = 2 ^ (31 - hi) * (2 ^ lo * 2 ^ (hi + 1 - lo)) := by rw [hsize]; ring
  have hlt : (w.toNat / 2 ^ lo / 2 ^ (hi + 1 - lo) * 2 ^ (hi + 1 - lo) + v % 2 ^ (hi + 1 - lo)) * 2 ^ lo +
      w.toNat % 2 ^ lo < 2 ^ 32 := by
    rw [hsize]
    calc _ < (w.toNat / 2 ^ lo / 2 ^ (hi + 1 - lo) * 2 ^ (hi + 1 - lo) + v % 2 ^ (hi + 1 - lo) + 1) * 2 ^ lo := by
          rw [Nat.add_mul _ 1]; omega
      _ ≤ _ := Nat.mul_le_mul_right _ (by
          calc _ ≤ (w.toNat / 2 ^ lo / 2 ^ (hi + 1 - lo) + 1) * 2 ^ (hi + 1 - lo) := by rw [Nat.add_mul _ 1]; omega
            _ ≤ _ := Nat.mul_le_mul_right _ hh)
  have hkeep : w.toNat - bits w.toNat hi lo * 2 ^ lo + v % 2 ^ (hi + 1 - lo) * 2 ^ lo =
      (w.toNat / 2 ^ lo / 2 ^ (hi + 1 - lo) * 2 ^ (hi + 1 - lo) + v % 2 ^ (hi + 1 - lo)) * 2 ^ lo +
        w.toNat % 2 ^ lo := by
    rw [Nat.add_mul] at hcut ⊢
    omega
  rw [setFld, BitVec.toNat_ofNat, hkeep, Nat.mod_eq_of_lt hlt]

theorem fld_setFld_self (w : Word) {hi lo : Nat} (v : Nat) (hw : hi < 32) (hl : lo ≤ hi) :
    fld (setFld w hi lo v) hi lo = v % 2 ^ (hi + 1 - lo) := by
  rw [fld, toNat_setFld w v hw hl, bits, Nat.mul_comm _ (2 ^ lo), Nat.mul_add_div (Nat.two_pow_pos lo),
    Nat.div_eq_of_lt (Nat.mod_lt _ (Nat.two_pow_pos lo)), Nat.add_zero, Nat.mul_add_mod', Nat.mod_mod]

/-- A field set leaves the fields above it. -/
theorem fld_setFld_above (w : Word) {hi lo h l : Nat} (v : Nat) (hw : hi < 32) (hl : lo ≤ hi) (ha : hi < l) :
    fld (setFld w hi lo v) h l = fld w h l := by
  have habove : (setFld w hi lo v).toNat / 2 ^ lo / 2 ^ (hi + 1 - lo) = w.toNat / 2 ^ lo / 2 ^ (hi + 1 - lo) := by
    rw [toNat_setFld w v hw hl, Nat.mul_comm _ (2 ^ lo), Nat.mul_add_div (Nat.two_pow_pos lo),
      Nat.div_eq_of_lt (Nat.mod_lt _ (Nat.two_pow_pos lo)), Nat.add_zero,
      Nat.mul_comm _ (2 ^ (hi + 1 - lo)), Nat.mul_add_div (Nat.two_pow_pos _),
      Nat.div_eq_of_lt (Nat.mod_lt _ (Nat.two_pow_pos _)), Nat.add_zero]
  have hsplit : 2 ^ l = 2 ^ lo * 2 ^ (hi + 1 - lo) * 2 ^ (l - (hi + 1)) := by
    rw [← Nat.pow_add, ← Nat.pow_add]
    congr 1
    omega
  simp only [fld, bits, hsplit, ← Nat.div_div_eq_div_mul, habove]

/-- A field set leaves the fields below it. -/
theorem fld_setFld_below (w : Word) {hi lo h l : Nat} (v : Nat) (hw : hi < 32) (hl : lo ≤ hi) (hb : h < lo)
    (hl' : l ≤ h) : fld (setFld w hi lo v) h l = fld w h l := by
  have hlow : (setFld w hi lo v).toNat % 2 ^ (h + 1) = w.toNat % 2 ^ (h + 1) := by
    have hd : 2 ^ (h + 1) ∣ 2 ^ lo := Nat.pow_dvd_pow 2 hb
    rw [toNat_setFld w v hw hl, ← Nat.mod_mod_of_dvd _ hd, Nat.mul_add_mod', Nat.mod_mod, Nat.mod_mod_of_dvd _ hd]
  have hsplit : ∀ x : Nat, bits x h l = x % 2 ^ (h + 1) / 2 ^ l := fun x => by
    rw [bits, ← Nat.mod_mul_right_div_self, ← Nat.pow_add]
    congr 3
    omega
  simp only [fld, hsplit, hlow]

/-! ### Fields of a register -/

section
variable {s : State} (hc : sparseWf resetWord s.words) (a : Nat) {hi lo : Nat} (v : Nat) (hw : hi < 32) (hl : lo ≤ hi)

theorem rf_setRf_ne {b : Nat} (h : b ≠ a) (x y : Nat) : rf (setRf s a hi lo v) b x y = rf s b x y :=
  rf_congr (word_setWord_ne _ _ _ _ h) x y

include hc in
theorem word_setRf : word (setRf s a hi lo v) a = setFld (word s a) hi lo v :=
  (word_setWord _ _ _ _ hc).trans (if_pos rfl)

include hc hw hl

theorem rf_setRf_self : rf (setRf s a hi lo v) a hi lo = v % 2 ^ (hi + 1 - lo) := by
  rw [rf, word_setRf hc, fld_setFld_self _ _ hw hl]

theorem rf_setRf_above {h l : Nat} (ha : hi < l) : rf (setRf s a hi lo v) a h l = rf s a h l := by
  rw [rf, word_setRf hc, fld_setFld_above _ _ hw hl ha, rf]

theorem rf_setRf_below {h l : Nat} (hb : h < lo) (hl' : l ≤ h) : rf (setRf s a hi lo v) a h l = rf s a h l := by
  rw [rf, word_setRf hc, fld_setFld_below _ _ hw hl hb hl', rf]

end

end Sys2Proof.Machine
end

section
/-! SUPPORT. What the ledger's work and the records of the timebase leave as it is (R279, R281–R293). -/

namespace Sys2Proof.Machine

open Sys2Proof

/-! ### Register words outside a block -/

/-- The register words that `out` does not name read as before, and they stay canonical. -/
structure WordsBeside (out : Nat → Prop) (s u : State) : Prop where
  kept : ∀ a, ¬out a → word u a = word s a
  wf : sparseWf resetWord s.words → sparseWf resetWord u.words

namespace WordsBeside
variable {out : Nat → Prop} {s u w : State}

theorem of_words (h : u.words = s.words) : WordsBeside out s u := ⟨fun a _ => word_congr h a, fun hs => h ▸ hs⟩

theorem trans (h : WordsBeside out s u) (h' : WordsBeside out u w) : WordsBeside out s w :=
  ⟨fun a ha => (h'.kept a ha).trans (h.kept a ha), fun hs => h'.wf (h.wf hs)⟩

theorem mono {out' : Nat → Prop} (h : WordsBeside out s u) (hi : ∀ a, out a → out' a) : WordsBeside out' s u :=
  ⟨fun a ha => h.kept a (mt (hi a) ha), h.wf⟩

theorem setWord {a : Nat} (ha : out a) (s : State) (v : Word) : WordsBeside out s (setWord s a v) :=
  ⟨fun _ hb => word_setWord_ne _ _ _ _ fun h => hb (h ▸ ha), setWord_wf _ _ _⟩

theorem setRf {a : Nat} (ha : out a) (s : State) (hi lo v : Nat) : WordsBeside out s (setRf s a hi lo v) :=
  setWord ha s _

theorem setWord64 {a : Nat} (ha : out a) (ha' : out (a + 4)) (s : State) (v : Nat) :
    WordsBeside out s (setWord64 s a v) := (setWord ha s _).trans (setWord ha' _ _)

theorem foldl {α : Type} {f : State → α → State} (h : ∀ s x, WordsBeside out s (f s x)) (l : List α) (s : State) :
    WordsBeside out s (l.foldl f s) := by
  induction l generalizing s with
  | nil => exact of_words rfl
  | cons x l ih => exact (h s x).trans (ih _)

end WordsBeside

/-- The words that an event of the source touches. -/
def eventWord (source a : Nat) : Prop := a = 0x401000 + source * 4 ∨ a = 0x400010

theorem wordsBeside_event (s : State) (source code d tenancy reason : Nat) (fatal : Bool) :
    WordsBeside (eventWord source) s (event s source code d tenancy reason fatal) :=
  ⟨fun _ ha => word_event_ne _ _ _ _ _ _ (fun h => ha (.inl h)) fun h => ha (.inr h), fun hs => eventAt_wf _ _ _ _ _ _ _ _ _ _ hs⟩

/-- The queues of other sources are as they were before an event. -/
theorem look_queues_event_ne (s : State) {source k : Nat} (code d tenancy reason : Nat) (fatal : Bool)
    (h : k ≠ source) :
    look (event s source code d tenancy reason fatal).recorder.queues k = look s.recorder.queues k := by
  simp only [event, eventAt]
  split
  · exact look_place_ne _ _ _ _ h
  · rfl

/-! ### The ledger -/

/-- The registers from the ledger's block on. -/
abbrev ledgerWord (a : Nat) : Prop := 0x4000000 ≤ a

/-- Nothing but the ledger and its registers changed. -/
structure LedgerWork (s u : State) : Prop where
  frame : u = { s with words := u.words, ledger := u.ledger }
  words : WordsBeside ledgerWord s u

namespace LedgerWork
variable {s u w : State}

theorem refl (s : State) : LedgerWork s s := ⟨rfl, .of_words rfl⟩

theorem trans (h : LedgerWork s u) (h' : LedgerWork u w) : LedgerWork s w :=
  ⟨h'.frame.trans (by rw [h.frame]), h.words.trans h'.words⟩

theorem exists_eq (h : LedgerWork s u) : ∃ w l, u = { s with words := w, ledger := l } := ⟨_, _, h.frame⟩
theorem tbs (h : LedgerWork s u) : u.tbs = s.tbs := by rw [h.frame]
theorem commits (h : LedgerWork s u) : u.commits = s.commits := by rw [h.frame]
theorem recorder (h : LedgerWork s u) : u.recorder = s.recorder := by rw [h.frame]

theorem ledger (s : State) (l : Ledger) : LedgerWork s { s with ledger := l } := ⟨rfl, .of_words rfl⟩

theorem setWord {a : Nat} (ha : 0x4000000 ≤ a) (s : State) (v : Word) : LedgerWork s (setWord s a v) :=
  ⟨rfl, .setWord ha s v⟩

theorem setRf {a : Nat} (ha : 0x4000000 ≤ a) (s : State) (hi lo v : Nat) : LedgerWork s (setRf s a hi lo v) :=
  setWord ha s _

theorem setWord64 {a : Nat} (ha : 0x4000000 ≤ a) (s : State) (v : Nat) : LedgerWork s (setWord64 s a v) :=
  ⟨rfl, .setWord64 ha (Nat.le_add_right_of_le ha) s v⟩

theorem count {a : Nat} (ha : 0x4000000 ≤ a) (s : State) (n : Nat) : LedgerWork s (count s a n) := setWord ha s _

theorem count64 {a : Nat} (ha : 0x4000000 ≤ a) (s : State) (n : Nat) : LedgerWork s (count64 s a n) :=
  setWord64 ha s _

theorem ite {c : Prop} [Decidable c] {x y : State} (hx : LedgerWork s x) (hy : LedgerWork s y) :
    LedgerWork s (if c then x else y) := by
  split
  · exact hx
  · exact hy

theorem foldl {α : Type} {f : State → α → State} (h : ∀ s x, LedgerWork s (f s x)) (l : List α) (s : State) :
    LedgerWork s (l.foldl f s) := by
  induction l generalizing s with
  | nil => exact refl s
  | cons x l ih => exact (h s x).trans (ih _)

end LedgerWork

theorem ledgerWork_ledgerStatus (s : State) : LedgerWork s (ledgerStatus s) :=
  ((LedgerWork.setRf (by decide) s 1 0 _).trans (.setRf (by decide) _ 13 0 _)).trans (.setWord64 (by decide) _ _)

theorem ledgerWork_issueWrites (s : State) : LedgerWork s (issueWrites s) :=
  .foldl (fun s _ => .ite (.refl s) (.ite ((LedgerWork.count (by decide) s 1).trans (.ledger _ _))
    (.ite (.ledger s _) (.refl s)))) _ s

theorem ledgerWork_closeBlock (s : State) : LedgerWork s (closeBlock s) := by
  dsimp only [closeBlock]
  split
  · exact .refl s
  · exact (LedgerWork.ledger s _).trans (ledgerWork_issueWrites _)

theorem ledgerWork_layBytes (fuel kind : Nat) (plain : Bool) : ∀ (first : Bool) (bs : List Byte) (s : State),
    LedgerWork s (layBytes s fuel kind plain first bs) := by
  have close : ∀ (c : Prop) [Decidable c] (s : State), LedgerWork s (if c then closeBlock s else s) :=
    fun c _ s => .ite (ledgerWork_closeBlock s) (.refl s)
  induction fuel with
  | zero => exact fun first bs s => .refl s
  | succ fuel ih =>
    intro first bs s
    unfold layBytes
    cases s.ledger.open_ with
    | none => exact .refl s
    | some b =>
      exact .ite ((LedgerWork.ledger s _).trans (close ..)) (((LedgerWork.ledger s _).trans (close ..)).trans (ih ..))

theorem ledgerWork_putRecord (s : State) (kind reason : Nat) (bs : List Byte) :
    LedgerWork s (putRecord s kind reason bs) :=
  (((LedgerWork.count64 (by decide) s 1).trans (.ledger _ _)).trans (ledgerWork_layBytes ..)).trans
    (ledgerWork_ledgerStatus _)

theorem ledgerWork_endGaps (s : State) : LedgerWork s (endGaps s) :=
  (LedgerWork.ledger s _).trans (.foldl (fun _ _ => ledgerWork_putRecord ..) _ _)

theorem ledgerWork_loseRecord (s : State) (cause tenancy kind : Nat) (release : BitVec 64) (bytes : Nat) :
    LedgerWork s (loseRecord s cause tenancy kind release bytes) :=
  (LedgerWork.ledger s _).trans (ledgerWork_ledgerStatus _)

theorem ledgerWork_ledgerRecord (s : State) (kind reason tenancy : Nat) (charged : Bool) (bs : List Byte) :
    LedgerWork s (ledgerRecord s kind reason tenancy charged bs) :=
  .ite (.count (by decide) s 1)
    (.ite ((LedgerWork.count (by omega) s 1).trans (ledgerWork_loseRecord ..))
      (.ite ((LedgerWork.count64 (by decide) s 1).trans (ledgerWork_loseRecord ..))
        (((LedgerWork.ite (.ledger s _) (.refl s)).trans (ledgerWork_endGaps _)).trans (ledgerWork_putRecord ..))))

/-! ### Records of the timebase -/

theorem ledgerWork_timebaseRecord (s : State) (kind : Nat) (offset : Int) :
    LedgerWork s (timebaseRecord s kind offset) := ledgerWork_ledgerRecord ..

/-- The records of a changed boundary are no longer due, and nothing else but the ledger changed. -/
theorem ledgerWork_settleSteps (s : State) :
    LedgerWork { s with tbs := { s.tbs with stepDue := none } } (settleSteps s) := by
  unfold settleSteps
  cases h : s.tbs.stepDue with
  | none =>
    have hs : { s with tbs := { s.tbs with stepDue := none } } = s := by rw [← h]
    rw [hs]
    exact .refl s
  | some d =>
    have changed := fun b : List Byte => (ledgerWork_ledgerRecord { s with tbs := { s.tbs with stepDue := none } }
      recTimebase 0 0 false b).trans (ledgerWork_timebaseRecord _ tkStepAfter d.net)
    exact .ite ((changed _).trans (ledgerWork_timebaseRecord ..)) (changed _)

end Sys2Proof.Machine
end

section
/-! SUPPORT. The servo's changes of state and its restart (R261, R273). -/

namespace Sys2Proof.Machine

open Sys2Proof

/-- The words that a change of the servo's state touches. -/
def servoWord (a : Nat) : Prop := a = 0x300004 ∨ eventWord srcTimebase a ∨ ledgerWord a

theorem not_servoWord_of_between {a : Nat} (h : 0x500000 ≤ a) (h' : a < 0x4000000) : ¬servoWord a := by
  unfold servoWord eventWord ledgerWord srcTimebase
  omega

theorem servoState_congr {s u : State} (h : word u 0x300004 = word s 0x300004) : servoState u = servoState s :=
  rf_congr h 2 0

theorem meanIncr_congr {s u : State} (h : u.tbs.incrLog = s.tbs.incrLog) (h' : u.tbs.incr = s.tbs.incr) :
    meanIncr u = meanIncr s := by
  simp only [meanIncr, h, h']

/-- The servo went to state `v`: its successive estimates count anew, records that were due are written, and a record
and an event follow. -/
structure ServoMoves (v : Nat) (s u : State) : Prop where
  frame : u = { s with words := u.words, tbs := u.tbs, ledger := u.ledger, recorder := u.recorder }
  tbs : u.tbs = { s.tbs with good := 0, bad := 0, stepDue := none }
  state : sparseWf resetWord s.words → servoState u = v
  words : WordsBeside servoWord s u
  queues : ∀ k, k ≠ srcTimebase → look u.recorder.queues k = look s.recorder.queues k

/-- The state in which the servo's state is set and the records due are written. -/
def servoSet (s : State) (v : Nat) : State := setRf { s with tbs := { s.tbs with good := 0, bad := 0 } } 0x300004 2 0 v

/-- That state with the record of the change. -/
def servoRecorded (s : State) (v : Nat) : State :=
  timebaseRecord (settleSteps (servoSet s v)) tkReference (servoSet s v).tbs.offset

theorem servoTo_eq (s : State) (v : Nat) : servoTo s v = timebaseEvent (servoRecorded s v) v tkReference := rfl

theorem ledgerWork_servoRecorded (s : State) (v : Nat) :
    LedgerWork { servoSet s v with tbs := { (servoSet s v).tbs with stepDue := none } } (servoRecorded s v) :=
  (ledgerWork_settleSteps _).trans (ledgerWork_timebaseRecord ..)

theorem servoMoves_servoTo (s : State) {v : Nat} (hv : v < 8) : ServoMoves v s (servoTo s v) := by
  let m := { servoSet s v with tbs := { (servoSet s v).tbs with stepDue := none } }
  let n := servoRecorded s v
  have hn : LedgerWork m n := ledgerWork_servoRecorded s v
  have hu : servoTo s v = timebaseEvent n v tkReference := servoTo_eq s v
  have hevent := wordsBeside_event n srcTimebase evTimebase (detail v tkReference) 0 0 false
  have hset : WordsBeside servoWord s m :=
    (WordsBeside.setRf (show servoWord 0x300004 from .inl rfl) s 2 0 v).trans (.of_words rfl)
  refine ⟨?_, ?_, fun hs => ?_, ?_, fun k hk => ?_⟩
  · rw [hu, timebaseEvent, event_eq, hn.frame]
    rfl
  · rw [hu, timebaseEvent, event_eq]
    exact hn.tbs
  · have hword : word (servoTo s v) 0x300004 = word m 0x300004 :=
      (hevent.kept _ (by unfold eventWord; decide)).trans (hn.words.kept _ (by decide))
    have hset : servoState m = servoState (setRf s 0x300004 2 0 v) := servoState_congr (word_congr rfl _)
    rw [servoState_congr hword, hset, servoState, rf_setRf_self hs _ _ (by decide) (by decide)]
    exact Nat.mod_eq_of_lt hv
  · exact (hset.trans (hn.words.mono fun _ ha => .inr (.inr ha))).trans (hevent.mono fun _ ha => .inr (.inl ha))
  · rw [hu, timebaseEvent, look_queues_event_ne _ _ _ _ _ _ hk, hn.recorder]
    rfl

/-- The commit with which the servo leaves LOCKED: the mean INCR (R273). -/
abbrev meanCommit (s : State) : Commit :=
  ⟨.tbs, pf0, now s, effectRound (now s), [], .timebase ⟨0, meanIncr s, 0, 0, 0, 0⟩, 0⟩

/-- The servo started anew: from LOCKED in HOLDOVER with the mean INCR, and else in FREE_RUN. -/
structure ServoRestarts (s u : State) : Prop where
  frame : u = { s with
    words := u.words, tbs := u.tbs, ledger := u.ledger, commits := u.commits, recorder := u.recorder }
  idle : servoState s = 0 → u = s
  commits : u.commits = s.commits ++ if servoState s = 2 then [meanCommit s] else []
  state : sparseWf resetWord s.words → servoState u = if servoState s = 2 then 3 else 0
  words : WordsBeside servoWord s u
  queues : ∀ k, k ≠ srcTimebase → look u.recorder.queues k = look s.recorder.queues k

theorem servoRestarts_servoRestart (s : State) : ServoRestarts s (servoRestart s) := by
  have hframe := eq_of_apart (apart_servoRestart s)
  by_cases h2 : servoState s = 2
  · have hu : servoRestart s = servoTo (servoCommit s 0 (meanIncr s) 0) 3 := if_pos h2
    have hm := servoMoves_servoTo (servoCommit s 0 (meanIncr s) 0) (v := 3) (by decide)
    refine ⟨hframe, fun h0 => absurd h2 (h0 ▸ by decide), ?_, fun hs => ?_, ?_, ?_⟩
    · rw [hu, hm.frame, if_pos h2]
      rfl
    · rw [hu, hm.state hs, if_pos h2]
    · rw [hu]
      have hcommit : WordsBeside servoWord s (servoCommit s 0 (meanIncr s) 0) := .of_words rfl
      exact hcommit.trans hm.words
    · rw [hu]
      exact hm.queues
  · by_cases h0 : servoState s = 0
    · have hu : servoRestart s = s := (if_neg h2).trans (if_pos h0)
      rw [hu]
      exact ⟨rfl, fun _ => rfl, by rw [if_neg h2, List.append_nil], fun _ => h0.trans (if_neg h2).symm, .of_words rfl,
        fun _ _ => rfl⟩
    · have hu : servoRestart s = servoTo s 0 := (if_neg h2).trans (if_neg h0)
      have hm := servoMoves_servoTo s (v := 0) (by decide)
      rw [hu] at hframe ⊢
      refine ⟨hframe, fun h => absurd h h0, ?_, fun hs => (hm.state hs).trans (if_neg h2).symm, hm.words, hm.queues⟩
      rw [hm.frame, if_neg h2, List.append_nil]

end Sys2Proof.Machine
end

section
/-! SUPPORT. Estimates and lost references of the servo, and HEALTH records (R272, R273, R279). -/

namespace Sys2Proof.Machine

open Sys2Proof

theorem exec_servoEstimate (offset : Int) (incr : BitVec 48) (s : State) :
    exec (.servoEstimate offset incr) s = act s (servoEstimateStep offset incr) := rfl
theorem exec_referenceLost (s : State) : exec .referenceLost s = act s referenceLostStep := rfl
theorem exec_healthRecord (s : State) : exec .healthRecord s = act s healthRecordStep := rfl

/-- A commit of the servo, with full time and its seconds left as they are. -/
abbrev servoCommitOf (s : State) (mode : Nat) (incr : BitVec 48) (offset : Int) : Commit :=
  ⟨.tbs, pf0, now s, effectRound (now s), [], .timebase ⟨mode, incr, offset, 0, 0, 0⟩, 0⟩

/-- Nothing but the books changed: the registers, the timebase, the commits, the ledger and the recorder. -/
abbrev BooksOnly (s u : State) : Prop := u = { s with
  words := u.words, tbs := u.tbs, commits := u.commits, ledger := u.ledger, recorder := u.recorder }

/-! ### Estimates -/

section
variable {offset : Int} {incr : BitVec 48} {s : State} (hon : servoOn s = true)

/-- The state in which an estimate is taken over. -/
def withEstimate (offset : Int) (s : State) : State :=
  { s with tbs := { s.tbs with offset := offset, refPresent := true } }

/-- The servo enters ACQUIRE, with an OFFSET when the estimate lies beyond the slew threshold. -/
def enterAcquire (offset : Int) (incr : BitVec 48) (s : State) : State :=
  if (word (servoTo s 1) 0x300018).toNat < offset.natAbs then servoCommit (servoTo s 1) 1 incr offset
  else servoCommit (servoTo s 1) 0 incr 0

include hon

theorem servoEstimateStep_good (h : servoState s = 1) (hlimit : offset.natAbs ≤ rf s 0x300000 31 16)
    (hgood : s.tbs.good < 7) : servoEstimateStep offset incr s = servoCommit
      { s with tbs := { s.tbs with offset := offset, refPresent := true, good := s.tbs.good + 1 } } 0 incr 0 := by
  have h1 : servoState (withEstimate offset s) = 1 := h
  have hl : offset.natAbs ≤ rf (withEstimate offset s) 0x300000 31 16 := hlimit
  have hg : ¬8 ≤ s.tbs.good + 1 := by omega
  unfold servoEstimateStep
  simp only [withEstimate] at h1 hl
  simp only [hon, h1, hl, hg, if_true, if_false, Bool.not_true, Bool.false_eq_true]

theorem servoEstimateStep_enters (h1 : servoState s ≠ 1) (h2 : servoState s ≠ 2) :
    servoEstimateStep offset incr s = enterAcquire offset incr (withEstimate offset s) := by
  have hs : servoState (withEstimate offset s) = servoState s := rfl
  unfold servoEstimateStep
  simp only [withEstimate] at hs
  rcases hn : servoState s with _ | _ | _ | n
  case succ.zero => exact absurd hn h1
  case succ.succ.zero => exact absurd hn h2
  all_goals
    simp only [hon, hs, hn, Bool.not_true, Bool.false_eq_true, if_false]
    rfl

end

theorem enterAcquire_eq (offset : Int) (incr : BitVec 48) (s : State) : enterAcquire offset incr s =
    { servoTo s 1 with commits := s.commits ++ [if (word s 0x300018).toNat < offset.natAbs
      then servoCommitOf s 1 incr offset else servoCommitOf s 0 incr 0] } := by
  have hm := servoMoves_servoTo s (v := 1) (by decide)
  have hw : word (servoTo s 1) 0x300018 = word s 0x300018 :=
    hm.words.kept _ (by unfold servoWord eventWord; decide)
  have hc : (servoTo s 1).commits = s.commits := by rw [hm.frame]
  have hn : now (servoTo s 1) = now s := by rw [hm.frame]; rfl
  rw [enterAcquire, hw]
  split <;> simp only [servoCommit, hc, hn]

theorem runs_servoEstimate_good {offset : Int} {incr : BitVec 48} {s : State} (hl : Live s) (hon : servoOn s = true)
    (h : servoState s = 1) (hlimit : offset.natAbs ≤ rf s 0x300000 31 16) (hgood : s.tbs.good < 7) :
    Runs (.servoEstimate offset incr) s fun u => u = { s with
      tbs := { s.tbs with offset := offset, refPresent := true, good := s.tbs.good + 1 }
      commits := s.commits ++ [servoCommitOf s 0 incr 0] } :=
  runs_act hl (exec_servoEstimate ..) (servoEstimateStep_good hon h hlimit hgood)

theorem runs_servoEstimate_enters {offset : Int} {incr : BitVec 48} {s : State} (hl : Live s)
    (hon : servoOn s = true) (h1 : servoState s ≠ 1) (h2 : servoState s ≠ 2) (hc : Canonical s) :
    Runs (.servoEstimate offset incr) s fun u => BooksOnly s u ∧ servoState u = 1 ∧ u.tbs.refPresent = true ∧
      u.commits = s.commits ++ [if (word s 0x300018).toNat < offset.natAbs then servoCommitOf s 1 incr offset
        else servoCommitOf s 0 incr 0] := by
  have hm := servoMoves_servoTo (withEstimate offset s) (v := 1) (by decide)
  refine runs_act hl (exec_servoEstimate ..) ?_
  rw [servoEstimateStep_enters hon h1 h2, enterAcquire_eq]
  refine ⟨?_, (servoState_congr (word_congr rfl _)).trans (hm.state hc.2.1), congrArg Timebase.refPresent hm.tbs, rfl⟩
  rw [BooksOnly, hm.frame]
  rfl

/-! ### A reference lost -/

/-- The state in which the reference is noted as lost, in a state of the servo that used it. -/
def withoutReference (s : State) : State :=
  { s with tbs := { s.tbs with refPresent := false, offset := 0, lostSinceHealth := true } }

theorem referenceLostStep_acquire {s : State} (h : servoState s = 1) :
    referenceLostStep s = servoTo (withoutReference s) 0 := by
  simp only [referenceLostStep, h]
  rfl

theorem referenceLostStep_locked {s : State} (h : servoState s = 2) :
    referenceLostStep s = servoTo (servoCommit (withoutReference s) 0 (meanIncr s) 0) 3 := by
  simp only [referenceLostStep, h]
  rfl

theorem runs_referenceLost_locked {s : State} (hl : Live s) (h : servoState s = 2) (hc : Canonical s) :
    Runs .referenceLost s fun u => BooksOnly s u ∧ servoState u = 3 ∧ u.tbs.refPresent = false ∧
      u.tbs.lostSinceHealth = true ∧ u.commits = s.commits ++ [servoCommitOf s 0 (meanIncr s) 0] := by
  have hm := servoMoves_servoTo (servoCommit (withoutReference s) 0 (meanIncr s) 0) (v := 3) (by decide)
  refine runs_act hl (exec_referenceLost s) ?_
  rw [referenceLostStep_locked h]
  refine ⟨?_, hm.state hc.2.1, congrArg Timebase.refPresent hm.tbs, congrArg Timebase.lostSinceHealth hm.tbs, ?_⟩
  · rw [BooksOnly, hm.frame]
    rfl
  · rw [hm.frame]
    rfl

theorem runs_referenceLost_acquire {s : State} (hl : Live s) (h : servoState s = 1) (hc : Canonical s) :
    Runs .referenceLost s fun u => BooksOnly s u ∧ servoState u = 0 ∧ u.commits = s.commits := by
  have hm := servoMoves_servoTo (withoutReference s) (v := 0) (by decide)
  refine runs_act hl (exec_referenceLost s) ?_
  rw [referenceLostStep_acquire h]
  refine ⟨?_, hm.state hc.2.1, ?_⟩
  · rw [BooksOnly, hm.frame]
    rfl
  · rw [hm.frame]
    rfl

/-! ### HEALTH records -/

theorem healthRecordStep_due {s : State} (ht : now s % 256 = 0) (hr : round s % 2 ^ 20 = 0)
    (hd : s.tbs.stepDue = none) :
    healthRecordStep s = { timebaseRecord s tkHealth s.tbs.offset with
      tbs := { (timebaseRecord s tkHealth s.tbs.offset).tbs with stepsSinceHealth := 0, lostSinceHealth := false }
      ledger := { (timebaseRecord s tkHealth s.tbs.offset).ledger with
        lastHealth := timebaseBody s tkHealth (now s) (fullUnits s) s.tbs.offset } } := by
  have hs : settleSteps s = s := by simp only [settleSteps, hd]
  have hnot : ¬(now s % 256 ≠ 0 ∨ round s % 2 ^ 20 ≠ 0) := by omega
  rw [healthRecordStep, if_neg hnot, hs]

theorem runs_healthRecord {s : State} (hl : Live s) (ht : now s % 256 = 0) (hr : round s % 2 ^ 20 = 0)
    (hd : s.tbs.stepDue = none) :
    Runs .healthRecord s fun u => BooksOnly s u ∧
      u.tbs = { s.tbs with stepsSinceHealth := 0, lostSinceHealth := false } ∧
      u.ledger.lastHealth = timebaseBody s tkHealth (now s) (fullUnits s) s.tbs.offset := by
  have hk := ledgerWork_timebaseRecord s tkHealth s.tbs.offset
  refine runs_act hl (exec_healthRecord s) ?_
  rw [healthRecordStep_due ht hr hd]
  refine ⟨?_, ?_, rfl⟩
  · rw [BooksOnly, hk.frame]
  · rw [hk.tbs]

/-- Settles O30: estimates and lost references by the state of the servo. That an estimate in ACQUIRE commits its INCR
follows entry 72 of the assumption log. -/
theorem servoAndHealth : Obligations.ServoAndHealth := by
  intro offset incr s t commit frame hl
  exact ⟨runs_servoEstimate_good hl, runs_servoEstimate_enters hl, runs_referenceLost_locked hl,
    runs_referenceLost_acquire hl, runs_healthRecord hl⟩

end Sys2Proof.Machine
end

section
/-! SUPPORT. Commits and readings of the timebase that functions ask for (R264, R276, R280). -/

namespace Sys2Proof.Machine

open Sys2Proof

theorem exec_tbsAdjGo (fn : FnId) (s : State) :
    exec (.tbsAdjGo fn) s = act s fun s => writeAs s fn 0x300030 (tbsAdjGoStep fn) := rfl
theorem exec_tbsSnap (fn : FnId) (s : State) :
    exec (.tbsSnap fn) s = act s fun s => writeAs s fn 0x300040 (tbsSnapStep fn) := rfl
theorem exec_txtsHeadRead (fn : FnId) (p : Fin 16) (s : State) :
    exec (.txtsHeadRead fn p) s = act s fun s => readAs s fn (txtsHeadReadStep fn p.val) := rfl

section
variable {fn : FnId} {s : State}

/-! ### TBS_ADJ_GO -/

/-- SERVO_EN, with which the servo has FREQ and OFFSET for itself. -/
abbrev servoEnabled (s : State) : Prop := bit (word s 0x300000) 0 = true

variable (hp : platform s fn = true)
include hp

theorem tbsAdjGoStep_requests (hm : (timebaseBlock s fn).mode < 4)
    (hs : 2 ≤ (timebaseBlock s fn).mode ∨ ¬servoEnabled s) :
    tbsAdjGoStep fn s = requestCommit s .tbs fn (.timebase (timebaseBlock s fn)) := by
  have hservo : ¬((timebaseBlock s fn).mode < 2 ∧ servoEnabled s) := fun h => hs.elim (Nat.not_le.2 h.1) fun hn => hn h.2
  simp only [tbsAdjGoStep, hp, Nat.not_le.2 hm, hservo, Bool.not_true, Bool.false_eq_true, if_false]

theorem tbsAdjGoStep_reserved (hm : 4 ≤ (timebaseBlock s fn).mode) : tbsAdjGoStep fn s = timebaseEvent s 4 0 := by
  simp only [tbsAdjGoStep, hp, hm, Bool.not_true, Bool.false_eq_true, if_false, if_true]

theorem tbsAdjGoStep_servo (hs : servoEnabled s) (hm : (timebaseBlock s fn).mode < 2) :
    tbsAdjGoStep fn s = timebaseEvent (setLast s 8) 8 0 := by
  have h4 : ¬4 ≤ (timebaseBlock s fn).mode := by omega
  simp only [tbsAdjGoStep, hp, h4, hm, hs, and_self, Bool.not_true, Bool.false_eq_true, if_false, if_true]

omit hp in
/-- LAST shows code 8 of a GO that the servo refuses, after its event too. -/
theorem rf_last_event {s : State} (hc : Canonical s) : rf (timebaseEvent (setLast s 8) 8 0) 0x300034 11 8 = 8 := by
  have hkept := (wordsBeside_event (setLast s 8) srcTimebase evTimebase (detail 8 0) 0 0 false).kept 0x300034
    (by unfold eventWord; decide)
  rw [timebaseEvent, rf_congr hkept, setLast, rf_setRf_self hc.2.1 _ _ (by decide) (by decide)]
  rfl

theorem runs_tbsAdjGo_refused (hw : MayWrite s fn 0x300030)
    (hm : 4 ≤ (timebaseBlock s fn).mode ∨ servoEnabled s ∧ (timebaseBlock s fn).mode < 2) :
    Runs (.tbsAdjGo fn) s fun u => u = { s with words := u.words, recorder := u.recorder } ∧
      (Canonical s → (timebaseBlock s fn).mode < 2 → rf u 0x300034 11 8 = 8) := by
  refine runs_go (exec_tbsAdjGo fn s) hw ?_
  obtain h4 | ⟨hs, h2⟩ := hm
  · rw [tbsAdjGoStep_reserved hp h4]
    exact ⟨event_eq .., fun _ h2 => absurd h4 (by omega)⟩
  · rw [tbsAdjGoStep_servo hp hs h2]
    refine ⟨?_, fun hc _ => rf_last_event hc⟩
    obtain ⟨w, r, hevent⟩ := exists_event_eq (setLast s 8) srcTimebase evTimebase (detail 8 0) 0 0 false
    obtain ⟨w', hlast⟩ : ∃ w', setLast s 8 = { s with words := w' } := ⟨_, rfl⟩
    rw [timebaseEvent, hevent, hlast]

/-! ### TBS_SNAP and the head of a timestamp queue -/

theorem tbsSnapStep_platform : tbsSnapStep fn s = { s with tbs := { s.tbs with snapAt := some (now s + 1) } } := by
  simp only [tbsSnapStep, hp, Bool.not_true, Bool.false_eq_true, if_false]

omit hp in
theorem readAs_mayRead (hr : MayRead s fn) (f : State → State) : readAs s fn f = f { s with reply := [] } := by
  have hreach : reachable { s with reply := [] } fn = true := hr.2
  have hup : (endpoint { s with reply := [] } fn.ep).down = false := reachable_up hreach
  simp only [readAs, hreach, hup, Bool.not_true, Bool.false_eq_true, if_false]

omit hp in
/-- A 64-bit number stored touches the register words only. -/
theorem setWord64_eq (s : State) (a v : Nat) : setWord64 s a v = { s with words := (setWord64 s a v).words } := rfl

/-- The state after the head of a port's queue is read: its time is shown, and the rest waits. -/
def headTaken (s : State) (p : Nat) (e : Nat × Nat × Nat × BitVec 64) (rest : List (Nat × Nat × Nat × BitVec 64)) :
    State :=
  { s with
    words := (setWord64 s (0x303004 + p * 0x10) e.2.2.2.toNat).words
    reply := [BitVec.ofNat 32 (e.1 % 65536 + e.2.1 * 65536 + e.2.2.1 * 2 ^ 20 + 2 ^ 31)]
    tbs := { s.tbs with txts := place s.tbs.txts p rest } }

theorem txtsHeadReadStep_head {p : Nat} {e : Nat × Nat × Nat × BitVec 64} {rest : List (Nat × Nat × Nat × BitVec 64)}
    (h : look s.tbs.txts p = some (e :: rest)) : txtsHeadReadStep fn p s = headTaken s p e rest := by
  simp only [txtsHeadReadStep, h, Option.getD_some, hp, Bool.not_true, Bool.false_eq_true, if_false]
  rw [setWord64_eq]
  rfl

end

theorem word_setWord64 {s : State} (hc : sparseWf resetWord s.words) (a : Nat) (v : BitVec 64) :
    word (setWord64 s a v.toNat) a = v.truncate 32 ∧ word (setWord64 s a v.toNat) (a + 4) = (v >>> 32).truncate 32 := by
  have hw : sparseWf resetWord (setWord s a (BitVec.ofNat 32 v.toNat)).words := setWord_wf _ _ _ hc
  refine ⟨?_, ?_⟩
  · rw [setWord64, word_setWord_ne _ _ _ _ (by omega), word_setWord _ _ _ _ hc, if_pos rfl]
    rfl
  · rw [setWord64, word_setWord _ _ _ _ hw, if_pos rfl]
    apply BitVec.eq_of_toNat_eq
    simp [Nat.shiftRight_eq_div_pow]

theorem runs_txtsHeadRead {fn : FnId} {p : Fin 16} {e : Nat × Nat × Nat × BitVec 64}
    {rest : List (Nat × Nat × Nat × BitVec 64)} {s : State} (hp : platform s fn = true) (hr : MayRead s fn)
    (h : look s.tbs.txts p.val = some (e :: rest)) : Runs (.txtsHeadRead fn p) s fun u =>
      u.reply = [BitVec.ofNat 32 (e.1 % 65536 + e.2.1 * 65536 + e.2.2.1 * 2 ^ 20 + 2 ^ 31)] ∧
      look u.tbs.txts p.val = some rest ∧ u = { s with reply := u.reply, tbs := u.tbs, words := u.words } ∧
      (Canonical s → word u (0x303004 + p.val * 0x10) = e.2.2.2.truncate 32 ∧
        word u (0x303008 + p.val * 0x10) = (e.2.2.2 >>> 32).truncate 32) := by
  have hp' : platform { s with reply := [] } fn = true := hp
  refine runs_act hr.1 (exec_txtsHeadRead fn p s) ?_
  rw [readAs_mayRead hr, txtsHeadReadStep_head hp' h]
  refine ⟨rfl, look_place_self .., rfl, fun hc => ?_⟩
  have ha : 0x303008 + p.val * 0x10 = 0x303004 + p.val * 0x10 + 4 := by omega
  rw [ha]
  exact word_setWord64 (s := { s with reply := [] }) hc.2.1 _ _

end Sys2Proof.Machine
end

section
/-! SUPPORT. Happenings of the timebase: the end of a slew, Midnight, and edges of its signals (R262, R265, R278). -/

namespace Sys2Proof.Machine

open Sys2Proof

theorem exec_slewEnd (s : State) : exec .slewEnd s = act s slewEndStep := rfl
theorem exec_midnight (s : State) : exec .midnight s = act s midnightStep := rfl
theorem exec_epochBaseAdvance (s : State) : exec .epochBaseAdvance s = act s epochBaseAdvanceStep := rfl
theorem exec_ppsInEdge (time : BitVec 64) (s : State) : exec (.ppsInEdge time) s = act s (ppsInEdgeStep time) := rfl
theorem exec_ppsPresentExpire (s : State) : exec .ppsPresentExpire s = act s ppsPresentExpireStep := rfl
theorem exec_ppsOutEdge (rise : Bool) (s : State) : exec (.ppsOutEdge rise) s = act s (ppsOutEdgeStep rise) := rfl
theorem exec_freqInEdge (s : State) : exec .freqInEdge s = act s freqInEdgeStep := rfl

/-- Nothing but the timebase, which is now `v`, and TBS_STATUS changed. -/
abbrev TimebaseOnly (v : Timebase) (s u : State) : Prop :=
  u = { s with words := u.words, tbs := v } ∧ WordsKept [0x300004] s u

theorem timebaseOnly_setRf (s : State) (v : Timebase) (hi lo x : Nat) :
    TimebaseOnly v s (setRf { s with tbs := v } 0x300004 hi lo x) :=
  ⟨rfl, fun _ ha => word_setWord_ne { s with tbs := v } _ _ _ fun h => ha (h ▸ List.mem_singleton_self _)⟩

/-- A reading kept touches the timebase only. -/
theorem keepReading_eq (s : State) : keepReading s = { s with tbs := (keepReading s).tbs } := by
  unfold keepReading
  split <;> rfl

theorem keepReading_midnights (s : State) : (keepReading s).tbs.midnights = s.tbs.midnights := by
  unfold keepReading
  split <;> rfl

/-- The state in which compact time wraps. -/
def wrapped (s : State) : State :=
  { s with tbs := { s.tbs with midnights := s.tbs.midnights + 1, wrapAt := some (now s) } }

theorem midnightStep_wraps {s : State} (h : s.tbs.wrapAt = none) (hu : s.tbs.base.toNat + 2 ^ 64 ≤ fullUnits s) :
    midnightStep s = setRf { s with tbs := (keepReading (wrapped s)).tbs } 0x300004 31 16
      (s.tbs.midnights + 1).toNat := by
  have hcond : ¬(s.tbs.wrapAt.isSome ∨ fullUnits s < s.tbs.base.toNat + 2 ^ 64) := by
    rw [h]
    exact fun hc => hc.elim (by decide) (Nat.not_lt.2 hu)
  have hk : keepReading (wrapped s) = { s with tbs := (keepReading (wrapped s)).tbs } := keepReading_eq _
  have hm : (keepReading (wrapped s)).tbs.midnights = s.tbs.midnights + 1 := keepReading_midnights _
  rw [← hm, ← hk, midnightStep, if_neg hcond]
  rfl

theorem rf_status_setRf {s : State} (hc : Canonical s) (v : Timebase) {hi lo : Nat} (x : Nat) (hw : hi < 32)
    (hlo : lo ≤ hi) : rf (setRf { s with tbs := v } 0x300004 hi lo x) 0x300004 hi lo = x % 2 ^ (hi + 1 - lo) :=
  rf_setRf_self (s := { s with tbs := v }) hc.2.1 _ _ hw hlo

section
variable {s : State} (hl : Live s)
include hl

theorem runs_slewEnd (h : s.tbs.slewLeft = 0) (hb : bit (word s 0x300004) 5 = true) : Runs .slewEnd s fun u =>
    TimebaseOnly { s.tbs with slewPer := 0, slewRem := 0 } s u ∧ (Canonical s → rf u 0x300004 5 5 = 0) := by
  have hstep : slewEndStep s = setRf { s with tbs := { s.tbs with slewPer := 0, slewRem := 0 } } 0x300004 5 5 0 := by
    have hcond : s.tbs.slewLeft = 0 ∧ bit (word s 0x300004) 5 = true := ⟨h, hb⟩
    rw [slewEndStep, if_pos hcond, endSlew, ← h]
  refine runs_act hl (exec_slewEnd s) ?_
  rw [hstep]
  exact ⟨timebaseOnly_setRf .., fun hc => rf_status_setRf hc _ _ (by decide) (by decide)⟩

theorem runs_midnight (h : s.tbs.wrapAt = none) (hu : s.tbs.base.toNat + 2 ^ 64 ≤ fullUnits s) :
    Runs .midnight s fun u => TimebaseOnly (keepReading (wrapped s)).tbs s u ∧
      (Canonical s → rf u 0x300004 31 16 = (s.tbs.midnights + 1).toNat) := by
  refine runs_act hl (exec_midnight s) ?_
  rw [midnightStep_wraps h hu]
  refine ⟨timebaseOnly_setRf .., fun hc => ?_⟩
  rw [rf_status_setRf hc _ _ (by decide) (by decide)]
  exact Nat.mod_eq_of_lt (s.tbs.midnights + 1).isLt

/-! ### The epoch base -/

omit hl in
/-- The state in which the base has moved on and its registers show it. -/
def baseMoved (s : State) : State :=
  let base := s.tbs.base + BitVec.ofNat 96 (2 ^ 64)
  showBase (showBase { s with tbs := { s.tbs with base := base, wrapAt := none } } 0x300068 0x300090 s.tbs.base.toNat)
    0x300060 0x30008C base.toNat

omit hl in
theorem exists_showBase_eq (s : State) (lo ns base : Nat) : ∃ w, showBase s lo ns base = { s with words := w } := by
  dsimp only [showBase, setWord64, setWord]
  exact ⟨_, rfl⟩

omit hl in
theorem exists_baseMoved_eq (s : State) : ∃ w, baseMoved s = { s with
    words := w, tbs := { s.tbs with base := s.tbs.base + BitVec.ofNat 96 (2 ^ 64), wrapAt := none } } := by
  obtain ⟨w, hold⟩ := exists_showBase_eq
    { s with tbs := { s.tbs with base := s.tbs.base + BitVec.ofNat 96 (2 ^ 64), wrapAt := none } } 0x300068 0x300090
    s.tbs.base.toNat
  obtain ⟨w', hnew⟩ := exists_showBase_eq { s with
    words := w, tbs := { s.tbs with base := s.tbs.base + BitVec.ofNat 96 (2 ^ 64), wrapAt := none } } 0x300060 0x30008C
    (s.tbs.base + BitVec.ofNat 96 (2 ^ 64)).toNat
  exact ⟨w', by simp only [baseMoved, hold, hnew]⟩

theorem runs_epochBaseAdvance {w : Nat} (h : s.tbs.wrapAt = some w) (ht : now s % 256 = 0) (hw : w < now s) :
    Runs .epochBaseAdvance s fun u =>
      u.tbs = { s.tbs with base := s.tbs.base + BitVec.ofNat 96 (2 ^ 64), wrapAt := none } ∧ u.mem = s.mem ∧
      u = { s with words := u.words, tbs := u.tbs, ledger := u.ledger, recorder := u.recorder } := by
  have hcond : ¬(now s % 256 ≠ 0 ∨ now s ≤ w) := by omega
  have hstep : epochBaseAdvanceStep s = timebaseEvent (timebaseRecord (baseMoved s) tkMidnight 0) 0 tkMidnight := by
    simp only [epochBaseAdvanceStep, h, hcond, if_false]
    rfl
  obtain ⟨w', l, hrecord⟩ := (ledgerWork_timebaseRecord (baseMoved s) tkMidnight 0).exists_eq
  obtain ⟨w'', r, hevent⟩ := exists_event_eq (timebaseRecord (baseMoved s) tkMidnight 0) srcTimebase evTimebase
    (detail 0 tkMidnight) 0 0 false
  obtain ⟨x, hmoved⟩ := exists_baseMoved_eq s
  refine runs_act hl (exec_epochBaseAdvance s) ?_
  rw [hstep, timebaseEvent, hevent, hrecord, hmoved]
  exact ⟨rfl, rfl, rfl⟩

/-! ### Signals -/

theorem runs_ppsPresentExpire {w : Nat} (h : s.tbs.ppsUntil = some w) (hw : w ≤ now s) :
    Runs .ppsPresentExpire s fun u =>
      TimebaseOnly { s.tbs with ppsUntil := none } s u ∧ (Canonical s → rf u 0x300004 3 3 = 0) := by
  refine runs_act hl (exec_ppsPresentExpire s) ?_
  simp only [ppsPresentExpireStep, h, Nat.not_lt.2 hw, if_false]
  exact ⟨timebaseOnly_setRf .., fun hc => rf_status_setRf hc _ _ (by decide) (by decide)⟩

omit hl in
/-- The state after an edge of TB_PPS_IN, before an event about its distance from the last. -/
def edgeTaken (s : State) (time : BitVec 64) (err : Int) : State :=
  let at_ := time - BitVec.ofNat 64 (rf s 0x300078 15 0)
  { s with
    words := (setRf (setWord64 s 0x300070 at_.toNat) 0x300004 3 3 1).words
    tbs := { s.tbs with ppsUntil := some (now s + ppsHold), ppsEdge := some at_, ppsError := err } }

omit hl in
theorem ppsInEdgeStep_eq (time : BitVec 64) (s : State) : ∃ (err : Int) (late : Bool), ppsInEdgeStep time s =
    if late then timebaseEvent (edgeTaken s time err) 2 0 else edgeTaken s time err := by
  dsimp only [ppsInEdgeStep, setRf, setWord64, setWord]
  exact ⟨_, _, rfl⟩

theorem runs_ppsInEdge (time : BitVec 64) : Runs (.ppsInEdge time) s fun u =>
    u = { s with words := u.words, tbs := u.tbs, recorder := u.recorder } ∧
    u.tbs.ppsUntil = some (now s + 375000000) ∧
    u.tbs.ppsEdge = some (time - BitVec.ofNat 64 (rf s 0x300078 15 0)) ∧ (Canonical s → rf u 0x300004 3 3 = 1) := by
  obtain ⟨err, late, hstep⟩ := ppsInEdgeStep_eq time s
  have hshown : Canonical s → rf (edgeTaken s time err) 0x300004 3 3 = 1 := fun hc =>
    rf_setRf_self (s := setWord64 s 0x300070 _) (setWord_wf _ _ _ (setWord_wf _ _ _ hc.2.1)) 0x300004 1 (by decide)
      (by decide)
  refine runs_act hl (exec_ppsInEdge time s) ?_
  rw [hstep]
  cases late with
  | false => exact ⟨rfl, rfl, rfl, hshown⟩
  | true =>
    have hword := (wordsBeside_event (edgeTaken s time err) srcTimebase evTimebase (detail 2 0) 0 0 false).kept 0x300004
      (by unfold eventWord; decide)
    obtain ⟨w, r, hevent⟩ := exists_event_eq (edgeTaken s time err) srcTimebase evTimebase (detail 2 0) 0 0 false
    rw [hevent] at hword
    rw [if_pos rfl, timebaseEvent, hevent]
    exact ⟨rfl, rfl, rfl, fun hc => (rf_congr hword 3 3).trans (hshown hc)⟩

omit hl in
/-- The whole second, counted from OFFSET on, in which a time in units ends (R278). -/
abbrev pulseOf (s : State) (u : Nat) : Int :=
  ((u : Int) - 1 - toSigned 32 (word s 0x30007C).toNat * 256) / (unitsPerSecond : Int)

theorem runs_ppsOutEdge_rises (h : s.tbs.ppsOut = none) (hen : bit (word s 0x300078) 16 = true)
    (hk : pulseOf s (fullUnits s) ≠ pulseOf s (unitsAtEnd s)) : Runs (.ppsOutEdge true) s fun u =>
      u = { s with tbs := { s.tbs with ppsOut := some (pulseOf s (unitsAtEnd s) * (unitsPerSecond : Int) +
        toSigned 32 (word s 0x30007C).toNat * 256).toNat } } := by
  have hne : (pulseOf s (fullUnits s) != pulseOf s (unitsAtEnd s)) = true := bne_iff_ne.2 hk
  refine runs_act hl (exec_ppsOutEdge true s) ?_
  simp only [ppsOutEdgeStep, h, hen, hne, Bool.and_self, if_true]

theorem runs_ppsOutEdge_falls {w : Nat} (h : s.tbs.ppsOut = some w)
    (hw : w + max 1 (rf s 0x300080 18 0) * 256000 < unitsAtEnd s) : Runs (.ppsOutEdge false) s fun u =>
      u = { s with tbs := { s.tbs with ppsOut := none } } := by
  refine runs_act hl (exec_ppsOutEdge false s) ?_
  simp only [ppsOutEdgeStep, h, hw, decide_true, Bool.not_false, Bool.and_self, if_true]

end

/-- Settles O29: what functions ask for by the step of each command, and each happening by its condition. -/
theorem timebaseWork : Obligations.TimebaseWork := by
  constructor
  · intro fn p e rest s c servo hp
    refine ⟨fun hw => ⟨fun hm hs => ?_, runs_tbsAdjGo_refused hp hw⟩, fun hw => ?_, runs_txtsHeadRead hp⟩
    · refine runs_go (exec_tbsAdjGo fn s) hw ?_
      rw [tbsAdjGoStep_requests hp hm hs]
      exact ⟨rfl, rfl, rfl⟩
    · exact runs_go (exec_tbsSnap fn s) hw (tbsSnapStep_platform hp)
  · intro w time s t off k only hl
    exact ⟨runs_slewEnd hl, runs_midnight hl, runs_epochBaseAdvance hl, runs_ppsInEdge hl time,
      runs_ppsPresentExpire hl, runs_ppsOutEdge_rises hl, runs_ppsOutEdge_falls hl, runs_act hl (exec_freqInEdge s) rfl⟩

end Sys2Proof.Machine
end

section
/-! SUPPORT. Pauses that ports receive and send (R310–R312). -/

namespace Sys2Proof.Machine

open Sys2Proof

theorem exec_pauseAct (p : Fin 16) (s : State) : exec (.pauseAct p) s = act s (pauseActStep p.val) := rfl
theorem exec_pauseExpire (p : Fin 16) (s : State) : exec (.pauseExpire p) s = act s (pauseExpireStep p.val) := rfl
theorem exec_pauseResend (p : Fin 16) (q : Fin 8) (s : State) :
    exec (.pauseResend p q) s = act s (pauseResendStep p.val q.val) := rfl

theorem port_putPort_ne (s : State) (n k : Nat) (v : PortState) (h : k ≠ n) : port (putPort s n v) k = port s k := by
  simp [port, putPort, look_place_ne _ _ _ _ h]

/-- The ports but `p` are as they were. -/
abbrev OtherPorts (p : Nat) (s u : State) : Prop := ∀ k, k ≠ p → port u k = port s k

theorem otherPorts_putPort (s : State) (p : Nat) (v : PortState) : OtherPorts p s (putPort s p v) :=
  fun k hk => port_putPort_ne s p k v hk

section
variable {p : Nat} {s : State}

/-! ### A received pause acts -/

/-- A port that a pause of one kind holds until a tick. -/
def heldPort (v : PortState) (q : Option (Fin 8)) (t : Nat) : PortState :=
  match q with
  | none => { v with pausedUntil := t }
  | some q => { v with pfcUntil := v.pfcUntil.set q.val t }

theorem holdUntil_eq (s : State) (p : Nat) (q : Option (Fin 8)) (t : Nat) :
    holdUntil s p q t = putPort s p (heldPort (port s p) q t) := by
  cases q <;> rfl

theorem pauseBit_lt (q : Option (Fin 8)) : pauseBit q < 32 := by
  cases q with
  | none => decide
  | some q => simp only [pauseBit]; omega

/-- A port after a received pause of `t` ticks: a time of 0 resumes. -/
def pausedPort (v : PortState) (d : PauseDue) (t : Nat) : PortState :=
  { heldPort v d.prio (d.act + t) with
    resumed := if t = 0 then some d.act else (heldPort v d.prio (d.act + t)).resumed }

/-- A received pause holds its port, and its bit of MAC_STATUS shows it. -/
theorem exists_pauseOne_eq (p : Nat) (s : State) (d : PauseDue) : ∃ ports,
    pauseOne p s d = { s with
      words := (setRf s (macAddr p 8) (pauseBit d.prio) (pauseBit d.prio)
        (if pauseTicks (portRate s p) d.quanta = 0 then 0 else 1)).words
      ports := ports } ∧
    port (pauseOne p s d) p = pausedPort (port s p) d (pauseTicks (portRate s p) d.quanta) ∧
    OtherPorts p s (pauseOne p s d) := by
  simp only [pauseOne, holdUntil_eq, pausedPort]
  generalize pauseTicks (portRate s p) d.quanta = t
  split_ifs with h
  · refine ⟨_, rfl, ?_, fun k hk => ?_⟩
    · rw [port_putPort, port_of_setRf, port_putPort]
    · rw [port_putPort_ne _ _ _ _ hk, port_of_setRf, port_putPort_ne _ _ _ _ hk]
  · refine ⟨_, rfl, ?_, fun k hk => ?_⟩
    · rw [port_of_setRf, port_putPort]
    · rw [port_of_setRf, port_putPort_ne _ _ _ _ hk]

theorem runs_pauseAct {p : Fin 16} {d : PauseDue} (hl : Live s) (h : (port s p.val).pauses = [d])
    (hd : d.act ≤ now s) : Runs (.pauseAct p) s fun u =>
      u = { s with words := u.words, ports := u.ports } ∧ OtherPorts p.val s u ∧
      WordsKept [macAddr p.val 8] s u ∧
      port u p.val = pausedPort { port s p.val with pauses := [] } d (pauseTicks (portRate s p.val) d.quanta) ∧
      (Canonical s → rf u (macAddr p.val 8) (pauseBit d.prio) (pauseBit d.prio) =
        if pauseTicks (portRate s p.val) d.quanta = 0 then 0 else 1) := by
  have hstep : pauseActStep p.val s = pauseOne p.val (putPort s p.val { port s p.val with pauses := [] }) d := by
    simp [pauseActStep, h, hd]
  obtain ⟨ports, heq, hport, hothers⟩ :=
    exists_pauseOne_eq p.val (putPort s p.val { port s p.val with pauses := [] }) d
  rw [port_putPort] at hport
  refine runs_act hl (exec_pauseAct p s) ?_
  rw [hstep]
  refine ⟨?_, fun k hk => (hothers k hk).trans (port_putPort_ne _ _ _ _ hk), fun a ha => ?_, hport, fun hc => ?_⟩
  · rw [heq]
    rfl
  · rw [heq]
    exact word_setWord_ne _ _ _ _ fun h => ha (h ▸ List.mem_singleton_self _)
  · rw [heq]
    refine (rf_setRf_self (s := putPort s p.val _) hc.2.1 _ _ (pauseBit_lt _) (Nat.le_refl _)).trans ?_
    rw [Nat.add_sub_cancel_left]
    exact Nat.mod_eq_of_lt (by split_ifs <;> decide)

/-! ### A pause that has run out -/

/-- Tick until which a pause of one kind holds a port. -/
def pauseUntil (v : PortState) (q : Option (Fin 8)) : Nat :=
  match q with
  | none => v.pausedUntil
  | some q => v.pfcUntil.getD q.val 0

/-- A pause of one kind that has run out is no longer shown. -/
def clearPause (v : PortState) (p : Nat) (s : State) (q : Option (Fin 8)) : State :=
  if pauseUntil v q ≤ now s then setRf s (macAddr p 8) (pauseBit q) (pauseBit q) 0 else s

theorem pauseExpireStep_eq (p : Nat) (s : State) :
    pauseExpireStep p s = (none :: (List.finRange 8).map some).foldl (clearPause (port s p) p) s := by
  rw [List.foldl_cons, List.foldl_map]
  rfl

theorem pauseBit_inj {q q' : Option (Fin 8)} (h : pauseBit q = pauseBit q') : q = q' := by
  cases q <;> cases q' <;> simp only [pauseBit] at h
  · rfl
  · omega
  · omega
  · rw [Fin.ext (Nat.add_left_cancel h)]

theorem clearPause_words (v : PortState) (p : Nat) (s : State) (q : Option (Fin 8)) :
    clearPause v p s q = { s with words := (clearPause v p s q).words } := by
  unfold clearPause
  split <;> rfl

theorem wordsBeside_clearPause (v : PortState) (p : Nat) (s : State) (q : Option (Fin 8)) :
    WordsBeside (· = macAddr p 8) s (clearPause v p s q) := by
  unfold clearPause
  split
  · exact WordsBeside.setRf (out := (· = macAddr p 8)) rfl s _ _ _
  · exact .of_words rfl

theorem rf_clearPause (v : PortState) (p : Nat) {s : State} (hc : sparseWf resetWord s.words) (q q' : Option (Fin 8)) :
    rf (clearPause v p s q) (macAddr p 8) (pauseBit q') (pauseBit q') =
      if q' = q ∧ pauseUntil v q' ≤ now s then 0 else rf s (macAddr p 8) (pauseBit q') (pauseBit q') := by
  by_cases ht : pauseUntil v q ≤ now s
  · rw [clearPause, if_pos ht]
    by_cases hq : q' = q
    · subst hq
      rw [if_pos ⟨rfl, ht⟩, rf_setRf_self hc _ _ (pauseBit_lt q') (Nat.le_refl _), Nat.zero_mod]
    · have hb : pauseBit q' ≠ pauseBit q := fun h => hq (pauseBit_inj h)
      rw [if_neg fun h => hq h.1]
      obtain hlt | hgt := Nat.lt_or_gt_of_ne hb
      · exact rf_setRf_below hc _ _ (pauseBit_lt q) (Nat.le_refl _) hlt (Nat.le_refl _)
      · exact rf_setRf_above hc _ _ (pauseBit_lt q) (Nat.le_refl _) hgt
  · rw [clearPause, if_neg ht, if_neg fun h : q' = q ∧ pauseUntil v q' ≤ now s => ht (h.1 ▸ h.2)]

theorem rf_clearPauses (v : PortState) (p : Nat) (q : Option (Fin 8)) (l : List (Option (Fin 8))) {s : State}
    (hc : sparseWf resetWord s.words) : rf (l.foldl (clearPause v p) s) (macAddr p 8) (pauseBit q) (pauseBit q) =
      if q ∈ l ∧ pauseUntil v q ≤ now s then 0 else rf s (macAddr p 8) (pauseBit q) (pauseBit q) := by
  induction l generalizing s with
  | nil => simp
  | cons x l ih =>
    have hnow : now (clearPause v p s x) = now s := by rw [clearPause_words]; rfl
    rw [List.foldl_cons, ih ((wordsBeside_clearPause v p s x).wf hc), hnow, rf_clearPause v p hc]
    by_cases ht : pauseUntil v q ≤ now s
    · by_cases hx : q = x
      · simp only [hx, List.mem_cons_self, true_and]
        rw [hx] at ht
        simp only [ht, if_true, ite_self]
      · simp only [hx, ht, List.mem_cons, false_or, false_and, if_false]
    · simp only [ht, and_false, if_false]

theorem clearPauses_words (v : PortState) (p : Nat) (l : List (Option (Fin 8))) (s : State) :
    ∃ w, l.foldl (clearPause v p) s = { s with words := w } := by
  induction l generalizing s with
  | nil => exact ⟨s.words, rfl⟩
  | cons x l ih =>
    obtain ⟨w, hw⟩ := ih (clearPause v p s x)
    exact ⟨w, by rw [List.foldl_cons, hw, clearPause_words]⟩

theorem runs_pauseExpire {p : Fin 16} (q : Fin 8) (hl : Live s) : Runs (.pauseExpire p) s fun u =>
    u = { s with words := u.words } ∧ WordsKept [macAddr p.val 8] s u ∧
    (Canonical s →
      rf u (macAddr p.val 8) 2 2 =
        (if (port s p.val).pausedUntil ≤ now s then 0 else rf s (macAddr p.val 8) 2 2) ∧
      rf u (macAddr p.val 8) (4 + q.val) (4 + q.val) =
        if (port s p.val).pfcUntil.getD q.val 0 ≤ now s then 0
        else rf s (macAddr p.val 8) (4 + q.val) (4 + q.val)) := by
  refine runs_act hl (exec_pauseExpire p s) ?_
  rw [pauseExpireStep_eq]
  refine ⟨?_, fun a ha => ?_, fun hc => ⟨?_, ?_⟩⟩
  · obtain ⟨w, hw⟩ := clearPauses_words (port s p.val) p.val (none :: (List.finRange 8).map some) s
    rw [hw]
  · exact (WordsBeside.foldl (wordsBeside_clearPause _ p.val) _ s).kept a fun h => ha (h ▸ List.mem_singleton_self _)
  · refine (rf_clearPauses _ _ none _ hc.2.1).trans ?_
    simp only [List.mem_cons_self, true_and]
    rfl
  · refine (rf_clearPauses _ _ (some q) _ hc.2.1).trans ?_
    have hmem : some q ∈ none :: (List.finRange 8).map some := by simp
    simp only [hmem, true_and]
    rfl

/-! ### Pause frames sent -/

theorem pauseFrame_congr {s u : State} (h : word u (macAddr p 0x24) = word s (macAddr p 0x24))
    (h' : word u (macAddr p 0x20) = word s (macAddr p 0x20)) (prio : Option Nat) (quanta : Nat) :
    pauseFrame u p prio quanta = pauseFrame s p prio quanta := by
  simp only [pauseFrame, pauseSource, h, h']

/-- A control frame joins what its port has sent. -/
theorem exists_sendControl_eq (s : State) (p : Nat) (bytes : List Byte) : ∃ ports,
    sendControl s p bytes = { s with ports := ports } ∧ OtherPorts p s (sendControl s p bytes) ∧
    (port (sendControl s p bytes) p).xoff = (port s p).xoff ∧
    ∃ m, (port (sendControl s p bytes) p).sent = (port s p).sent ++ [m] ∧ m.bytes = bytes := by
  refine ⟨_, rfl, otherPorts_putPort _ _ _, ?_⟩
  rw [sendControl, port_putPort]
  exact ⟨rfl, _, rfl, rfl⟩

theorem exists_count64_eq (s : State) (a n : Nat) : ∃ w, count64 s a n = { s with words := w } := ⟨_, rfl⟩

/-- The counter of pause or PFC frames that a port has sent. -/
def sentCounter (p : Nat) (prio : Option Nat) : Nat :=
  match prio with
  | none => macAddr p (0x400 + 8 * 13)
  | some q => macAddr p (0x508 + q * 0x10)

theorem sendPause_eq (s : State) (p : Nat) (prio : Option Nat) (quanta : Nat) :
    sendPause s p prio quanta = sendControl (count64 s (sentCounter p prio)) p (pauseFrame s p prio quanta) := by
  have hframe : pauseFrame (count64 s (sentCounter p prio)) p prio quanta = pauseFrame s p prio quanta := by
    have hne : ∀ off, off < 0x400 → off % 4 = 0 → macAddr p off ≠ sentCounter p prio ∧
        macAddr p off ≠ sentCounter p prio + 4 := fun off hoff _ => by
      cases prio <;> simp only [sentCounter, macAddr] <;> omega
    have hword : ∀ off, off < 0x400 → off % 4 = 0 →
        word (count64 s (sentCounter p prio)) (macAddr p off) = word s (macAddr p off) := fun off hoff h4 =>
      (word_setWord_ne _ _ _ _ (hne off hoff h4).2).trans (word_setWord_ne _ _ _ _ (hne off hoff h4).1)
    exact pauseFrame_congr (hword _ (by decide) (by decide)) (hword _ (by decide) (by decide)) _ _
  cases prio <;> simp only [sendPause, macCount, sentCounter] at hframe ⊢ <;> rw [hframe]

theorem runs_pauseResend {p : Fin 16} {q : Fin 8} {sentAt : Nat} (hl : Live s)
    (hx : (port s p.val).xoff = [(q.val, sentAt)]) (hq : rf s (macAddr p.val 0x14) 15 0 ≠ 0)
    (ht : sentAt + pauseTicks (portRate s p.val) (rf s (macAddr p.val 0x14) 15 0) / 2 ≤ now s) :
    Runs (.pauseResend p q) s fun u => u = { s with words := u.words, ports := u.ports } ∧ OtherPorts p.val s u ∧
      (port u p.val).xoff = [(q.val, now s)] ∧
      ∃ m, (port u p.val).sent = (port s p.val).sent ++ [m] ∧
        m.bytes = pauseFrame s p.val (if rf s (macAddr p.val 0) 11 10 = 2 then some q.val else none)
          (rf s (macAddr p.val 0x14) 15 0) := by
  let s' := putPort s p.val { port s p.val with xoff := [(q.val, now s)] }
  have hstep : pauseResendStep p.val q.val s =
      sendPause s' p.val (pauseKind s p.val q.val) (rf s (macAddr p.val 0x14) 15 0) := by
    have hcond : ¬(rf s (macAddr p.val 0x14) 15 0 = 0 ∨
        now s < sentAt + pauseTicks (portRate s p.val) (rf s (macAddr p.val 0x14) 15 0) / 2) := by omega
    simp [pauseResendStep, hx, hcond, s']
  obtain ⟨ports, heq, hothers, hxoff, m, hsent, hbytes⟩ := exists_sendControl_eq
    (count64 s' (sentCounter p.val (pauseKind s p.val q.val))) p.val
    (pauseFrame s' p.val (pauseKind s p.val q.val) (rf s (macAddr p.val 0x14) 15 0))
  have hport : port (count64 s' (sentCounter p.val (pauseKind s p.val q.val))) p.val =
      { port s p.val with xoff := [(q.val, now s)] } := port_putPort ..
  rw [hport] at hxoff hsent
  refine runs_act hl (exec_pauseResend p q s) ?_
  rw [hstep, sendPause_eq]
  refine ⟨?_, fun k hk => (hothers k hk).trans (port_putPort_ne s _ _ _ hk), hxoff, m, hsent, hbytes⟩
  obtain ⟨w, hw⟩ := exists_count64_eq s' (sentCounter p.val (pauseKind s p.val q.val)) 1
  rw [heq, hw]
  rfl

end

end Sys2Proof.Machine
end

section
/-! SUPPORT. The state of a port's link, and the reset of a port (R261, R301, R303, R315). -/

namespace Sys2Proof.Machine

open Sys2Proof

theorem exec_linkUp (p : Fin 16) (anDone : Bool) (s : State) :
    exec (.linkUp p anDone) s = act s (linkUpStep p.val anDone) := rfl
theorem exec_linkDown (p : Fin 16) (receiving : Bool) (s : State) :
    exec (.linkDown p receiving) s = act s (linkDownStep p.val receiving) := rfl
theorem exec_lpiEnter (p : Fin 16) (s : State) : exec (.lpiEnter p) s = act s (lpiEnterStep p.val) := rfl
theorem exec_portReset (fn : FnId) (p : Fin 16) (s : State) :
    exec (.portReset fn p) s = act s fun s => writeAs s fn 0x100018 (portResetStep fn p.val) := rfl

/-! ### 64-bit counters -/

theorem word64_congr {s u : State} {a : Nat} (h : word u a = word s a) (h' : word u (a + 4) = word s (a + 4)) :
    word64 u a = word64 s a := by
  rw [word64, word64, h, h']

theorem word64_count64 {s : State} (hc : sparseWf resetWord s.words) (a n : Nat) :
    word64 (count64 s a n) a = (word64 s a + n) % 2 ^ 64 := by
  have hw : sparseWf resetWord (setWord s a (BitVec.ofNat 32 (word64 s a + n))).words := setWord_wf _ _ _ hc
  have hlow : word (count64 s a n) a = BitVec.ofNat 32 (word64 s a + n) := by
    rw [count64, setWord64, word_setWord_ne _ _ _ _ (by omega), word_setWord _ _ _ _ hc, if_pos rfl]
  have hhigh : word (count64 s a n) (a + 4) = BitVec.ofNat 32 ((word64 s a + n) / 2 ^ 32) := by
    rw [count64, setWord64, word_setWord _ _ _ _ hw, if_pos rfl]
  rw [word64, hlow, hhigh, BitVec.toNat_ofNat, BitVec.toNat_ofNat]
  omega

section
variable {p : Nat} {s : State}

/-! ### Events of a link -/

theorem exists_linkAen_eq (s : State) (p : Nat) : ∃ g, linkAen s p = { s with mgmt := g } := by
  unfold linkAen
  dsimp only
  split
  · exact ⟨_, rfl⟩
  · exact ⟨s.mgmt, rfl⟩

/-- The change of a link is told: an AEN where it is asked for, and an event. -/
abbrev linkTold (s : State) (p d : Nat) : State := event (linkAen s p) (srcPort p) evLink d

theorem exists_linkTold_eq (s : State) (p d : Nat) : ∃ w r g,
    linkTold s p d = { s with words := w, recorder := r, mgmt := g } := by
  obtain ⟨g, hg⟩ := exists_linkAen_eq s p
  obtain ⟨w, r, h⟩ := exists_event_eq (linkAen s p) (srcPort p) evLink d 0 0 false
  exact ⟨w, r, g, by rw [linkTold, h, hg]⟩

theorem wordsBeside_linkTold (s : State) (p d : Nat) : WordsBeside (eventWord (srcPort p)) s (linkTold s p d) := by
  have haen : WordsBeside (eventWord (srcPort p)) s (linkAen s p) := by
    obtain ⟨g, hg⟩ := exists_linkAen_eq s p
    rw [hg]
    exact .of_words rfl
  exact haen.trans (wordsBeside_event ..)

theorem recorded_linkTold (s : State) (p d : Nat) : Recorded (srcPort p) 0x09 d s (linkTold s p d) := by
  obtain ⟨g, hg⟩ := exists_linkAen_eq s p
  have h := recorded_event (linkAen s p) (srcPort p) evLink d 0 0 false
  exact recorded_congr (by rw [hg]) (by rw [hg]) h

/-- The registers of a port lie above those that its events touch. -/
theorem not_eventWord_macAddr (hp : p < 16) (k off : Nat) : ¬eventWord (srcPort p) (macAddr k off) := by
  unfold eventWord srcPort macAddr
  omega

/-! ### Link up and low-power idle -/

theorem runs_linkUp {p : Fin 16} {anDone : Bool} (hl : Live s) (hd : linkUp s p.val = false)
    (hm : mayLink s p.val = true) : Runs (.linkUp p anDone) s fun u =>
      u = { s with words := u.words, recorder := u.recorder, mgmt := u.mgmt } ∧
      WordsKept [macAddr p.val 8, 0x401000 + srcPort p.val * 4, 0x400010] s u ∧
      Recorded (srcPort p.val) 0x09 (detail p.val 1) s u ∧
      (Canonical s → rf u (macAddr p.val 8) 1 0 = if anDone && bit (word s (macAddr p.val 0)) 6 then 3 else 1) := by
  let m := setRf s (macAddr p.val 8) 1 0 (1 + if anDone && bit (word s (macAddr p.val 0)) 6 then 2 else 0)
  have hstep : linkUpStep p.val anDone s = linkTold m p.val (detail p.val 1) := by
    simp only [linkUpStep, hd, hm, Bool.not_true, Bool.or_self, Bool.false_eq_true, if_false]
    rfl
  have hkept := wordsBeside_linkTold m p.val (detail p.val 1)
  refine runs_act hl (exec_linkUp p anDone s) ?_
  rw [hstep]
  refine ⟨?_, fun a ha => ?_, recorded_congr rfl rfl (recorded_linkTold m _ _), fun hc => ?_⟩
  · obtain ⟨w, r, g, h⟩ := exists_linkTold_eq m p.val (detail p.val 1)
    rw [h]
    rfl
  · simp only [List.mem_cons, List.not_mem_nil, or_false, not_or] at ha
    obtain ⟨hmac, hcount, hlost⟩ := ha
    exact (hkept.kept a fun h => h.elim hcount hlost).trans (word_setWord_ne _ _ _ _ hmac)
  · rw [rf_congr (hkept.kept _ (not_eventWord_macAddr p.isLt _ _)), rf_setRf_self hc.2.1 _ _ (by decide) (by decide)]
    split <;> rfl

theorem runs_lpiEnter {p : Fin 16} (hl : Live s) (hu : linkUp s p.val = true) (he : portLpiEn s p.val = true)
    (ht : lpiType (portMode s p.val) (rf s (macAddr p.val 0) 3 2) = true) (hw : (port s p.val).onWay = [])
    (hs : (port s p.val).started ≤ bitTime (now s)) : Runs (.lpiEnter p) s fun u =>
      u = { s with words := u.words } ∧ WordsKept [macAddr p.val 8] s u ∧
      (Canonical s → rf u (macAddr p.val 8) 3 3 = 1) := by
  have hstep : lpiEnterStep p.val s = setRf s (macAddr p.val 8) 3 3 1 := by simp [lpiEnterStep, hu, he, ht, hw, hs]
  refine runs_act hl (exec_lpiEnter p s) ?_
  rw [hstep]
  exact ⟨setRf_eq .., fun a ha => word_setWord_ne _ _ _ _ fun h => ha (h ▸ List.mem_singleton_self _),
    fun hc => rf_setRf_self hc.2.1 _ _ (by decide) (by decide)⟩

/-! ### Link down -/

/-- A port without a link: no pause and no low-power idle. -/
abbrev idlePort (v : PortState) : PortState :=
  { v with pauses := [], pausedUntil := 0, pfcUntil := List.replicate 8 0, resumed := none }

theorem exists_endLink_eq (s : State) (p : Nat) : ∃ w ports, endLink s p = { s with words := w, ports := ports } :=
  ⟨_, _, rfl⟩

theorem port_endLink (s : State) (p : Nat) : port (endLink s p) p = idlePort (port s p) := by
  rw [endLink, port_of_setRf, port_putPort]

theorem otherPorts_endLink (s : State) (p : Nat) : OtherPorts p s (endLink s p) := fun k hk => by
  rw [endLink, port_of_setRf, port_putPort_ne _ _ _ _ hk]

theorem wordsBeside_endLink (s : State) (p : Nat) : WordsBeside (· = macAddr p 8) s (endLink s p) :=
  have hport : WordsBeside (· = macAddr p 8) s (putPort s p (idlePort (port s p))) := .of_words rfl
  hport.trans (WordsBeside.setRf (out := (· = macAddr p 8)) rfl _ 11 0 0)

theorem rf_endLink (hc : sparseWf resetWord s.words) (p : Nat) : rf (endLink s p) (macAddr p 8) 11 0 = 0 :=
  rf_setRf_self (s := putPort s p _) hc _ _ (by decide) (by decide)

theorem runs_linkDown {p : Fin 16} (hl : Live s) (hu : linkUp s p.val = true) : Runs (.linkDown p false) s fun u =>
    u = { s with words := u.words, recorder := u.recorder, mgmt := u.mgmt, ports := u.ports } ∧
    OtherPorts p.val s u ∧ port u p.val = idlePort (port s p.val) ∧
    Recorded (srcPort p.val) 0x09 (detail p.val 0) s u ∧
    (Canonical s → rf u (macAddr p.val 8) 11 0 = 0 ∧ Counted64 (macAddr p.val (0x400 + 8 * 18)) s u) := by
  let m := macCount (endLink s p.val) p.val 18
  have hstep : linkDownStep p.val false s = linkTold m p.val (detail p.val 0) := by
    simp only [linkDownStep, hu, Bool.not_true, Bool.false_and, Bool.and_false, Bool.false_eq_true, if_false, if_true]
    rfl
  obtain ⟨w, r, g, htold⟩ := exists_linkTold_eq m p.val (detail p.val 0)
  obtain ⟨w', hcount⟩ := exists_count64_eq (endLink s p.val) (macAddr p.val (0x400 + 8 * 18)) 1
  have hm : m = { endLink s p.val with words := w' } := hcount
  have hports : (linkTold m p.val (detail p.val 0)).ports = (endLink s p.val).ports := by rw [htold, hm]
  have hport : ∀ k, port (linkTold m p.val (detail p.val 0)) k = port (endLink s p.val) k := fun k => by
    rw [port, port, hports]
  have hkept : ∀ off, word (linkTold m p.val (detail p.val 0)) (macAddr p.val off) = word m (macAddr p.val off) :=
    fun off => (wordsBeside_linkTold m _ _).kept _ (not_eventWord_macAddr p.isLt _ _)
  have hend := wordsBeside_endLink s p.val
  refine runs_act hl (exec_linkDown p false s) ?_
  rw [hstep]
  refine ⟨?_, fun k hk => (hport k).trans (otherPorts_endLink s _ k hk), (hport _).trans (port_endLink ..), ?_,
    fun hc => ⟨?_, ?_⟩⟩
  · obtain ⟨w₁, ports, h⟩ := exists_endLink_eq s p.val
    rw [htold, hm, h]
  · exact recorded_congr (by rw [hm]; rfl) (by rw [hm]; rfl) (recorded_linkTold m _ _)
  · have hword : word m (macAddr p.val 8) = word (endLink s p.val) (macAddr p.val 8) :=
      (word_setWord_ne _ _ _ _ (by unfold macAddr; omega)).trans
        (word_setWord_ne _ _ _ _ (by unfold macAddr; omega))
    rw [rf_congr ((hkept 8).trans hword), rf_endLink hc.2.1]
  · have hsame : word64 (endLink s p.val) (macAddr p.val (0x400 + 8 * 18)) = word64 s (macAddr p.val (0x400 + 8 * 18)) :=
      word64_congr (hend.kept _ (by unfold macAddr; omega)) (hend.kept _ (by unfold macAddr; omega))
    have hhigh : word (linkTold m p.val (detail p.val 0)) (macAddr p.val (0x400 + 8 * 18) + 4) =
        word m (macAddr p.val (0x400 + 8 * 18) + 4) := hkept (0x400 + 8 * 18 + 4)
    rw [Counted64, word64_congr (hkept _) hhigh, ← hsame]
    exact word64_count64 (hend.wf hc.2.1) _ 1

/-! ### Reset of a port -/

/-- A port after its reset, from tick `n` on. -/
abbrev resetPortState (v : PortState) (n : Nat) : PortState :=
  { idlePort v with
    generation := (v.generation + 1) % 16, onWay := [], wireFree := 0, started := 0, resetAt := some n }

/-- A state without the scheduler nodes of a port that hold state, and without the cells that they were to give back. -/
def nodesCleared (s : State) (p : Nat) : State :=
  { s with
    nodes := s.nodes.filter fun n => !((portNodes s p).map fun n => n.1).contains n.1
    cellsDue := s.cellsDue.filter fun d => d.node / 32768 != p }

/-- The port's state set anew, with its generation shown, before the event of its link. -/
def portCleared (s : State) (p : Nat) : State :=
  setRf (putPort (endLink (nodesCleared s p) p) p (resetPortState (port s p) (now s))) (macAddr p 8) 15 12
    ((port s p).generation + 1)

theorem resetPort_eq (hf : ∀ f ∈ s.frames, frameOnPort p f.2 = false) : resetPort s p =
    if linkUp s p then event (portCleared s p) (srcPort p) evLink (detail p 0) else portCleared s p := by
  have hdrop : dropAll s (frameOnPort p) (fun f => .node (tagNode f.tag)) rsTargetReset = s := by
    rw [dropAll, List.filter_eq_nil_iff.2 fun f h => by simp [hf f h]]
    rfl
  have hend : port (endLink (nodesCleared s p) p) p = idlePort (port s p) := port_endLink ..
  unfold nodesCleared at hend
  simp only [resetPort, hdrop, hend]
  rfl

/-- The words that the reset of a port touches. -/
def portWord (p a : Nat) : Prop := a = macAddr p 8 ∨ eventWord (srcPort p) a

/-- What the reset of a port leaves, before the servo starts anew. -/
structure PortReset (p : Nat) (s u : State) : Prop where
  frame : u = { s with
    words := u.words, recorder := u.recorder, ports := u.ports, nodes := u.nodes, cellsDue := u.cellsDue }
  words : WordsBeside (portWord p) s u
  others : OtherPorts p s u
  port : port u p = resetPortState (port s p) (now s)
  nodes : ∀ n, n < 0x1000000 → n / 32768 = p → look u.nodes n = none
  status : sparseWf resetWord s.words →
    rf u (macAddr p 8) 15 12 = ((Machine.port s p).generation + 1) % 16 ∧ rf u (macAddr p 8) 11 0 = 0

/-- A node of the port that holds state is among those that its reset clears. -/
theorem look_nodesCleared {n : Nat} (hn : n < 0x1000000) (hp : n / 32768 = p) : look (nodesCleared s p).nodes n = none := by
  have hfilter := look_filter (fun n => !((portNodes s p).map fun n => n.1).contains n) s.nodes n
  refine hfilter.trans ?_
  cases h : look s.nodes n with
  | none => exact ite_self _
  | some v =>
    have hmem : n ∈ (portNodes s p).map fun n => n.1 :=
      List.mem_map.2 ⟨(n, v), List.mem_filter.2 ⟨mem_of_look h, by simp [hn, hp]⟩, rfl⟩
    simp [hmem]

theorem exists_portCleared_eq (s : State) (p : Nat) : ∃ w ports, portCleared s p =
    { nodesCleared s p with words := w, ports := ports } := by
  obtain ⟨w, ports, h⟩ := exists_endLink_eq (nodesCleared s p) p
  rw [portCleared, h]
  exact ⟨_, _, rfl⟩

theorem portReset_portCleared (s : State) (p : Nat) : PortReset p s (portCleared s p) := by
  have hend := wordsBeside_endLink (nodesCleared s p) p
  have hset (m : State) (v : Nat) : WordsBeside (· = macAddr p 8) m (setRf m (macAddr p 8) 15 12 v) :=
    WordsBeside.setRf (out := (· = macAddr p 8)) rfl m 15 12 v
  have hput : WordsBeside (· = macAddr p 8) s
      (putPort (endLink (nodesCleared s p) p) p (resetPortState (port s p) (now s))) := ⟨hend.kept, hend.wf⟩
  refine ⟨?_, (hput.trans (hset _ _)).mono fun _ => .inl, fun k hk => ?_, ?_, fun n hn hp => ?_, fun hc => ⟨?_, ?_⟩⟩
  · obtain ⟨w, ports, h⟩ := exists_portCleared_eq s p
    rw [h]
    rfl
  · rw [portCleared, port_of_setRf, port_putPort_ne _ _ _ _ hk]
    exact otherPorts_endLink (nodesCleared s p) p k hk
  · rw [portCleared, port_of_setRf, port_putPort]
  · obtain ⟨w, ports, h⟩ := exists_portCleared_eq s p
    rw [h]
    exact look_nodesCleared hn hp
  · exact rf_setRf_self (hput.wf hc) _ _ (by decide) (by decide)
  · refine (rf_setRf_below (hput.wf hc) _ _ (by decide) (by decide) (by decide) (by decide)).trans ?_
    exact rf_endLink (s := nodesCleared s p) hc p

theorem PortReset.event {s u : State} (hp : p < 16) (h : PortReset p s u) (code d : Nat) :
    PortReset p s (event u (srcPort p) code d) := by
  have hbeside := wordsBeside_event u (srcPort p) code d 0 0 false
  have hword := hbeside.kept _ (not_eventWord_macAddr hp p 8)
  obtain ⟨w, r, heq⟩ := exists_event_eq u (srcPort p) code d 0 0 false
  refine ⟨?_, h.words.trans (hbeside.mono fun _ => .inr), fun k hk => ?_, ?_, fun n hn hn' => ?_, fun hc => ?_⟩
  · rw [heq, h.frame]
  · rw [heq]
    exact h.others k hk
  · rw [heq]
    exact h.port
  · rw [heq]
    exact h.nodes n hn hn'
  · rw [rf_congr hword, rf_congr hword]
    exact h.status hc

theorem portReset_resetPort (hp : p < 16) (hf : ∀ f ∈ s.frames, frameOnPort p f.2 = false) :
    PortReset p s (resetPort s p) := by
  have h := portReset_portCleared s p
  rw [resetPort_eq hf]
  split
  · exact h.event hp ..
  · exact h

theorem runs_portReset {p : Fin 16} (hm : MayWrite s pf0 0x100018)
    (hf : ∀ f ∈ s.frames, frameOnPort p.val f.2 = false) : Runs (.portReset pf0 p) s fun u =>
      u = { s with
        words := u.words, recorder := u.recorder, ports := u.ports, nodes := u.nodes, cellsDue := u.cellsDue
        tbs := u.tbs, commits := u.commits, ledger := u.ledger } ∧
      (servoState s = 0 → u.tbs = s.tbs ∧ u.commits = s.commits ∧ u.ledger = s.ledger) ∧
      (Canonical s → servoState u = if servoState s = 2 then 3 else 0) ∧ OtherPorts p.val s u ∧
      port u p.val = resetPortState (port s p.val) (now s) ∧
      (∀ n, n < 0x1000000 → n / 32768 = p.val → look u.nodes n = none) ∧
      (Canonical s → rf u (macAddr p.val 8) 15 12 = ((port s p.val).generation + 1) % 16 ∧
        rf u (macAddr p.val 8) 11 0 = 0) := by
  have hreset := portReset_resetPort p.isLt hf
  have hservo := servoRestarts_servoRestart (resetPort s p.val)
  have hstate : servoState (resetPort s p.val) = servoState s :=
    servoState_congr (hreset.words.kept _ (by unfold portWord eventWord macAddr srcPort; omega))
  have hports : (servoRestart (resetPort s p.val)).ports = (resetPort s p.val).ports := by rw [hservo.frame]
  have hport : ∀ k, port (servoRestart (resetPort s p.val)) k = port (resetPort s p.val) k := fun k => by
    rw [port, port, hports]
  have hword := hservo.words.kept (macAddr p.val 8) (not_servoWord_of_between
    (by unfold macAddr; omega) (by unfold macAddr; omega))
  refine runs_go (exec_portReset pf0 p s) hm ?_
  rw [portResetStep, if_neg (not_not_intro rfl)]
  refine ⟨?_, fun h0 => ?_, fun hc => ?_, fun k hk => (hport k).trans (hreset.others k hk),
    (hport _).trans hreset.port, fun n hn hn' => ?_, fun hc => ?_⟩
  · rw [hservo.frame, hreset.frame]
  · rw [hservo.idle (hstate.trans h0), hreset.frame]
    exact ⟨rfl, rfl, rfl⟩
  · rw [hservo.state (hreset.words.wf hc.2.1), hstate]
  · rw [hservo.frame]
    exact hreset.nodes n hn hn'
  · rw [rf_congr hword, rf_congr hword]
    exact hreset.status hc.2.1

end

/-- Settles O36: a lemma for each command; a port reset is the reset of its state, then the servo's restart. -/
theorem portStates : Obligations.PortStates := by
  unfold Obligations.PortStates
  intro p q d sentAt anDone s a v quanta ticks idle others hl
  refine ⟨fun h hd hprio => ?_, fun h hd hprio => ?_, runs_pauseExpire q hl, runs_pauseResend hl, runs_linkUp hl,
    runs_linkDown hl, runs_lpiEnter hl, runs_portReset⟩
  · have h := runs_pauseAct hl h hd
    rw [hprio] at h
    simpa only [pausedPort, heldPort, pauseBit, hprio] using h
  · have h := runs_pauseAct hl h hd
    rw [hprio] at h
    simpa only [pausedPort, heldPort, pauseBit, hprio] using h

end Sys2Proof.Machine
end

section
/-! SUPPORT. Functions and their rings: the rings of a function, and functions that enter Dusk (R248, R388, R435,
R463). -/

namespace Sys2Proof.Machine

open Sys2Proof

/-! ### Numbers of functions and endpoints -/

theorem fnOf_fnNum (f : FnId) : fnOf (fnNum f) = f := by
  obtain ⟨ep, k⟩ := f
  cases ep
  · have hd : (Endpoint.num .h0 * 1024 + k.val) / 1024 % 2 = 0 := by simp only [Endpoint.num]; omega
    have hm : (Endpoint.num .h0 * 1024 + k.val) % 1024 = k.val := by simp only [Endpoint.num]; omega
    simp only [fnOf, fnNum, hd, hm, if_true]
  · have hd : (Endpoint.num .h1 * 1024 + k.val) / 1024 % 2 ≠ 0 := by simp only [Endpoint.num]; omega
    have hm : (Endpoint.num .h1 * 1024 + k.val) % 1024 = k.val := by simp only [Endpoint.num]; omega
    simp only [fnOf, fnNum, hd, hm, if_false]

theorem fnNum_injective : Function.Injective fnNum := Function.LeftInverse.injective fnOf_fnNum

theorem endpointNum_injective : Function.Injective Endpoint.num
  | .h0, .h0, _ => rfl
  | .h1, .h1, _ => rfl

theorem fnState_putFn_ne (s : State) {f h : FnId} (v : FnState) (hne : h ≠ f) :
    fnState (putFn s f v) h = fnState s h := by
  simp [fnState, putFn, look_place_ne _ _ _ _ (fnNum_injective.ne hne)]

theorem endpoint_putEndpoint_ne (s : State) {e e' : Endpoint} (v : EndpointState) (hne : e' ≠ e) :
    endpoint (putEndpoint s e v) e' = endpoint s e' := by
  simp [endpoint, putEndpoint, look_place_ne _ _ _ _ (endpointNum_injective.ne hne)]

/-! ### Rings of a function -/

theorem sparseGet_of_mem {α : Type} {d : Nat → α} {m : Sparse α} {k : Nat} {v : α} (hm : sparseWf d m)
    (h : (k, v) ∈ m) : sparseGet d m k = v := by
  induction m with
  | nil => cases h
  | cons p m ih =>
    obtain ⟨i, w⟩ := p
    obtain ⟨hp, hd⟩ := hm
    obtain ⟨hlt, hp⟩ := List.pairwise_cons.1 hp
    rw [sparseGet]
    split_ifs with hi
    · obtain h | h := List.mem_cons.1 h
      · exact (congrArg Prod.snd h).symm
      · exact absurd hi (Nat.ne_of_lt (hlt _ h))
    · obtain h | h := List.mem_cons.1 h
      · exact absurd (congrArg Prod.fst h).symm hi
      · exact ih ⟨hp, fun q hq => hd q (List.mem_cons_of_mem _ hq)⟩ h

theorem inArray_rngAddr {a : Nat} :
    inArray a 0x1000000 65536 0x40 0 = true ↔
      a = rngAddr ((a - 0x1000000) / 0x40) 0 ∧ (a - 0x1000000) / 0x40 < 65536 := by
  simp only [inArray, rngAddr, Bool.and_eq_true, decide_eq_true_eq, beq_iff_eq]
  omega

theorem rngAddr_div (r : Nat) : (rngAddr r 0 - 0x1000000) / 0x40 = r := by
  unfold rngAddr
  omega

theorem resetWord_rngAddr {r : Nat} (h : r < 65536) : resetWord (rngAddr r 0) = 0 := by
  have hlow : 0x1000000 ≤ rngAddr r 0 := by unfold rngAddr; omega
  have hhigh : rngAddr r 0 < 0x1400000 := by unfold rngAddr; omega
  have hmod : rngAddr r 0 % 0x40 ≠ 0x14 := by unfold rngAddr; omega
  rw [resetWord, if_neg (by omega), if_neg (by omega), if_neg (by omega), if_neg (by omega), if_neg (by omega),
    if_neg (by omega), if_pos hhigh, if_neg hmod]

/-- In the canonical form a function's rings are those whose owner it is. -/
theorem mem_ringsOf {s : State} (hc : sparseWf resetWord s.words) {fn : FnId} {r : Nat} :
    r ∈ ringsOf s fn ↔ r < 65536 ∧ ringOwner s r = some fn := by
  simp only [ringsOf, List.mem_filterMap, Option.ite_none_right_eq_some, Option.some.injEq, Bool.and_eq_true,
    beq_iff_eq, inArray_rngAddr]
  constructor
  · rintro ⟨⟨a, w⟩, hmem, ⟨⟨⟨ha, hlt⟩, hbit⟩, hfn⟩, hr⟩
    dsimp only at ha hlt hbit hfn hr
    rw [hr] at ha hlt
    subst ha
    have hword : word s (rngAddr r 0) = w := sparseGet_of_mem hc hmem
    exact ⟨hlt, by simp only [ringOwner, hword, hbit, hfn, if_true]⟩
  · rintro ⟨hlt, howner⟩
    simp only [ringOwner, Option.ite_none_right_eq_some, Option.some.injEq] at howner
    obtain ⟨hbit, hfn⟩ := howner
    have hlisted : ∃ p ∈ s.words, p.1 = rngAddr r 0 := by
      by_contra hnot
      have hword : word s (rngAddr r 0) = 0 :=
        (sparseGet_of_not_mem resetWord s.words _ fun p hp hpr => hnot ⟨p, hp, hpr⟩).trans (resetWord_rngAddr hlt)
      rw [hword] at hbit
      exact absurd hbit (by decide)
    obtain ⟨⟨a, w⟩, hmem, ha⟩ := hlisted
    dsimp only at ha
    subst ha
    have hword : word s (rngAddr r 0) = w := sparseGet_of_mem hc hmem
    rw [hword] at hbit hfn
    exact ⟨(rngAddr r 0, w), hmem, ⟨⟨by rw [rngAddr_div]; exact ⟨rfl, hlt⟩, hbit⟩, hfn⟩, rngAddr_div r⟩

/-! ### Rings disabled -/

/-- A group whose places on the rings that are hit are lost. -/
def losing (hit : Nat → Bool) (g : Nat × Group) : Nat × Group :=
  (g.1, { g.2 with positions := g.2.positions.map fun p => if p.ring.any hit then { p with lost := true, bufs := 0 } else p })

theorem losing_none (g : Nat × Group) : losing (fun _ => false) g = g := by
  simp [losing]

theorem losing_losing (hit hit' : Nat → Bool) (g : Nat × Group) :
    losing hit' (losing hit g) = losing (fun r => hit r || hit' r) g := by
  simp only [losing, List.map_map]
  congr 3
  funext p
  cases hr : p.ring with
  | none => simp [hr]
  | some r => cases h : hit r <;> simp [hr, h]

theorem losePlaces_eq (s : State) (r : Nat) : losePlaces s r = { s with groups := s.groups.map (losing (· == r)) } := by
  have hlosing : (losing (· == r) : Nat × Group → _) = fun g => (g.1, { g.2 with
      positions := g.2.positions.map fun p => if p.ring = some r then { p with lost := true, bufs := 0 } else p }) := by
    funext g
    simp only [losing, Option.any_eq_true, beq_iff_eq, exists_eq_right]
  rw [losePlaces, hlosing]

/-- The registers of rings that Dusk touches: their control and their interrupt word. -/
def duskWord (a : Nat) : Prop := 0x1000000 ≤ a ∧ (a % 0x40 = 4 ∨ a % 0x40 = 0x2C)

theorem not_duskWord_rngAddr (r : Nat) : ¬duskWord (rngAddr r 0) := by
  unfold duskWord rngAddr
  omega

theorem not_duskWord_of_lt {a : Nat} (h : a < 0x1000000) : ¬duskWord a := fun hd => absurd hd.1 (Nat.not_le.2 h)

/-- The two bits of a ring's registers that show it enabled. -/
def ringShown (s : State) (r : Nat) : Nat × Nat := (rf s (rngAddr r 4) 3 3, rf s (rngAddr r 0x2C) 0 0)

/-- The rings that are hit are disabled, and the places of groups on them are lost. -/
structure RingsDusked (hit : Nat → Bool) (s u : State) : Prop where
  frame : u = { s with words := u.words, rings := u.rings, groups := u.groups, functions := u.functions }
  words : WordsBeside duskWord s u
  groups : sparseWf resetWord s.words → u.groups = s.groups.map (losing hit)
  shown : sparseWf resetWord s.words → ∀ r, ringShown u r = if hit r then (0, 0) else ringShown s r

namespace RingsDusked
variable {hit hit' : Nat → Bool} {s u w : State}

theorem refl (s : State) : RingsDusked (fun _ => false) s s :=
  ⟨rfl, .of_words rfl, fun _ => by simp [funext losing_none], fun _ _ => rfl⟩

theorem trans (h : RingsDusked hit s u) (h' : RingsDusked hit' u w) :
    RingsDusked (fun r => hit r || hit' r) s w := by
  refine ⟨h'.frame.trans (by rw [h.frame]), h.words.trans h'.words, fun hc => ?_, fun hc r => ?_⟩
  · rw [h'.groups (h.words.wf hc), h.groups hc, List.map_map]
    exact List.map_congr_left fun g _ => losing_losing hit hit' g
  · rw [h'.shown (h.words.wf hc), h.shown hc]
    cases hit r <;> cases hit' r <;> rfl

theorem congr (h : RingsDusked hit s u) (hh : sparseWf resetWord s.words → ∀ r, hit r = hit' r) :
    RingsDusked hit' s u :=
  ⟨h.frame, h.words, fun hc => funext (hh hc) ▸ h.groups hc, fun hc => funext (hh hc) ▸ h.shown hc⟩

theorem putFn (h : RingsDusked hit s u) (f : FnId) (v : FnState) : RingsDusked hit s (putFn u f v) :=
  ⟨by rw [h.frame]; rfl, ⟨h.words.kept, h.words.wf⟩, h.groups, h.shown⟩

theorem tick (h : RingsDusked hit s u) : u.tick = s.tick := by rw [h.frame]

theorem ringOwner (h : RingsDusked hit s u) (r : Nat) : ringOwner u r = Machine.ringOwner s r := by
  simp only [Machine.ringOwner, h.words.kept _ (not_duskWord_rngAddr r)]

end RingsDusked

/-- A ring whose registers no longer show it enabled. -/
def ringOff (s : State) (r : Nat) : State := setRf (setRf s (rngAddr r 4) 3 3 0) (rngAddr r 0x2C) 0 0 0

theorem wordsBeside_ringOff (s : State) (r : Nat) : WordsBeside duskWord s (ringOff s r) := by
  have h4 : duskWord (rngAddr r 4) := by unfold duskWord rngAddr; omega
  have h2C : duskWord (rngAddr r 0x2C) := by unfold duskWord rngAddr; omega
  exact (WordsBeside.setRf h4 s 3 3 0).trans (.setRf h2C _ 0 0 0)

theorem ringShown_ringOff {s : State} (hc : sparseWf resetWord s.words) (r k : Nat) :
    ringShown (ringOff s r) k = if k == r then (0, 0) else ringShown s k := by
  have hne : ∀ k, rngAddr k 4 ≠ rngAddr r 0x2C := fun k => by unfold rngAddr; omega
  have hne' : ∀ k, rngAddr k 0x2C ≠ rngAddr r 4 := fun k => by unfold rngAddr; omega
  have hinj : ∀ off, k ≠ r → rngAddr k off ≠ rngAddr r off := fun off hk => by unfold rngAddr; omega
  have hc' : sparseWf resetWord (setRf s (rngAddr r 4) 3 3 0).words := setRf_wf _ _ _ _ _ hc
  by_cases hk : k = r
  · subst hk
    rw [ringShown, ringOff, rf_setRf_ne _ _ (hne k), rf_setRf_self hc _ _ (by decide) (by decide),
      rf_setRf_self hc' _ _ (by decide) (by decide), if_pos (beq_self_eq_true k), Nat.zero_mod]
  · rw [ringShown, ringOff, rf_setRf_ne _ _ (hne k), rf_setRf_ne _ _ (hinj _ hk), rf_setRf_ne _ _ (hinj _ hk),
      rf_setRf_ne _ _ (hne' k), if_neg (by simpa using hk), ringShown]

theorem exists_duskRing_eq (s : State) (r : Nat) : ∃ rings, duskRing s r = { s with
    words := (ringOff s r).words, rings := rings, groups := s.groups.map (losing (· == r)) } := by
  obtain ⟨w, hw⟩ : ∃ w, ringOff s r = { s with words := w } := by
    dsimp only [ringOff, setRf, setWord]
    exact ⟨_, rfl⟩
  have hdusk : duskRing s r =
      putRing (losePlaces (ringOff s r) r) r { ring (losePlaces (ringOff s r) r) r with enabling := none, retry := [] } :=
    rfl
  rw [hdusk, hw, losePlaces_eq]
  exact ⟨_, rfl⟩

theorem ringsDusked_duskRing (s : State) (r : Nat) : RingsDusked (· == r) s (duskRing s r) := by
  obtain ⟨rings, h⟩ := exists_duskRing_eq s r
  have hoff := wordsBeside_ringOff s r
  rw [h]
  exact ⟨rfl, ⟨hoff.kept, hoff.wf⟩, fun _ => rfl, fun hc k => ringShown_ringOff hc r k⟩

theorem ringsDusked_foldl (l : List Nat) (s : State) : RingsDusked l.contains s (l.foldl duskRing s) := by
  induction l generalizing s with
  | nil => exact (RingsDusked.refl s).congr fun _ r => rfl
  | cons x l ih => exact ((ringsDusked_duskRing s x).trans (ih _)).congr fun _ r => (List.contains_cons ..).symm

/-! ### Functions in Dusk -/

/-- A function when a reset of it arrives in tick `n`. -/
def enterDusk (n : Nat) (flr : Bool) (f : FnState) : FnState :=
  if f.dusk.isSome then { f with flr := f.flr || flr }
  else { f with dusk := some n, flr := flr, drained := false, held := false }

/-- A ring that a reset of the functions `q` disables: its owner is one of them and not in Dusk yet. -/
def duskHits (s : State) (q : FnId → Bool) (r : Nat) : Bool :=
  decide (r < 65536) && (ringOwner s r).any fun h => q h && (fnState s h).dusk.isNone

theorem fnState_startDusk (s : State) (fn : FnId) (flr : Bool) :
    fnState (startDusk s fn flr) fn = enterDusk (now s) flr (fnState s fn) := by
  dsimp only [startDusk, enterDusk]
  split <;> exact fnState_putFn ..

theorem fnState_foldl_duskRing (l : List Nat) (s : State) (h : FnId) :
    fnState (l.foldl duskRing s) h = fnState s h :=
  foldl_keeps (f := duskRing) (fun s => fnState s h) l (fun _ _ _ => rfl) s

theorem fnState_startDusk_ne (s : State) {fn h : FnId} (flr : Bool) (hne : h ≠ fn) :
    fnState (startDusk s fn flr) h = fnState s h := by
  dsimp only [startDusk]
  split
  · exact fnState_putFn_ne _ _ hne
  · exact (fnState_putFn_ne _ _ hne).trans (fnState_foldl_duskRing ..)

theorem duskHits_single (s : State) (fn : FnId) (r : Nat) : duskHits s (· == fn) r =
    ((fnState s fn).dusk.isNone && (decide (r < 65536) && ringOwner s r == some fn)) := by
  unfold duskHits
  cases ringOwner s r with
  | none => simp
  | some h =>
    by_cases hh : h = fn
    · subst hh
      simp [Bool.and_comm]
    · simp [beq_eq_false_iff_ne.2 hh]

theorem ringsDusked_startDusk (s : State) (fn : FnId) (flr : Bool) :
    RingsDusked (duskHits s (· == fn)) s (startDusk s fn flr) := by
  dsimp only [startDusk]
  split_ifs with hd
  · refine ((RingsDusked.refl s).putFn ..).congr fun _ r => ?_
    rw [duskHits_single, Option.isNone_eq_false_iff.2 hd, Bool.false_and]
  · refine ((ringsDusked_foldl _ s).putFn ..).congr fun hc r => ?_
    rw [duskHits_single, Option.not_isSome_iff_eq_none.1 hd, Option.isNone_none, Bool.true_and, Bool.eq_iff_iff]
    simp [mem_ringsOf hc]

/-- A list of functions enters Dusk by a reset of PCIe. -/
abbrev duskAll (s : State) (l : List FnId) : State := l.foldl (fun s f => startDusk s f true) s

theorem ringsDusked_duskAll (l : List FnId) (s : State) : RingsDusked (duskHits s l.contains) s (duskAll s l) := by
  induction l generalizing s with
  | nil =>
    refine (RingsDusked.refl s).congr fun _ r => ?_
    unfold duskHits
    cases ringOwner s r <;> simp
  | cons x l ih =>
    have hx := ringsDusked_startDusk s x true
    refine (hx.trans (ih _)).congr fun _ r => ?_
    simp only [duskHits, hx.ringOwner]
    cases ringOwner s r with
    | none => simp
    | some h =>
      by_cases hh : h = x
      · subst hh
        have hdusk : (fnState (startDusk s h true) h).dusk.isNone = false := by
          rw [fnState_startDusk, enterDusk]
          split_ifs with hd
          · exact Option.isNone_eq_false_iff.2 hd
          · rfl
        simp [hdusk]
      · simp [hh, fnState_startDusk_ne s true hh]

theorem dusked_enterDusk (n : Nat) (f : FnState) :
    (enterDusk n true f).flr = true ∧ (enterDusk n true f).dusk = some (f.dusk.getD n) := by
  unfold enterDusk
  cases f.dusk <;> simp

theorem fnState_duskAll (l : List FnId) (s : State) (h : FnId) : (h ∉ l → fnState (duskAll s l) h = fnState s h) ∧
    (h ∈ l → (fnState (duskAll s l) h).flr = true ∧
      (fnState (duskAll s l) h).dusk = some ((fnState s h).dusk.getD (now s))) := by
  induction l generalizing s with
  | nil => simp
  | cons x l ih =>
    obtain ⟨hout, hin⟩ := ih (startDusk s x true)
    have hnow : now (startDusk s x true) = now s := by rw [now, (ringsDusked_startDusk s x true).tick, now]
    constructor
    · intro hmem
      obtain ⟨hx, hl⟩ := not_or.1 (mt List.mem_cons.2 hmem)
      exact (hout hl).trans (fnState_startDusk_ne s true hx)
    · intro hmem
      by_cases hx : h = x
      · subst hx
        obtain ⟨hflr, hdusk⟩ := dusked_enterDusk (now s) (fnState s h)
        by_cases hl : h ∈ l
        · obtain ⟨hflr', hdusk'⟩ := hin hl
          rw [fnState_startDusk, hdusk] at hdusk'
          exact ⟨hflr', hdusk'⟩
        · have heq := (hout hl).trans (fnState_startDusk s h true)
          exact heq ▸ ⟨hflr, hdusk⟩
      · obtain ⟨hflr, hdusk⟩ := hin ((List.mem_cons.1 hmem).resolve_left hx)
        rw [fnState_startDusk_ne s true hx, hnow] at hdusk
        exact ⟨hflr, hdusk⟩

end Sys2Proof.Machine
end

section
/-! SUPPORT. Resets of functions and of endpoints (R261, R412, R462–R464, R470). -/

namespace Sys2Proof.Machine

open Sys2Proof

theorem exec_functionReset (by_ : Option FnId) (fn : FnId) (s : State) :
    exec (.functionReset by_ fn) s = act s (functionResetStep by_ fn) := rfl
theorem exec_duskEnd (fn : FnId) (s : State) : exec (.duskEnd fn) s = act s (duskEndStep fn) := rfl
theorem exec_hotReset (e : Endpoint) (cause : HotCause) (s : State) :
    exec (.hotReset e cause) s = act s (hotResetStep e cause) := rfl

/-- The words that a reset of functions touches. -/
def fnResetWord (a : Nat) : Prop := duskWord a ∨ servoWord a

/-- Functions entered Dusk, their rings, which `hit` names, are disabled, and the servo started anew. -/
structure FnReset (hit : Nat → Bool) (s u : State) : Prop where
  frame : u = { s with
    words := u.words, rings := u.rings, groups := u.groups, functions := u.functions, tbs := u.tbs
    commits := u.commits, ledger := u.ledger, recorder := u.recorder }
  words : WordsBeside fnResetWord s u
  idle : servoState s = 0 → u.tbs = s.tbs ∧ u.ledger = s.ledger ∧ u.recorder = s.recorder
  commits : u.commits = s.commits ++ if servoState s = 2 then [meanCommit s] else []
  servo : sparseWf resetWord s.words → servoState u = if servoState s = 2 then 3 else 0
  groups : sparseWf resetWord s.words → u.groups = s.groups.map (losing hit)
  shown : sparseWf resetWord s.words → ∀ r, r < 65536 → hit r = true →
    rf u (rngAddr r 4) 3 3 = 0 ∧ rf u (rngAddr r 0x2C) 0 0 = 0
  queues : ∀ k, k ≠ srcTimebase → look u.recorder.queues k = look s.recorder.queues k

theorem fnReset_servoRestart {hit : Nat → Bool} {s m : State} (h : RingsDusked hit s m) :
    FnReset hit s (servoRestart m) := by
  have hs := servoRestarts_servoRestart m
  have hstate : servoState m = servoState s := servoState_congr (h.words.kept _ (not_duskWord_of_lt (by decide)))
  have hmean : meanCommit m = meanCommit s := by rw [h.frame]; rfl
  have hring : ∀ r off, r < 65536 → off < 0x40 → word (servoRestart m) (rngAddr r off) = word m (rngAddr r off) :=
    fun r off hr ho => hs.words.kept _ (not_servoWord_of_between (by unfold rngAddr; omega) (by unfold rngAddr; omega))
  refine ⟨?_, (h.words.mono fun _ => .inl).trans (hs.words.mono fun _ => .inr), fun h0 => ?_, ?_, fun hc => ?_,
    fun hc => ?_, fun hc r hr hh => ?_, fun k hk => ?_⟩
  · rw [hs.frame, h.frame]
  · rw [hs.idle (hstate.trans h0), h.frame]
    exact ⟨rfl, rfl, rfl⟩
  · rw [hs.commits, hstate, hmean, h.frame]
  · rw [hs.state (h.words.wf hc), hstate]
  · rw [hs.frame]
    exact h.groups hc
  · have hshown := h.shown hc r
    rw [if_pos hh] at hshown
    rw [rf_congr (hring r 4 hr (by decide)), rf_congr (hring r 0x2C hr (by decide))]
    exact Prod.mk.inj hshown
  · rw [hs.queues k hk, h.frame]

theorem fnState_servoRestart (s : State) (h : FnId) : fnState (servoRestart s) h = fnState s h := by
  rw [fnState, (servoRestarts_servoRestart s).frame, fnState]

theorem endpoint_servoRestart (s : State) (e : Endpoint) : endpoint (servoRestart s) e = endpoint s e := by
  rw [endpoint, (servoRestarts_servoRestart s).frame, endpoint]

section
variable {s : State} {fn : FnId}

/-! ### The reset of a function -/

/-- A function that is not in Dusk has its rings disabled by its reset. -/
theorem duskHits_of_none (h : (fnState s fn).dusk = none) (r : Nat) :
    duskHits s (· == fn) r = (decide (r < 65536) && (ringOwner s r).any (· == fn)) := by
  rw [duskHits_single, h]
  cases ringOwner s r <;> simp

/-- Entry of a function in Dusk, and the restart of the servo. -/
abbrev fnDusked (s : State) (fn : FnId) (flr : Bool) : State := servoRestart (startDusk s fn flr)

theorem fnReset_fnDusked (h : (fnState s fn).dusk = none) (flr : Bool) :
    FnReset (fun r => decide (r < 65536) && (ringOwner s r).any (· == fn)) s (fnDusked s fn flr) :=
  fnReset_servoRestart ((ringsDusked_startDusk s fn flr).congr fun _ r => duskHits_of_none h r)

theorem fnState_fnDusked (h : (fnState s fn).dusk = none) (flr : Bool) :
    fnState (fnDusked s fn flr) fn =
        { fnState s fn with dusk := some (now s), flr := flr, drained := false, held := false } ∧
      ∀ k, k ≠ fn → fnState (fnDusked s fn flr) k = fnState s k := by
  constructor
  · rw [fnState_servoRestart, fnState_startDusk, enterDusk, h]
    rfl
  · exact fun k hk => (fnState_servoRestart ..).trans (fnState_startDusk_ne s flr hk)

theorem FnReset.ringsOff {u : State}
    (h : FnReset (fun r => decide (r < 65536) && (ringOwner s r).any (· == fn)) s u) (hc : Canonical s) :
    ∀ r ∈ ringsOf s fn, rf u (rngAddr r 4) 3 3 = 0 ∧ rf u (rngAddr r 0x2C) 0 0 = 0 := fun r hr => by
  obtain ⟨hlt, howner⟩ := (mem_ringsOf hc.2.1).1 hr
  exact h.shown hc.2.1 r hlt (by simp [hlt, howner])

theorem runs_functionReset_pcie (hl : Live s) (hd : (endpoint s fn.ep).down = false) (hx : fnExists s fn = true) :
    Runs (.functionReset none fn) s fun u => u = fnDusked s fn true :=
  runs_act hl (exec_functionReset none fn s) (by simp [functionResetStep, hd, hx])

/-- The function is named as the one that RST_FUNC_CTRL resets, and its reset is shown as under way. -/
structure NamesFn (fn : FnId) (s u : State) : Prop where
  frame : u = { s with words := u.words, boot := { s.boot with named := some fn } }
  words : WordsBeside (· = 0x100014) s u
  shown : sparseWf resetWord s.words → rf u 0x100014 0 0 = 1

theorem namesFn_setRf (fn : FnId) (s : State) :
    NamesFn fn s (setRf { s with boot := { s.boot with named := some fn } } 0x100014 0 0 1) := by
  have hboot : WordsBeside (· = 0x100014) s { s with boot := { s.boot with named := some fn } } := .of_words rfl
  exact ⟨setRf_eq .., hboot.trans (WordsBeside.setRf (out := (· = 0x100014)) rfl _ 0 0 1),
    fun hc => rf_setRf_self (s := { s with boot := { s.boot with named := some fn } }) hc _ _ (by decide) (by decide)⟩

theorem runs_functionReset_ctrl (hm : MayWrite s pf0 0x100010) (hne : fn ≠ pf0) (hx : fnExists s fn = true) :
    Runs (.functionReset (some pf0) fn) s fun u => NamesFn fn (fnDusked s fn false) u := by
  refine runs_go (exec_functionReset (some pf0) fn s) hm ?_
  rw [funcCtrl, if_neg (not_not_intro rfl), if_neg (by simp [hne, hx])]
  exact namesFn_setRf fn _

theorem runs_functionReset_pf0 (hm : MayWrite s pf0 0x100010) : Runs (.functionReset (some pf0) pf0) s fun u =>
    u = { s with words := u.words, recorder := u.recorder } ∧ Recorded 0 0x04 (0x100010 + 5 * 2 ^ 40) s u := by
  obtain ⟨hframe, -, hrec⟩ := logs_ignored s pf0 0x100010 5
  have hstep : funcCtrl pf0 pf0 s = ignored s pf0 0x100010 5 := by simp [funcCtrl]
  exact runs_go (exec_functionReset (some pf0) pf0 s) hm (hstep ▸ ⟨hframe, hrec⟩)

theorem runs_duskEnd {t : Nat} (hl : Live s) (hd : (fnState s fn).dusk = some t) (hdr : (fnState s fn).drained = true)
    (hn : now s % 256 = 0) : Runs (.duskEnd fn) s fun u =>
      u = { s with words := u.words, functions := u.functions } ∧
      (fnState u fn = { fnState s fn with dusk := none, drained := false } ∧
        ∀ k, k ≠ fn → fnState u k = fnState s k) ∧
      WordsKept [0x100014] s u ∧ (Canonical s → s.boot.named = some fn → rf u 0x100014 0 0 = 0) := by
  let m := putFn s fn { fnState s fn with dusk := none, drained := false }
  have hstep : duskEndStep fn s = if s.boot.named = some fn then setRf m 0x100014 0 0 0 else m := by
    simp only [duskEndStep, hd, hdr, hn, Option.isNone_some, Bool.not_true, bne_self_eq_false, Bool.or_self,
      Bool.false_eq_true, if_false]
    rfl
  have hfn : fnState m fn = { fnState s fn with dusk := none, drained := false } := fnState_putFn ..
  have hothers : ∀ k, k ≠ fn → fnState m k = fnState s k := fun k hk => fnState_putFn_ne s _ hk
  refine runs_act hl (exec_duskEnd fn s) ?_
  rw [hstep]
  split_ifs with hnamed
  · exact ⟨by rw [setRf_eq]; rfl, ⟨hfn, hothers⟩,
      fun a ha => word_setWord_ne _ _ _ _ fun h => ha (h ▸ List.mem_singleton_self _),
      fun hc _ => rf_setRf_self (s := m) hc.2.1 _ _ (by decide) (by decide)⟩
  · exact ⟨rfl, ⟨hfn, hothers⟩, fun _ _ => rfl, fun _ h => absurd h hnamed⟩

end

/-! ### The reset of an endpoint -/

/-- The functions of an endpoint that exist. -/
abbrev endpointFns (s : State) (e : Endpoint) : List FnId :=
  ((List.range 1024).map fun k => fnOf (Endpoint.num e * 1024 + k)).filter fun f => fnExists s f

theorem mem_endpointFns {s : State} {e : Endpoint} {h : FnId} :
    h ∈ endpointFns s e ↔ h.ep = e ∧ fnExists s h = true := by
  rw [endpointFns, List.mem_filter, List.mem_map]
  refine and_congr_left' ⟨fun ⟨k, hk, hh⟩ => ?_, fun hep => ?_⟩
  · have hnum : fnOf (Endpoint.num e * 1024 + k) = ⟨e, k, List.mem_range.1 hk⟩ :=
      fnOf_fnNum ⟨e, k, List.mem_range.1 hk⟩
    rw [← hh, hnum]
  · exact ⟨h.fn.val, List.mem_range.2 h.fn.isLt, hep ▸ fnOf_fnNum h⟩

theorem contains_endpointFns (s : State) (e : Endpoint) (h : FnId) :
    (endpointFns s e).contains h = (h.ep == e && fnExists s h) := by
  rw [Bool.eq_iff_iff, List.contains_iff_mem, mem_endpointFns, Bool.and_eq_true, beq_iff_eq]

/-- An endpoint after its hot reset. -/
def hotEndpoint (s : State) (e : Endpoint) : EndpointState :=
  { endpoint s e with
    down := true, path := [], noCredit := false, askedWidth := 0, romEnabled := [], ecrcGen := false
    ecrcCheck := false, strictShown := bit (word s (hlkAddr e 4)) 0, generation := ((endpoint s e).generation + 1) % 16
    totalVfs := (List.range 4).map fun j => rf s (hlkAddr e (0x40 + 4 * j)) 9 0 }

/-- A link's register `a` with the generation alone. -/
def linkReset (s : State) (a g : Nat) : State := setRf (setWord s a 0) a 23 20 g

theorem exists_linkReset_eq (s : State) (a g : Nat) : ∃ w, linkReset s a g = { s with words := w } := ⟨_, rfl⟩

theorem wordsBeside_linkReset (s : State) (a g : Nat) : WordsBeside (· = a) s (linkReset s a g) :=
  (WordsBeside.setWord (out := (· = a)) rfl s 0).trans (WordsBeside.setRf (out := (· = a)) rfl _ 23 20 g)

theorem rf_linkReset {s : State} (hc : sparseWf resetWord s.words) (a g : Nat) :
    rf (linkReset s a g) a 0 0 = 0 ∧ rf (linkReset s a g) a 23 20 = g % 16 := by
  have hclear : sparseWf resetWord (setWord s a 0).words := setWord_wf _ _ _ hc
  have hzero : word (setWord s a 0) a = 0 := (word_setWord s _ _ _ hc).trans (if_pos rfl)
  constructor
  · rw [linkReset, rf_setRf_below hclear _ _ (by decide) (by decide) (by decide) (by decide), rf, hzero]
    decide
  · exact rf_setRf_self hclear _ _ (by decide) (by decide)

/-- The endpoint's own part of its hot reset: its state, and its link's register with the new generation. -/
def endpointReset (s : State) (e : Endpoint) : State :=
  linkReset (putEndpoint s e (hotEndpoint s e)) (hlkAddr e 0) (((endpoint s e).generation + 1) % 16)

theorem exists_endpointReset_eq (s : State) (e : Endpoint) : ∃ w, endpointReset s e =
    { s with words := w, endpoints := (putEndpoint s e (hotEndpoint s e)).endpoints } := by
  obtain ⟨w, h⟩ := exists_linkReset_eq (putEndpoint s e (hotEndpoint s e)) (hlkAddr e 0)
    (((endpoint s e).generation + 1) % 16)
  exact ⟨w, h⟩

theorem wordsBeside_endpointReset (s : State) (e : Endpoint) :
    WordsBeside (· = hlkAddr e 0) s (endpointReset s e) := by
  have hput : WordsBeside (· = hlkAddr e 0) s (putEndpoint s e (hotEndpoint s e)) := .of_words rfl
  exact hput.trans (wordsBeside_linkReset ..)

theorem rf_endpointReset {s : State} (hc : sparseWf resetWord s.words) (e : Endpoint) :
    rf (endpointReset s e) (hlkAddr e 0) 0 0 = 0 ∧
      rf (endpointReset s e) (hlkAddr e 0) 23 20 = ((endpoint s e).generation + 1) % 16 := by
  have h := rf_linkReset (s := putEndpoint s e (hotEndpoint s e)) hc (hlkAddr e 0) (((endpoint s e).generation + 1) % 16)
  rwa [Nat.mod_mod] at h

/-- The functions of an endpoint in Dusk, and the restart of the servo. -/
abbrev hostDusked (s : State) (e : Endpoint) : State := servoRestart (duskAll s (endpointFns s e))

theorem hotResetStep_eq {e : Endpoint} {cause : HotCause} (h : ¬(cause = .perst1 ∧ e = .h0)) (s : State) :
    hotResetStep e cause s = if bit (word s (hlkAddr e 0)) 0 then
        event (endpointReset (hostDusked s e) e) (srcHost e) evLink (detail (Endpoint.num e) 0)
      else endpointReset (hostDusked s e) e := by
  rw [hotResetStep, if_neg h]
  rfl

theorem fnReset_hostDusked (s : State) (e : Endpoint) :
    FnReset (fun r => decide (r < 65536) &&
      (ringOwner s r).any fun h => h.ep == e && fnExists s h && (fnState s h).dusk.isNone) s (hostDusked s e) :=
  fnReset_servoRestart ((ringsDusked_duskAll _ s).congr fun _ r => by simp only [duskHits, contains_endpointFns])

theorem endpoint_hostDusked (s : State) (e e' : Endpoint) : endpoint (hostDusked s e) e' = endpoint s e' := by
  rw [endpoint, (fnReset_hostDusked s e).frame, endpoint]

/-- The functions of an endpoint after its hot reset, beside those of the other endpoint. -/
theorem fnState_hostDusked (s : State) (e : Endpoint) :
    (∀ g, g.ep = e → fnExists s g = true → (fnState (hostDusked s e) g).flr = true ∧
      (fnState (hostDusked s e) g).dusk = some ((fnState s g).dusk.getD (now s))) ∧
    ∀ g, g.ep ≠ e → fnState (hostDusked s e) g = fnState s g := by
  refine ⟨fun g hep hx => ?_, fun g hep => ?_⟩
  · rw [fnState_servoRestart]
    exact (fnState_duskAll _ s g).2 (mem_endpointFns.2 ⟨hep, hx⟩)
  · rw [fnState_servoRestart]
    exact (fnState_duskAll _ s g).1 fun h => hep (mem_endpointFns.1 h).1

/-- The words that the endpoint's own part of a hot reset touches, with its event. -/
def hostWord (e : Endpoint) (a : Nat) : Prop := a = hlkAddr e 0 ∨ eventWord (srcHost e) a

theorem not_eventWord_hlkAddr (e : Endpoint) : ¬eventWord (srcHost e) (hlkAddr e 0) := by
  cases e <;> unfold eventWord <;> decide

theorem not_hostWord_servo (e : Endpoint) : ¬hostWord e 0x300004 := by
  cases e <;> unfold hostWord eventWord <;> decide

/-- What the endpoint's own part of a hot reset leaves of a state. -/
structure HostReset (e : Endpoint) (s u : State) : Prop where
  frame : u = { s with words := u.words, endpoints := u.endpoints, recorder := u.recorder }
  words : WordsBeside (hostWord e) s u
  endpoints : u.endpoints = (putEndpoint s e (hotEndpoint s e)).endpoints
  link : sparseWf resetWord s.words → rf u (hlkAddr e 0) 0 0 = 0 ∧
    rf u (hlkAddr e 0) 23 20 = ((endpoint s e).generation + 1) % 16

theorem hostReset_endpointReset (s : State) (e : Endpoint) : HostReset e s (endpointReset s e) := by
  obtain ⟨w, h⟩ := exists_endpointReset_eq s e
  refine ⟨?_, (wordsBeside_endpointReset s e).mono fun _ => .inl, ?_, fun hc => rf_endpointReset hc e⟩
  · rw [h]
  · rw [h]

theorem HostReset.event {e : Endpoint} {s u : State} (h : HostReset e s u) (code d : Nat) :
    HostReset e s (event u (srcHost e) code d) := by
  have hbeside := wordsBeside_event u (srcHost e) code d 0 0 false
  have hword := hbeside.kept _ (not_eventWord_hlkAddr e)
  obtain ⟨w, r, heq⟩ := exists_event_eq u (srcHost e) code d 0 0 false
  refine ⟨?_, h.words.trans (hbeside.mono fun _ => .inr), ?_, fun hc => ?_⟩
  · rw [heq, h.frame]
  · rw [heq]
    exact h.endpoints
  · rw [rf_congr hword, rf_congr hword]
    exact h.link hc

theorem HostReset.endpoint_self {e : Endpoint} {s u : State} (h : HostReset e s u) : endpoint u e = hotEndpoint s e := by
  rw [endpoint, h.endpoints]
  exact endpoint_putEndpoint s e _

theorem HostReset.endpoint_ne {e e' : Endpoint} {s u : State} (h : HostReset e s u) (hne : e' ≠ e) :
    endpoint u e' = endpoint s e' := by
  rw [endpoint, h.endpoints]
  exact endpoint_putEndpoint_ne s _ hne

theorem HostReset.fnState {e : Endpoint} {s u : State} (h : HostReset e s u) (g : FnId) :
    fnState u g = Machine.fnState s g := by
  rw [Machine.fnState, h.frame, Machine.fnState]

theorem recorded_of_queue {s t u : State} {source code d : Nat}
    (hq : look t.recorder.queues source = look s.recorder.queues source) (ht : t.tick = s.tick)
    (h : Recorded source code d t u) : Recorded source code d s u := by
  unfold Recorded at *
  rwa [hq, ht] at h

theorem runs_hotReset {e : Endpoint} {cause : HotCause} {s : State} (hl : Live s) (hne : ¬(cause = .perst1 ∧ e = .h0)) :
    Runs (.hotReset e cause) s fun u => HostReset e (hostDusked s e) u ∧
      (bit (word s (hlkAddr e 0)) 0 = true → Recorded (srcHost e) 0x09 (Endpoint.num e) s u) := by
  have h := hostReset_endpointReset (hostDusked s e) e
  have hdusk := fnReset_hostDusked s e
  have hdetail : detail (Endpoint.num e) 0 = Endpoint.num e := by cases e <;> rfl
  refine runs_act hl (exec_hotReset e cause s) ?_
  rw [hotResetStep_eq hne, hdetail]
  split_ifs with hwas
  · refine ⟨h.event .., fun _ => recorded_of_queue ?_ ?_ (recorded_event _ _ _ _ 0 0 false)⟩
    · obtain ⟨w, heq⟩ := exists_endpointReset_eq (hostDusked s e) e
      rw [heq]
      exact hdusk.queues _ (by cases e <;> decide)
    · rw [h.frame, hdusk.frame]
  · exact ⟨h, fun hw => absurd hw hwas⟩

end Sys2Proof.Machine
end

section
/-! SUPPORT. The theorem that settles `FunctionResets` (O55). -/

namespace Sys2Proof.Machine

open Sys2Proof

/-- Settles O55: entry in Dusk function by function, the restart of the servo (entry 166 of the assumption log), then
what each command adds. -/
theorem functionResets : Obligations.FunctionResets := by
  unfold Obligations.FunctionResets
  intro fn e cause t s f is loses arrives v a mean servo
  refine ⟨fun hl hd hx hn => ?_, fun hm hne hx hn => ?_, runs_functionReset_pf0, runs_duskEnd, fun hl hne => ?_⟩
  · obtain ⟨_, hstep, rfl⟩ := runs_functionReset_pcie hl hd hx
    have h := fnReset_fnDusked hn true
    exact ⟨_, hstep, h.frame, fun h0 => (h.idle h0).2.2,
      ⟨fun h0 => ⟨(h.idle h0).1, (h.idle h0).2.1⟩, h.commits, fun hc => h.servo hc.2.1⟩,
      fun hc => h.groups hc.2.1, fnState_fnDusked hn true, h.ringsOff⟩
  · obtain ⟨u, hstep, hframe, hwords, hshown⟩ := runs_functionReset_ctrl hm hne hx
    have h := fnReset_fnDusked hn false
    have hfn : ∀ g, fnState u g = fnState (fnDusked s fn false) g := fun g => by rw [hframe]; rfl
    have hring : ∀ r off hi lo, rf u (rngAddr r off) hi lo = rf (fnDusked s fn false) (rngAddr r off) hi lo :=
      fun r off => rf_congr (hwords.kept _ (by unfold rngAddr; omega))
    refine ⟨u, hstep, ?_, fun h0 => ?_, ⟨fun h0 => ?_, ?_, fun hc => ?_⟩, ⟨fun hc => ?_, ⟨?_, fun g hg => ?_⟩,
      fun hc r hr => ?_⟩, fun hc => hshown (h.words.wf hc.2.1)⟩
    · rw [hframe, h.frame]
    · rw [hframe]
      exact (h.idle h0).2.2
    · rw [hframe]
      exact ⟨(h.idle h0).1, (h.idle h0).2.1⟩
    · rw [hframe]
      exact h.commits
    · exact (servoState_congr (hwords.kept _ (by decide))).trans (h.servo hc.2.1)
    · rw [hframe]
      exact h.groups hc.2.1
    · exact (hfn fn).trans (fnState_fnDusked hn false).1
    · exact (hfn g).trans ((fnState_fnDusked hn false).2 g hg)
    · rw [hring, hring]
      exact h.ringsOff hc r hr
  · obtain ⟨u, hstep, hu, hrec⟩ := runs_hotReset hl hne
    have h := fnReset_hostDusked s e
    obtain ⟨hin, hout⟩ := fnState_hostDusked s e
    have hself := hu.endpoint_self
    refine ⟨u, hstep, ?_, ⟨fun h0 => ?_, ?_, fun hc => ?_⟩, fun hc => ?_, fun g hep hx => ?_,
      fun g hep => (hu.fnState g).trans (hout g hep),
      fun e' he => (hu.endpoint_ne he).trans (endpoint_hostDusked ..), ?_, ?_, ?_, ?_, fun hc => ?_, hrec⟩
    · rw [hu.frame, h.frame]
    · rw [hu.frame]
      exact ⟨(h.idle h0).1, (h.idle h0).2.1⟩
    · rw [hu.frame]
      exact h.commits
    · exact (servoState_congr (hu.words.kept _ (not_hostWord_servo e))).trans (h.servo hc.2.1)
    · rw [hu.frame]
      exact h.groups hc.2.1
    · rw [hu.fnState]
      exact hin g hep hx
    · rw [hself]
      rfl
    · rw [hself]
      rfl
    · rw [hself, hotEndpoint, endpoint_hostDusked]
    · rw [hself, hotEndpoint, endpoint_hostDusked]
    · have hlink := hu.link (h.words.wf hc.2.1)
      rwa [endpoint_hostDusked] at hlink

end Sys2Proof.Machine
end

section
/-! SUPPORT. The ledger's writer: blocks that close, the writes to the drives, and a record that fits the open block
(R286–R288, R291, R298). -/

namespace Sys2Proof.Machine

open Sys2Proof

@[simp] theorem ledgerStatus_ledger (s : State) : (ledgerStatus s).ledger = s.ledger :=
  (setWord64_ledger ..).trans ((setRf_ledger ..).trans (setRf_ledger ..))
@[simp] theorem showOldest_ledger (s : State) : (showOldest s).ledger = s.ledger := setWord64_ledger ..

theorem foldl_setWord_ledger {α : Type} (a : α → Nat) (v : State → α → Word) (l : List α) (s : State) :
    (l.foldl (fun u x => setWord u (a x) (v u x)) s).ledger = s.ledger :=
  List.foldlRecOn l _ (motive := fun u : State => u.ledger = s.ledger) rfl fun _ h _ _ => h

@[simp] theorem showChain_ledger (s : State) : (showChain s).ledger = s.ledger := foldl_setWord_ledger ..

theorem ledgerWork_showOldest (s : State) : LedgerWork s (showOldest s) := .setWord64 (by decide) s _

/-! ### Words beside LDG_CTRL -/

/-- The registers of the ledger after LDG_CTRL. -/
abbrev afterControl (a : Nat) : Prop := 0x4000000 < a

theorem wordsBeside_ledger (out : Nat → Prop) (s : State) (l : Ledger) : WordsBeside out s { s with ledger := l } :=
  .of_words rfl

theorem not_afterControl : ¬afterControl 0x4000000 := Nat.lt_irrefl _

theorem wordsBeside_setWord64 {a : Nat} (ha : 0x4000000 < a) (s : State) (v : Nat) :
    WordsBeside afterControl s (setWord64 s a v) := .setWord64 ha (Nat.lt_add_right 4 ha) s v

theorem wordsBeside_ledgerStatus (s : State) : WordsBeside afterControl s (ledgerStatus s) :=
  ((WordsBeside.setRf (by decide) s 1 0 _).trans (.setRf (by decide) _ 13 0 _)).trans
    (wordsBeside_setWord64 (by decide) ..)

theorem wordsBeside_showOldest (s : State) : WordsBeside afterControl s (showOldest s) :=
  wordsBeside_setWord64 (by decide) ..

theorem wordsBeside_showChain (s : State) : WordsBeside afterControl s (showChain s) :=
  .foldl (fun s k => .setWord (by omega) s _) _ s

/-! ### Writes to the drives and the closing of a block -/

/-- Nothing of the ledger changed but the spill buffer and the commands in flight. -/
def WritesOnly (s u : State) : Prop :=
  u.ledger = { s.ledger with spill := u.ledger.spill, inFlight := u.ledger.inFlight }

namespace WritesOnly
variable {s u w : State}

theorem trans (h : WritesOnly s u) (h' : WritesOnly u w) : WritesOnly s w := Eq.trans h' (by rw [h])

theorem ite {c : Prop} [Decidable c] (h : WritesOnly s u) (h' : WritesOnly s w) :
    WritesOnly s (if c then u else w) := by
  split
  · exact h
  · exact h'

end WritesOnly

theorem writesOnly_issueWrites (s : State) : WritesOnly s (issueWrites s) :=
  List.foldlRecOn s.ledger.spill _ (motive := WritesOnly s) rfl fun _ h _ _ =>
    h.trans (.ite rfl (.ite rfl (.ite rfl rfl)))

theorem issueWrites_noSpill {s : State} (h : s.ledger.spill = []) : issueWrites s = s := by
  rw [issueWrites, h, List.foldl_nil]

/-- Without drives a closed block is not stored, and is counted (R295). -/
theorem issueWrites_noDrives {s : State} {b : Block} (h : s.ledger.spill = [b]) (hc : b.closed = true)
    (hd : s.ledger.drives = []) (hf : s.ledger.inFlight = []) :
    issueWrites s = { count s 0x4000034 with ledger := { s.ledger with spill := [] } } := by
  simp [issueWrites, h, hc, hd, hf]

theorem enabled_closeBlock (s : State) : (closeBlock s).ledger.enabled = s.ledger.enabled := by
  dsimp only [closeBlock]
  split
  · rfl
  · rw [writesOnly_issueWrites]

/-- The block after `b`, which the hash of the closed `b` chains to it (R287). -/
abbrev nextBlock (s : State) (b : Block) : Block :=
  { num := b.num + 1, last := b.last, opened := round s
    prev := sha384 (blockBytes s.ledger { b with closed := true }) }

/-- An open block without a seal to come closes at once when no block waits. -/
theorem closeBlock_ready {s : State} {b : Block} (ho : s.ledger.open_ = some b) (hs : b.sealing = false)
    (hp : s.ledger.spill = []) :
    closeBlock s = issueWrites { s with ledger := { s.ledger with
      spill := [{ b with closed := true }], open_ := some (nextBlock s b) } } := by
  simp [closeBlock, nextBlock, ho, hs, hp]

/-! ### A record that fits the open block -/

/-- A record that leaves room in the open block changes the open block only. -/
theorem layBytes_fits {s : State} {b : Block} {bs : List Byte} (ho : s.ledger.open_ = some b)
    (hfit : b.payload.length + bs.length < 4000) (fuel kind : Nat) (plain first : Bool) :
    ∃ b', layBytes s (fuel + 1) kind plain first bs = { s with ledger := { s.ledger with open_ := some b' } } := by
  have htake : bs.take (4000 - b.payload.length) = bs := List.take_of_length_le (by omega)
  have hdrop : bs.drop (4000 - b.payload.length) = [] := List.drop_of_length_le (by omega)
  have hroom : ¬(b.payload ++ bs).length = 4000 := by
    rw [List.length_append]
    omega
  unfold layBytes
  simp only [ho, htake, hdrop, hroom, if_false, List.isEmpty_nil, if_true]
  exact ⟨_, rfl⟩

/-- The state in which the bytes of a record are laid: the record is counted. -/
def recordCounted (s : State) (kind : Nat) (bs : List Byte) : State :=
  { count64 s 0x4000020 with ledger := { (count64 s 0x4000020).ledger with
    totalRecords := (count64 s 0x4000020).ledger.totalRecords + 1
    totalGaps := if kind = recGap then (count64 s 0x4000020).ledger.totalGaps + 1
      else (count64 s 0x4000020).ledger.totalGaps
    lastRelease := BitVec.ofNat 64 (leAt bs 24 8) } }

theorem putRecord_eq (s : State) (kind reason : Nat) (bs : List Byte) : putRecord s kind reason bs =
    ledgerStatus (layBytes (recordCounted s kind bs) 8 kind (kind == recFrame && reason == 0) true bs) := rfl

theorem wordsBeside_recordCounted (s : State) (kind : Nat) (bs : List Byte) :
    WordsBeside afterControl s (recordCounted s kind bs) :=
  (wordsBeside_setWord64 (by decide) ..).trans (wordsBeside_ledger ..)

/-- What a record that leaves room in the open block changes of the ledger. LDG_CTRL stays. -/
theorem putRecord_fits {s : State} {b : Block} {bs : List Byte} (ho : s.ledger.open_ = some b)
    (hfit : b.payload.length + bs.length < 4000) (kind reason : Nat) :
    WordsBeside afterControl s (putRecord s kind reason bs) ∧ ∃ b' records gaps release,
      (putRecord s kind reason bs).ledger = { s.ledger with
        totalRecords := records, totalGaps := gaps, lastRelease := release, open_ := some b' } := by
  have ho' : (recordCounted s kind bs).ledger.open_ = some b := ho
  obtain ⟨b', hlay⟩ := layBytes_fits ho' hfit 7 kind (kind == recFrame && reason == 0) true
  rw [putRecord_eq, hlay]
  refine ⟨((wordsBeside_recordCounted s kind bs).trans (wordsBeside_ledger ..)).trans (wordsBeside_ledgerStatus _),
    b', s.ledger.totalRecords + 1, if kind = recGap then s.ledger.totalGaps + 1 else s.ledger.totalGaps,
    BitVec.ofNat 64 (leAt bs 24 8), ?_⟩
  rw [ledgerStatus_ledger]
  rfl

/-! ### A new chain -/

@[simp] theorem length_slice (bs : List Byte) (off len : Nat) : (slice bs off len).length = len := by
  simp only [slice, List.length_append, List.length_replicate, List.length_take]
  omega

theorem length_pad8_le (bs : List Byte) : (pad8 bs).length ≤ bs.length + 7 := by
  simp only [pad8, List.length_append, List.length_replicate]
  omega

theorem length_plainRecord_le (kind reason : Nat) (release : BitVec 64) (body : List Byte) :
    (plainRecord kind reason release body).length ≤ body.length + 71 := by
  have := length_pad8_le body
  simp only [plainRecord, List.length_append, List.length_replicate, length_le]
  omega

/-- At most 3,008 bytes of certificates follow the 64 bytes of fields of a CHAIN_START body. -/
theorem length_chainStartBody_le (s : State) : (chainStartBody s).length ≤ 3072 := by
  have := List.length_take_le 3008 Config.identityCerts
  simp only [chainStartBody, keyId, fullBytes, List.length_append, List.length_replicate, length_le, length_slice]
  omega

/-- Block 0 is open with its CHAIN_START record, and the journal and the seals begin anew (R288). -/
structure ChainBegins (s u : State) : Prop where
  frame : u = { s with words := u.words, ledger := u.ledger, draws := u.draws }
  words : WordsBeside afterControl s u
  enabled : u.ledger.enabled = s.ledger.enabled
  drives : u.ledger.drives = s.ledger.drives
  spill : u.ledger.spill = s.ledger.spill
  journal : u.ledger.journal = []
  sealNo : u.ledger.sealNo = 0

/-- Block 0 as it is opened. -/
abbrev firstBlock (s : State) : Block := { num := 0, prev := [], opened := round s }

/-- The ledger of a new chain before its first record. -/
def chainLedger (s : State) : Ledger :=
  { s.ledger with
    chainId := (draw32 s).1.take 16, journal := [], sealNo := 0, totalRecords := 0, totalGaps := 0, totalLost := 0
    open_ := some (firstBlock (draw32 s).2) }

/-- The state in which a new chain takes its CHAIN_START record. -/
def chainShown (s : State) : State :=
  setWord64 (setWord64 (showChain { (draw32 s).2 with ledger := chainLedger s }) 0x4000020 0) 0x4000018 0

theorem chainShown_ledger (s : State) : (chainShown s).ledger = chainLedger s :=
  (setWord64_ledger ..).trans ((setWord64_ledger ..).trans (showChain_ledger _))

theorem ledgerWork_chainShown (s : State) : LedgerWork (draw32 s).2 (chainShown s) :=
  (((LedgerWork.ledger (draw32 s).2 (chainLedger s)).trans
    (.foldl (fun s k => .setWord (by omega) s _) _ _)).trans (.setWord64 (by decide) _ _)).trans
      (.setWord64 (by decide) _ _)

theorem wordsBeside_chainShown (s : State) : WordsBeside afterControl s (chainShown s) := by
  have hdrawn : WordsBeside afterControl s (draw32 s).2 := .of_words rfl
  exact (((hdrawn.trans (wordsBeside_ledger ..)).trans (wordsBeside_showChain _)).trans
    (wordsBeside_setWord64 (a := 0x4000020) (by decide) ..)).trans
      (wordsBeside_setWord64 (a := 0x4000018) (by decide) ..)

/-- The CHAIN_START record of a state. -/
abbrev chainStart (s : State) : List Byte := plainRecord recChainStart 0 (compactNow s) (chainStartBody s)

theorem length_chainStart_lt (s : State) : (chainStart s).length < 4000 := by
  have hrecord := length_plainRecord_le recChainStart 0 (compactNow s) (chainStartBody s)
  have hbody := length_chainStartBody_le s
  unfold chainStart
  omega

theorem newChain_eq (s : State) :
    newChain s = putRecord (chainShown s) recChainStart 0 (chainStart (chainShown s)) := rfl

theorem chainBegins_newChain (s : State) : ChainBegins s (newChain s) := by
  have ho : (chainShown s).ledger.open_ = some (firstBlock (draw32 s).2) := by
    rw [chainShown_ledger]
    rfl
  obtain ⟨hw, b, records, gaps, release, hl⟩ := putRecord_fits ho
    (bs := chainStart (chainShown s)) (by simpa using length_chainStart_lt _) recChainStart 0
  have hf := (ledgerWork_chainShown s).trans
    (ledgerWork_putRecord (chainShown s) recChainStart 0 (chainStart (chainShown s)))
  rw [chainShown_ledger] at hl
  rw [newChain_eq]
  refine ⟨?_, (wordsBeside_chainShown s).trans hw, ?_, ?_, ?_, ?_, ?_⟩
  · obtain ⟨w, l, hwl⟩ := hf.exists_eq
    obtain ⟨n, hn⟩ : ∃ n, (draw32 s).2 = { s with draws := n } := ⟨_, rfl⟩
    rw [hwl, hn]
  all_goals
    rw [hl]
    rfl

end Sys2Proof.Machine
end

section
/-! PROOF. The ledger's enabling and disabling, the closing of blocks, and seals (R287–R290, R296). -/

namespace Sys2Proof.Machine

open Sys2Proof

theorem exec_ledgerEnable (fn : FnId) (s : State) :
    exec (.ledgerEnable fn) s = act s fun s => writeAs s fn 0x4000000 (ledgerEnableStep fn) := rfl
theorem exec_ledgerDisable (fn : FnId) (s : State) :
    exec (.ledgerDisable fn) s = act s fun s => writeAs s fn 0x4000000 (ledgerDisableStep fn) := rfl
theorem exec_blockCloseTimeout (s : State) : exec .blockCloseTimeout s = act s blockCloseTimeoutStep := rfl
theorem exec_seal (s : State) : exec .seal s = act s sealStep := rfl
theorem exec_sealComplete (s : State) : exec .sealComplete s = act s sealCompleteStep := rfl

/-! ### Enabling and disabling -/

section
variable {fn : FnId} {s : State}

/-- The registers that show the state of the drives. -/
def driveWord (a : Nat) : Prop := a = 0x4000004 ∨ 0x4000114 ≤ a

/-- ENABLE and the state of the drives, as an enabling shows them. -/
def enabledShown (s : State) : State :=
  let shown := (List.range 8).foldl (fun u d =>
    setWord u (0x4000114 + d * 0x20) (if !(driveMap s).contains d then 0 else if u.power.c0Clock then 1 else 2))
    (setRf s 0x4000000 0 0 1)
  setRf shown 0x4000004 2 2 (if (driveMap s).isEmpty || shown.power.c0Clock then 0 else 1)

theorem wordsBeside_enabledShown (s : State) : WordsBeside driveWord (setRf s 0x4000000 0 0 1) (enabledShown s) :=
  (WordsBeside.foldl (fun u d => .setWord (.inr (by omega)) u _) _ _).trans (.setRf (.inl rfl) ..)

theorem ledgerWork_enabledShown (s : State) : LedgerWork s (enabledShown s) :=
  ((LedgerWork.setRf (by decide) s 0 0 1).trans (.foldl (fun u d => .setWord (by omega) u _) _ _)).trans
    (.setRf (by decide) ..)

/-- The state in which an enabling begins or resumes its chain: the drive map is in force, and nothing waits. -/
def enabledState (s : State) : State :=
  { enabledShown s with ledger := { (enabledShown s).ledger with
    enabled := true, drives := driveMap s, stripes := journalSize (enabledShown s) (driveMap s)
    gaps := [], spill := [], inFlight := [], sealDue := none } }

theorem ledgerWork_enabledState (s : State) : LedgerWork s (enabledState s) :=
  (ledgerWork_enabledShown s).trans (.ledger ..)

theorem wordsBeside_enabledState (s : State) : WordsBeside driveWord (setRf s 0x4000000 0 0 1) (enabledState s) :=
  (wordsBeside_enabledShown s).trans (wordsBeside_ledger ..)

/-- An enabling that is not to resume begins a new chain. -/
theorem ledgerEnableStep_begins (hp : platform s fn = true) (he : s.ledger.enabled = false)
    (hr : bit (word s 0x4000040) 0 = false) :
    ledgerEnableStep fn s = showOldest (ledgerStatus (newChain (enabledState s))) := by
  have hkeep : word (enabledState s) 0x4000040 = word s 0x4000040 :=
    ((wordsBeside_enabledState s).kept _ (by unfold driveWord; omega)).trans (word_setWord_ne _ _ _ _ (by decide))
  have hresume : ¬(bit (word (enabledState s) 0x4000040) 0 && mapWords s == s.ledger.mapAtStop) = true := by
    rw [hkeep, hr]
    exact Bool.false_ne_true
  have hstep : ledgerEnableStep fn s = showOldest (ledgerStatus (
      match (if bit (word (enabledState s) 0x4000040) 0 && mapWords s == s.ledger.mapAtStop then
        (enabledState s).ledger.journal.getLast? else none) with
      | some x => resumeChain (enabledState s) x.1 x.2
      | none => newChain (enabledState s))) := by
    rw [ledgerEnableStep, hp, he]
    rfl
  rw [hstep, if_neg hresume]

theorem runs_ledgerEnable (hw : MayWrite s fn 0x4000000) (hp : platform s fn = true)
    (he : s.ledger.enabled = false) (hr : bit (word s 0x4000040) 0 = false) (hc : Canonical s) :
    Runs (.ledgerEnable fn) s fun u => u.ledger.enabled = true ∧ u.ledger.drives = driveMap s ∧ u.ledger.journal = [] ∧
      u.ledger.sealNo = 0 ∧ u.ledger.spill = [] ∧ rf u 0x4000000 0 0 = 1 ∧ u.mem = s.mem ∧ u.frames = s.frames := by
  have hchain := chainBegins_newChain (enabledState s)
  have hwork := (ledgerWork_ledgerStatus (newChain (enabledState s))).trans (ledgerWork_showOldest _)
  have hshown := ledgerWork_enabledState s
  have hcontrol := (hchain.words.trans (wordsBeside_ledgerStatus _)).trans (wordsBeside_showOldest _)
  refine runs_go (exec_ledgerEnable fn s) hw ?_
  rw [ledgerEnableStep_begins hp he hr]
  have hledger : (showOldest (ledgerStatus (newChain (enabledState s)))).ledger = (newChain (enabledState s)).ledger :=
    by rw [showOldest_ledger, ledgerStatus_ledger]
  rw [hledger]
  refine ⟨hchain.enabled, hchain.drives, hchain.journal, hchain.sealNo, hchain.spill, ?_, ?_, ?_⟩
  · have hkeep := (hcontrol.kept _ not_afterControl).trans
      ((wordsBeside_enabledState s).kept 0x4000000 (by unfold driveWord; omega))
    exact (rf_congr hkeep 0 0).trans (rf_setRf_self hc.2.1 _ _ (by decide) (by decide))
  · rw [hwork.frame, hchain.frame, hshown.frame]
  · rw [hwork.frame, hchain.frame, hshown.frame]

/-- The ledger once it has stopped: the blocks on chip, the pending gaps and what waited are lost. -/
def stoppedLedger (s : State) (cause : Nat) : Ledger :=
  { s.ledger with
    enabled := false, open_ := none, spill := [], inFlight := [], gaps := [], sealDue := none, reads := []
    stopCause := cause, mapAtStop := mapWords (setRf s 0x4000000 0 0 0) }

theorem ledgerStop_enabled (h : s.ledger.enabled = true) (cause : Nat) : ledgerStop s cause =
    ledgerStatus { setRf s 0x4000000 0 0 0 with ledger := stoppedLedger s cause } := by
  simp only [ledgerStop, h, Bool.not_true, Bool.false_eq_true, if_false]
  rfl

theorem ledgerDisableStep_enabled (hp : platform s fn = true) (he : s.ledger.enabled = true) :
    ledgerDisableStep fn s = ledgerStop (closeBlock s) 3 := by
  simp only [ledgerDisableStep, hp, he, Bool.not_true, Bool.false_eq_true, if_false]

theorem runs_ledgerDisable (hw : MayWrite s fn 0x4000000) (hp : platform s fn = true)
    (he : s.ledger.enabled = true) (hc : Canonical s) :
    Runs (.ledgerDisable fn) s fun u => u = { s with words := u.words, ledger := u.ledger } ∧
      u.ledger.enabled = false ∧ u.ledger.open_ = none ∧ u.ledger.spill = [] ∧ u.ledger.stopCause = 3 ∧
      rf u 0x4000000 0 0 = 0 := by
  let off := setRf (closeBlock s) 0x4000000 0 0 0
  let stopped := { off with ledger := stoppedLedger (closeBlock s) 3 }
  have hclose := ledgerWork_closeBlock s
  have hoff : LedgerWork (closeBlock s) off := .setRf (by decide) ..
  have hstop := (hoff.trans (.ledger _ _)).trans (ledgerWork_ledgerStatus stopped)
  have hkeep := (wordsBeside_ledger afterControl off _).trans (wordsBeside_ledgerStatus stopped)
  refine runs_go (exec_ledgerDisable fn s) hw ?_
  rw [ledgerDisableStep_enabled hp he, ledgerStop_enabled ((enabled_closeBlock s).trans he)]
  refine ⟨(hclose.trans hstop).frame, ?_⟩
  rw [ledgerStatus_ledger, rf_congr (hkeep.kept _ not_afterControl),
    rf_setRf_self (hclose.words.wf hc.2.1) _ _ (by decide) (by decide)]
  exact ⟨rfl, rfl, rfl, rfl, rfl⟩

end

/-! ### Blocks and seals -/

section
variable {s : State} (hl : Live s) {b : Block} (ho : s.ledger.open_ = some b)
include hl ho

theorem runs_blockCloseTimeout (hb : b.payload ≠ []) (ht : b.opened + 1024 ≤ round s) (hs : b.sealing = false)
    (hp : s.ledger.spill = []) (hd : s.ledger.drives = []) (hf : s.ledger.inFlight = []) :
    Runs .blockCloseTimeout s fun u => u = { s with words := u.words, ledger := u.ledger } ∧
      u.ledger = { s.ledger with open_ := some (nextBlock s b) } := by
  have hdue : ¬(b.payload.isEmpty = true ∨ round s < b.opened + 1024) :=
    not_or.2 ⟨fun h => hb (List.isEmpty_iff.1 h), by omega⟩
  have hstep : blockCloseTimeoutStep s = ledgerStatus (closeBlock s) := by
    simp only [blockCloseTimeoutStep, ho, hdue, if_false]
  refine runs_act hl (exec_blockCloseTimeout s) ?_
  rw [hstep]
  refine ⟨((ledgerWork_closeBlock s).trans (ledgerWork_ledgerStatus _)).frame, ?_⟩
  rw [ledgerStatus_ledger, (closeBlock_ready ho hs hp).trans (issueWrites_noDrives rfl rfl hd hf), ← hp]

/-- The seal due at a boundary of which `b` is the open block (R289, R290). -/
abbrev sealOf (s : State) (b : Block) : SealDue :=
  ⟨now s, compactNow s, s.ledger.lastHealth, b.num - 1, b.prev, s.ledger.totalRecords, s.ledger.totalGaps,
    s.ledger.totalLost⟩

/-- The block with the place of a seal as its only record (R289). -/
abbrev sealPlace (s : State) (b : Block) : Block :=
  { b with
    payload := List.replicate 352 0, records := 1, sealing := true, reserved := true, last := compactNow s
    opened := round s }

theorem runs_seal (hb : b.payload = []) (he : s.ledger.enabled = true) (hn : s.ledger.sealDue = none)
    (ht : now s % 256 = 0) (hr : round s % 2 ^ 20 = 0) :
    Runs .seal s fun u => u = { s with words := u.words, ledger := u.ledger } ∧
      u.ledger.sealDue = some (sealOf s b) ∧ u.ledger.open_ = some (sealPlace s b) ∧
      u.ledger.totalRecords = s.ledger.totalRecords + 1 := by
  have hstep : sealStep s = count64 { s with ledger := { s.ledger with
      open_ := some (sealPlace s b), sealDue := some (sealOf s b), totalRecords := s.ledger.totalRecords + 1
      lastRelease := compactNow s } } 0x4000020 := by
    have hdue : ¬(now s % 256 ≠ 0 ∨ round s % 2 ^ 20 ≠ 0 ∨ (!s.ledger.enabled) = true ∨
        s.ledger.sealDue.isSome = true) := by
      rw [ht, hr, he, hn]
      decide
    have hempty : b.payload.isEmpty = true := List.isEmpty_iff.2 hb
    rw [sealStep, if_neg hdue]
    simp only [ho, hempty, if_true]
  refine runs_act hl (exec_seal s) ?_
  rw [hstep]
  exact ⟨rfl, rfl, rfl, rfl⟩

/-- The block with the seal in its place. -/
abbrev sealedBlock (s : State) (d : SealDue) (b : Block) : Block :=
  { b with sealing := false, payload := patch b.payload 0 (sealRecord s d) }

/-- The ledger once the seal of the open block is in its place and no block waits for it. -/
def sealedLedger (s : State) (d : SealDue) (b : Block) : Ledger :=
  { s.ledger with
    sealDue := none, sealNo := s.ledger.sealNo + 1, spill := []
    open_ := some (if (sealedBlock s d b).prev.isEmpty ∧ (sealedBlock s d b).num ≠ 0 then
      { sealedBlock s d b with prev := [] } else sealedBlock s d b) }

omit hl in
theorem sealCompleteStep_open {d : SealDue} (hd : s.ledger.sealDue = some d) (hs : b.sealing = true)
    (hp : s.ledger.spill = []) : sealCompleteStep s =
      ledgerStatus (setWord64 { s with ledger := sealedLedger s d b } 0x4000018 s.ledger.sealNo) := by
  have hnone : (setWord64 { s with ledger := sealedLedger s d b } 0x4000018 s.ledger.sealNo).ledger.spill = [] := by
    rw [setWord64_ledger]
    rfl
  rw [← issueWrites_noSpill hnone]
  simp only [sealCompleteStep, hd, hp, ho, List.map_nil, closeWaiting, Option.map_some, hs, if_true]
  rfl

theorem runs_sealComplete {d : SealDue} (hd : s.ledger.sealDue = some d) (hs : b.sealing = true)
    (hp : s.ledger.spill = []) :
    Runs .sealComplete s fun u => u = { s with words := u.words, ledger := u.ledger } ∧ u.ledger.sealDue = none ∧
      u.ledger.sealNo = s.ledger.sealNo + 1 ∧ (u.ledger.open_.map fun x => (x.num, x.sealing, x.payload)) =
        some (b.num, false, patch b.payload 0 (sealRecord s d)) := by
  have hwork := ((LedgerWork.ledger s (sealedLedger s d b)).trans (.setWord64 (a := 0x4000018) (by decide) _
    s.ledger.sealNo)).trans (ledgerWork_ledgerStatus _)
  refine runs_act hl (exec_sealComplete s) ?_
  rw [sealCompleteStep_open ho hd hs hp]
  refine ⟨hwork.frame, ?_⟩
  rw [ledgerStatus_ledger, setWord64_ledger]
  refine ⟨rfl, rfl, ?_⟩
  simp only [sealedLedger, Option.map_some]
  split <;> rfl

end

end Sys2Proof.Machine
end

section
/-! PROOF. The drives of C0 and the reads of stored blocks (R291, R292, R295, R297). -/

namespace Sys2Proof.Machine

open Sys2Proof

theorem exec_driveWriteComplete (dr : Fin 8) (n : Nat) (ok : Bool) (s : State) :
    exec (.driveWriteComplete dr n ok) s = act s (driveWriteCompleteStep dr.val n ok) := rfl
theorem exec_c0CommandTimeout (dr : Fin 8) (n : Nat) (s : State) :
    exec (.c0CommandTimeout dr n) s = act s (c0CommandTimeoutStep dr.val n) := rfl
theorem exec_ledgerRead (ring_ : Fin 65536) (s : State) :
    exec (.ledgerRead ring_) s = act s (ledgerReadStep ring_.val) := rfl
theorem exec_driveReadComplete (dr : Fin 8) (n : Nat) (data : List Byte) (fail : Option ReadFail) (s : State) :
    exec (.driveReadComplete dr n data fail) s = act s (driveReadCompleteStep dr.val n data fail) := rfl

/-! ### The drives of C0 -/

section
variable {s : State} {dr : Fin 8} {n : Nat}

theorem runs_driveWriteComplete_stored (hl : Live s) {blk : Block}
    (hf : s.ledger.inFlight.any (fun x => x.drive == dr.val && x.block == n) = true)
    (hb : (s.ledger.spill.find? fun x => x.num == n) = some blk) :
    Runs (.driveWriteComplete dr n true) s fun u => u = { s with words := u.words, ledger := u.ledger } ∧
      u.ledger.journal = place (s.ledger.journal.filter fun x => !decide (x.1 + s.ledger.stripes ≤ n)) n
        (blockBytes s.ledger blk, blk.last) := by
  let l : Ledger := { s.ledger with
    inFlight := s.ledger.inFlight.filter (fun x => !(x.drive == dr.val && x.block == n))
    spill := s.ledger.spill.filter (fun x => x.num != n)
    journal := place (s.ledger.journal.filter fun x => !decide (x.1 + s.ledger.stripes ≤ n)) n
      (blockBytes s.ledger blk, blk.last) }
  have hstep : driveWriteCompleteStep dr.val n true s =
      showOldest (ledgerStatus (issueWrites { s with ledger := l })) := by
    simp only [driveWriteCompleteStep, hf, hb, Bool.not_true, Bool.false_eq_true, if_false]
    rfl
  have hwork : LedgerWork s _ := ((LedgerWork.ledger s l).trans (ledgerWork_issueWrites _)).trans
    ((ledgerWork_ledgerStatus _).trans (ledgerWork_showOldest _))
  refine runs_act hl (exec_driveWriteComplete dr n true s) ?_
  rw [hstep]
  refine ⟨hwork.frame, ?_⟩
  rw [showOldest_ledger, ledgerStatus_ledger, writesOnly_issueWrites]

/-- The command for the block goes out again, and the failure is counted (R295). -/
abbrev WriteRetried (d n : Nat) (s u : State) : Prop :=
  u = { s with words := u.words, ledger := { s.ledger with
    inFlight := s.ledger.inFlight.map fun x => if x.drive = d ∧ x.block = n then
      { x with tries := x.tries + 1, sent := now s } else x } } ∧ WordsKept [0x4000118 + d * 0x20] s u

section
variable {c : DriveCmd} (hc : (s.ledger.inFlight.find? fun x => x.drive == dr.val && x.block == n) = some c)
include hc

/-- A write that has not been tried three times is tried again. -/
theorem writeRetried_writeFailed (ht : c.tries < 2) : WriteRetried dr.val n s (writeFailed s dr.val n) := by
  simp only [writeFailed, hc, ht, if_true]
  exact ⟨rfl, fun a ha => (word_congr rfl a).trans (wordsKept_count s (0x4000118 + dr.val * 0x20) a ha)⟩

theorem runs_driveWriteComplete_failed (hl : Live s) (ht : c.tries < 2) :
    Runs (.driveWriteComplete dr n false) s (WriteRetried dr.val n s) := by
  have hany : s.ledger.inFlight.any (fun x => x.drive == dr.val && x.block == n) = true := by
    rw [← List.isSome_find?, hc, Option.isSome_some]
  have hstep : driveWriteCompleteStep dr.val n false s = writeFailed s dr.val n := by
    simp only [driveWriteCompleteStep, hany, Bool.not_true, Bool.not_false, Bool.false_eq_true, if_false, if_true]
  exact runs_act hl (exec_driveWriteComplete dr n false s) (hstep ▸ writeRetried_writeFailed hc ht)

theorem runs_c0CommandTimeout (hl : Live s) (ht : c.tries < 2) (hdue : c.sent + c0Timeout s ≤ now s) :
    Runs (.c0CommandTimeout dr n) s (WriteRetried dr.val n s) := by
  have hstep : c0CommandTimeoutStep dr.val n s = writeFailed s dr.val n := by
    simp only [c0CommandTimeoutStep, hc, Nat.not_lt.2 hdue, if_false]
  exact runs_act hl (exec_c0CommandTimeout dr n s) (hstep ▸ writeRetried_writeFailed hc ht)

end

/-! ### Reading back -/

/-- A read that lacks blocks waits. -/
theorem finishRead_waits {q : LedgerRead} (h : q.got.length < q.count) : finishRead s q = s := by
  rw [finishRead, if_pos h]

theorem items_setItem_single {r : Nat} {i : SendItem} (h : (ring s r).items = [i]) (f : SendItem → SendItem) :
    (ring (setItem s r i.pos f) r).items = [f i] := by
  simp only [setItem, ring_putRing, h, List.map_cons, List.map_nil, if_true]

/-- What R297 asks of a read descriptor of stored blocks: its form, and that its blocks are closed and not overtaken. -/
structure ReadsStored (s : State) (d : List Byte) : Prop where
  some_ : 1 ≤ leAt d 8 4
  limit : leAt d 8 4 ≤ 256
  zero12 : leAt d 12 4 = 0
  zero24 : leAt d 24 8 = 0
  aligned : leAt d 16 8 % 4096 = 0
  oldest : word64 s 0x4000010 ≤ leAt d 0 8
  closed : leAt d 0 8 + leAt d 8 4 ≤ firstOpen s

/-- A read descriptor none of whose blocks is on chip joins the reads that wait for the drives. -/
theorem ledgerReadOne_waits {r : Nat} {fn : FnId} {i : SendItem} {d : List Byte} (hp : platform s fn = true)
    (hs : s.ledger.spill = []) (hd : ReadsStored s d) :
    ledgerReadOne s r fn i d = { setItem s r i.pos (fun j => { j with processed := true }) with
      ledger := { s.ledger with reads := s.ledger.reads ++ [⟨r, i.pos, leAt d 0 8, leAt d 8 4, []⟩] } } := by
  obtain ⟨hsome, hlimit, h12, h24, halign, holdest, hclosed⟩ := hd
  have hform : ¬(leAt d 8 4 = 0 ∨ 256 < leAt d 8 4 ∨ leAt d 12 4 ≠ 0 ∨ leAt d 24 8 ≠ 0 ∨ leAt d 16 8 % 4096 ≠ 0) := by
    omega
  let m := setItem s r i.pos fun j => { j with processed := true }
  have hp' : platform m fn = true := hp
  have holdest' : ¬leAt d 0 8 < word64 m 0x4000010 := Nat.not_lt.2 holdest
  have hclosed' : ¬firstOpen m < leAt d 0 8 + leAt d 8 4 := Nat.not_lt.2 hclosed
  have hs' : m.ledger.spill = [] := hs
  unfold ledgerReadOne
  simp only [m] at hp' holdest' hclosed' hs'
  simp only [hp', hform, holdest', hclosed', hs', Bool.not_true, Bool.false_eq_true, if_false, List.filter_nil,
    List.map_nil]
  rw [finishRead_waits (q := ⟨r, i.pos, leAt d 0 8, leAt d 8 4, []⟩) hsome, ← hs]
  rfl

theorem runs_ledgerRead (hl : Live s) {ring_ : Fin 65536} {fn : FnId} {i : SendItem} {d : List Byte}
    (ho : ringOwner s ring_.val = some fn) (hr : ledgerRing s ring_.val = true) (hp : platform s fn = true)
    (hi : (ring s ring_.val).items = [i]) (hd : i.desc = some d) (hnew : i.processed = false)
    (hs : s.ledger.spill = []) (hread : ReadsStored s d) :
    Runs (.ledgerRead ring_) s fun u => u = { s with rings := u.rings, ledger := { s.ledger with
        reads := s.ledger.reads ++ [⟨ring_.val, i.pos, leAt d 0 8, leAt d 8 4, []⟩] } } ∧
      (ring u ring_.val).items = [{ i with processed := true }] := by
  have hstep : ledgerReadStep ring_.val s = ledgerReadOne s ring_.val fn i d := by
    simp only [ledgerReadStep, ho, hr, hi, hd, hnew, Bool.not_true, Bool.false_eq_true, if_false, List.foldl_cons,
      List.foldl_nil]
  refine runs_act hl (exec_ledgerRead ring_ s) ?_
  rw [hstep, ledgerReadOne_waits hp hs hread]
  exact ⟨rfl, items_setItem_single hi _⟩

/-- The read with one more of its blocks, which a drive returned. -/
abbrev withBlock (q : LedgerRead) (n : Nat) (data : List Byte) : LedgerRead :=
  { q with got := q.got ++ [(n, slice data 0 4096)] }

theorem runs_driveReadComplete (hl : Live s) {data : List Byte} {q : LedgerRead} (hd : driveOf s n = dr.val)
    (hq : (s.ledger.reads.find? fun x => decide (x.first ≤ n ∧ n < x.first + x.count) &&
      !(x.got.any fun y => y.1 == n)) = some q) (hmore : q.got.length + 1 < q.count) :
    Runs (.driveReadComplete dr n data none) s fun u => u = { s with ledger := { s.ledger with
      reads := s.ledger.reads.map fun x => if x = q then withBlock q n data else x } } := by
  have hwaits : (withBlock q n data).got.length < (withBlock q n data).count := by
    rwa [List.length_append]
  have hstep : driveReadCompleteStep dr.val n data none s = finishRead { s with ledger := { s.ledger with
      reads := s.ledger.reads.map fun x => if x = q then withBlock q n data else x } } (withBlock q n data) := by
    simp only [driveReadCompleteStep, hd, hq, ne_eq, not_true_eq_false, if_false]
  refine runs_act hl (exec_driveReadComplete dr n data none s) ?_
  rw [hstep, finishRead_waits hwaits]

end

/-- Settles O31: each command by the one case of its step that its premises leave. That a new chain
clears the journal follows entry 74 of the assumption log, and the RELEASE of a seal entry 73. -/
theorem ledgerAndDrives : Obligations.LedgerAndDrives := by
  refine ⟨fun fn b d s => ⟨fun hw hp => ⟨runs_ledgerEnable hw hp, runs_ledgerDisable hw hp⟩,
    fun hl ho => ⟨runs_blockCloseTimeout hl ho, runs_seal hl ho⟩, fun hl hd ho => runs_sealComplete hl ho hd⟩,
    fun dr n blk c ring_ fn i desc data q s hl => ⟨runs_driveWriteComplete_stored hl,
      fun hc ht => ⟨runs_driveWriteComplete_failed hc hl ht, runs_c0CommandTimeout hc hl ht⟩, ?_,
      runs_driveReadComplete hl⟩⟩
  intro ho hr hp hi hd hnew hs hsome hlimit h12 h24 halign holdest hclosed
  exact runs_ledgerRead hl ho hr hp hi hd hnew hs ⟨hsome, hlimit, h12, h24, halign, holdest, hclosed⟩

end Sys2Proof.Machine
end
